-- ==== Sys2Proof/Word.lean ====
section
/-!
DEFINITION. The plain word types of the Fulutin M8: bytes, 32-bit register words, 64-bit pairs and lane masks
(R6, R26, R48, R49).
-/

namespace Sys2Proof

/-- One byte of memory (R1). -/
abbrev Byte := BitVec 8

/-- One 32-bit register of a lane or of a group (R26). -/
abbrev Word := BitVec 32

/-- A 64-bit value: a register pair, a PC, an address (R49, R70, R151). -/
abbrev DWord := BitVec 64

/-- One bit for each of the 32 lanes of a group; lane `l` is bit `l` (R26, R56). -/
abbrev Mask := BitVec 32

/-- The lane numbers of a group in ascending order (R7). -/
def lanes : List Nat := List.range 32

end Sys2Proof
end

