-- ==== Sys2Proof/Syntax.lean ====
section
/-!
DEFINITION. The syntax: one constructor of `Instr` for each row of the opcode table. The first 311 rows are
instruction words, with their common header and their body fields under the table's letters (R68, R81, R86); the
other rows are the indivisible steps and outside events of the ordering machine and of the device (R249).
-/

namespace Sys2Proof

/-- The common fields of a word: the chain bit and the guard number (R68). -/
structure Hdr where
  chain : Bool
  guard : BitVec 3
  deriving DecidableEq, Repr

/-- The B operand of a literal-capable vector word: a register, or the literal word that follows (R83). -/
inductive VSrc where
  | reg (r : BitVec 6)
  | lit (w : Word)
  deriving DecidableEq, Repr

/-- The SB operand of `salu` and the count of `ctl.rep`: a scalar register, or the literal word (R83). -/
inductive SSrc where
  | reg (r : BitVec 5)
  | lit (w : Word)
  deriving DecidableEq, Repr

/-- The single home of a line: the tenant that owns the basin, the basin (15: the base die), and the physical
address of the line's first byte (R233, R246). -/
structure HomeKey where
  tn   : Nat
  bs   : Nat
  line : Nat
  deriving DecidableEq, Repr

/-- The host's answer to an ATS translation request: refused, or a host physical page with or without write
permission (R276). -/
inductive AtsAnswer where
  | refused
  | granted (hpa : Nat) (write : Bool)
  deriving DecidableEq, Repr

/-- One entry of a device's grant table (R307). -/
structure Grant where
  srcDev  : Nat
  srcPart : Nat
  tn      : Nat
  frames  : List Nat
  write   : Bool
  deriving DecidableEq, Repr

/-- What an arriving peer request asks for (R307). -/
inductive PeerOp where
  | read (len : Nat)
  | write (data : List Byte)
  | atomic (fn : BitVec 4) (a b : DWord) (rm : BitVec 2) (fz : Bool)
  deriving DecidableEq, Repr

/-- An arriving peer request: its source, the tenant and basin it is served through, and the physical address. -/
structure PeerReq where
  srcDev  : Nat
  srcPart : Nat
  tn      : Nat
  pa      : Nat
  op      : PeerOp
  deriving DecidableEq, Repr

/-- The firmware image as the boot ROM sees it: its bytes, its version and its signature (R317). -/
structure FwImage where
  bytes     : List Byte
  version   : Nat
  key       : List Byte
  signature : List Byte
  deriving DecidableEq, Repr

/-- What firmware and PF0 set up at boot: this device's number, the numbers of the domain's members, the peers that each MPL
port leads to (R306), and the circular buffer of usage records in host memory, by address and size (R312). -/
structure Setup where
  self    : Nat
  members : List Nat
  routes  : List (Nat × Nat)
  recBase : Nat
  recSize : Nat
  deriving DecidableEq, Repr

/-- What POWER_ON carries: the firmware image, and what is set up at boot where the image is sound (R306, R312, R317). -/
structure Boot where
  image : FwImage
  setup : Setup
  deriving DecidableEq, Repr

/-- The operating limits of R315. -/
inductive Limit where
  | input
  | coolant
  | junction105
  | junction115
  deriving DecidableEq, Repr

/-- Where a hardware error strikes (R299). -/
inductive Place where
  | hbm (pa : Nat)
  | basin (k : HomeKey)
  | l1 (core : Nat) (pa : Nat)
  | scratch (crew : Nat) (off : Nat)
  | engine (core : Nat) (buf : Nat)
  | homeEntry (k : HomeKey)
  | group (grp : Nat)
  | coreLogic (core : Nat)
  deriving DecidableEq, Repr

/-- The basin definition record of R107, as its fields. -/
structure BasinRec where
  id    : Nat
  line  : Nat
  ways  : Nat
  write : Nat
  repl  : Nat
  die   : Nat
  count : Nat
  mask  : BitVec 64
  rsvd  : Bool
  deriving DecidableEq, Repr

/-- The partition description named by CREATE (R309): the fields that firmware reads in the `len` bytes of host memory from
`at_` on. `backQuad` and `backBank` are the host addresses at which the mesh stop of each quad and the die of each bank mask are
written back. The page-table image stands in host memory from `imgAt` on, and page i of it goes to the frame `imgPages[i]`;
`frames` lists the frames that firmware takes from the pool, which meet the stated count on each die (the choice within a die is
firmware's). R309 lists no tenant id and no PASID: the model takes them from the description (log 80), as it takes the places of
the fields (log 81). -/
structure PartDesc where
  tenant    : BitVec 32
  quads     : List Nat
  banks     : List (Nat × BitVec 64)
  allot     : Nat
  minFrames : List (Nat × Nat)
  frames    : List Nat
  wHbm      : Nat
  wCopy     : Nat
  wWalk     : Nat
  cisBase   : Nat
  cisSize   : Nat
  winBase   : Nat
  winBits   : Nat
  flashGBs  : Nat
  flash     : List Nat
  tperm     : BitVec 3
  deadline  : Nat
  thrash    : BitVec 32
  interval  : Nat
  keys      : BitVec 256
  imgAt     : Nat
  imgPages  : List Nat
  ptroot    : Nat
  dispatch  : Nat
  tvec      : Nat
  awBase    : Nat
  awSize    : Nat
  basin0    : Option BasinRec
  pasid     : Nat
  at_       : Nat
  len       : Nat
  backQuad  : Nat
  backBank  : Nat
  deriving DecidableEq, Repr

/-- The instructions and steps of the machine, in the order of the opcode table. -/
inductive Instr where
  /-- No effect other than its place in a chain. (R120) -/
  | sysNop (h : Hdr)
  /-- Ends every guard-true active lane; the group and crew may end as a result. (R120) -/
  | sysExit (h : Hdr)
  /-- Makes the current path the youngest deferred set. (R120) -/
  | sysYield (h : Hdr)
  /-- Delivers USER_TRAP to mode U with the PC past the chain and the code as value. (R120) -/
  | sysTrap (h : Hdr) (p : BitVec 8)
  /-- Returns every active lane to sr.uepc and restores repetition state. (R120) -/
  | sysUret (h : Hdr)
  /-- Returns from T1 to U or from T2 to T1 at the saved PC. (R120) -/
  | sysTret (h : Hdr)
  /-- Delivers BREAKPOINT to mode U with the PC of the brk word. (R120) -/
  | sysBrk (h : Hdr) (p : BitVec 14)
  /-- Enters the tenant halt state with the given reason. (R120) -/
  | sysHalt (h : Hdr) (p : BitVec 13)
  /-- Branches guard-true lanes to a packet-relative target with hint none. (R122) -/
  | bra (h : Hdr) (o : BitVec 20)
  /-- Branch whose taken side continues as the current path. (R122) -/
  | braLk (h : Hdr) (o : BitVec 20)
  /-- Branch whose fall-through side continues as the current path. (R122) -/
  | braUlk (h : Hdr) (o : BitVec 20)
  /-- Uniform branch that faults UNIFORM_VIOLATION if lanes split. (R122) -/
  | braUnf (h : Hdr) (o : BitVec 20)
  /-- Sends each guard-true lane to the target in its register pair. (R123) -/
  | ctlJump (h : Hdr) (a : BitVec 6) (h : BitVec 2)
  /-- Jumps to a register-pair target and writes the link pair. (R123) -/
  | ctlCall (h : Hdr) (d : BitVec 6) (a : BitVec 6)
  /-- Calls a literal packet offset and writes the link pair. (R123) -/
  | ctlCalli (h : Hdr) (d : BitVec 6) (off : Word)
  /-- Returns each guard-true lane to the target in its register pair. (R123) -/
  | ctlRet (h : Hdr) (a : BitVec 6)
  /-- Repeats the following packet n times under path repetition state. (R124) -/
  | ctlRep (h : Hdr) (a : SSrc)
  /-- Files guard-true lanes into the crew's reform bins after counters drain. (R126) -/
  | ctlReform (h : Hdr)
  /-- Blocks the path until the group's outstanding counters are within limits. (R158) -/
  | wait (h : Hdr) (l : BitVec 5) (s : BitVec 5) (p : BitVec 5) (t : BitVec 5)
  /-- Per-lane 32-bit wrapping add. (R127) -/
  | viaAdd (h : Hdr) (d : BitVec 6) (a : BitVec 6) (b : VSrc)
  /-- Per-lane 32-bit wrapping subtract. (R127) -/
  | viaSub (h : Hdr) (d : BitVec 6) (a : BitVec 6) (b : VSrc)
  /-- Per-lane low 32 bits of the product. (R127) -/
  | viaMul (h : Hdr) (d : BitVec 6) (a : BitVec 6) (b : VSrc)
  /-- Per-lane high 32 bits of the signed product. (R127) -/
  | viaMulh (h : Hdr) (d : BitVec 6) (a : BitVec 6) (b : VSrc)
  /-- Per-lane high 32 bits of the unsigned product. (R127) -/
  | viaMulhn (h : Hdr) (d : BitVec 6) (a : BitVec 6) (b : VSrc)
  /-- Per-lane multiply-add into the destination. (R127) -/
  | viaMad (h : Hdr) (d : BitVec 6) (a : BitVec 6) (b : VSrc)
  /-- Per-lane signed minimum. (R127) -/
  | viaMin (h : Hdr) (d : BitVec 6) (a : BitVec 6) (b : VSrc)
  /-- Per-lane signed maximum. (R127) -/
  | viaMax (h : Hdr) (d : BitVec 6) (a : BitVec 6) (b : VSrc)
  /-- Per-lane unsigned minimum. (R127) -/
  | viaMinn (h : Hdr) (d : BitVec 6) (a : BitVec 6) (b : VSrc)
  /-- Per-lane unsigned maximum. (R127) -/
  | viaMaxn (h : Hdr) (d : BitVec 6) (a : BitVec 6) (b : VSrc)
  /-- Per-lane signed absolute value. (R127) -/
  | viaAbs (h : Hdr) (d : BitVec 6) (a : BitVec 6)
  /-- Per-lane wrapping negation. (R127) -/
  | viaNeg (h : Hdr) (d : BitVec 6) (a : BitVec 6)
  /-- Per-lane 64-bit pair add. (R127) -/
  | viaAddc (h : Hdr) (d : BitVec 6) (a : BitVec 6) (b : VSrc)
  /-- Per-lane 64-bit pair subtract. (R127) -/
  | viaSubc (h : Hdr) (d : BitVec 6) (a : BitVec 6) (b : VSrc)
  /-- Per-lane count of leading zeros. (R127) -/
  | viaClz (h : Hdr) (d : BitVec 6) (a : BitVec 6)
  /-- Per-lane count of one bits. (R127) -/
  | viaPopc (h : Hdr) (d : BitVec 6) (a : BitVec 6)
  /-- Per-lane bitwise and. (R128) -/
  | vilAnd (h : Hdr) (d : BitVec 6) (a : BitVec 6) (b : VSrc)
  /-- Per-lane bitwise or. (R128) -/
  | vilOr (h : Hdr) (d : BitVec 6) (a : BitVec 6) (b : VSrc)
  /-- Per-lane bitwise xor. (R128) -/
  | vilXor (h : Hdr) (d : BitVec 6) (a : BitVec 6) (b : VSrc)
  /-- Per-lane a and not b. (R128) -/
  | vilAndn (h : Hdr) (d : BitVec 6) (a : BitVec 6) (b : VSrc)
  /-- Per-lane bitwise not. (R128) -/
  | vilNot (h : Hdr) (d : BitVec 6) (a : BitVec 6)
  /-- Per-lane left shift by b[5:0]. (R128) -/
  | vilShl (h : Hdr) (d : BitVec 6) (a : BitVec 6) (b : VSrc)
  /-- Per-lane logical right shift by b[5:0]. (R128) -/
  | vilShr (h : Hdr) (d : BitVec 6) (a : BitVec 6) (b : VSrc)
  /-- Per-lane arithmetic right shift. (R128) -/
  | vilSra (h : Hdr) (d : BitVec 6) (a : BitVec 6) (b : VSrc)
  /-- Per-lane rotate left. (R128) -/
  | vilRotl (h : Hdr) (d : BitVec 6) (a : BitVec 6) (b : VSrc)
  /-- Per-lane bit reversal. (R128) -/
  | vilBrev (h : Hdr) (d : BitVec 6) (a : BitVec 6)
  /-- Per-lane signed bit-field extract. (R129) -/
  | vilBfx (h : Hdr) (d : BitVec 6) (a : BitVec 6) (b : VSrc)
  /-- Per-lane unsigned bit-field extract. (R129) -/
  | vilBfxn (h : Hdr) (d : BitVec 6) (a : BitVec 6) (b : VSrc)
  /-- Per-lane bit-field insert into the destination. (R129) -/
  | vilBfi (h : Hdr) (d : BitVec 6) (a : BitVec 6) (b : VSrc)
  /-- Per-lane register copy. (R128) -/
  | vilMov (h : Hdr) (d : BitVec 6) (a : BitVec 6)
  /-- Per-lane byte select with zero and sign-fill masks. (R129) -/
  | vilBsel (h : Hdr) (d : BitVec 6) (a : BitVec 6) (b : VSrc)
  /-- Integer equality compare into a guard. (R130) -/
  | vicEq (h : Hdr) (k : BitVec 3) (n : BitVec 3) (a : BitVec 6) (b : BitVec 6)
  /-- Integer inequality compare into a guard. (R130) -/
  | vicNe (h : Hdr) (k : BitVec 3) (n : BitVec 3) (a : BitVec 6) (b : BitVec 6)
  /-- Signed less-than compare into a guard. (R130) -/
  | vicLt (h : Hdr) (k : BitVec 3) (n : BitVec 3) (a : BitVec 6) (b : BitVec 6)
  /-- Signed less-or-equal compare into a guard. (R130) -/
  | vicLe (h : Hdr) (k : BitVec 3) (n : BitVec 3) (a : BitVec 6) (b : BitVec 6)
  /-- Signed greater-than compare into a guard. (R130) -/
  | vicGt (h : Hdr) (k : BitVec 3) (n : BitVec 3) (a : BitVec 6) (b : BitVec 6)
  /-- Signed greater-or-equal compare into a guard. (R130) -/
  | vicGe (h : Hdr) (k : BitVec 3) (n : BitVec 3) (a : BitVec 6) (b : BitVec 6)
  /-- Unsigned less-than compare into a guard. (R130) -/
  | vicLtn (h : Hdr) (k : BitVec 3) (n : BitVec 3) (a : BitVec 6) (b : BitVec 6)
  /-- Unsigned less-or-equal compare into a guard. (R130) -/
  | vicLen (h : Hdr) (k : BitVec 3) (n : BitVec 3) (a : BitVec 6) (b : BitVec 6)
  /-- Unsigned greater-than compare into a guard. (R130) -/
  | vicGtn (h : Hdr) (k : BitVec 3) (n : BitVec 3) (a : BitVec 6) (b : BitVec 6)
  /-- Unsigned greater-or-equal compare into a guard. (R130) -/
  | vicGen (h : Hdr) (k : BitVec 3) (n : BitVec 3) (a : BitVec 6) (b : BitVec 6)
  /-- 64-bit pair equality compare into a guard. (R130) -/
  | vicEq64 (h : Hdr) (k : BitVec 3) (n : BitVec 3) (a : BitVec 6) (b : BitVec 6)
  /-- 64-bit signed less-than compare into a guard. (R130) -/
  | vicLt64 (h : Hdr) (k : BitVec 3) (n : BitVec 3) (a : BitVec 6) (b : BitVec 6)
  /-- 64-bit unsigned less-than compare into a guard. (R130) -/
  | vicLtn64 (h : Hdr) (k : BitVec 3) (n : BitVec 3) (a : BitVec 6) (b : BitVec 6)
  /-- Per-lane add of a signed 10-bit immediate. (R131) -/
  | addi (h : Hdr) (d : BitVec 6) (a : BitVec 6) (i : BitVec 10)
  /-- Per-lane and with a sign-extended immediate. (R131) -/
  | andi (h : Hdr) (d : BitVec 6) (a : BitVec 6) (i : BitVec 10)
  /-- Per-lane or with a sign-extended immediate. (R131) -/
  | ori (h : Hdr) (d : BitVec 6) (a : BitVec 6) (i : BitVec 10)
  /-- Per-lane xor with a sign-extended immediate. (R131) -/
  | xori (h : Hdr) (d : BitVec 6) (a : BitVec 6) (i : BitVec 10)
  /-- Per-lane left shift by an immediate 0-31. (R131) -/
  | shli (h : Hdr) (d : BitVec 6) (a : BitVec 6) (i : BitVec 5)
  /-- Per-lane logical right shift by an immediate. (R131) -/
  | shri (h : Hdr) (d : BitVec 6) (a : BitVec 6) (i : BitVec 5)
  /-- Per-lane arithmetic right shift by an immediate. (R131) -/
  | srai (h : Hdr) (d : BitVec 6) (a : BitVec 6) (i : BitVec 5)
  /-- Per-lane multiply by a signed immediate. (R131) -/
  | muli (h : Hdr) (d : BitVec 6) (a : BitVec 6) (i : BitVec 10)
  /-- Writes a sign-extended 16-bit immediate to each lane. (R132) -/
  | movi (h : Hdr) (d : BitVec 6) (i : BitVec 16)
  /-- Writes the upper 16 bits of each lane's register. (R132) -/
  | movhi (h : Hdr) (d : BitVec 6) (i : BitVec 16)
  /-- Per-lane f32 add. (R133) -/
  | vfFadd (h : Hdr) (d : BitVec 6) (a : BitVec 6) (b : VSrc)
  /-- Per-lane f32 subtract. (R133) -/
  | vfFsub (h : Hdr) (d : BitVec 6) (a : BitVec 6) (b : VSrc)
  /-- Per-lane f32 multiply. (R133) -/
  | vfFmul (h : Hdr) (d : BitVec 6) (a : BitVec 6) (b : VSrc)
  /-- Per-lane fused multiply-add. (R133) -/
  | vfFfma (h : Hdr) (d : BitVec 6) (a : BitVec 6) (b : VSrc)
  /-- Per-lane fused multiply-subtract. (R133) -/
  | vfFfms (h : Hdr) (d : BitVec 6) (a : BitVec 6) (b : VSrc)
  /-- Per-lane f32 minimum. (R134) -/
  | vfFmin (h : Hdr) (d : BitVec 6) (a : BitVec 6) (b : VSrc)
  /-- Per-lane f32 maximum. (R134) -/
  | vfFmax (h : Hdr) (d : BitVec 6) (a : BitVec 6) (b : VSrc)
  /-- Per-lane f32 absolute value. (R134) -/
  | vfFabs (h : Hdr) (d : BitVec 6) (a : BitVec 6)
  /-- Per-lane f32 negation. (R134) -/
  | vfFneg (h : Hdr) (d : BitVec 6) (a : BitVec 6)
  /-- Per-lane copy of sign from b. (R134) -/
  | vfFcopys (h : Hdr) (d : BitVec 6) (a : BitVec 6) (b : VSrc)
  /-- Per-lane round toward minus infinity. (R134) -/
  | vfFfloor (h : Hdr) (d : BitVec 6) (a : BitVec 6)
  /-- Per-lane round toward plus infinity. (R134) -/
  | vfFceil (h : Hdr) (d : BitVec 6) (a : BitVec 6)
  /-- Per-lane round to integral in the current mode. (R134) -/
  | vfFrint (h : Hdr) (d : BitVec 6) (a : BitVec 6)
  /-- Per-lane round toward zero. (R134) -/
  | vfFtrunc (h : Hdr) (d : BitVec 6) (a : BitVec 6)
  /-- Per-lane clamp to [+0, 1]. (R134) -/
  | vfFsat (h : Hdr) (d : BitVec 6) (a : BitVec 6)
  /-- Per-lane multiply by 2 to an integer power. (R134) -/
  | vfFscale (h : Hdr) (d : BitVec 6) (a : BitVec 6) (b : VSrc)
  /-- f32 ordered equality into a guard. (R135) -/
  | vfcFeq (h : Hdr) (k : BitVec 3) (n : BitVec 3) (a : BitVec 6) (b : BitVec 6)
  /-- f32 unordered-or-not-equal into a guard. (R135) -/
  | vfcFne (h : Hdr) (k : BitVec 3) (n : BitVec 3) (a : BitVec 6) (b : BitVec 6)
  /-- f32 less-than into a guard. (R135) -/
  | vfcFlt (h : Hdr) (k : BitVec 3) (n : BitVec 3) (a : BitVec 6) (b : BitVec 6)
  /-- f32 less-or-equal into a guard. (R135) -/
  | vfcFle (h : Hdr) (k : BitVec 3) (n : BitVec 3) (a : BitVec 6) (b : BitVec 6)
  /-- f32 greater-than into a guard. (R135) -/
  | vfcFgt (h : Hdr) (k : BitVec 3) (n : BitVec 3) (a : BitVec 6) (b : BitVec 6)
  /-- f32 greater-or-equal into a guard. (R135) -/
  | vfcFge (h : Hdr) (k : BitVec 3) (n : BitVec 3) (a : BitVec 6) (b : BitVec 6)
  /-- f32 unordered test into a guard. (R135) -/
  | vfcFun (h : Hdr) (k : BitVec 3) (n : BitVec 3) (a : BitVec 6) (b : BitVec 6)
  /-- f32 ordered test into a guard. (R135) -/
  | vfcFord (h : Hdr) (k : BitVec 3) (n : BitVec 3) (a : BitVec 6) (b : BitVec 6)
  /-- Tests the class of a against a class mask in b. (R136) -/
  | vfcFclass (h : Hdr) (k : BitVec 3) (n : BitVec 3) (a : BitVec 6) (b : BitVec 6)
  /-- Paired f16 or bf16 add. (R137) -/
  | vhHadd (h : Hdr) (t : Bool) (d : BitVec 6) (a : BitVec 6) (b : VSrc)
  /-- Paired 16-bit subtract. (R137) -/
  | vhHsub (h : Hdr) (t : Bool) (d : BitVec 6) (a : BitVec 6) (b : VSrc)
  /-- Paired 16-bit multiply. (R137) -/
  | vhHmul (h : Hdr) (t : Bool) (d : BitVec 6) (a : BitVec 6) (b : VSrc)
  /-- Paired 16-bit fused multiply-add. (R137) -/
  | vhHfma (h : Hdr) (t : Bool) (d : BitVec 6) (a : BitVec 6) (b : VSrc)
  /-- Paired 16-bit minimum. (R137) -/
  | vhHmin (h : Hdr) (t : Bool) (d : BitVec 6) (a : BitVec 6) (b : VSrc)
  /-- Paired 16-bit maximum. (R137) -/
  | vhHmax (h : Hdr) (t : Bool) (d : BitVec 6) (a : BitVec 6) (b : VSrc)
  /-- Paired 16-bit negation. (R137) -/
  | vhHneg (h : Hdr) (t : Bool) (d : BitVec 6) (a : BitVec 6)
  /-- Paired 16-bit absolute value. (R137) -/
  | vhHabs (h : Hdr) (t : Bool) (d : BitVec 6) (a : BitVec 6)
  /-- Per-lane reciprocal within 2 ulp. (R138) -/
  | sfuFrcp (h : Hdr) (d : BitVec 6) (a : BitVec 6)
  /-- Per-lane reciprocal square root. (R138) -/
  | sfuFrsq (h : Hdr) (d : BitVec 6) (a : BitVec 6)
  /-- Per-lane correctly rounded square root. (R138) -/
  | sfuFsqrt (h : Hdr) (d : BitVec 6) (a : BitVec 6)
  /-- Per-lane base-2 exponential. (R138) -/
  | sfuFexp2 (h : Hdr) (d : BitVec 6) (a : BitVec 6)
  /-- Per-lane base-2 logarithm. (R138) -/
  | sfuFlog2 (h : Hdr) (d : BitVec 6) (a : BitVec 6)
  /-- Per-lane sin(2πx). (R138) -/
  | sfuFsin (h : Hdr) (d : BitVec 6) (a : BitVec 6)
  /-- Per-lane cos(2πx). (R138) -/
  | sfuFcos (h : Hdr) (d : BitVec 6) (a : BitVec 6)
  /-- Per-lane hyperbolic tangent. (R138) -/
  | sfuFtanh (h : Hdr) (d : BitVec 6) (a : BitVec 6)
  /-- Per-lane correctly rounded division. (R138) -/
  | sfuFdiv (h : Hdr) (d : BitVec 6) (a : BitVec 6) (b : BitVec 6)
  /-- Converts i32 to f32. (R57) -/
  | cvtF32I32 (h : Hdr) (d : BitVec 6) (a : BitVec 6)
  /-- Converts n32 to f32. (R57) -/
  | cvtF32N32 (h : Hdr) (d : BitVec 6) (a : BitVec 6)
  /-- Converts f32 to i32 with saturation. (R57) -/
  | cvtI32F32 (h : Hdr) (d : BitVec 6) (a : BitVec 6)
  /-- Converts f32 to n32 with saturation. (R57) -/
  | cvtN32F32 (h : Hdr) (d : BitVec 6) (a : BitVec 6)
  /-- Widens f16 to f32. (R57) -/
  | cvtF32F16 (h : Hdr) (d : BitVec 6) (a : BitVec 6)
  /-- Narrows f32 to f16. (R57) -/
  | cvtF16F32 (h : Hdr) (d : BitVec 6) (a : BitVec 6)
  /-- Widens bf16 to f32. (R57) -/
  | cvtF32Bf16 (h : Hdr) (d : BitVec 6) (a : BitVec 6)
  /-- Narrows f32 to bf16. (R57) -/
  | cvtBf16F32 (h : Hdr) (d : BitVec 6) (a : BitVec 6)
  /-- Widens a selected e4m3 byte to f32. (R57) -/
  | cvtF32E4m3 (h : Hdr) (d : BitVec 6) (a : BitVec 6) (s : BitVec 2)
  /-- Saturating f32 to e4m3 into a selected byte. (R57) -/
  | cvtE4m3F32 (h : Hdr) (d : BitVec 6) (a : BitVec 6) (s : BitVec 2)
  /-- Widens a selected e5m2 byte to f32. (R57) -/
  | cvtF32E5m2 (h : Hdr) (d : BitVec 6) (a : BitVec 6) (s : BitVec 2)
  /-- f32 to e5m2 into a selected byte. (R57) -/
  | cvtE5m2F32 (h : Hdr) (d : BitVec 6) (a : BitVec 6) (s : BitVec 2)
  /-- Widens a selected e2m1 nibble to f32. (R57) -/
  | cvtF32E2m1 (h : Hdr) (d : BitVec 6) (a : BitVec 6) (s : BitVec 3)
  /-- Saturating f32 to e2m1 into a selected nibble. (R57) -/
  | cvtE2m1F32 (h : Hdr) (d : BitVec 6) (a : BitVec 6) (s : BitVec 3)
  /-- Converts an S20 slot to f32. (R57) -/
  | cvtF32S20 (h : Hdr) (d : BitVec 6) (a : BitVec 6)
  /-- Converts f32 to an S20 slot rounding up. (R57) -/
  | cvtS20F32 (h : Hdr) (d : BitVec 6) (a : BitVec 6)
  /-- Reads v(A) from a lane indexed per lane. (R140) -/
  | lanePick (h : Hdr) (d : BitVec 6) (a : BitVec 6) (b : BitVec 6)
  /-- Reads v(A) from a lower lane by offset. (R140) -/
  | laneBack (h : Hdr) (d : BitVec 6) (a : BitVec 6) (b : BitVec 6)
  /-- Reads v(A) from a higher lane by offset. (R140) -/
  | laneFwd (h : Hdr) (d : BitVec 6) (a : BitVec 6) (b : BitVec 6)
  /-- Reads v(A) from the lane index xor b. (R140) -/
  | laneFlip (h : Hdr) (d : BitVec 6) (a : BitVec 6) (b : BitVec 6)
  /-- 1 if any lane of P is nonzero. (R140) -/
  | laneAny (h : Hdr) (d : BitVec 6) (a : BitVec 6)
  /-- 1 if every lane of P is nonzero. (R140) -/
  | laneEvery (h : Hdr) (d : BitVec 6) (a : BitVec 6)
  /-- Mask of lanes of P with nonzero v(A). (R140) -/
  | laneMask (h : Hdr) (d : BitVec 6) (a : BitVec 6)
  /-- Wrapping integer sum over P. (R140) -/
  | laneSum (h : Hdr) (d : BitVec 6) (a : BitVec 6)
  /-- Signed minimum over P. (R140) -/
  | laneLeast (h : Hdr) (d : BitVec 6) (a : BitVec 6)
  /-- Signed maximum over P. (R140) -/
  | laneMost (h : Hdr) (d : BitVec 6) (a : BitVec 6)
  /-- Ordered f32 sum over P rounded after each add. (R141) -/
  | laneFsum (h : Hdr) (d : BitVec 6) (a : BitVec 6)
  /-- Broadcasts v(A) of lane n. (R140) -/
  | laneFrom (h : Hdr) (d : BitVec 6) (a : BitVec 6) (n : BitVec 5)
  /-- Scalar add. (R142) -/
  | saluSadd (h : Hdr) (d : BitVec 5) (a : BitVec 5) (b : SSrc)
  /-- Scalar subtract. (R142) -/
  | saluSsub (h : Hdr) (d : BitVec 5) (a : BitVec 5) (b : SSrc)
  /-- Scalar multiply. (R142) -/
  | saluSmul (h : Hdr) (d : BitVec 5) (a : BitVec 5) (b : SSrc)
  /-- Scalar and. (R142) -/
  | saluSand (h : Hdr) (d : BitVec 5) (a : BitVec 5) (b : SSrc)
  /-- Scalar or. (R142) -/
  | saluSor (h : Hdr) (d : BitVec 5) (a : BitVec 5) (b : SSrc)
  /-- Scalar xor. (R142) -/
  | saluSxor (h : Hdr) (d : BitVec 5) (a : BitVec 5) (b : SSrc)
  /-- Scalar left shift. (R142) -/
  | saluSshl (h : Hdr) (d : BitVec 5) (a : BitVec 5) (b : SSrc)
  /-- Scalar logical right shift. (R142) -/
  | saluSshr (h : Hdr) (d : BitVec 5) (a : BitVec 5) (b : SSrc)
  /-- Scalar arithmetic right shift. (R142) -/
  | saluSsra (h : Hdr) (d : BitVec 5) (a : BitVec 5) (b : SSrc)
  /-- Scalar signed minimum. (R142) -/
  | saluSmin (h : Hdr) (d : BitVec 5) (a : BitVec 5) (b : SSrc)
  /-- Scalar signed maximum. (R142) -/
  | saluSmax (h : Hdr) (d : BitVec 5) (a : BitVec 5) (b : SSrc)
  /-- Scalar move. (R142) -/
  | saluSmov (h : Hdr) (d : BitVec 5) (a : BitVec 5)
  /-- Scalar 64-bit pair add. (R142) -/
  | saluSaddc (h : Hdr) (d : BitVec 5) (a : BitVec 5) (b : SSrc)
  /-- Scalar compare combined into a guard in every live lane. (R143) -/
  | saluScmp (h : Hdr) (k : BitVec 2) (n : BitVec 3) (a : BitVec 5) (b : SSrc) (x : BitVec 3)
  /-- Copies a scalar into each lane of a vector register. (R144) -/
  | smovS2v (h : Hdr) (d : BitVec 6) (a : BitVec 6)
  /-- Copies lane n of a vector register into a scalar. (R144) -/
  | smovV2s (h : Hdr) (d : BitVec 6) (a : BitVec 6) (n : BitVec 5)
  /-- Guard and. (R145) -/
  | grdGand (h : Hdr) (d : BitVec 3) (a : BitVec 3) (b : BitVec 3)
  /-- Guard or. (R145) -/
  | grdGor (h : Hdr) (d : BitVec 3) (a : BitVec 3) (b : BitVec 3)
  /-- Guard xor. (R145) -/
  | grdGxor (h : Hdr) (d : BitVec 3) (a : BitVec 3) (b : BitVec 3)
  /-- Guard not. (R145) -/
  | grdGnot (h : Hdr) (d : BitVec 3) (a : BitVec 3)
  /-- Guard move. (R145) -/
  | grdGmov (h : Hdr) (d : BitVec 3) (a : BitVec 3)
  /-- Sets a guard from one bit of a vector register. (R145) -/
  | grdGset (h : Hdr) (d : BitVec 3) (a : BitVec 6) (b : BitVec 5)
  /-- Writes a guard as 0 or 1 into a vector register. (R145) -/
  | grdGtov (h : Hdr) (d : BitVec 6) (a : BitVec 3)
  /-- Reads a CSR into each lane of a vector register. (R146) -/
  | csrRdsr (h : Hdr) (d : BitVec 6) (a : BitVec 6) (b : BitVec 6)
  /-- Writes a CSR from the lowest lane of P. (R146) -/
  | csrWrsr (h : Hdr) (d : BitVec 6) (a : BitVec 6) (b : BitVec 6)
  /-- Reads a CSR into a scalar register. (R146) -/
  | csrRdsrs (h : Hdr) (d : BitVec 6) (a : BitVec 6) (b : BitVec 6)
  /-- Writes a CSR from a scalar register. (R146) -/
  | csrWrsrs (h : Hdr) (d : BitVec 6) (a : BitVec 6) (b : BitVec 6)
  /-- Per-lane zero-extended byte load. (R159) -/
  | ldB8 (h : Hdr) (s : Bool) (d : BitVec 6) (a : BitVec 6) (o : BitVec 6)
  /-- Per-lane sign-extended byte load. (R159) -/
  | ldB8s (h : Hdr) (s : Bool) (d : BitVec 6) (a : BitVec 6) (o : BitVec 6)
  /-- Per-lane zero-extended halfword load. (R159) -/
  | ldB16 (h : Hdr) (s : Bool) (d : BitVec 6) (a : BitVec 6) (o : BitVec 6)
  /-- Per-lane sign-extended halfword load. (R159) -/
  | ldB16s (h : Hdr) (s : Bool) (d : BitVec 6) (a : BitVec 6) (o : BitVec 6)
  /-- Per-lane word load. (R159) -/
  | ldB32 (h : Hdr) (s : Bool) (d : BitVec 6) (a : BitVec 6) (o : BitVec 6)
  /-- Per-lane 64-bit load into a pair. (R159) -/
  | ldB64 (h : Hdr) (s : Bool) (d : BitVec 6) (a : BitVec 6) (o : BitVec 6)
  /-- Per-lane 128-bit load into a quad. (R159) -/
  | ldB128 (h : Hdr) (s : Bool) (d : BitVec 6) (a : BitVec 6) (o : BitVec 6)
  /-- Per-lane byte store. (R159) -/
  | stB8 (h : Hdr) (d : BitVec 6) (a : BitVec 6) (o : BitVec 6)
  /-- Per-lane halfword store. (R159) -/
  | stB16 (h : Hdr) (d : BitVec 6) (a : BitVec 6) (o : BitVec 6)
  /-- Per-lane word store. (R159) -/
  | stB32 (h : Hdr) (d : BitVec 6) (a : BitVec 6) (o : BitVec 6)
  /-- Per-lane 64-bit store from a pair. (R159) -/
  | stB64 (h : Hdr) (d : BitVec 6) (a : BitVec 6) (o : BitVec 6)
  /-- Per-lane 128-bit store from a quad. (R159) -/
  | stB128 (h : Hdr) (d : BitVec 6) (a : BitVec 6) (o : BitVec 6)
  /-- Scratchpad zero-extended byte load. (R160) -/
  | ldsB8 (h : Hdr) (d : BitVec 6) (a : BitVec 6) (o : BitVec 6)
  /-- Scratchpad sign-extended byte load. (R160) -/
  | ldsB8s (h : Hdr) (d : BitVec 6) (a : BitVec 6) (o : BitVec 6)
  /-- Scratchpad zero-extended halfword load. (R160) -/
  | ldsB16 (h : Hdr) (d : BitVec 6) (a : BitVec 6) (o : BitVec 6)
  /-- Scratchpad sign-extended halfword load. (R160) -/
  | ldsB16s (h : Hdr) (d : BitVec 6) (a : BitVec 6) (o : BitVec 6)
  /-- Scratchpad word load. (R160) -/
  | ldsB32 (h : Hdr) (d : BitVec 6) (a : BitVec 6) (o : BitVec 6)
  /-- Scratchpad 64-bit load. (R160) -/
  | ldsB64 (h : Hdr) (d : BitVec 6) (a : BitVec 6) (o : BitVec 6)
  /-- Scratchpad 128-bit load. (R160) -/
  | ldsB128 (h : Hdr) (d : BitVec 6) (a : BitVec 6) (o : BitVec 6)
  /-- Scratchpad byte store. (R160) -/
  | stsB8 (h : Hdr) (d : BitVec 6) (a : BitVec 6) (o : BitVec 6)
  /-- Scratchpad halfword store. (R160) -/
  | stsB16 (h : Hdr) (d : BitVec 6) (a : BitVec 6) (o : BitVec 6)
  /-- Scratchpad word store. (R160) -/
  | stsB32 (h : Hdr) (d : BitVec 6) (a : BitVec 6) (o : BitVec 6)
  /-- Scratchpad 64-bit store. (R160) -/
  | stsB64 (h : Hdr) (d : BitVec 6) (a : BitVec 6) (o : BitVec 6)
  /-- Scratchpad 128-bit store. (R160) -/
  | stsB128 (h : Hdr) (d : BitVec 6) (a : BitVec 6) (o : BitVec 6)
  /-- Reads one PI8 element per lane at k planes as an integer. (R161) -/
  | ldp (h : Hdr) (k : BitVec 3) (d : BitVec 6) (a : BitVec 6) (o : BitVec 6)
  /-- Reads one PI8 element per lane at k planes, dequantised to f32. (R161) -/
  | ldpF32 (h : Hdr) (k : BitVec 3) (d : BitVec 6) (a : BitVec 6) (o : BitVec 6)
  /-- Device-scope atomic add returning old. (R162) -/
  | updAdd (h : Hdr) (d : BitVec 6) (a : BitVec 6) (o : BitVec 6)
  /-- Device-scope atomic f32 add returning old. (R165) -/
  | updFadd (h : Hdr) (d : BitVec 6) (a : BitVec 6) (o : BitVec 6)
  /-- Device-scope atomic signed minimum. (R162) -/
  | updMin (h : Hdr) (d : BitVec 6) (a : BitVec 6) (o : BitVec 6)
  /-- Device-scope atomic signed maximum. (R162) -/
  | updMax (h : Hdr) (d : BitVec 6) (a : BitVec 6) (o : BitVec 6)
  /-- Device-scope atomic unsigned minimum. (R162) -/
  | updMinn (h : Hdr) (d : BitVec 6) (a : BitVec 6) (o : BitVec 6)
  /-- Device-scope atomic unsigned maximum. (R162) -/
  | updMaxn (h : Hdr) (d : BitVec 6) (a : BitVec 6) (o : BitVec 6)
  /-- Device-scope atomic and. (R162) -/
  | updAnd (h : Hdr) (d : BitVec 6) (a : BitVec 6) (o : BitVec 6)
  /-- Device-scope atomic or. (R162) -/
  | updOr (h : Hdr) (d : BitVec 6) (a : BitVec 6) (o : BitVec 6)
  /-- Device-scope atomic xor. (R162) -/
  | updXor (h : Hdr) (d : BitVec 6) (a : BitVec 6) (o : BitVec 6)
  /-- Device-scope atomic swap. (R162) -/
  | updSwap (h : Hdr) (d : BitVec 6) (a : BitVec 6) (o : BitVec 6)
  /-- Device-scope 32-bit compare-and-swap. (R162) -/
  | updCas (h : Hdr) (d : BitVec 6) (a : BitVec 6) (o : BitVec 6)
  /-- Device-scope 64-bit atomic add. (R162) -/
  | updAdd64 (h : Hdr) (d : BitVec 6) (a : BitVec 6) (o : BitVec 6)
  /-- Device-scope 64-bit atomic swap. (R162) -/
  | updSwap64 (h : Hdr) (d : BitVec 6) (a : BitVec 6) (o : BitVec 6)
  /-- Device-scope 64-bit compare-and-swap. (R162) -/
  | updCas64 (h : Hdr) (d : BitVec 6) (a : BitVec 6) (o : BitVec 6)
  /-- Crew-scope atomic add returning old. (R163) -/
  | updcAdd (h : Hdr) (d : BitVec 6) (a : BitVec 6) (o : BitVec 6)
  /-- Crew-scope atomic f32 add. (R165) -/
  | updcFadd (h : Hdr) (d : BitVec 6) (a : BitVec 6) (o : BitVec 6)
  /-- Crew-scope atomic signed minimum. (R163) -/
  | updcMin (h : Hdr) (d : BitVec 6) (a : BitVec 6) (o : BitVec 6)
  /-- Crew-scope atomic signed maximum. (R163) -/
  | updcMax (h : Hdr) (d : BitVec 6) (a : BitVec 6) (o : BitVec 6)
  /-- Crew-scope atomic unsigned minimum. (R163) -/
  | updcMinn (h : Hdr) (d : BitVec 6) (a : BitVec 6) (o : BitVec 6)
  /-- Crew-scope atomic unsigned maximum. (R163) -/
  | updcMaxn (h : Hdr) (d : BitVec 6) (a : BitVec 6) (o : BitVec 6)
  /-- Crew-scope atomic and. (R163) -/
  | updcAnd (h : Hdr) (d : BitVec 6) (a : BitVec 6) (o : BitVec 6)
  /-- Crew-scope atomic or. (R163) -/
  | updcOr (h : Hdr) (d : BitVec 6) (a : BitVec 6) (o : BitVec 6)
  /-- Crew-scope atomic xor. (R163) -/
  | updcXor (h : Hdr) (d : BitVec 6) (a : BitVec 6) (o : BitVec 6)
  /-- Crew-scope atomic swap. (R163) -/
  | updcSwap (h : Hdr) (d : BitVec 6) (a : BitVec 6) (o : BitVec 6)
  /-- Crew-scope compare-and-swap. (R163) -/
  | updcCas (h : Hdr) (d : BitVec 6) (a : BitVec 6) (o : BitVec 6)
  /-- Crew-scope 64-bit atomic add. (R163) -/
  | updcAdd64 (h : Hdr) (d : BitVec 6) (a : BitVec 6) (o : BitVec 6)
  /-- Crew-scope 64-bit atomic swap. (R163) -/
  | updcSwap64 (h : Hdr) (d : BitVec 6) (a : BitVec 6) (o : BitVec 6)
  /-- Crew-scope 64-bit compare-and-swap. (R163) -/
  | updcCas64 (h : Hdr) (d : BitVec 6) (a : BitVec 6) (o : BitVec 6)
  /-- No-return atomic add. (R162) -/
  | updnAdd (h : Hdr) (d : BitVec 6) (a : BitVec 6) (o : BitVec 6)
  /-- No-return atomic f32 add, no flags. (R165) -/
  | updnFadd (h : Hdr) (d : BitVec 6) (a : BitVec 6) (o : BitVec 6)
  /-- No-return atomic signed minimum. (R162) -/
  | updnMin (h : Hdr) (d : BitVec 6) (a : BitVec 6) (o : BitVec 6)
  /-- No-return atomic signed maximum. (R162) -/
  | updnMax (h : Hdr) (d : BitVec 6) (a : BitVec 6) (o : BitVec 6)
  /-- No-return atomic unsigned minimum. (R162) -/
  | updnMinn (h : Hdr) (d : BitVec 6) (a : BitVec 6) (o : BitVec 6)
  /-- No-return atomic unsigned maximum. (R162) -/
  | updnMaxn (h : Hdr) (d : BitVec 6) (a : BitVec 6) (o : BitVec 6)
  /-- No-return atomic and. (R162) -/
  | updnAnd (h : Hdr) (d : BitVec 6) (a : BitVec 6) (o : BitVec 6)
  /-- No-return atomic or. (R162) -/
  | updnOr (h : Hdr) (d : BitVec 6) (a : BitVec 6) (o : BitVec 6)
  /-- No-return atomic xor. (R162) -/
  | updnXor (h : Hdr) (d : BitVec 6) (a : BitVec 6) (o : BitVec 6)
  /-- Holds its chain until the group's host writes drain and reads return. (R166) -/
  | memFenceHost (h : Hdr)
  /-- Holds its chain until peer writes drain and peer reads return. (R166) -/
  | memFencePeer (h : Hdr)
  /-- Host and peer fences together with st = 0. (R166) -/
  | memFenceSys (h : Hdr)
  /-- Requests lines into the core's L1 and the page's basin. (R167) -/
  | memPref (h : Hdr) (a : BitVec 6) (o : BitVec 6)
  /-- Brings a VA range into its basins, completing as a copy on a barrier. (R168) -/
  | memBpref (h : Hdr) (d : BitVec 6) (n : BitVec 4)
  /-- Blocks until the watched word equals x. (R169) -/
  | monWaitcEq (h : Hdr) (d : BitVec 6) (a : BitVec 6) (o : BitVec 6)
  /-- Blocks until the watched word differs from x. (R169) -/
  | monWaitcNe (h : Hdr) (d : BitVec 6) (a : BitVec 6) (o : BitVec 6)
  /-- Blocks until the watched word is signed below x. (R169) -/
  | monWaitcLt (h : Hdr) (d : BitVec 6) (a : BitVec 6) (o : BitVec 6)
  /-- Blocks until the watched word is signed at or above x. (R169) -/
  | monWaitcGe (h : Hdr) (d : BitVec 6) (a : BitVec 6) (o : BitVec 6)
  /-- Blocks until the watched word is unsigned below x. (R169) -/
  | monWaitcLtn (h : Hdr) (d : BitVec 6) (a : BitVec 6) (o : BitVec 6)
  /-- Blocks until the watched word is unsigned at or above x. (R169) -/
  | monWaitcGen (h : Hdr) (d : BitVec 6) (a : BitVec 6) (o : BitVec 6)
  /-- Blocks until a write covers the watched word. (R169) -/
  | monWaitcChg (h : Hdr) (a : BitVec 6) (o : BitVec 6)
  /-- Initialises a barrier with an expected count. (R174) -/
  | barInit (h : Hdr) (k : BitVec 10) (n : BitVec 4)
  /-- Initialises a barrier with a transfer member for copies. (R174) -/
  | barInitX (h : Hdr) (k : BitVec 10) (n : BitVec 4)
  /-- Makes one arrival at a barrier. (R174) -/
  | barArr (h : Hdr) (n : BitVec 4)
  /-- Arrives and lowers the expected count from the next phase. (R174) -/
  | barDrop (h : Hdr) (n : BitVec 4)
  /-- Blocks until the group's phase completes and reports its cancelled flag. (R174) -/
  | barWait (h : Hdr) (n : BitVec 4)
  /-- Writes a guard telling whether the group's phase has completed. (R174) -/
  | barTest (h : Hdr) (m : BitVec 3) (n : BitVec 4)
  /-- Invalidates a barrier with no attached copies, faulting its waiters. (R174) -/
  | barInval (h : Hdr) (m : BitVec 3) (n : BitVec 4)
  /-- Arrives and then waits for the phase. (R174) -/
  | barArrw (h : Hdr) (n : BitVec 4)
  /-- Arms a muster with a lane count. (R176) -/
  | musSet (h : Hdr) (k : BitVec 11) (n : BitVec 3)
  /-- Disarms a muster. (R176) -/
  | musClr (h : Hdr) (n : BitVec 3)
  /-- Initialises a stage ring with a depth. (R178) -/
  | ringInit (h : Hdr) (d : BitVec 4) (n : BitVec 3)
  /-- Acquires the next empty stage, blocking until one is empty. (R178) -/
  | ringAcq (h : Hdr) (k : BitVec 5) (n : BitVec 3)
  /-- Releases the oldest held stage to pending or full. (R178) -/
  | ringRel (h : Hdr) (k : BitVec 5) (n : BitVec 3)
  /-- Takes the next full stage, blocking until it is full. (R178) -/
  | ringTake (h : Hdr) (k : BitVec 5) (n : BitVec 3)
  /-- Frees the oldest taken stage to empty. (R178) -/
  | ringFree (h : Hdr) (k : BitVec 5) (n : BitVec 3)
  /-- Marks a future empty. (R180) -/
  | futFinit (h : Hdr) (a : BitVec 6) (o : BitVec 6)
  /-- Fills a future with a value as a completion signal. (R180) -/
  | futFput (h : Hdr) (d : BitVec 6) (a : BitVec 6) (o : BitVec 6)
  /-- Reads a full future or delivers FUTURE_EMPTY. (R180) -/
  | futFget (h : Hdr) (d : BitVec 6) (a : BitVec 6) (o : BitVec 6)
  /-- Writes a guard with the future's full bit. (R180) -/
  | futFpoll (h : Hdr) (d : BitVec 3) (a : BitVec 6) (o : BitVec 6)
  /-- Per-lane copy memory to memory through the sluice. (R182) -/
  | cpyMm (h : Hdr) (z : BitVec 2) (d : BitVec 6) (a : BitVec 6) (b : BitVec 4)
  /-- Per-lane copy scratchpad to memory. (R182) -/
  | cpyMs (h : Hdr) (z : BitVec 2) (d : BitVec 6) (a : BitVec 6) (b : BitVec 4)
  /-- Per-lane copy memory to scratchpad. (R182) -/
  | cpySm (h : Hdr) (z : BitVec 2) (d : BitVec 6) (a : BitVec 6) (b : BitVec 4)
  /-- Per-lane copy scratchpad to scratchpad. (R182) -/
  | cpySs (h : Hdr) (z : BitVec 2) (d : BitVec 6) (a : BitVec 6) (b : BitVec 4)
  /-- Tile copy from memory to scratchpad. (R192) -/
  | tcpySp (h : Hdr) (r : Bool) (q : BitVec 3) (b : BitVec 4) (n : BitVec 5)
  /-- Tile copy from memory into an operand buffer. (R192) -/
  | tcpyOa (h : Hdr) (r : Bool) (q : BitVec 3) (b : BitVec 4) (n : BitVec 5) (x : BitVec 2)
  /-- Tile copy from memory into a weight-buffer bank. (R192) -/
  | tcpyWb (h : Hdr) (r : Bool) (q : BitVec 3) (b : BitVec 4) (n : BitVec 5) (x : BitVec 2)
  /-- Tile copy from scratchpad to memory. (R193) -/
  | tcpySt (h : Hdr) (r : Bool) (q : BitVec 3) (b : BitVec 4) (n : BitVec 5)
  /-- Gathers memory rows by index list into scratchpad. (R193) -/
  | tcpyGath (h : Hdr) (r : Bool) (q : BitVec 3) (b : BitVec 4) (n : BitVec 5)
  /-- Scatters scratchpad rows to memory rows by index list. (R193) -/
  | tcpyScat (h : Hdr) (r : Bool) (q : BitVec 3) (b : BitVec 4) (n : BitVec 5)
  /-- Writes zeros over a scratchpad tile. (R192) -/
  | tcpyZero (h : Hdr) (r : Bool) (q : BitVec 3) (n : BitVec 5)
  /-- Seals the saving crew's image under the tenant key and advances its save counter. (R226) -/
  | seal (h : Hdr) (m : BitVec 3) (k : BitVec 5)
  /-- Checks an image's tag and counter and returns the crew to its task pool. (R227) -/
  | unseal (h : Hdr) (k : BitVec 5)
  /-- Stroke accumulating oa times wb into a tile accumulator. (R199) -/
  | mma (h : Hdr) (x : Bool) (y : Bool) (t : BitVec 2) (o : BitVec 2) (w : BitVec 2) (m : BitVec 3) (b : BitVec 4) (e : BitVec 5)
  /-- Stroke overwriting the tile accumulator. (R199) -/
  | mmaz (h : Hdr) (x : Bool) (y : Bool) (t : BitVec 2) (o : BitVec 2) (w : BitVec 2) (m : BitVec 3) (b : BitVec 4) (e : BitVec 5)
  /-- Gathered stroke through A and C index lists. (R199) -/
  | mmag (h : Hdr) (x : Bool) (y : Bool) (t : BitVec 2) (o : BitVec 2) (w : BitVec 2) (m : BitVec 3) (b : BitVec 4) (e : BitVec 5) (lists : Word)
  /-- Gathered stroke zeroing named rows first. (R199) -/
  | mmagz (h : Hdr) (x : Bool) (y : Bool) (t : BitVec 2) (o : BitVec 2) (w : BitVec 2) (m : BitVec 3) (b : BitVec 4) (e : BitVec 5) (lists : Word)
  /-- Sets every accumulator element to +0. (R201) -/
  | taccTzero (h : Hdr) (t : BitVec 2)
  /-- Converts and stores accumulator elements to scratchpad. (R202) -/
  | taccTstSp (h : Hdr) (b : BitVec 4) (n : BitVec 5) (t : BitVec 2)
  /-- Converts and stores accumulator elements to memory. (R202) -/
  | taccTstMem (h : Hdr) (b : BitVec 4) (n : BitVec 5) (t : BitVec 2)
  /-- Loads accumulator elements from memory. (R203) -/
  | taccTld (h : Hdr) (b : BitVec 4) (n : BitVec 5) (t : BitVec 2)
  /-- Scales accumulator columns or rows by factors. (R203) -/
  | taccTscale (h : Hdr) (x : Bool) (k : BitVec 5) (t : BitVec 2)
  /-- Adds an outer product u·wv to the accumulator. (R203) -/
  | taccTbias (h : Hdr) (k : BitVec 5) (t : BitVec 2)
  /-- Quantises a 32-lane block to PI8 with an S20 scale. (R63) -/
  | qntPi8 (h : Hdr) (d : BitVec 6) (a : BitVec 6)
  /-- Quantises a 32-lane block to e2m1 with an e8m0 scale. (R64) -/
  | qntE2m1 (h : Hdr) (d : BitVec 6) (a : BitVec 6)
  /-- Creates a child node from a launch record. (R204) -/
  | taskSpawn (h : Hdr) (e : BitVec 5) (k : BitVec 5)
  /-- Creates a root node from a launch record. (R204) -/
  | taskLaunch (h : Hdr) (e : BitVec 5) (k : BitVec 5)
  /-- Reserves an arena for the issuing node. (R206) -/
  | arenaNew (h : Hdr) (e : BitVec 5) (k : BitVec 5)
  /-- Kills the node's arena. (R207) -/
  | arenaEnd (h : Hdr) (k : BitVec 5)
  /-- Writes a guard telling whether a tagged pointer is live. (R208) -/
  | arenaChk (h : Hdr) (m : BitVec 3) (k : BitVec 5)
  /-- Defines a basin from a definition record. (R210) -/
  | bsnDef (h : Hdr) (k : BitVec 5)
  /-- Starts moving a basin onto a new bank set. (R211) -/
  | bsnResize (h : Hdr) (b : BitVec 4) (k : BitVec 5)
  /-- Starts writing back and releasing a basin. (R212) -/
  | bsnDrop (h : Hdr) (b : BitVec 4) (k : BitVec 5)
  /-- Writes a basin's status and bank mask to scalars. (R213) -/
  | bsnStat (h : Hdr) (e : BitVec 5) (k : BitVec 5)
  /-- Starts retargeting a VA range to a new basin. (R214) -/
  | pgBsn (h : Hdr) (b : BitVec 4) (i : BitVec 4) (k : BitVec 5)
  /-- Drops the tenant's translations of a range. (R222) -/
  | tsysInvVa (h : Hdr) (k : BitVec 5)
  /-- Drops every translation of the tenant. (R222) -/
  | tsysInvAll (h : Hdr)
  /-- Gives walk entries to lanes or delivers a pending event. (R216) -/
  | tsysWqpop (h : Hdr) (m : BitVec 3) (d : BitVec 6)
  /-- Installs leaves for walk entries and resumes waiting accesses. (R217) -/
  | tsysWqdone (h : Hdr) (d : BitVec 6)
  /-- Loads a 64-bit word by physical address from the tenant's frames. (R219) -/
  | tsysPtld (h : Hdr) (a : BitVec 6) (d : BitVec 6)
  /-- Takes a frame or frame group within the allotment. (R220) -/
  | tsysFrmTake (h : Hdr) (z : Bool) (m : BitVec 3) (d : BitVec 6)
  /-- Returns a frame or group to the free list. (R220) -/
  | tsysFrmGive (h : Hdr) (z : Bool) (a : BitVec 6)
  /-- Zeroes whole frames in DRAM. (R221) -/
  | tsysMzero (h : Hdr) (z : Bool) (a : BitVec 6)
  /-- Copies whole frames in DRAM. (R221) -/
  | tsysMcopy (h : Hdr) (z : Bool) (a : BitVec 6) (d : BitVec 6)
  /-- Reads a 64-bit meter into a scalar pair. (R223) -/
  | tsysMeterRd (h : Hdr) (e : BitVec 5) (k : BitVec 5)
  /-- Ends the save handler and frees the saved crew's resources. (R224) -/
  | tsysPsaveDone (h : Hdr)
  /-- Posts a fault cause to every group waiting on a walk entry. (R218) -/
  | tsysFaultPost (h : Hdr) (d : BitVec 6)
  /-- A device load returns data from a valid lease copy. (R249) -/
  | performLoad (a : Nat)
  /-- A device load renews or refills a lease copy at the home. (R249) -/
  | renew (a : Nat)
  /-- A stream load performs at the home without leaving a lease copy. (R249) -/
  | streamLoad (a : Nat)
  /-- One line renewal of mem.pref fills or extends a lease copy. (R249) -/
  | prefetch (a : Nat)
  /-- A load, store or atomic performs at a base-die home. (R249) -/
  | baseDieAccess (a : Nat)
  /-- A device store performs at its unclaimed home with a new wts. (R249) -/
  | performStore (a : Nat)
  /-- An atomic word's lanes on one address perform in one step. (R249) -/
  | performAtomic (a : Nat) (excl : Bool)
  /-- The exclusive owner returns a line to its home. (R249) -/
  | recall (k : HomeKey)
  /-- A claimed engine word's destinations land and its claims release. (R249) -/
  | land (x : Nat)
  /-- A scratchpad access reads or writes once no scoreboard entry overlaps. (R249) -/
  | spAccess (a : Nat)
  /-- A host store enters the group's posted-write queue. (R249) -/
  | enqueueHost (a : Nat)
  /-- A peer store or atomic enters the group's peer FIFO. (R249) -/
  | enqueuePeer (a : Nat)
  /-- The oldest posted host write performs in host memory. (R249) -/
  | drainHost (grp : Nat)
  /-- The oldest peer FIFO entry performs at the peer. (R249) -/
  | drainPeer (grp : Nat) (peer : Nat)
  /-- A host load takes its value from host memory. (R249) -/
  | readHost (a : Nat)
  /-- A peer load takes its value at the peer home. (R249) -/
  | readPeer (a : Nat)
  /-- A write satisfying a monitor readies its blocked set. (R249) -/
  | wake (m : Nat)
  /-- A completion signal becomes observable once earlier stores and copies are done. (R256) -/
  | signal (sg : Nat)
  /-- A non-blocked group's ltime advances every 64 cycles. (R247) -/
  | tick (grp : Nat)
  /-- Rebuilds a home entry after an uncorrectable error. (R259) -/
  | recover (k : HomeKey)
  /-- A load's values reach its registers and ld falls. (R156) -/
  | loadWriteback (wd : Nat)
  /-- Flash data arrives for stalled lanes, readying them. (R153) -/
  | flashData (a : Nat)
  /-- A host or peer completion error pends REMOTE_ERROR for the group. (R154) -/
  | remoteErrorCompletion (a : Nat)
  /-- Delivers the lowest pending cause at a ready chain boundary. (R288) -/
  | pendingCauseDelivery (core : Nat)
  /-- An ATS translation completion fills or refuses a host TC entry. (R276) -/
  | atsCompletion (rq : Nat) (ans : AtsAnswer)
  /-- A page request response repeats ATS or faults ATS_DENIED. (R276) -/
  | priResponse (rq : Nat) (ok : Bool)
  /-- A host invalidation request drops host entries and stales walks. (R280) -/
  | atsInvalidation (vf : Nat) (page : Nat) (count : Nat)
  /-- Sends Invalidation Completion once affected reads and writes are done. (R280) -/
  | invalidationCompletion (iv : Nat)
  /-- A 4-cycle stroke step computes four rows; the last completes the stroke. (R199) -/
  | strokeStep (x : Nat)
  /-- A path-held monitor reloads its word every 4,096 cycles. (R170) -/
  | monitorPoll (m : Nat)
  /-- A path reaching 1,024 chains becomes the youngest deferred set. (R38) -/
  | rotation (grp : Nat)
  /-- A reform bin is drawn into a new group after 256 cycles or on a free slot. (R41) -/
  | binDraw (crew : Nat) (bin : Nat)
  /-- Places a whole crew on an eligible core set in one step. (R324) -/
  | placement (tn : Nat) (die : Nat)
  /-- A die takes crews from another die's pool of the tenant. (R325) -/
  | steal (tn : Nat) (die : Nat)
  /-- A first-offered crew waiting 1 ms reserves its quads. (R321) -/
  | poolAgeLimit (tn : Nat) (die : Nat)
  /-- A long-blocked group's slot is written out to free it. (R334) -/
  | swapOut (grp : Nat)
  /-- A swapped group returns to a slot when its set becomes ready. (R334) -/
  | swapIn (grp : Nat)
  /-- A node retires: its arena dies and its completion future fills. (R204) -/
  | nodeRetire (nd : Nat)
  /-- An ended arena's death takes effect after in-flight accesses settle. (R328) -/
  | arenaDeath (tn : Nat) (slot : Nat)
  /-- Moves, drops or writes back one line of a resizing basin. (R211) -/
  | resizeLineMove (k : HomeKey)
  /-- A basin drop finishes writing back and releases its banks. (R212) -/
  | bsnDropComplete (x : Nat)
  /-- A retargeting finishes its write-backs and releases held accesses. (R214) -/
  | pgBsnComplete (x : Nat)
  /-- An in-DRAM zero or copy finishes and st falls. (R221) -/
  | frameWorkComplete (x : Nat)
  /-- The last line of a basin prefetch is in place. (R168) -/
  | bprefComplete (x : Nat)
  /-- A service group whose lanes all ended restarts 1,024 cycles later. (R269) -/
  | serviceRestart (grp : Nat)
  /-- The service group restarts as the save handler with PREEMPT. (R292) -/
  | saveHandlerEntry (crew : Nat)
  /-- The save deadline passes and hardware force-seals the crew. (R294) -/
  | saveDeadline (crew : Nat)
  /-- A firmware time quantum ends and pre-empts crews. (R335) -/
  | timeQuantum (tn : Nat) (crews : List Nat)
  /-- Creates a partition from a description and answers READY. (R310) -/
  | create (d : PartDesc)
  /-- Stops, revokes, records and zeroes a partition. (R311) -/
  | teardown (tn : Nat)
  /-- A torn-down quad returns to firmware once zeroed. (R311) -/
  | quadReturn (tn : Nat) (quad : Nat)
  /-- A torn-down bank returns once its share is zeroed. (R311) -/
  | bankReturn (tn : Nat) (bank : Nat)
  /-- A torn-down frame returns to the zeroed pool. (R311) -/
  | frameReturn (tn : Nat) (frame : Nat)
  /-- Stops issue of named crews within 125 CCLK. (R291) -/
  | preempt (tn : Nat) (crews : List Nat)
  /-- Firmware puts a partition into the halt state. (R281) -/
  | halt (tn : Nat) (code : BitVec 13)
  /-- Releases a halted partition's frozen state to the host debugger. (R283) -/
  | inspect (tn : Nat)
  /-- Adds a peer grant table entry. (R307) -/
  | grant (gr : Grant)
  /-- Withdraws a peer grant. (R307) -/
  | revoke (gr : Grant)
  /-- Withdrawal completes after requests served under the grant perform. (R307) -/
  | grantWithdrawn (gr : Grant)
  /-- Sets the module power cap. (R314) -/
  | setcap (watts : Nat)
  /-- Emits an interval usage record at the end of each record interval. (R312) -/
  | usageInterval (tn : Nat)
  /-- Held usage records are written once the host buffer has room. (R312) -/
  | recordRelease (tn : Nat)
  /-- A host read at a BAR2 offset performs at the tenant VA. (R305) -/
  | hostWindowRead (vf : Nat) (off : Nat) (len : Nat)
  /-- A host write at a BAR2 offset performs per line at the tenant VA. (R305) -/
  | hostWindowWrite (vf : Nat) (off : Nat) (data : List Byte)
  /-- An arriving peer request is served under a grant or refused. (R307) -/
  | peerRequest (rq : PeerReq)
  /-- A failed MPL link moves its traffic to another port. (R306) -/
  | mplLinkFail (port : Nat)
  /-- With no route, outstanding peer requests complete with REMOTE_ERROR within 10 µs. (R306) -/
  | peerRouteTimeout (peer : Nat)
  /-- A TLP failing its integrity check is dropped and its stream goes insecure. (R304) -/
  | ideIntegrityFail (fn : Nat)
  /-- Answers a nonce with a signed attestation. (R318) -/
  | attestation (fn : Nat) (nonce : BitVec 256)
  /-- Boot ROM verifies and starts the firmware image. (R317) -/
  | powerOn (boot : Boot)
  /-- Out-of-range input or 115 °C halts every partition and powers off. (R315) -/
  | emergencyHalt (why : Limit)
  /-- Coolant or junction limits insert issue stalls on every core. (R315) -/
  | thermalThrottle (why : Limit)
  /-- A correctable error is corrected and counted. (R299) -/
  | correctedError (at_ : Place)
  /-- An uncorrectable data error makes the data poison. (R299) -/
  | uncorrectedError (at_ : Place)
  /-- Ends a crew on uncorrectable group state and records the cause. (R300) -/
  | crewFailure (crew : Nat)
  /-- Retires a failing core, ending its quad's crews and using a spare. (R301) -/
  | coreRetire (core : Nat)
  /-- Retires a failing bank into a spare or out of its basin. (R236) -/
  | bankRetire (bank : Nat)
  /-- Writing sr.fflags sets or clears each flag. (R55) -/
  | fflagsWrite (grp : Nat)
  /-- Writing sr.ptroot affects later walks and drops nothing. (R265) -/
  | ptrootWrite (grp : Nat)
  /-- Writing sr.awbase or sr.awsize is ignored if arenas live or overlap. (R265) -/
  | awindowWrite (grp : Nat)
  /-- Writing sr.thrash sets the detector; zero periods read back as 1. (R244) -/
  | thrashWrite (grp : Nat)
  /-- Writes a register's writable fields, taking effect by the next chain. (R146) -/
  | csrWrite (grp : Nat)
  /-- Issue of a word with an undefined major, function, reserved field or illegal register field faults with 0x01 ILLEGAL_ENC. (R88) -/
  | illegalEnc (core : Nat)
  /-- Issue reaching a PC that names a literal word faults with 0x02 ILLEGAL_PACKET. (R71) -/
  | illegalPacket (core : Nat)
  /-- A group fetches the packet at its current PC, translating each page and checking execute permission, and faults or makes a walk entry before any word issues. (R72) -/
  | instructionFetch (core : Nat)
  /-- A tacc.tzero, tacc.tld, tacc.tscale or tacc.tbias completes, lowering tl and releasing later engine words ordered behind it. (R195) -/
  | taccComplete (x : Nat)
  /-- THROTTLE ms after a page was throttled, its throttle ends, so installs no longer carry TP and may name a new frame. (R245) -/
  | thrashThrottleEnd (tn : Nat) (page : Nat)
  /-- A flit lost on an MPL link is retried on that link. (R306) -/
  | lostFlitRetry (port : Nat)
  deriving DecidableEq, Repr

end Sys2Proof
end

