-- ==== Sys2Proof/WellFormed.lean ====
section
/-!
DEFINITION. Well-formedness of an instruction: the checks of its fields whose failure is 0x01 ILLEGAL_ENC (R49, R82,
R84, R85, R88, R150, R187). A field that names a format of a stroke is not checked here (R87).
-/

namespace Sys2Proof

/-- A field that names a register pair is even (R84). -/
def even {n : Nat} (x : BitVec n) : Bool := x.toNat % 2 == 0

/-- A field that names a register quad is a multiple of 4 (R84). -/
def quad {n : Nat} (x : BitVec n) : Bool := x.toNat % 4 == 0

/-- A vector register operand is not the literal code 63 (R83). -/
def VSrc.notCode : VSrc → Bool
  | .reg r => r != 63
  | .lit _ => true

/-- A scalar register operand of `salu` is not the literal code 31 (R83). -/
def SSrc.notCode : SSrc → Bool
  | .reg r => r != 31
  | .lit _ => true

/-- A pair operand is an even register or a literal (R127). -/
def VSrc.even : VSrc → Bool
  | .reg r => Sys2Proof.even r
  | .lit _ => true

/-- A scalar pair operand is an even register or a literal (R142). -/
def SSrc.even : SSrc → Bool
  | .reg r => Sys2Proof.even r
  | .lit _ => true

/-- The CSR number that A and B form (R85). -/
def csrNumber (a b : BitVec 6) : BitVec 12 := a ++ b

/-- The CSR numbers readable in every mode (R85, R147). -/
def csrUser (n : BitVec 12) : Bool :=
  let x := n.toNat
  x ≤ 0x00D || (0x010 ≤ x && x ≤ 0x012) || (0x020 ≤ x && x ≤ 0x026) || x == 0x030 || x == 0x031

/-- The CSR numbers reached in T1 and T2 only (R85). -/
def csrTenant (n : BitVec 12) : Bool :=
  let x := n.toNat
  (0x040 ≤ x && x ≤ 0x05B) || (0x060 ≤ x && x ≤ 0x064)

/-- The CSR numbers that exist; every other number is 0x01 ILLEGAL_ENC (R85). -/
def csrKnown (n : BitVec 12) : Bool := csrUser n || csrTenant n

/-- The field checks of an instruction word. A step of the machine has no field to check. -/
def Instr.wf : Instr → Bool
  | .sysNop .. => true
  | .sysExit .. => true
  | .sysYield .. => true
  | .sysTrap .. => true
  | .sysUret .. => true
  | .sysTret .. => true
  | .sysBrk .. => true
  | .sysHalt .. => true
  | .bra .. => true
  | .braLk .. => true
  | .braUlk .. => true
  | .braUnf .. => true
  | .ctlJump _ a _ => even a
  | .ctlCall _ d a => even a && even d
  | .ctlCalli _ d _ => even d
  | .ctlRet _ a => even a
  | .ctlRep .. => true
  | .ctlReform .. => true
  | .wait .. => true
  | .viaAdd _ _ _ b => b.notCode
  | .viaSub _ _ _ b => b.notCode
  | .viaMul _ _ _ b => b.notCode
  | .viaMulh _ _ _ b => b.notCode
  | .viaMulhn _ _ _ b => b.notCode
  | .viaMad _ _ _ b => b.notCode
  | .viaMin _ _ _ b => b.notCode
  | .viaMax _ _ _ b => b.notCode
  | .viaMinn _ _ _ b => b.notCode
  | .viaMaxn _ _ _ b => b.notCode
  | .viaAbs .. => true
  | .viaNeg .. => true
  | .viaAddc _ d a b => b.notCode && even d && even a && b.even
  | .viaSubc _ d a b => b.notCode && even d && even a && b.even
  | .viaClz .. => true
  | .viaPopc .. => true
  | .vilAnd _ _ _ b => b.notCode
  | .vilOr _ _ _ b => b.notCode
  | .vilXor _ _ _ b => b.notCode
  | .vilAndn _ _ _ b => b.notCode
  | .vilNot .. => true
  | .vilShl _ _ _ b => b.notCode
  | .vilShr _ _ _ b => b.notCode
  | .vilSra _ _ _ b => b.notCode
  | .vilRotl _ _ _ b => b.notCode
  | .vilBrev .. => true
  | .vilBfx _ _ _ b => b.notCode
  | .vilBfxn _ _ _ b => b.notCode
  | .vilBfi _ _ _ b => b.notCode
  | .vilMov .. => true
  | .vilBsel _ _ _ b => b.notCode
  | .vicEq _ k n _ _ => decide (k.toNat ≤ 2) && decide (n ≠ 0)
  | .vicNe _ k n _ _ => decide (k.toNat ≤ 2) && decide (n ≠ 0)
  | .vicLt _ k n _ _ => decide (k.toNat ≤ 2) && decide (n ≠ 0)
  | .vicLe _ k n _ _ => decide (k.toNat ≤ 2) && decide (n ≠ 0)
  | .vicGt _ k n _ _ => decide (k.toNat ≤ 2) && decide (n ≠ 0)
  | .vicGe _ k n _ _ => decide (k.toNat ≤ 2) && decide (n ≠ 0)
  | .vicLtn _ k n _ _ => decide (k.toNat ≤ 2) && decide (n ≠ 0)
  | .vicLen _ k n _ _ => decide (k.toNat ≤ 2) && decide (n ≠ 0)
  | .vicGtn _ k n _ _ => decide (k.toNat ≤ 2) && decide (n ≠ 0)
  | .vicGen _ k n _ _ => decide (k.toNat ≤ 2) && decide (n ≠ 0)
  | .vicEq64 _ k n a b => even a && even b && decide (k.toNat ≤ 2) && decide (n ≠ 0)
  | .vicLt64 _ k n a b => even a && even b && decide (k.toNat ≤ 2) && decide (n ≠ 0)
  | .vicLtn64 _ k n a b => even a && even b && decide (k.toNat ≤ 2) && decide (n ≠ 0)
  | .addi .. => true
  | .andi .. => true
  | .ori .. => true
  | .xori .. => true
  | .shli .. => true
  | .shri .. => true
  | .srai .. => true
  | .muli .. => true
  | .movi .. => true
  | .movhi .. => true
  | .vfFadd _ _ _ b => b.notCode
  | .vfFsub _ _ _ b => b.notCode
  | .vfFmul _ _ _ b => b.notCode
  | .vfFfma _ _ _ b => b.notCode
  | .vfFfms _ _ _ b => b.notCode
  | .vfFmin _ _ _ b => b.notCode
  | .vfFmax _ _ _ b => b.notCode
  | .vfFabs .. => true
  | .vfFneg .. => true
  | .vfFcopys _ _ _ b => b.notCode
  | .vfFfloor .. => true
  | .vfFceil .. => true
  | .vfFrint .. => true
  | .vfFtrunc .. => true
  | .vfFsat .. => true
  | .vfFscale _ _ _ b => b.notCode
  | .vfcFeq _ k n _ _ => decide (k.toNat ≤ 2) && decide (n ≠ 0)
  | .vfcFne _ k n _ _ => decide (k.toNat ≤ 2) && decide (n ≠ 0)
  | .vfcFlt _ k n _ _ => decide (k.toNat ≤ 2) && decide (n ≠ 0)
  | .vfcFle _ k n _ _ => decide (k.toNat ≤ 2) && decide (n ≠ 0)
  | .vfcFgt _ k n _ _ => decide (k.toNat ≤ 2) && decide (n ≠ 0)
  | .vfcFge _ k n _ _ => decide (k.toNat ≤ 2) && decide (n ≠ 0)
  | .vfcFun _ k n _ _ => decide (k.toNat ≤ 2) && decide (n ≠ 0)
  | .vfcFord _ k n _ _ => decide (k.toNat ≤ 2) && decide (n ≠ 0)
  | .vfcFclass _ k n _ _ => decide (k.toNat ≤ 2) && decide (n ≠ 0)
  | .vhHadd _ _ _ _ b => b.notCode
  | .vhHsub _ _ _ _ b => b.notCode
  | .vhHmul _ _ _ _ b => b.notCode
  | .vhHfma _ _ _ _ b => b.notCode
  | .vhHmin _ _ _ _ b => b.notCode
  | .vhHmax _ _ _ _ b => b.notCode
  | .vhHneg .. => true
  | .vhHabs .. => true
  | .sfuFrcp .. => true
  | .sfuFrsq .. => true
  | .sfuFsqrt .. => true
  | .sfuFexp2 .. => true
  | .sfuFlog2 .. => true
  | .sfuFsin .. => true
  | .sfuFcos .. => true
  | .sfuFtanh .. => true
  | .sfuFdiv .. => true
  | .cvtF32I32 .. => true
  | .cvtF32N32 .. => true
  | .cvtI32F32 .. => true
  | .cvtN32F32 .. => true
  | .cvtF32F16 .. => true
  | .cvtF16F32 .. => true
  | .cvtF32Bf16 .. => true
  | .cvtBf16F32 .. => true
  | .cvtF32E4m3 .. => true
  | .cvtE4m3F32 .. => true
  | .cvtF32E5m2 .. => true
  | .cvtE5m2F32 .. => true
  | .cvtF32E2m1 .. => true
  | .cvtE2m1F32 .. => true
  | .cvtF32S20 .. => true
  | .cvtS20F32 .. => true
  | .lanePick .. => true
  | .laneBack .. => true
  | .laneFwd .. => true
  | .laneFlip .. => true
  | .laneAny .. => true
  | .laneEvery .. => true
  | .laneMask .. => true
  | .laneSum .. => true
  | .laneLeast .. => true
  | .laneMost .. => true
  | .laneFsum .. => true
  | .laneFrom .. => true
  | .saluSadd _ _ _ b => b.notCode
  | .saluSsub _ _ _ b => b.notCode
  | .saluSmul _ _ _ b => b.notCode
  | .saluSand _ _ _ b => b.notCode
  | .saluSor _ _ _ b => b.notCode
  | .saluSxor _ _ _ b => b.notCode
  | .saluSshl _ _ _ b => b.notCode
  | .saluSshr _ _ _ b => b.notCode
  | .saluSsra _ _ _ b => b.notCode
  | .saluSmin _ _ _ b => b.notCode
  | .saluSmax _ _ _ b => b.notCode
  | .saluSmov .. => true
  | .saluSaddc _ d a b => b.notCode && even d && even a && b.even
  | .saluScmp _ k n _ b _ => b.notCode && decide (k.toNat ≤ 2) && decide (n ≠ 0)
  | .smovS2v _ _ a => decide (a.toNat < 32)
  | .smovV2s _ d _ _ => decide (d.toNat < 32)
  | .grdGand _ d _ _ => decide (d ≠ 0)
  | .grdGor _ d _ _ => decide (d ≠ 0)
  | .grdGxor _ d _ _ => decide (d ≠ 0)
  | .grdGnot _ d _ => decide (d ≠ 0)
  | .grdGmov _ d _ => decide (d ≠ 0)
  | .grdGset _ d _ _ => decide (d ≠ 0)
  | .grdGtov .. => true
  | .csrRdsr _ _ a b => csrKnown (csrNumber a b)
  | .csrWrsr _ _ a b => csrKnown (csrNumber a b)
  | .csrRdsrs _ d a b => decide (d.toNat < 32) && csrKnown (csrNumber a b)
  | .csrWrsrs _ d a b => decide (d.toNat < 32) && csrKnown (csrNumber a b)
  | .ldB8 _ _ _ a _ => even a
  | .ldB8s _ _ _ a _ => even a
  | .ldB16 _ _ _ a _ => even a
  | .ldB16s _ _ _ a _ => even a
  | .ldB32 _ _ _ a _ => even a
  | .ldB64 _ _ d a _ => even a && even d
  | .ldB128 _ _ d a _ => even a && quad d
  | .stB8 _ _ a _ => even a
  | .stB16 _ _ a _ => even a
  | .stB32 _ _ a _ => even a
  | .stB64 _ d a _ => even a && even d
  | .stB128 _ d a _ => even a && quad d
  | .ldsB8 .. => true
  | .ldsB8s .. => true
  | .ldsB16 .. => true
  | .ldsB16s .. => true
  | .ldsB32 .. => true
  | .ldsB64 _ d _ _ => even d
  | .ldsB128 _ d _ _ => quad d
  | .stsB8 .. => true
  | .stsB16 .. => true
  | .stsB32 .. => true
  | .stsB64 _ d _ _ => even d
  | .stsB128 _ d _ _ => quad d
  | .ldp _ _ _ a _ => even a
  | .ldpF32 _ _ _ a _ => even a
  | .updAdd _ _ a _ => even a
  | .updFadd _ _ a _ => even a
  | .updMin _ _ a _ => even a
  | .updMax _ _ a _ => even a
  | .updMinn _ _ a _ => even a
  | .updMaxn _ _ a _ => even a
  | .updAnd _ _ a _ => even a
  | .updOr _ _ a _ => even a
  | .updXor _ _ a _ => even a
  | .updSwap _ _ a _ => even a
  | .updCas _ d a _ => even a && even d
  | .updAdd64 _ d a _ => even a && even d
  | .updSwap64 _ d a _ => even a && even d
  | .updCas64 _ d a _ => even a && quad d
  | .updcAdd _ _ a _ => even a
  | .updcFadd _ _ a _ => even a
  | .updcMin _ _ a _ => even a
  | .updcMax _ _ a _ => even a
  | .updcMinn _ _ a _ => even a
  | .updcMaxn _ _ a _ => even a
  | .updcAnd _ _ a _ => even a
  | .updcOr _ _ a _ => even a
  | .updcXor _ _ a _ => even a
  | .updcSwap _ _ a _ => even a
  | .updcCas _ d a _ => even a && even d
  | .updcAdd64 _ d a _ => even a && even d
  | .updcSwap64 _ d a _ => even a && even d
  | .updcCas64 _ d a _ => even a && quad d
  | .updnAdd _ _ a _ => even a
  | .updnFadd _ _ a _ => even a
  | .updnMin _ _ a _ => even a
  | .updnMax _ _ a _ => even a
  | .updnMinn _ _ a _ => even a
  | .updnMaxn _ _ a _ => even a
  | .updnAnd _ _ a _ => even a
  | .updnOr _ _ a _ => even a
  | .updnXor _ _ a _ => even a
  | .memFenceHost .. => true
  | .memFencePeer .. => true
  | .memFenceSys .. => true
  | .memPref _ a _ => even a
  | .memBpref _ d _ => even d && decide (d.toNat ≤ 28)
  | .monWaitcEq _ _ a _ => even a
  | .monWaitcNe _ _ a _ => even a
  | .monWaitcLt _ _ a _ => even a
  | .monWaitcGe _ _ a _ => even a
  | .monWaitcLtn _ _ a _ => even a
  | .monWaitcGen _ _ a _ => even a
  | .monWaitcChg _ a _ => even a
  | .barInit _ k _ => decide (k ≠ 0)
  | .barInitX _ k _ => decide (k ≠ 0)
  | .barArr .. => true
  | .barDrop .. => true
  | .barWait .. => true
  | .barTest _ m _ => decide (m ≠ 0)
  | .barInval _ m _ => decide (m ≠ 0)
  | .barArrw .. => true
  | .musSet _ k _ => decide (k ≠ 0)
  | .musClr .. => true
  | .ringInit _ d _ => decide (1 ≤ d.toNat) && decide (d.toNat ≤ 8)
  | .ringAcq .. => true
  | .ringRel .. => true
  | .ringTake .. => true
  | .ringFree .. => true
  | .futFinit _ a _ => even a
  | .futFput _ d a _ => even a && even d
  | .futFget _ d a _ => even a && even d
  | .futFpoll _ d a _ => even a && decide (d ≠ 0)
  | .cpyMm _ z d a _ => decide (z.toNat ≤ 2) && even d && even a
  | .cpyMs _ z d _ _ => decide (z.toNat ≤ 2) && even d
  | .cpySm _ z _ a _ => decide (z.toNat ≤ 2) && even a
  | .cpySs _ z _ _ _ => decide (z.toNat ≤ 2)
  | .tcpySp _ r q _ n => (r || q == 0) && decide (n.toNat ≤ 24)
  | .tcpyOa _ r q _ n _ => (r || q == 0) && decide (n.toNat ≤ 24)
  | .tcpyWb _ r q _ n _ => (r || q == 0) && decide (n.toNat ≤ 24)
  | .tcpySt _ r q _ n => (r || q == 0) && decide (n.toNat ≤ 24)
  | .tcpyGath _ r q _ n => (r || q == 0) && decide (n.toNat ≤ 24)
  | .tcpyScat _ r q _ n => (r || q == 0) && decide (n.toNat ≤ 24)
  | .tcpyZero _ r q n => (r || q == 0) && decide (n.toNat ≤ 24)
  | .seal _ m k => even k && decide (k.toNat ≤ 28) && decide (m ≠ 0)
  | .unseal _ k => even k && decide (k.toNat ≤ 28)
  | .mma _ x y _ _ _ m b _ => (y || m == 0) && (x || b == 0)
  | .mmaz _ x y _ _ _ m b _ => (y || m == 0) && (x || b == 0)
  | .mmag _ x y _ _ _ m b _ _ => (y || m == 0) && (x || b == 0)
  | .mmagz _ x y _ _ _ m b _ _ => (y || m == 0) && (x || b == 0)
  | .taccTzero .. => true
  | .taccTstSp _ _ n _ => decide (n.toNat ≤ 24)
  | .taccTstMem _ _ n _ => decide (n.toNat ≤ 24)
  | .taccTld _ _ n _ => decide (n.toNat ≤ 24)
  | .taccTscale .. => true
  | .taccTbias _ k _ => decide (k.toNat ≤ 30)
  | .qntPi8 _ d _ => decide (d ≠ 63)
  | .qntE2m1 _ d _ => decide (d ≠ 63)
  | .taskSpawn _ e k => even e && even k
  | .taskLaunch _ e k => even e && even k
  | .arenaNew _ e _ => even e && decide (e.toNat ≤ 28)
  | .arenaEnd .. => true
  | .arenaChk _ m k => decide (m ≠ 0) && even k
  | .bsnDef _ k => even k
  | .bsnResize _ _ k => even k
  | .bsnDrop .. => true
  | .bsnStat _ e _ => decide (e.toNat ≤ 29)
  | .pgBsn _ _ _ k => even k && decide (k.toNat ≤ 28)
  | .tsysInvVa _ k => even k && decide (k.toNat ≤ 28)
  | .tsysInvAll .. => true
  | .tsysWqpop _ m d => decide (m ≠ 0) && quad d
  | .tsysWqdone _ d => quad d
  | .tsysPtld _ a d => even d && even a
  | .tsysFrmTake _ _ m d => decide (m ≠ 0) && even d
  | .tsysFrmGive _ _ a => even a
  | .tsysMzero _ _ a => even a
  | .tsysMcopy _ _ a d => even d && even a
  | .tsysMeterRd _ e _ => even e
  | .tsysPsaveDone .. => true
  | .tsysFaultPost _ d => quad d
  | .performLoad .. => true
  | .renew .. => true
  | .streamLoad .. => true
  | .prefetch .. => true
  | .baseDieAccess .. => true
  | .performStore .. => true
  | .performAtomic .. => true
  | .recall .. => true
  | .land .. => true
  | .spAccess .. => true
  | .enqueueHost .. => true
  | .enqueuePeer .. => true
  | .drainHost .. => true
  | .drainPeer .. => true
  | .readHost .. => true
  | .readPeer .. => true
  | .wake .. => true
  | .signal .. => true
  | .tick .. => true
  | .recover .. => true
  | .loadWriteback .. => true
  | .flashData .. => true
  | .remoteErrorCompletion .. => true
  | .pendingCauseDelivery .. => true
  | .atsCompletion .. => true
  | .priResponse .. => true
  | .atsInvalidation .. => true
  | .invalidationCompletion .. => true
  | .strokeStep .. => true
  | .monitorPoll .. => true
  | .rotation .. => true
  | .binDraw .. => true
  | .placement .. => true
  | .steal .. => true
  | .poolAgeLimit .. => true
  | .swapOut .. => true
  | .swapIn .. => true
  | .nodeRetire .. => true
  | .arenaDeath .. => true
  | .resizeLineMove .. => true
  | .bsnDropComplete .. => true
  | .pgBsnComplete .. => true
  | .frameWorkComplete .. => true
  | .bprefComplete .. => true
  | .serviceRestart .. => true
  | .saveHandlerEntry .. => true
  | .saveDeadline .. => true
  | .timeQuantum .. => true
  | .create .. => true
  | .teardown .. => true
  | .quadReturn .. => true
  | .bankReturn .. => true
  | .frameReturn .. => true
  | .preempt .. => true
  | .halt .. => true
  | .inspect .. => true
  | .grant .. => true
  | .revoke .. => true
  | .grantWithdrawn .. => true
  | .setcap .. => true
  | .usageInterval .. => true
  | .recordRelease .. => true
  | .hostWindowRead .. => true
  | .hostWindowWrite .. => true
  | .peerRequest .. => true
  | .mplLinkFail .. => true
  | .peerRouteTimeout .. => true
  | .ideIntegrityFail .. => true
  | .attestation .. => true
  | .powerOn .. => true
  | .emergencyHalt .. => true
  | .thermalThrottle .. => true
  | .correctedError .. => true
  | .uncorrectedError .. => true
  | .crewFailure .. => true
  | .coreRetire .. => true
  | .bankRetire .. => true
  | .fflagsWrite .. => true
  | .ptrootWrite .. => true
  | .awindowWrite .. => true
  | .thrashWrite .. => true
  | .csrWrite .. => true
  | .illegalEnc .. => true
  | .illegalPacket .. => true
  | .instructionFetch .. => true
  | .taccComplete .. => true
  | .thrashThrottleEnd .. => true
  | .lostFlitRetry .. => true

end Sys2Proof
end

