-- ==== Sys2Proof/Decode.lean ====
section
/-!
DEFINITION. Decoding and encoding of instruction words (R68 to R88). `decodeWord` is total on any word: it answers
the instruction, or `none` where the word faults with 0x01 ILLEGAL_ENC. `packetRoles` splits a packet into
instructions and literals (R71). `encode` is the converse, from the same formats.
The definitions that build a constructor beyond the runtime's 244 tags are marked noncomputable: compiled code cannot
hold so many tags, and the kernel evaluates them.
-/

namespace Sys2Proof

/-- Bits `lo + n - 1` down to `lo` of a word. -/
abbrev fld (w : Word) (lo n : Nat) : BitVec n := w.extractLsb' lo n

/-- Bit `i` of a word as a Bool. -/
def flag (w : Word) (i : Nat) : Bool := w.getLsbD i

/-- The header of a word (R68). -/
def hdr (w : Word) : Hdr := ⟨flag w 31, fld w 28 3⟩

/-- The B operand of a literal-capable vector word: B = 63 marks the literal (R83). -/
def vsrc (w lit : Word) : VSrc := if fld w 0 6 = 63 then .lit lit else .reg (fld w 0 6)

/-- The SB operand of `salu`: SB = 31 marks the literal (R83). -/
def ssrc (w lit : Word) : SSrc := if fld w 3 5 = 31 then .lit lit else .reg (fld w 3 5)

/-- The count of `ctl.rep`: A = 63 marks the literal; other values from 32 up are refused by `repFieldOk`. -/
def ssrcA (w lit : Word) : SSrc := if fld w 6 6 = 63 then .lit lit else .reg (fld w 6 5)

/-- A of `ctl.rep` names s0 to s31 or is the literal code 63 (R84). -/
def repFieldOk (w : Word) : Bool := fld w 22 6 != 2 || fld w 18 4 != 4 || fld w 11 1 == 0 || fld w 6 6 == 63

/-- Words of major 0x00, `sys` (R86). -/
def decodeSys (h : Hdr) (w : Word) : Option Instr :=
  if fld w 0 28 = 0 then some (.sysNop h)
  else if fld w 0 28 = 16384 then some (.sysExit h)
  else if fld w 0 28 = 32768 then some (.sysYield h)
  else if fld w 8 20 = 192 then some (.sysTrap h (fld w 0 8))
  else if fld w 0 28 = 65536 then some (.sysUret h)
  else if fld w 0 28 = 81920 then some (.sysTret h)
  else if fld w 14 14 = 6 then some (.sysBrk h (fld w 0 14))
  else if fld w 13 15 = 14 then some (.sysHalt h (fld w 0 13))
  else none

/-- Words of major 0x01, `bra` (R86). -/
def decodeBra (h : Hdr) (w : Word) : Option Instr :=
  if fld w 20 8 = 4 then some (.bra h (fld w 0 20))
  else if fld w 20 8 = 5 then some (.braLk h (fld w 0 20))
  else if fld w 20 8 = 6 then some (.braUlk h (fld w 0 20))
  else if fld w 20 8 = 7 then some (.braUnf h (fld w 0 20))
  else none

/-- Words of major 0x02, `ctl` (R86). -/
def decodeCtl (h : Hdr) (w : Word) (lit : Word) : Option Instr :=
  if fld w 12 16 = 2048 ∧ fld w 2 4 = 0 then some (.ctlJump h (fld w 6 6) (fld w 0 2))
  else if fld w 18 10 = 33 ∧ fld w 0 6 = 0 then some (.ctlCall h (fld w 12 6) (fld w 6 6))
  else if fld w 18 10 = 34 ∧ fld w 0 12 = 0 then some (.ctlCalli h (fld w 12 6) lit)
  else if fld w 12 16 = 2240 ∧ fld w 0 6 = 0 then some (.ctlRet h (fld w 6 6))
  else if fld w 12 16 = 2304 ∧ fld w 0 6 = 0 then some (.ctlRep h (ssrcA w lit))
  else if fld w 0 28 = 9699328 then some (.ctlReform h)
  else none

/-- Words of major 0x03, `wait` (R86). -/
def decodeWait (h : Hdr) (w : Word) : Option Instr :=
  if fld w 22 6 = 3 ∧ fld w 0 2 = 0 then some (.wait h (fld w 17 5) (fld w 12 5) (fld w 7 5) (fld w 2 5))
  else none

/-- Words of major 0x04, `via` (R86). -/
def decodeVia (h : Hdr) (w : Word) (lit : Word) : Option Instr :=
  if fld w 18 10 = 64 then some (.viaAdd h (fld w 12 6) (fld w 6 6) (vsrc w lit))
  else if fld w 18 10 = 65 then some (.viaSub h (fld w 12 6) (fld w 6 6) (vsrc w lit))
  else if fld w 18 10 = 66 then some (.viaMul h (fld w 12 6) (fld w 6 6) (vsrc w lit))
  else if fld w 18 10 = 67 then some (.viaMulh h (fld w 12 6) (fld w 6 6) (vsrc w lit))
  else if fld w 18 10 = 68 then some (.viaMulhn h (fld w 12 6) (fld w 6 6) (vsrc w lit))
  else if fld w 18 10 = 69 then some (.viaMad h (fld w 12 6) (fld w 6 6) (vsrc w lit))
  else if fld w 18 10 = 70 then some (.viaMin h (fld w 12 6) (fld w 6 6) (vsrc w lit))
  else if fld w 18 10 = 71 then some (.viaMax h (fld w 12 6) (fld w 6 6) (vsrc w lit))
  else if fld w 18 10 = 72 then some (.viaMinn h (fld w 12 6) (fld w 6 6) (vsrc w lit))
  else if fld w 18 10 = 73 then some (.viaMaxn h (fld w 12 6) (fld w 6 6) (vsrc w lit))
  else if fld w 18 10 = 74 ∧ fld w 0 6 = 0 then some (.viaAbs h (fld w 12 6) (fld w 6 6))
  else if fld w 18 10 = 75 ∧ fld w 0 6 = 0 then some (.viaNeg h (fld w 12 6) (fld w 6 6))
  else if fld w 18 10 = 76 then some (.viaAddc h (fld w 12 6) (fld w 6 6) (vsrc w lit))
  else if fld w 18 10 = 77 then some (.viaSubc h (fld w 12 6) (fld w 6 6) (vsrc w lit))
  else if fld w 18 10 = 78 ∧ fld w 0 6 = 0 then some (.viaClz h (fld w 12 6) (fld w 6 6))
  else if fld w 18 10 = 79 ∧ fld w 0 6 = 0 then some (.viaPopc h (fld w 12 6) (fld w 6 6))
  else none

/-- Words of major 0x05, `vil` (R86). -/
def decodeVil (h : Hdr) (w : Word) (lit : Word) : Option Instr :=
  if fld w 18 10 = 80 then some (.vilAnd h (fld w 12 6) (fld w 6 6) (vsrc w lit))
  else if fld w 18 10 = 81 then some (.vilOr h (fld w 12 6) (fld w 6 6) (vsrc w lit))
  else if fld w 18 10 = 82 then some (.vilXor h (fld w 12 6) (fld w 6 6) (vsrc w lit))
  else if fld w 18 10 = 83 then some (.vilAndn h (fld w 12 6) (fld w 6 6) (vsrc w lit))
  else if fld w 18 10 = 84 ∧ fld w 0 6 = 0 then some (.vilNot h (fld w 12 6) (fld w 6 6))
  else if fld w 18 10 = 85 then some (.vilShl h (fld w 12 6) (fld w 6 6) (vsrc w lit))
  else if fld w 18 10 = 86 then some (.vilShr h (fld w 12 6) (fld w 6 6) (vsrc w lit))
  else if fld w 18 10 = 87 then some (.vilSra h (fld w 12 6) (fld w 6 6) (vsrc w lit))
  else if fld w 18 10 = 88 then some (.vilRotl h (fld w 12 6) (fld w 6 6) (vsrc w lit))
  else if fld w 18 10 = 89 ∧ fld w 0 6 = 0 then some (.vilBrev h (fld w 12 6) (fld w 6 6))
  else if fld w 18 10 = 90 then some (.vilBfx h (fld w 12 6) (fld w 6 6) (vsrc w lit))
  else if fld w 18 10 = 91 then some (.vilBfxn h (fld w 12 6) (fld w 6 6) (vsrc w lit))
  else if fld w 18 10 = 92 then some (.vilBfi h (fld w 12 6) (fld w 6 6) (vsrc w lit))
  else if fld w 18 10 = 93 ∧ fld w 0 6 = 0 then some (.vilMov h (fld w 12 6) (fld w 6 6))
  else if fld w 18 10 = 94 then some (.vilBsel h (fld w 12 6) (fld w 6 6) (vsrc w lit))
  else none

/-- Words of major 0x06, `vic` (R86). -/
def decodeVic (h : Hdr) (w : Word) : Option Instr :=
  if fld w 18 10 = 96 then some (.vicEq h (fld w 15 3) (fld w 12 3) (fld w 6 6) (fld w 0 6))
  else if fld w 18 10 = 97 then some (.vicNe h (fld w 15 3) (fld w 12 3) (fld w 6 6) (fld w 0 6))
  else if fld w 18 10 = 98 then some (.vicLt h (fld w 15 3) (fld w 12 3) (fld w 6 6) (fld w 0 6))
  else if fld w 18 10 = 99 then some (.vicLe h (fld w 15 3) (fld w 12 3) (fld w 6 6) (fld w 0 6))
  else if fld w 18 10 = 100 then some (.vicGt h (fld w 15 3) (fld w 12 3) (fld w 6 6) (fld w 0 6))
  else if fld w 18 10 = 101 then some (.vicGe h (fld w 15 3) (fld w 12 3) (fld w 6 6) (fld w 0 6))
  else if fld w 18 10 = 102 then some (.vicLtn h (fld w 15 3) (fld w 12 3) (fld w 6 6) (fld w 0 6))
  else if fld w 18 10 = 103 then some (.vicLen h (fld w 15 3) (fld w 12 3) (fld w 6 6) (fld w 0 6))
  else if fld w 18 10 = 104 then some (.vicGtn h (fld w 15 3) (fld w 12 3) (fld w 6 6) (fld w 0 6))
  else if fld w 18 10 = 105 then some (.vicGen h (fld w 15 3) (fld w 12 3) (fld w 6 6) (fld w 0 6))
  else if fld w 18 10 = 106 then some (.vicEq64 h (fld w 15 3) (fld w 12 3) (fld w 6 6) (fld w 0 6))
  else if fld w 18 10 = 107 then some (.vicLt64 h (fld w 15 3) (fld w 12 3) (fld w 6 6) (fld w 0 6))
  else if fld w 18 10 = 108 then some (.vicLtn64 h (fld w 15 3) (fld w 12 3) (fld w 6 6) (fld w 0 6))
  else none

/-- Words of major 0x07, `addi` (R86). -/
def decodeAddi (h : Hdr) (w : Word) : Option Instr :=
  if fld w 22 6 = 7 then some (.addi h (fld w 16 6) (fld w 10 6) (fld w 0 10))
  else none

/-- Words of major 0x08, `andi` (R86). -/
def decodeAndi (h : Hdr) (w : Word) : Option Instr :=
  if fld w 22 6 = 8 then some (.andi h (fld w 16 6) (fld w 10 6) (fld w 0 10))
  else none

/-- Words of major 0x09, `ori` (R86). -/
def decodeOri (h : Hdr) (w : Word) : Option Instr :=
  if fld w 22 6 = 9 then some (.ori h (fld w 16 6) (fld w 10 6) (fld w 0 10))
  else none

/-- Words of major 0x0A, `xori` (R86). -/
def decodeXori (h : Hdr) (w : Word) : Option Instr :=
  if fld w 22 6 = 10 then some (.xori h (fld w 16 6) (fld w 10 6) (fld w 0 10))
  else none

/-- Words of major 0x0B, `shli` (R86). -/
def decodeShli (h : Hdr) (w : Word) : Option Instr :=
  if fld w 22 6 = 11 ∧ fld w 5 5 = 0 then some (.shli h (fld w 16 6) (fld w 10 6) (fld w 0 5))
  else none

/-- Words of major 0x0C, `shri` (R86). -/
def decodeShri (h : Hdr) (w : Word) : Option Instr :=
  if fld w 22 6 = 12 ∧ fld w 5 5 = 0 then some (.shri h (fld w 16 6) (fld w 10 6) (fld w 0 5))
  else none

/-- Words of major 0x0D, `srai` (R86). -/
def decodeSrai (h : Hdr) (w : Word) : Option Instr :=
  if fld w 22 6 = 13 ∧ fld w 5 5 = 0 then some (.srai h (fld w 16 6) (fld w 10 6) (fld w 0 5))
  else none

/-- Words of major 0x0E, `muli` (R86). -/
def decodeMuli (h : Hdr) (w : Word) : Option Instr :=
  if fld w 22 6 = 14 then some (.muli h (fld w 16 6) (fld w 10 6) (fld w 0 10))
  else none

/-- Words of major 0x0F, `movi` (R86). -/
def decodeMovi (h : Hdr) (w : Word) : Option Instr :=
  if fld w 22 6 = 15 then some (.movi h (fld w 16 6) (fld w 0 16))
  else none

/-- Words of major 0x10, `movhi` (R86). -/
def decodeMovhi (h : Hdr) (w : Word) : Option Instr :=
  if fld w 22 6 = 16 then some (.movhi h (fld w 16 6) (fld w 0 16))
  else none

/-- Words of major 0x11, `vf` (R86). -/
def decodeVf (h : Hdr) (w : Word) (lit : Word) : Option Instr :=
  if fld w 18 10 = 272 then some (.vfFadd h (fld w 12 6) (fld w 6 6) (vsrc w lit))
  else if fld w 18 10 = 273 then some (.vfFsub h (fld w 12 6) (fld w 6 6) (vsrc w lit))
  else if fld w 18 10 = 274 then some (.vfFmul h (fld w 12 6) (fld w 6 6) (vsrc w lit))
  else if fld w 18 10 = 275 then some (.vfFfma h (fld w 12 6) (fld w 6 6) (vsrc w lit))
  else if fld w 18 10 = 276 then some (.vfFfms h (fld w 12 6) (fld w 6 6) (vsrc w lit))
  else if fld w 18 10 = 277 then some (.vfFmin h (fld w 12 6) (fld w 6 6) (vsrc w lit))
  else if fld w 18 10 = 278 then some (.vfFmax h (fld w 12 6) (fld w 6 6) (vsrc w lit))
  else if fld w 18 10 = 279 ∧ fld w 0 6 = 0 then some (.vfFabs h (fld w 12 6) (fld w 6 6))
  else if fld w 18 10 = 280 ∧ fld w 0 6 = 0 then some (.vfFneg h (fld w 12 6) (fld w 6 6))
  else if fld w 18 10 = 281 then some (.vfFcopys h (fld w 12 6) (fld w 6 6) (vsrc w lit))
  else if fld w 18 10 = 282 ∧ fld w 0 6 = 0 then some (.vfFfloor h (fld w 12 6) (fld w 6 6))
  else if fld w 18 10 = 283 ∧ fld w 0 6 = 0 then some (.vfFceil h (fld w 12 6) (fld w 6 6))
  else if fld w 18 10 = 284 ∧ fld w 0 6 = 0 then some (.vfFrint h (fld w 12 6) (fld w 6 6))
  else if fld w 18 10 = 285 ∧ fld w 0 6 = 0 then some (.vfFtrunc h (fld w 12 6) (fld w 6 6))
  else if fld w 18 10 = 286 ∧ fld w 0 6 = 0 then some (.vfFsat h (fld w 12 6) (fld w 6 6))
  else if fld w 18 10 = 287 then some (.vfFscale h (fld w 12 6) (fld w 6 6) (vsrc w lit))
  else none

/-- Words of major 0x12, `vfc` (R86). -/
def decodeVfc (h : Hdr) (w : Word) : Option Instr :=
  if fld w 18 10 = 288 then some (.vfcFeq h (fld w 15 3) (fld w 12 3) (fld w 6 6) (fld w 0 6))
  else if fld w 18 10 = 289 then some (.vfcFne h (fld w 15 3) (fld w 12 3) (fld w 6 6) (fld w 0 6))
  else if fld w 18 10 = 290 then some (.vfcFlt h (fld w 15 3) (fld w 12 3) (fld w 6 6) (fld w 0 6))
  else if fld w 18 10 = 291 then some (.vfcFle h (fld w 15 3) (fld w 12 3) (fld w 6 6) (fld w 0 6))
  else if fld w 18 10 = 292 then some (.vfcFgt h (fld w 15 3) (fld w 12 3) (fld w 6 6) (fld w 0 6))
  else if fld w 18 10 = 293 then some (.vfcFge h (fld w 15 3) (fld w 12 3) (fld w 6 6) (fld w 0 6))
  else if fld w 18 10 = 294 then some (.vfcFun h (fld w 15 3) (fld w 12 3) (fld w 6 6) (fld w 0 6))
  else if fld w 18 10 = 295 then some (.vfcFord h (fld w 15 3) (fld w 12 3) (fld w 6 6) (fld w 0 6))
  else if fld w 18 10 = 296 then some (.vfcFclass h (fld w 15 3) (fld w 12 3) (fld w 6 6) (fld w 0 6))
  else none

/-- Words of major 0x13, `vh` (R86). -/
def decodeVh (h : Hdr) (w : Word) (lit : Word) : Option Instr :=
  if fld w 22 6 = 19 ∧ fld w 18 3 = 0 then some (.vhHadd h (flag w 21) (fld w 12 6) (fld w 6 6) (vsrc w lit))
  else if fld w 22 6 = 19 ∧ fld w 18 3 = 1 then some (.vhHsub h (flag w 21) (fld w 12 6) (fld w 6 6) (vsrc w lit))
  else if fld w 22 6 = 19 ∧ fld w 18 3 = 2 then some (.vhHmul h (flag w 21) (fld w 12 6) (fld w 6 6) (vsrc w lit))
  else if fld w 22 6 = 19 ∧ fld w 18 3 = 3 then some (.vhHfma h (flag w 21) (fld w 12 6) (fld w 6 6) (vsrc w lit))
  else if fld w 22 6 = 19 ∧ fld w 18 3 = 4 then some (.vhHmin h (flag w 21) (fld w 12 6) (fld w 6 6) (vsrc w lit))
  else if fld w 22 6 = 19 ∧ fld w 18 3 = 5 then some (.vhHmax h (flag w 21) (fld w 12 6) (fld w 6 6) (vsrc w lit))
  else if fld w 22 6 = 19 ∧ fld w 18 3 = 6 ∧ fld w 0 6 = 0 then some (.vhHneg h (flag w 21) (fld w 12 6) (fld w 6 6))
  else if fld w 22 6 = 19 ∧ fld w 18 3 = 7 ∧ fld w 0 6 = 0 then some (.vhHabs h (flag w 21) (fld w 12 6) (fld w 6 6))
  else none

/-- Words of major 0x14, `sfu` (R86). -/
def decodeSfu (h : Hdr) (w : Word) : Option Instr :=
  if fld w 18 10 = 320 ∧ fld w 0 6 = 0 then some (.sfuFrcp h (fld w 12 6) (fld w 6 6))
  else if fld w 18 10 = 321 ∧ fld w 0 6 = 0 then some (.sfuFrsq h (fld w 12 6) (fld w 6 6))
  else if fld w 18 10 = 322 ∧ fld w 0 6 = 0 then some (.sfuFsqrt h (fld w 12 6) (fld w 6 6))
  else if fld w 18 10 = 323 ∧ fld w 0 6 = 0 then some (.sfuFexp2 h (fld w 12 6) (fld w 6 6))
  else if fld w 18 10 = 324 ∧ fld w 0 6 = 0 then some (.sfuFlog2 h (fld w 12 6) (fld w 6 6))
  else if fld w 18 10 = 325 ∧ fld w 0 6 = 0 then some (.sfuFsin h (fld w 12 6) (fld w 6 6))
  else if fld w 18 10 = 326 ∧ fld w 0 6 = 0 then some (.sfuFcos h (fld w 12 6) (fld w 6 6))
  else if fld w 18 10 = 327 ∧ fld w 0 6 = 0 then some (.sfuFtanh h (fld w 12 6) (fld w 6 6))
  else if fld w 18 10 = 328 then some (.sfuFdiv h (fld w 12 6) (fld w 6 6) (fld w 0 6))
  else none

/-- Words of major 0x15, `cvt` (R86). -/
def decodeCvt (h : Hdr) (w : Word) : Option Instr :=
  if fld w 18 10 = 336 ∧ fld w 0 6 = 0 then some (.cvtF32I32 h (fld w 12 6) (fld w 6 6))
  else if fld w 18 10 = 337 ∧ fld w 0 6 = 0 then some (.cvtF32N32 h (fld w 12 6) (fld w 6 6))
  else if fld w 18 10 = 338 ∧ fld w 0 6 = 0 then some (.cvtI32F32 h (fld w 12 6) (fld w 6 6))
  else if fld w 18 10 = 339 ∧ fld w 0 6 = 0 then some (.cvtN32F32 h (fld w 12 6) (fld w 6 6))
  else if fld w 18 10 = 340 ∧ fld w 0 6 = 0 then some (.cvtF32F16 h (fld w 12 6) (fld w 6 6))
  else if fld w 18 10 = 341 ∧ fld w 0 6 = 0 then some (.cvtF16F32 h (fld w 12 6) (fld w 6 6))
  else if fld w 18 10 = 342 ∧ fld w 0 6 = 0 then some (.cvtF32Bf16 h (fld w 12 6) (fld w 6 6))
  else if fld w 18 10 = 343 ∧ fld w 0 6 = 0 then some (.cvtBf16F32 h (fld w 12 6) (fld w 6 6))
  else if fld w 18 10 = 344 ∧ fld w 2 4 = 0 then some (.cvtF32E4m3 h (fld w 12 6) (fld w 6 6) (fld w 0 2))
  else if fld w 18 10 = 345 ∧ fld w 2 4 = 0 then some (.cvtE4m3F32 h (fld w 12 6) (fld w 6 6) (fld w 0 2))
  else if fld w 18 10 = 346 ∧ fld w 2 4 = 0 then some (.cvtF32E5m2 h (fld w 12 6) (fld w 6 6) (fld w 0 2))
  else if fld w 18 10 = 347 ∧ fld w 2 4 = 0 then some (.cvtE5m2F32 h (fld w 12 6) (fld w 6 6) (fld w 0 2))
  else if fld w 18 10 = 348 ∧ fld w 3 3 = 0 then some (.cvtF32E2m1 h (fld w 12 6) (fld w 6 6) (fld w 0 3))
  else if fld w 18 10 = 349 ∧ fld w 3 3 = 0 then some (.cvtE2m1F32 h (fld w 12 6) (fld w 6 6) (fld w 0 3))
  else if fld w 18 10 = 350 ∧ fld w 0 6 = 0 then some (.cvtF32S20 h (fld w 12 6) (fld w 6 6))
  else if fld w 18 10 = 351 ∧ fld w 0 6 = 0 then some (.cvtS20F32 h (fld w 12 6) (fld w 6 6))
  else none

/-- Words of major 0x16, `lane` (R86). -/
def decodeLane (h : Hdr) (w : Word) : Option Instr :=
  if fld w 18 10 = 352 then some (.lanePick h (fld w 12 6) (fld w 6 6) (fld w 0 6))
  else if fld w 18 10 = 353 then some (.laneBack h (fld w 12 6) (fld w 6 6) (fld w 0 6))
  else if fld w 18 10 = 354 then some (.laneFwd h (fld w 12 6) (fld w 6 6) (fld w 0 6))
  else if fld w 18 10 = 355 then some (.laneFlip h (fld w 12 6) (fld w 6 6) (fld w 0 6))
  else if fld w 18 10 = 356 ∧ fld w 0 6 = 0 then some (.laneAny h (fld w 12 6) (fld w 6 6))
  else if fld w 18 10 = 357 ∧ fld w 0 6 = 0 then some (.laneEvery h (fld w 12 6) (fld w 6 6))
  else if fld w 18 10 = 358 ∧ fld w 0 6 = 0 then some (.laneMask h (fld w 12 6) (fld w 6 6))
  else if fld w 18 10 = 359 ∧ fld w 0 6 = 0 then some (.laneSum h (fld w 12 6) (fld w 6 6))
  else if fld w 18 10 = 360 ∧ fld w 0 6 = 0 then some (.laneLeast h (fld w 12 6) (fld w 6 6))
  else if fld w 18 10 = 361 ∧ fld w 0 6 = 0 then some (.laneMost h (fld w 12 6) (fld w 6 6))
  else if fld w 18 10 = 362 ∧ fld w 0 6 = 0 then some (.laneFsum h (fld w 12 6) (fld w 6 6))
  else if fld w 18 10 = 363 ∧ fld w 5 1 = 0 then some (.laneFrom h (fld w 12 6) (fld w 6 6) (fld w 0 5))
  else none

/-- Words of major 0x17, `salu` (R86). -/
def decodeSalu (h : Hdr) (w : Word) (lit : Word) : Option Instr :=
  if fld w 18 10 = 368 ∧ fld w 0 3 = 0 then some (.saluSadd h (fld w 13 5) (fld w 8 5) (ssrc w lit))
  else if fld w 18 10 = 369 ∧ fld w 0 3 = 0 then some (.saluSsub h (fld w 13 5) (fld w 8 5) (ssrc w lit))
  else if fld w 18 10 = 370 ∧ fld w 0 3 = 0 then some (.saluSmul h (fld w 13 5) (fld w 8 5) (ssrc w lit))
  else if fld w 18 10 = 371 ∧ fld w 0 3 = 0 then some (.saluSand h (fld w 13 5) (fld w 8 5) (ssrc w lit))
  else if fld w 18 10 = 372 ∧ fld w 0 3 = 0 then some (.saluSor h (fld w 13 5) (fld w 8 5) (ssrc w lit))
  else if fld w 18 10 = 373 ∧ fld w 0 3 = 0 then some (.saluSxor h (fld w 13 5) (fld w 8 5) (ssrc w lit))
  else if fld w 18 10 = 374 ∧ fld w 0 3 = 0 then some (.saluSshl h (fld w 13 5) (fld w 8 5) (ssrc w lit))
  else if fld w 18 10 = 375 ∧ fld w 0 3 = 0 then some (.saluSshr h (fld w 13 5) (fld w 8 5) (ssrc w lit))
  else if fld w 18 10 = 376 ∧ fld w 0 3 = 0 then some (.saluSsra h (fld w 13 5) (fld w 8 5) (ssrc w lit))
  else if fld w 18 10 = 377 ∧ fld w 0 3 = 0 then some (.saluSmin h (fld w 13 5) (fld w 8 5) (ssrc w lit))
  else if fld w 18 10 = 378 ∧ fld w 0 3 = 0 then some (.saluSmax h (fld w 13 5) (fld w 8 5) (ssrc w lit))
  else if fld w 18 10 = 379 ∧ fld w 0 8 = 0 then some (.saluSmov h (fld w 13 5) (fld w 8 5))
  else if fld w 18 10 = 380 ∧ fld w 0 3 = 0 then some (.saluSaddc h (fld w 13 5) (fld w 8 5) (ssrc w lit))
  else if fld w 18 10 = 381 then some (.saluScmp h (fld w 16 2) (fld w 13 3) (fld w 8 5) (ssrc w lit) (fld w 0 3))
  else none

/-- Words of major 0x18, `smov` (R86). -/
def decodeSmov (h : Hdr) (w : Word) : Option Instr :=
  if fld w 18 10 = 384 ∧ fld w 0 6 = 0 then some (.smovS2v h (fld w 12 6) (fld w 6 6))
  else if fld w 18 10 = 385 ∧ fld w 5 1 = 0 then some (.smovV2s h (fld w 12 6) (fld w 6 6) (fld w 0 5))
  else none

/-- Words of major 0x19, `grd` (R86). -/
def decodeGrd (h : Hdr) (w : Word) : Option Instr :=
  if fld w 15 13 = 3200 ∧ fld w 9 3 = 0 ∧ fld w 3 3 = 0 then some (.grdGand h (fld w 12 3) (fld w 6 3) (fld w 0 3))
  else if fld w 15 13 = 3208 ∧ fld w 9 3 = 0 ∧ fld w 3 3 = 0 then some (.grdGor h (fld w 12 3) (fld w 6 3) (fld w 0 3))
  else if fld w 15 13 = 3216 ∧ fld w 9 3 = 0 ∧ fld w 3 3 = 0 then some (.grdGxor h (fld w 12 3) (fld w 6 3) (fld w 0 3))
  else if fld w 15 13 = 3224 ∧ fld w 9 3 = 0 ∧ fld w 0 6 = 0 then some (.grdGnot h (fld w 12 3) (fld w 6 3))
  else if fld w 15 13 = 3232 ∧ fld w 9 3 = 0 ∧ fld w 0 6 = 0 then some (.grdGmov h (fld w 12 3) (fld w 6 3))
  else if fld w 15 13 = 3240 ∧ fld w 5 1 = 0 then some (.grdGset h (fld w 12 3) (fld w 6 6) (fld w 0 5))
  else if fld w 18 10 = 406 ∧ fld w 9 3 = 0 ∧ fld w 0 6 = 0 then some (.grdGtov h (fld w 12 6) (fld w 6 3))
  else none

/-- Words of major 0x1A, `csr` (R86). -/
def decodeCsr (h : Hdr) (w : Word) : Option Instr :=
  if fld w 18 10 = 416 then some (.csrRdsr h (fld w 12 6) (fld w 6 6) (fld w 0 6))
  else if fld w 18 10 = 417 then some (.csrWrsr h (fld w 12 6) (fld w 6 6) (fld w 0 6))
  else if fld w 18 10 = 418 then some (.csrRdsrs h (fld w 12 6) (fld w 6 6) (fld w 0 6))
  else if fld w 18 10 = 419 then some (.csrWrsrs h (fld w 12 6) (fld w 6 6) (fld w 0 6))
  else none

/-- Words of major 0x1B, `ld` (R86). -/
def decodeLd (h : Hdr) (w : Word) : Option Instr :=
  if fld w 22 6 = 27 ∧ fld w 18 3 = 0 then some (.ldB8 h (flag w 21) (fld w 12 6) (fld w 6 6) (fld w 0 6))
  else if fld w 22 6 = 27 ∧ fld w 18 3 = 1 then some (.ldB8s h (flag w 21) (fld w 12 6) (fld w 6 6) (fld w 0 6))
  else if fld w 22 6 = 27 ∧ fld w 18 3 = 2 then some (.ldB16 h (flag w 21) (fld w 12 6) (fld w 6 6) (fld w 0 6))
  else if fld w 22 6 = 27 ∧ fld w 18 3 = 3 then some (.ldB16s h (flag w 21) (fld w 12 6) (fld w 6 6) (fld w 0 6))
  else if fld w 22 6 = 27 ∧ fld w 18 3 = 4 then some (.ldB32 h (flag w 21) (fld w 12 6) (fld w 6 6) (fld w 0 6))
  else if fld w 22 6 = 27 ∧ fld w 18 3 = 5 then some (.ldB64 h (flag w 21) (fld w 12 6) (fld w 6 6) (fld w 0 6))
  else if fld w 22 6 = 27 ∧ fld w 18 3 = 6 then some (.ldB128 h (flag w 21) (fld w 12 6) (fld w 6 6) (fld w 0 6))
  else none

/-- Words of major 0x1C, `st` (R86). -/
def decodeSt (h : Hdr) (w : Word) : Option Instr :=
  if fld w 18 10 = 448 then some (.stB8 h (fld w 12 6) (fld w 6 6) (fld w 0 6))
  else if fld w 18 10 = 450 then some (.stB16 h (fld w 12 6) (fld w 6 6) (fld w 0 6))
  else if fld w 18 10 = 452 then some (.stB32 h (fld w 12 6) (fld w 6 6) (fld w 0 6))
  else if fld w 18 10 = 453 then some (.stB64 h (fld w 12 6) (fld w 6 6) (fld w 0 6))
  else if fld w 18 10 = 454 then some (.stB128 h (fld w 12 6) (fld w 6 6) (fld w 0 6))
  else none

/-- Words of major 0x1D, `lds` (R86). -/
def decodeLds (h : Hdr) (w : Word) : Option Instr :=
  if fld w 18 10 = 464 then some (.ldsB8 h (fld w 12 6) (fld w 6 6) (fld w 0 6))
  else if fld w 18 10 = 465 then some (.ldsB8s h (fld w 12 6) (fld w 6 6) (fld w 0 6))
  else if fld w 18 10 = 466 then some (.ldsB16 h (fld w 12 6) (fld w 6 6) (fld w 0 6))
  else if fld w 18 10 = 467 then some (.ldsB16s h (fld w 12 6) (fld w 6 6) (fld w 0 6))
  else if fld w 18 10 = 468 then some (.ldsB32 h (fld w 12 6) (fld w 6 6) (fld w 0 6))
  else if fld w 18 10 = 469 then some (.ldsB64 h (fld w 12 6) (fld w 6 6) (fld w 0 6))
  else if fld w 18 10 = 470 then some (.ldsB128 h (fld w 12 6) (fld w 6 6) (fld w 0 6))
  else none

/-- Words of major 0x1E, `sts` (R86). -/
def decodeSts (h : Hdr) (w : Word) : Option Instr :=
  if fld w 18 10 = 480 then some (.stsB8 h (fld w 12 6) (fld w 6 6) (fld w 0 6))
  else if fld w 18 10 = 482 then some (.stsB16 h (fld w 12 6) (fld w 6 6) (fld w 0 6))
  else if fld w 18 10 = 484 then some (.stsB32 h (fld w 12 6) (fld w 6 6) (fld w 0 6))
  else if fld w 18 10 = 485 then some (.stsB64 h (fld w 12 6) (fld w 6 6) (fld w 0 6))
  else if fld w 18 10 = 486 then some (.stsB128 h (fld w 12 6) (fld w 6 6) (fld w 0 6))
  else none

/-- Words of major 0x1F, `ldp` (R86). -/
def decodeLdp (h : Hdr) (w : Word) : Option Instr :=
  if fld w 21 7 = 62 then some (.ldp h (fld w 18 3) (fld w 12 6) (fld w 6 6) (fld w 0 6))
  else if fld w 21 7 = 63 then some (.ldpF32 h (fld w 18 3) (fld w 12 6) (fld w 6 6) (fld w 0 6))
  else none

/-- Words of major 0x20, `upd` (R86). -/
def decodeUpd (h : Hdr) (w : Word) : Option Instr :=
  if fld w 18 10 = 512 then some (.updAdd h (fld w 12 6) (fld w 6 6) (fld w 0 6))
  else if fld w 18 10 = 513 then some (.updFadd h (fld w 12 6) (fld w 6 6) (fld w 0 6))
  else if fld w 18 10 = 514 then some (.updMin h (fld w 12 6) (fld w 6 6) (fld w 0 6))
  else if fld w 18 10 = 515 then some (.updMax h (fld w 12 6) (fld w 6 6) (fld w 0 6))
  else if fld w 18 10 = 516 then some (.updMinn h (fld w 12 6) (fld w 6 6) (fld w 0 6))
  else if fld w 18 10 = 517 then some (.updMaxn h (fld w 12 6) (fld w 6 6) (fld w 0 6))
  else if fld w 18 10 = 518 then some (.updAnd h (fld w 12 6) (fld w 6 6) (fld w 0 6))
  else if fld w 18 10 = 519 then some (.updOr h (fld w 12 6) (fld w 6 6) (fld w 0 6))
  else if fld w 18 10 = 520 then some (.updXor h (fld w 12 6) (fld w 6 6) (fld w 0 6))
  else if fld w 18 10 = 521 then some (.updSwap h (fld w 12 6) (fld w 6 6) (fld w 0 6))
  else if fld w 18 10 = 522 then some (.updCas h (fld w 12 6) (fld w 6 6) (fld w 0 6))
  else if fld w 18 10 = 523 then some (.updAdd64 h (fld w 12 6) (fld w 6 6) (fld w 0 6))
  else if fld w 18 10 = 524 then some (.updSwap64 h (fld w 12 6) (fld w 6 6) (fld w 0 6))
  else if fld w 18 10 = 525 then some (.updCas64 h (fld w 12 6) (fld w 6 6) (fld w 0 6))
  else none

/-- Words of major 0x21, `updc` (R86). -/
def decodeUpdc (h : Hdr) (w : Word) : Option Instr :=
  if fld w 18 10 = 528 then some (.updcAdd h (fld w 12 6) (fld w 6 6) (fld w 0 6))
  else if fld w 18 10 = 529 then some (.updcFadd h (fld w 12 6) (fld w 6 6) (fld w 0 6))
  else if fld w 18 10 = 530 then some (.updcMin h (fld w 12 6) (fld w 6 6) (fld w 0 6))
  else if fld w 18 10 = 531 then some (.updcMax h (fld w 12 6) (fld w 6 6) (fld w 0 6))
  else if fld w 18 10 = 532 then some (.updcMinn h (fld w 12 6) (fld w 6 6) (fld w 0 6))
  else if fld w 18 10 = 533 then some (.updcMaxn h (fld w 12 6) (fld w 6 6) (fld w 0 6))
  else if fld w 18 10 = 534 then some (.updcAnd h (fld w 12 6) (fld w 6 6) (fld w 0 6))
  else if fld w 18 10 = 535 then some (.updcOr h (fld w 12 6) (fld w 6 6) (fld w 0 6))
  else if fld w 18 10 = 536 then some (.updcXor h (fld w 12 6) (fld w 6 6) (fld w 0 6))
  else if fld w 18 10 = 537 then some (.updcSwap h (fld w 12 6) (fld w 6 6) (fld w 0 6))
  else if fld w 18 10 = 538 then some (.updcCas h (fld w 12 6) (fld w 6 6) (fld w 0 6))
  else if fld w 18 10 = 539 then some (.updcAdd64 h (fld w 12 6) (fld w 6 6) (fld w 0 6))
  else if fld w 18 10 = 540 then some (.updcSwap64 h (fld w 12 6) (fld w 6 6) (fld w 0 6))
  else if fld w 18 10 = 541 then some (.updcCas64 h (fld w 12 6) (fld w 6 6) (fld w 0 6))
  else none

/-- Words of major 0x22, `updn` (R86). -/
def decodeUpdn (h : Hdr) (w : Word) : Option Instr :=
  if fld w 18 10 = 544 then some (.updnAdd h (fld w 12 6) (fld w 6 6) (fld w 0 6))
  else if fld w 18 10 = 545 then some (.updnFadd h (fld w 12 6) (fld w 6 6) (fld w 0 6))
  else if fld w 18 10 = 546 then some (.updnMin h (fld w 12 6) (fld w 6 6) (fld w 0 6))
  else if fld w 18 10 = 547 then some (.updnMax h (fld w 12 6) (fld w 6 6) (fld w 0 6))
  else if fld w 18 10 = 548 then some (.updnMinn h (fld w 12 6) (fld w 6 6) (fld w 0 6))
  else if fld w 18 10 = 549 then some (.updnMaxn h (fld w 12 6) (fld w 6 6) (fld w 0 6))
  else if fld w 18 10 = 550 then some (.updnAnd h (fld w 12 6) (fld w 6 6) (fld w 0 6))
  else if fld w 18 10 = 551 then some (.updnOr h (fld w 12 6) (fld w 6 6) (fld w 0 6))
  else if fld w 18 10 = 552 then some (.updnXor h (fld w 12 6) (fld w 6 6) (fld w 0 6))
  else none

/-- Words of major 0x23, `mem` (R86). -/
def decodeMem (h : Hdr) (w : Word) : Option Instr :=
  if fld w 0 28 = 146800640 then some (.memFenceHost h)
  else if fld w 0 28 = 147062784 then some (.memFencePeer h)
  else if fld w 0 28 = 147324928 then some (.memFenceSys h)
  else if fld w 12 16 = 36032 then some (.memPref h (fld w 6 6) (fld w 0 6))
  else if fld w 18 10 = 564 ∧ fld w 10 2 = 0 ∧ fld w 0 6 = 0 then some (.memBpref h (fld w 12 6) (fld w 6 4))
  else none

/-- Words of major 0x24, `mon` (R86). -/
noncomputable def decodeMon (h : Hdr) (w : Word) : Option Instr :=
  if fld w 18 10 = 576 then some (.monWaitcEq h (fld w 12 6) (fld w 6 6) (fld w 0 6))
  else if fld w 18 10 = 577 then some (.monWaitcNe h (fld w 12 6) (fld w 6 6) (fld w 0 6))
  else if fld w 18 10 = 578 then some (.monWaitcLt h (fld w 12 6) (fld w 6 6) (fld w 0 6))
  else if fld w 18 10 = 579 then some (.monWaitcGe h (fld w 12 6) (fld w 6 6) (fld w 0 6))
  else if fld w 18 10 = 580 then some (.monWaitcLtn h (fld w 12 6) (fld w 6 6) (fld w 0 6))
  else if fld w 18 10 = 581 then some (.monWaitcGen h (fld w 12 6) (fld w 6 6) (fld w 0 6))
  else if fld w 12 16 = 37248 then some (.monWaitcChg h (fld w 6 6) (fld w 0 6))
  else none

/-- Words of major 0x25, `bar` (R86). -/
noncomputable def decodeBar (h : Hdr) (w : Word) : Option Instr :=
  if fld w 14 14 = 9472 then some (.barInit h (fld w 4 10) (fld w 0 4))
  else if fld w 14 14 = 9473 then some (.barInitX h (fld w 4 10) (fld w 0 4))
  else if fld w 4 24 = 9701376 then some (.barArr h (fld w 0 4))
  else if fld w 4 24 = 9702400 then some (.barDrop h (fld w 0 4))
  else if fld w 4 24 = 9703424 then some (.barWait h (fld w 0 4))
  else if fld w 7 21 = 1213056 then some (.barTest h (fld w 4 3) (fld w 0 4))
  else if fld w 7 21 = 1213184 then some (.barInval h (fld w 4 3) (fld w 0 4))
  else if fld w 4 24 = 9706496 then some (.barArrw h (fld w 0 4))
  else none

/-- Words of major 0x26, `mus` (R86). -/
noncomputable def decodeMus (h : Hdr) (w : Word) : Option Instr :=
  if fld w 14 14 = 9728 then some (.musSet h (fld w 3 11) (fld w 0 3))
  else if fld w 3 25 = 19924992 then some (.musClr h (fld w 0 3))
  else none

/-- Words of major 0x27, `ring` (R86). -/
noncomputable def decodeRing (h : Hdr) (w : Word) : Option Instr :=
  if fld w 7 21 = 1277952 then some (.ringInit h (fld w 3 4) (fld w 0 3))
  else if fld w 12 16 = 39940 ∧ fld w 3 4 = 0 then some (.ringAcq h (fld w 7 5) (fld w 0 3))
  else if fld w 12 16 = 39944 ∧ fld w 3 4 = 0 then some (.ringRel h (fld w 7 5) (fld w 0 3))
  else if fld w 12 16 = 39948 ∧ fld w 3 4 = 0 then some (.ringTake h (fld w 7 5) (fld w 0 3))
  else if fld w 12 16 = 39952 ∧ fld w 3 4 = 0 then some (.ringFree h (fld w 7 5) (fld w 0 3))
  else none

/-- Words of major 0x28, `fut` (R86). -/
noncomputable def decodeFut (h : Hdr) (w : Word) : Option Instr :=
  if fld w 12 16 = 40960 then some (.futFinit h (fld w 6 6) (fld w 0 6))
  else if fld w 18 10 = 641 then some (.futFput h (fld w 12 6) (fld w 6 6) (fld w 0 6))
  else if fld w 18 10 = 642 then some (.futFget h (fld w 12 6) (fld w 6 6) (fld w 0 6))
  else if fld w 15 13 = 5144 then some (.futFpoll h (fld w 12 3) (fld w 6 6) (fld w 0 6))
  else none

/-- Words of major 0x29, `cpy` (R86). -/
noncomputable def decodeCpy (h : Hdr) (w : Word) : Option Instr :=
  if fld w 20 8 = 164 ∧ fld w 4 2 = 0 then some (.cpyMm h (fld w 18 2) (fld w 12 6) (fld w 6 6) (fld w 0 4))
  else if fld w 20 8 = 165 ∧ fld w 4 2 = 0 then some (.cpyMs h (fld w 18 2) (fld w 12 6) (fld w 6 6) (fld w 0 4))
  else if fld w 20 8 = 166 ∧ fld w 4 2 = 0 then some (.cpySm h (fld w 18 2) (fld w 12 6) (fld w 6 6) (fld w 0 4))
  else if fld w 20 8 = 167 ∧ fld w 4 2 = 0 then some (.cpySs h (fld w 18 2) (fld w 12 6) (fld w 6 6) (fld w 0 4))
  else none

/-- Words of major 0x2A, `tcpy` (R86). -/
noncomputable def decodeTcpy (h : Hdr) (w : Word) : Option Instr :=
  if fld w 22 6 = 42 ∧ fld w 14 7 = 0 ∧ fld w 0 2 = 0 then some (.tcpySp h (flag w 21) (fld w 11 3) (fld w 7 4) (fld w 2 5))
  else if fld w 22 6 = 42 ∧ fld w 14 7 = 1 then some (.tcpyOa h (flag w 21) (fld w 11 3) (fld w 7 4) (fld w 2 5) (fld w 0 2))
  else if fld w 22 6 = 42 ∧ fld w 14 7 = 2 then some (.tcpyWb h (flag w 21) (fld w 11 3) (fld w 7 4) (fld w 2 5) (fld w 0 2))
  else if fld w 22 6 = 42 ∧ fld w 14 7 = 3 ∧ fld w 0 2 = 0 then some (.tcpySt h (flag w 21) (fld w 11 3) (fld w 7 4) (fld w 2 5))
  else if fld w 22 6 = 42 ∧ fld w 14 7 = 4 ∧ fld w 0 2 = 0 then some (.tcpyGath h (flag w 21) (fld w 11 3) (fld w 7 4) (fld w 2 5))
  else if fld w 22 6 = 42 ∧ fld w 14 7 = 5 ∧ fld w 0 2 = 0 then some (.tcpyScat h (flag w 21) (fld w 11 3) (fld w 7 4) (fld w 2 5))
  else if fld w 22 6 = 42 ∧ fld w 14 7 = 6 ∧ fld w 7 4 = 0 ∧ fld w 0 2 = 0 then some (.tcpyZero h (flag w 21) (fld w 11 3) (fld w 2 5))
  else none

/-- Words of major 0x2B, `seal` (R86). -/
noncomputable def decodeSeal (h : Hdr) (w : Word) : Option Instr :=
  if fld w 8 20 = 704512 then some (.seal h (fld w 5 3) (fld w 0 5))
  else if fld w 5 23 = 5636608 then some (.unseal h (fld w 0 5))
  else none

/-- Words of major 0x2C, `mma` (R86). -/
noncomputable def decodeMma (h : Hdr) (w : Word) : Option Instr :=
  if fld w 21 7 = 88 ∧ fld w 18 1 = 0 then some (.mma h (flag w 20) (flag w 19) (fld w 16 2) (fld w 14 2) (fld w 12 2) (fld w 9 3) (fld w 5 4) (fld w 0 5))
  else if fld w 21 7 = 88 ∧ fld w 18 1 = 1 then some (.mmaz h (flag w 20) (flag w 19) (fld w 16 2) (fld w 14 2) (fld w 12 2) (fld w 9 3) (fld w 5 4) (fld w 0 5))
  else none

/-- Words of major 0x2D, `mmag` (R86). -/
noncomputable def decodeMmag (h : Hdr) (w : Word) (lit : Word) : Option Instr :=
  if fld w 21 7 = 90 ∧ fld w 18 1 = 0 then some (.mmag h (flag w 20) (flag w 19) (fld w 16 2) (fld w 14 2) (fld w 12 2) (fld w 9 3) (fld w 5 4) (fld w 0 5) lit)
  else if fld w 21 7 = 90 ∧ fld w 18 1 = 1 then some (.mmagz h (flag w 20) (flag w 19) (fld w 16 2) (fld w 14 2) (fld w 12 2) (fld w 9 3) (fld w 5 4) (fld w 0 5) lit)
  else none

/-- Words of major 0x2E, `tacc` (R86). -/
noncomputable def decodeTacc (h : Hdr) (w : Word) : Option Instr :=
  if fld w 2 26 = 48234496 then some (.taccTzero h (fld w 0 2))
  else if fld w 11 17 = 94216 then some (.taccTstSp h (fld w 7 4) (fld w 2 5) (fld w 0 2))
  else if fld w 11 17 = 94224 then some (.taccTstMem h (fld w 7 4) (fld w 2 5) (fld w 0 2))
  else if fld w 11 17 = 94232 then some (.taccTld h (fld w 7 4) (fld w 2 5) (fld w 0 2))
  else if fld w 12 16 = 47120 ∧ fld w 7 4 = 0 then some (.taccTscale h (flag w 11) (fld w 2 5) (fld w 0 2))
  else if fld w 7 21 = 1507968 then some (.taccTbias h (fld w 2 5) (fld w 0 2))
  else none

/-- Words of major 0x2F, `qnt` (R86). -/
noncomputable def decodeQnt (h : Hdr) (w : Word) : Option Instr :=
  if fld w 18 10 = 752 ∧ fld w 0 6 = 0 then some (.qntPi8 h (fld w 12 6) (fld w 6 6))
  else if fld w 18 10 = 753 ∧ fld w 0 6 = 0 then some (.qntE2m1 h (fld w 12 6) (fld w 6 6))
  else none

/-- Words of major 0x30, `task` (R86). -/
noncomputable def decodeTask (h : Hdr) (w : Word) : Option Instr :=
  if fld w 10 18 = 196608 then some (.taskSpawn h (fld w 5 5) (fld w 0 5))
  else if fld w 10 18 = 196624 then some (.taskLaunch h (fld w 5 5) (fld w 0 5))
  else none

/-- Words of major 0x31, `arena` (R86). -/
noncomputable def decodeArena (h : Hdr) (w : Word) : Option Instr :=
  if fld w 10 18 = 200704 then some (.arenaNew h (fld w 5 5) (fld w 0 5))
  else if fld w 5 23 = 6423040 then some (.arenaEnd h (fld w 0 5))
  else if fld w 8 20 = 802944 then some (.arenaChk h (fld w 5 3) (fld w 0 5))
  else none

/-- Words of major 0x32, `basin` (R86). -/
noncomputable def decodeBasin (h : Hdr) (w : Word) : Option Instr :=
  if fld w 5 23 = 6553600 then some (.bsnDef h (fld w 0 5))
  else if fld w 9 19 = 409632 then some (.bsnResize h (fld w 5 4) (fld w 0 5))
  else if fld w 9 19 = 409664 then some (.bsnDrop h (fld w 5 4) (fld w 0 5))
  else if fld w 10 18 = 204848 then some (.bsnStat h (fld w 5 5) (fld w 0 5))
  else if fld w 13 15 = 25608 then some (.pgBsn h (fld w 9 4) (fld w 5 4) (fld w 0 5))
  else none

/-- Words of major 0x33, `tsys` (R86). -/
noncomputable def decodeTsys (h : Hdr) (w : Word) : Option Instr :=
  if fld w 5 23 = 6684672 then some (.tsysInvVa h (fld w 0 5))
  else if fld w 0 28 = 213925888 then some (.tsysInvAll h)
  else if fld w 9 19 = 417856 then some (.tsysWqpop h (fld w 6 3) (fld w 0 6))
  else if fld w 6 22 = 3343104 then some (.tsysWqdone h (fld w 0 6))
  else if fld w 12 16 = 52240 then some (.tsysPtld h (fld w 6 6) (fld w 0 6))
  else if fld w 10 18 = 208976 then some (.tsysFrmTake h (flag w 9) (fld w 6 3) (fld w 0 6))
  else if fld w 10 18 = 208992 ∧ fld w 6 3 = 0 then some (.tsysFrmGive h (flag w 9) (fld w 0 6))
  else if fld w 10 18 = 209008 ∧ fld w 6 3 = 0 then some (.tsysMzero h (flag w 9) (fld w 0 6))
  else if fld w 13 15 = 26128 then some (.tsysMcopy h (flag w 12) (fld w 6 6) (fld w 0 6))
  else if fld w 10 18 = 209040 then some (.tsysMeterRd h (fld w 5 5) (fld w 0 5))
  else if fld w 0 28 = 214073344 then some (.tsysPsaveDone h)
  else if fld w 6 22 = 3345152 then some (.tsysFaultPost h (fld w 0 6))
  else none

/-- The instruction read from word `w`, with `lit` the word after it, before its register fields are checked. -/
noncomputable def decodeFields (w lit : Word) : Option Instr :=
  match (fld w 22 6).toNat with
  | 0 => decodeSys (hdr w) w
  | 1 => decodeBra (hdr w) w
  | 2 => decodeCtl (hdr w) w lit
  | 3 => decodeWait (hdr w) w
  | 4 => decodeVia (hdr w) w lit
  | 5 => decodeVil (hdr w) w lit
  | 6 => decodeVic (hdr w) w
  | 7 => decodeAddi (hdr w) w
  | 8 => decodeAndi (hdr w) w
  | 9 => decodeOri (hdr w) w
  | 10 => decodeXori (hdr w) w
  | 11 => decodeShli (hdr w) w
  | 12 => decodeShri (hdr w) w
  | 13 => decodeSrai (hdr w) w
  | 14 => decodeMuli (hdr w) w
  | 15 => decodeMovi (hdr w) w
  | 16 => decodeMovhi (hdr w) w
  | 17 => decodeVf (hdr w) w lit
  | 18 => decodeVfc (hdr w) w
  | 19 => decodeVh (hdr w) w lit
  | 20 => decodeSfu (hdr w) w
  | 21 => decodeCvt (hdr w) w
  | 22 => decodeLane (hdr w) w
  | 23 => decodeSalu (hdr w) w lit
  | 24 => decodeSmov (hdr w) w
  | 25 => decodeGrd (hdr w) w
  | 26 => decodeCsr (hdr w) w
  | 27 => decodeLd (hdr w) w
  | 28 => decodeSt (hdr w) w
  | 29 => decodeLds (hdr w) w
  | 30 => decodeSts (hdr w) w
  | 31 => decodeLdp (hdr w) w
  | 32 => decodeUpd (hdr w) w
  | 33 => decodeUpdc (hdr w) w
  | 34 => decodeUpdn (hdr w) w
  | 35 => decodeMem (hdr w) w
  | 36 => decodeMon (hdr w) w
  | 37 => decodeBar (hdr w) w
  | 38 => decodeMus (hdr w) w
  | 39 => decodeRing (hdr w) w
  | 40 => decodeFut (hdr w) w
  | 41 => decodeCpy (hdr w) w
  | 42 => decodeTcpy (hdr w) w
  | 43 => decodeSeal (hdr w) w
  | 44 => decodeMma (hdr w) w
  | 45 => decodeMmag (hdr w) w lit
  | 46 => decodeTacc (hdr w) w
  | 47 => decodeQnt (hdr w) w
  | 48 => decodeTask (hdr w) w
  | 49 => decodeArena (hdr w) w
  | 50 => decodeBasin (hdr w) w
  | 51 => decodeTsys (hdr w) w
  | _ => none
/-- The instruction of word `w`, whose following word is `lit`; `none` is 0x01 ILLEGAL_ENC (R88). -/
noncomputable def decodeWord (w lit : Word) : Option Instr :=
  if repFieldOk w then (decodeFields w lit).filter Instr.wf else none

/-- Whether a word takes the next word of its packet as a literal (R71, R83). -/
def takesLiteral (w : Word) : Bool :=
  match (fld w 22 6).toNat with
  | 0x02 => fld w 18 4 == 2 || (fld w 18 4 == 4 && fld w 6 6 == 63)
  | 0x04 | 0x05 | 0x11 | 0x13 => fld w 0 6 == 63
  | 0x17 => fld w 3 5 == 31
  | 0x2D => true
  | _ => false

/-- The role of one word of a packet (R71). -/
inductive WordRole where
  | instruction
  | literal
  | missingLiteral
  deriving DecidableEq, Repr

/-- The roles of the three words of a packet, found from word 0 whatever word the PC names (R71). -/
def packetRoles (w0 w1 w2 : Word) : WordRole × WordRole × WordRole :=
  let last (w : Word) : WordRole := if takesLiteral w then .missingLiteral else .instruction
  if takesLiteral w0 then (.instruction, .literal, last w2)
  else if takesLiteral w1 then (.instruction, .instruction, .literal)
  else (.instruction, .instruction, last w2)

/-- The header as the four top bits of a word. -/
def Hdr.bits (h : Hdr) : BitVec 4 := BitVec.ofBool h.chain ++ h.guard

/-- The B field of a literal-capable vector word. -/
def VSrc.code : VSrc → BitVec 6
  | .reg r => r
  | .lit _ => 63

/-- The literal word of a vector operand, if any. -/
def VSrc.litWords : VSrc → List Word
  | .reg _ => []
  | .lit w => [w]

/-- The SB field of `salu`. -/
def SSrc.code : SSrc → BitVec 5
  | .reg r => r
  | .lit _ => 31

/-- The A field of `ctl.rep`. -/
def SSrc.codeA : SSrc → BitVec 6
  | .reg r => 0#1 ++ r
  | .lit _ => 63

/-- The literal word of a scalar operand, if any. -/
def SSrc.litWords : SSrc → List Word
  | .reg _ => []
  | .lit w => [w]

/-- The words of an instruction: the word itself and, where it takes one, its literal (R68, R81, R83). The steps
of the machine have no encoding. -/
def encode : Instr → List Word
  | .sysNop h => [h.bits ++ 0#28]
  | .sysExit h => [h.bits ++ 16384#28]
  | .sysYield h => [h.bits ++ 32768#28]
  | .sysTrap h p => [h.bits ++ 192#20 ++ p]
  | .sysUret h => [h.bits ++ 65536#28]
  | .sysTret h => [h.bits ++ 81920#28]
  | .sysBrk h p => [h.bits ++ 6#14 ++ p]
  | .sysHalt h p => [h.bits ++ 14#15 ++ p]
  | .bra h o => [h.bits ++ 4#8 ++ o]
  | .braLk h o => [h.bits ++ 5#8 ++ o]
  | .braUlk h o => [h.bits ++ 6#8 ++ o]
  | .braUnf h o => [h.bits ++ 7#8 ++ o]
  | .ctlJump h a h_ => [h.bits ++ 2048#16 ++ a ++ 0#4 ++ h_]
  | .ctlCall h d a => [h.bits ++ 33#10 ++ d ++ a ++ 0#6]
  | .ctlCalli h d off => [h.bits ++ 34#10 ++ d ++ 0#12] ++ [off]
  | .ctlRet h a => [h.bits ++ 2240#16 ++ a ++ 0#6]
  | .ctlRep h a => [h.bits ++ 2304#16 ++ a.codeA ++ 0#6] ++ a.litWords
  | .ctlReform h => [h.bits ++ 9699328#28]
  | .wait h l s p t => [h.bits ++ 3#6 ++ l ++ s ++ p ++ t ++ 0#2]
  | .viaAdd h d a b => [h.bits ++ 64#10 ++ d ++ a ++ b.code] ++ b.litWords
  | .viaSub h d a b => [h.bits ++ 65#10 ++ d ++ a ++ b.code] ++ b.litWords
  | .viaMul h d a b => [h.bits ++ 66#10 ++ d ++ a ++ b.code] ++ b.litWords
  | .viaMulh h d a b => [h.bits ++ 67#10 ++ d ++ a ++ b.code] ++ b.litWords
  | .viaMulhn h d a b => [h.bits ++ 68#10 ++ d ++ a ++ b.code] ++ b.litWords
  | .viaMad h d a b => [h.bits ++ 69#10 ++ d ++ a ++ b.code] ++ b.litWords
  | .viaMin h d a b => [h.bits ++ 70#10 ++ d ++ a ++ b.code] ++ b.litWords
  | .viaMax h d a b => [h.bits ++ 71#10 ++ d ++ a ++ b.code] ++ b.litWords
  | .viaMinn h d a b => [h.bits ++ 72#10 ++ d ++ a ++ b.code] ++ b.litWords
  | .viaMaxn h d a b => [h.bits ++ 73#10 ++ d ++ a ++ b.code] ++ b.litWords
  | .viaAbs h d a => [h.bits ++ 74#10 ++ d ++ a ++ 0#6]
  | .viaNeg h d a => [h.bits ++ 75#10 ++ d ++ a ++ 0#6]
  | .viaAddc h d a b => [h.bits ++ 76#10 ++ d ++ a ++ b.code] ++ b.litWords
  | .viaSubc h d a b => [h.bits ++ 77#10 ++ d ++ a ++ b.code] ++ b.litWords
  | .viaClz h d a => [h.bits ++ 78#10 ++ d ++ a ++ 0#6]
  | .viaPopc h d a => [h.bits ++ 79#10 ++ d ++ a ++ 0#6]
  | .vilAnd h d a b => [h.bits ++ 80#10 ++ d ++ a ++ b.code] ++ b.litWords
  | .vilOr h d a b => [h.bits ++ 81#10 ++ d ++ a ++ b.code] ++ b.litWords
  | .vilXor h d a b => [h.bits ++ 82#10 ++ d ++ a ++ b.code] ++ b.litWords
  | .vilAndn h d a b => [h.bits ++ 83#10 ++ d ++ a ++ b.code] ++ b.litWords
  | .vilNot h d a => [h.bits ++ 84#10 ++ d ++ a ++ 0#6]
  | .vilShl h d a b => [h.bits ++ 85#10 ++ d ++ a ++ b.code] ++ b.litWords
  | .vilShr h d a b => [h.bits ++ 86#10 ++ d ++ a ++ b.code] ++ b.litWords
  | .vilSra h d a b => [h.bits ++ 87#10 ++ d ++ a ++ b.code] ++ b.litWords
  | .vilRotl h d a b => [h.bits ++ 88#10 ++ d ++ a ++ b.code] ++ b.litWords
  | .vilBrev h d a => [h.bits ++ 89#10 ++ d ++ a ++ 0#6]
  | .vilBfx h d a b => [h.bits ++ 90#10 ++ d ++ a ++ b.code] ++ b.litWords
  | .vilBfxn h d a b => [h.bits ++ 91#10 ++ d ++ a ++ b.code] ++ b.litWords
  | .vilBfi h d a b => [h.bits ++ 92#10 ++ d ++ a ++ b.code] ++ b.litWords
  | .vilMov h d a => [h.bits ++ 93#10 ++ d ++ a ++ 0#6]
  | .vilBsel h d a b => [h.bits ++ 94#10 ++ d ++ a ++ b.code] ++ b.litWords
  | .vicEq h k n a b => [h.bits ++ 96#10 ++ k ++ n ++ a ++ b]
  | .vicNe h k n a b => [h.bits ++ 97#10 ++ k ++ n ++ a ++ b]
  | .vicLt h k n a b => [h.bits ++ 98#10 ++ k ++ n ++ a ++ b]
  | .vicLe h k n a b => [h.bits ++ 99#10 ++ k ++ n ++ a ++ b]
  | .vicGt h k n a b => [h.bits ++ 100#10 ++ k ++ n ++ a ++ b]
  | .vicGe h k n a b => [h.bits ++ 101#10 ++ k ++ n ++ a ++ b]
  | .vicLtn h k n a b => [h.bits ++ 102#10 ++ k ++ n ++ a ++ b]
  | .vicLen h k n a b => [h.bits ++ 103#10 ++ k ++ n ++ a ++ b]
  | .vicGtn h k n a b => [h.bits ++ 104#10 ++ k ++ n ++ a ++ b]
  | .vicGen h k n a b => [h.bits ++ 105#10 ++ k ++ n ++ a ++ b]
  | .vicEq64 h k n a b => [h.bits ++ 106#10 ++ k ++ n ++ a ++ b]
  | .vicLt64 h k n a b => [h.bits ++ 107#10 ++ k ++ n ++ a ++ b]
  | .vicLtn64 h k n a b => [h.bits ++ 108#10 ++ k ++ n ++ a ++ b]
  | .addi h d a i => [h.bits ++ 7#6 ++ d ++ a ++ i]
  | .andi h d a i => [h.bits ++ 8#6 ++ d ++ a ++ i]
  | .ori h d a i => [h.bits ++ 9#6 ++ d ++ a ++ i]
  | .xori h d a i => [h.bits ++ 10#6 ++ d ++ a ++ i]
  | .shli h d a i => [h.bits ++ 11#6 ++ d ++ a ++ 0#5 ++ i]
  | .shri h d a i => [h.bits ++ 12#6 ++ d ++ a ++ 0#5 ++ i]
  | .srai h d a i => [h.bits ++ 13#6 ++ d ++ a ++ 0#5 ++ i]
  | .muli h d a i => [h.bits ++ 14#6 ++ d ++ a ++ i]
  | .movi h d i => [h.bits ++ 15#6 ++ d ++ i]
  | .movhi h d i => [h.bits ++ 16#6 ++ d ++ i]
  | .vfFadd h d a b => [h.bits ++ 272#10 ++ d ++ a ++ b.code] ++ b.litWords
  | .vfFsub h d a b => [h.bits ++ 273#10 ++ d ++ a ++ b.code] ++ b.litWords
  | .vfFmul h d a b => [h.bits ++ 274#10 ++ d ++ a ++ b.code] ++ b.litWords
  | .vfFfma h d a b => [h.bits ++ 275#10 ++ d ++ a ++ b.code] ++ b.litWords
  | .vfFfms h d a b => [h.bits ++ 276#10 ++ d ++ a ++ b.code] ++ b.litWords
  | .vfFmin h d a b => [h.bits ++ 277#10 ++ d ++ a ++ b.code] ++ b.litWords
  | .vfFmax h d a b => [h.bits ++ 278#10 ++ d ++ a ++ b.code] ++ b.litWords
  | .vfFabs h d a => [h.bits ++ 279#10 ++ d ++ a ++ 0#6]
  | .vfFneg h d a => [h.bits ++ 280#10 ++ d ++ a ++ 0#6]
  | .vfFcopys h d a b => [h.bits ++ 281#10 ++ d ++ a ++ b.code] ++ b.litWords
  | .vfFfloor h d a => [h.bits ++ 282#10 ++ d ++ a ++ 0#6]
  | .vfFceil h d a => [h.bits ++ 283#10 ++ d ++ a ++ 0#6]
  | .vfFrint h d a => [h.bits ++ 284#10 ++ d ++ a ++ 0#6]
  | .vfFtrunc h d a => [h.bits ++ 285#10 ++ d ++ a ++ 0#6]
  | .vfFsat h d a => [h.bits ++ 286#10 ++ d ++ a ++ 0#6]
  | .vfFscale h d a b => [h.bits ++ 287#10 ++ d ++ a ++ b.code] ++ b.litWords
  | .vfcFeq h k n a b => [h.bits ++ 288#10 ++ k ++ n ++ a ++ b]
  | .vfcFne h k n a b => [h.bits ++ 289#10 ++ k ++ n ++ a ++ b]
  | .vfcFlt h k n a b => [h.bits ++ 290#10 ++ k ++ n ++ a ++ b]
  | .vfcFle h k n a b => [h.bits ++ 291#10 ++ k ++ n ++ a ++ b]
  | .vfcFgt h k n a b => [h.bits ++ 292#10 ++ k ++ n ++ a ++ b]
  | .vfcFge h k n a b => [h.bits ++ 293#10 ++ k ++ n ++ a ++ b]
  | .vfcFun h k n a b => [h.bits ++ 294#10 ++ k ++ n ++ a ++ b]
  | .vfcFord h k n a b => [h.bits ++ 295#10 ++ k ++ n ++ a ++ b]
  | .vfcFclass h k n a b => [h.bits ++ 296#10 ++ k ++ n ++ a ++ b]
  | .vhHadd h t d a b => [h.bits ++ 19#6 ++ BitVec.ofBool t ++ 0#3 ++ d ++ a ++ b.code] ++ b.litWords
  | .vhHsub h t d a b => [h.bits ++ 19#6 ++ BitVec.ofBool t ++ 1#3 ++ d ++ a ++ b.code] ++ b.litWords
  | .vhHmul h t d a b => [h.bits ++ 19#6 ++ BitVec.ofBool t ++ 2#3 ++ d ++ a ++ b.code] ++ b.litWords
  | .vhHfma h t d a b => [h.bits ++ 19#6 ++ BitVec.ofBool t ++ 3#3 ++ d ++ a ++ b.code] ++ b.litWords
  | .vhHmin h t d a b => [h.bits ++ 19#6 ++ BitVec.ofBool t ++ 4#3 ++ d ++ a ++ b.code] ++ b.litWords
  | .vhHmax h t d a b => [h.bits ++ 19#6 ++ BitVec.ofBool t ++ 5#3 ++ d ++ a ++ b.code] ++ b.litWords
  | .vhHneg h t d a => [h.bits ++ 19#6 ++ BitVec.ofBool t ++ 6#3 ++ d ++ a ++ 0#6]
  | .vhHabs h t d a => [h.bits ++ 19#6 ++ BitVec.ofBool t ++ 7#3 ++ d ++ a ++ 0#6]
  | .sfuFrcp h d a => [h.bits ++ 320#10 ++ d ++ a ++ 0#6]
  | .sfuFrsq h d a => [h.bits ++ 321#10 ++ d ++ a ++ 0#6]
  | .sfuFsqrt h d a => [h.bits ++ 322#10 ++ d ++ a ++ 0#6]
  | .sfuFexp2 h d a => [h.bits ++ 323#10 ++ d ++ a ++ 0#6]
  | .sfuFlog2 h d a => [h.bits ++ 324#10 ++ d ++ a ++ 0#6]
  | .sfuFsin h d a => [h.bits ++ 325#10 ++ d ++ a ++ 0#6]
  | .sfuFcos h d a => [h.bits ++ 326#10 ++ d ++ a ++ 0#6]
  | .sfuFtanh h d a => [h.bits ++ 327#10 ++ d ++ a ++ 0#6]
  | .sfuFdiv h d a b => [h.bits ++ 328#10 ++ d ++ a ++ b]
  | .cvtF32I32 h d a => [h.bits ++ 336#10 ++ d ++ a ++ 0#6]
  | .cvtF32N32 h d a => [h.bits ++ 337#10 ++ d ++ a ++ 0#6]
  | .cvtI32F32 h d a => [h.bits ++ 338#10 ++ d ++ a ++ 0#6]
  | .cvtN32F32 h d a => [h.bits ++ 339#10 ++ d ++ a ++ 0#6]
  | .cvtF32F16 h d a => [h.bits ++ 340#10 ++ d ++ a ++ 0#6]
  | .cvtF16F32 h d a => [h.bits ++ 341#10 ++ d ++ a ++ 0#6]
  | .cvtF32Bf16 h d a => [h.bits ++ 342#10 ++ d ++ a ++ 0#6]
  | .cvtBf16F32 h d a => [h.bits ++ 343#10 ++ d ++ a ++ 0#6]
  | .cvtF32E4m3 h d a s => [h.bits ++ 344#10 ++ d ++ a ++ 0#4 ++ s]
  | .cvtE4m3F32 h d a s => [h.bits ++ 345#10 ++ d ++ a ++ 0#4 ++ s]
  | .cvtF32E5m2 h d a s => [h.bits ++ 346#10 ++ d ++ a ++ 0#4 ++ s]
  | .cvtE5m2F32 h d a s => [h.bits ++ 347#10 ++ d ++ a ++ 0#4 ++ s]
  | .cvtF32E2m1 h d a s => [h.bits ++ 348#10 ++ d ++ a ++ 0#3 ++ s]
  | .cvtE2m1F32 h d a s => [h.bits ++ 349#10 ++ d ++ a ++ 0#3 ++ s]
  | .cvtF32S20 h d a => [h.bits ++ 350#10 ++ d ++ a ++ 0#6]
  | .cvtS20F32 h d a => [h.bits ++ 351#10 ++ d ++ a ++ 0#6]
  | .lanePick h d a b => [h.bits ++ 352#10 ++ d ++ a ++ b]
  | .laneBack h d a b => [h.bits ++ 353#10 ++ d ++ a ++ b]
  | .laneFwd h d a b => [h.bits ++ 354#10 ++ d ++ a ++ b]
  | .laneFlip h d a b => [h.bits ++ 355#10 ++ d ++ a ++ b]
  | .laneAny h d a => [h.bits ++ 356#10 ++ d ++ a ++ 0#6]
  | .laneEvery h d a => [h.bits ++ 357#10 ++ d ++ a ++ 0#6]
  | .laneMask h d a => [h.bits ++ 358#10 ++ d ++ a ++ 0#6]
  | .laneSum h d a => [h.bits ++ 359#10 ++ d ++ a ++ 0#6]
  | .laneLeast h d a => [h.bits ++ 360#10 ++ d ++ a ++ 0#6]
  | .laneMost h d a => [h.bits ++ 361#10 ++ d ++ a ++ 0#6]
  | .laneFsum h d a => [h.bits ++ 362#10 ++ d ++ a ++ 0#6]
  | .laneFrom h d a n => [h.bits ++ 363#10 ++ d ++ a ++ 0#1 ++ n]
  | .saluSadd h d a b => [h.bits ++ 368#10 ++ d ++ a ++ b.code ++ 0#3] ++ b.litWords
  | .saluSsub h d a b => [h.bits ++ 369#10 ++ d ++ a ++ b.code ++ 0#3] ++ b.litWords
  | .saluSmul h d a b => [h.bits ++ 370#10 ++ d ++ a ++ b.code ++ 0#3] ++ b.litWords
  | .saluSand h d a b => [h.bits ++ 371#10 ++ d ++ a ++ b.code ++ 0#3] ++ b.litWords
  | .saluSor h d a b => [h.bits ++ 372#10 ++ d ++ a ++ b.code ++ 0#3] ++ b.litWords
  | .saluSxor h d a b => [h.bits ++ 373#10 ++ d ++ a ++ b.code ++ 0#3] ++ b.litWords
  | .saluSshl h d a b => [h.bits ++ 374#10 ++ d ++ a ++ b.code ++ 0#3] ++ b.litWords
  | .saluSshr h d a b => [h.bits ++ 375#10 ++ d ++ a ++ b.code ++ 0#3] ++ b.litWords
  | .saluSsra h d a b => [h.bits ++ 376#10 ++ d ++ a ++ b.code ++ 0#3] ++ b.litWords
  | .saluSmin h d a b => [h.bits ++ 377#10 ++ d ++ a ++ b.code ++ 0#3] ++ b.litWords
  | .saluSmax h d a b => [h.bits ++ 378#10 ++ d ++ a ++ b.code ++ 0#3] ++ b.litWords
  | .saluSmov h d a => [h.bits ++ 379#10 ++ d ++ a ++ 0#8]
  | .saluSaddc h d a b => [h.bits ++ 380#10 ++ d ++ a ++ b.code ++ 0#3] ++ b.litWords
  | .saluScmp h k n a b x => [h.bits ++ 381#10 ++ k ++ n ++ a ++ b.code ++ x] ++ b.litWords
  | .smovS2v h d a => [h.bits ++ 384#10 ++ d ++ a ++ 0#6]
  | .smovV2s h d a n => [h.bits ++ 385#10 ++ d ++ a ++ 0#1 ++ n]
  | .grdGand h d a b => [h.bits ++ 3200#13 ++ d ++ 0#3 ++ a ++ 0#3 ++ b]
  | .grdGor h d a b => [h.bits ++ 3208#13 ++ d ++ 0#3 ++ a ++ 0#3 ++ b]
  | .grdGxor h d a b => [h.bits ++ 3216#13 ++ d ++ 0#3 ++ a ++ 0#3 ++ b]
  | .grdGnot h d a => [h.bits ++ 3224#13 ++ d ++ 0#3 ++ a ++ 0#6]
  | .grdGmov h d a => [h.bits ++ 3232#13 ++ d ++ 0#3 ++ a ++ 0#6]
  | .grdGset h d a b => [h.bits ++ 3240#13 ++ d ++ a ++ 0#1 ++ b]
  | .grdGtov h d a => [h.bits ++ 406#10 ++ d ++ 0#3 ++ a ++ 0#6]
  | .csrRdsr h d a b => [h.bits ++ 416#10 ++ d ++ a ++ b]
  | .csrWrsr h d a b => [h.bits ++ 417#10 ++ d ++ a ++ b]
  | .csrRdsrs h d a b => [h.bits ++ 418#10 ++ d ++ a ++ b]
  | .csrWrsrs h d a b => [h.bits ++ 419#10 ++ d ++ a ++ b]
  | .ldB8 h s d a o => [h.bits ++ 27#6 ++ BitVec.ofBool s ++ 0#3 ++ d ++ a ++ o]
  | .ldB8s h s d a o => [h.bits ++ 27#6 ++ BitVec.ofBool s ++ 1#3 ++ d ++ a ++ o]
  | .ldB16 h s d a o => [h.bits ++ 27#6 ++ BitVec.ofBool s ++ 2#3 ++ d ++ a ++ o]
  | .ldB16s h s d a o => [h.bits ++ 27#6 ++ BitVec.ofBool s ++ 3#3 ++ d ++ a ++ o]
  | .ldB32 h s d a o => [h.bits ++ 27#6 ++ BitVec.ofBool s ++ 4#3 ++ d ++ a ++ o]
  | .ldB64 h s d a o => [h.bits ++ 27#6 ++ BitVec.ofBool s ++ 5#3 ++ d ++ a ++ o]
  | .ldB128 h s d a o => [h.bits ++ 27#6 ++ BitVec.ofBool s ++ 6#3 ++ d ++ a ++ o]
  | .stB8 h d a o => [h.bits ++ 448#10 ++ d ++ a ++ o]
  | .stB16 h d a o => [h.bits ++ 450#10 ++ d ++ a ++ o]
  | .stB32 h d a o => [h.bits ++ 452#10 ++ d ++ a ++ o]
  | .stB64 h d a o => [h.bits ++ 453#10 ++ d ++ a ++ o]
  | .stB128 h d a o => [h.bits ++ 454#10 ++ d ++ a ++ o]
  | .ldsB8 h d a o => [h.bits ++ 464#10 ++ d ++ a ++ o]
  | .ldsB8s h d a o => [h.bits ++ 465#10 ++ d ++ a ++ o]
  | .ldsB16 h d a o => [h.bits ++ 466#10 ++ d ++ a ++ o]
  | .ldsB16s h d a o => [h.bits ++ 467#10 ++ d ++ a ++ o]
  | .ldsB32 h d a o => [h.bits ++ 468#10 ++ d ++ a ++ o]
  | .ldsB64 h d a o => [h.bits ++ 469#10 ++ d ++ a ++ o]
  | .ldsB128 h d a o => [h.bits ++ 470#10 ++ d ++ a ++ o]
  | .stsB8 h d a o => [h.bits ++ 480#10 ++ d ++ a ++ o]
  | .stsB16 h d a o => [h.bits ++ 482#10 ++ d ++ a ++ o]
  | .stsB32 h d a o => [h.bits ++ 484#10 ++ d ++ a ++ o]
  | .stsB64 h d a o => [h.bits ++ 485#10 ++ d ++ a ++ o]
  | .stsB128 h d a o => [h.bits ++ 486#10 ++ d ++ a ++ o]
  | .ldp h k d a o => [h.bits ++ 62#7 ++ k ++ d ++ a ++ o]
  | .ldpF32 h k d a o => [h.bits ++ 63#7 ++ k ++ d ++ a ++ o]
  | .updAdd h d a o => [h.bits ++ 512#10 ++ d ++ a ++ o]
  | .updFadd h d a o => [h.bits ++ 513#10 ++ d ++ a ++ o]
  | .updMin h d a o => [h.bits ++ 514#10 ++ d ++ a ++ o]
  | .updMax h d a o => [h.bits ++ 515#10 ++ d ++ a ++ o]
  | .updMinn h d a o => [h.bits ++ 516#10 ++ d ++ a ++ o]
  | .updMaxn h d a o => [h.bits ++ 517#10 ++ d ++ a ++ o]
  | .updAnd h d a o => [h.bits ++ 518#10 ++ d ++ a ++ o]
  | .updOr h d a o => [h.bits ++ 519#10 ++ d ++ a ++ o]
  | .updXor h d a o => [h.bits ++ 520#10 ++ d ++ a ++ o]
  | .updSwap h d a o => [h.bits ++ 521#10 ++ d ++ a ++ o]
  | .updCas h d a o => [h.bits ++ 522#10 ++ d ++ a ++ o]
  | .updAdd64 h d a o => [h.bits ++ 523#10 ++ d ++ a ++ o]
  | .updSwap64 h d a o => [h.bits ++ 524#10 ++ d ++ a ++ o]
  | .updCas64 h d a o => [h.bits ++ 525#10 ++ d ++ a ++ o]
  | .updcAdd h d a o => [h.bits ++ 528#10 ++ d ++ a ++ o]
  | .updcFadd h d a o => [h.bits ++ 529#10 ++ d ++ a ++ o]
  | .updcMin h d a o => [h.bits ++ 530#10 ++ d ++ a ++ o]
  | .updcMax h d a o => [h.bits ++ 531#10 ++ d ++ a ++ o]
  | .updcMinn h d a o => [h.bits ++ 532#10 ++ d ++ a ++ o]
  | .updcMaxn h d a o => [h.bits ++ 533#10 ++ d ++ a ++ o]
  | .updcAnd h d a o => [h.bits ++ 534#10 ++ d ++ a ++ o]
  | .updcOr h d a o => [h.bits ++ 535#10 ++ d ++ a ++ o]
  | .updcXor h d a o => [h.bits ++ 536#10 ++ d ++ a ++ o]
  | .updcSwap h d a o => [h.bits ++ 537#10 ++ d ++ a ++ o]
  | .updcCas h d a o => [h.bits ++ 538#10 ++ d ++ a ++ o]
  | .updcAdd64 h d a o => [h.bits ++ 539#10 ++ d ++ a ++ o]
  | .updcSwap64 h d a o => [h.bits ++ 540#10 ++ d ++ a ++ o]
  | .updcCas64 h d a o => [h.bits ++ 541#10 ++ d ++ a ++ o]
  | .updnAdd h d a o => [h.bits ++ 544#10 ++ d ++ a ++ o]
  | .updnFadd h d a o => [h.bits ++ 545#10 ++ d ++ a ++ o]
  | .updnMin h d a o => [h.bits ++ 546#10 ++ d ++ a ++ o]
  | .updnMax h d a o => [h.bits ++ 547#10 ++ d ++ a ++ o]
  | .updnMinn h d a o => [h.bits ++ 548#10 ++ d ++ a ++ o]
  | .updnMaxn h d a o => [h.bits ++ 549#10 ++ d ++ a ++ o]
  | .updnAnd h d a o => [h.bits ++ 550#10 ++ d ++ a ++ o]
  | .updnOr h d a o => [h.bits ++ 551#10 ++ d ++ a ++ o]
  | .updnXor h d a o => [h.bits ++ 552#10 ++ d ++ a ++ o]
  | .memFenceHost h => [h.bits ++ 146800640#28]
  | .memFencePeer h => [h.bits ++ 147062784#28]
  | .memFenceSys h => [h.bits ++ 147324928#28]
  | .memPref h a o => [h.bits ++ 36032#16 ++ a ++ o]
  | .memBpref h d n => [h.bits ++ 564#10 ++ d ++ 0#2 ++ n ++ 0#6]
  | .monWaitcEq h d a o => [h.bits ++ 576#10 ++ d ++ a ++ o]
  | .monWaitcNe h d a o => [h.bits ++ 577#10 ++ d ++ a ++ o]
  | .monWaitcLt h d a o => [h.bits ++ 578#10 ++ d ++ a ++ o]
  | .monWaitcGe h d a o => [h.bits ++ 579#10 ++ d ++ a ++ o]
  | .monWaitcLtn h d a o => [h.bits ++ 580#10 ++ d ++ a ++ o]
  | .monWaitcGen h d a o => [h.bits ++ 581#10 ++ d ++ a ++ o]
  | .monWaitcChg h a o => [h.bits ++ 37248#16 ++ a ++ o]
  | .barInit h k n => [h.bits ++ 9472#14 ++ k ++ n]
  | .barInitX h k n => [h.bits ++ 9473#14 ++ k ++ n]
  | .barArr h n => [h.bits ++ 9701376#24 ++ n]
  | .barDrop h n => [h.bits ++ 9702400#24 ++ n]
  | .barWait h n => [h.bits ++ 9703424#24 ++ n]
  | .barTest h m n => [h.bits ++ 1213056#21 ++ m ++ n]
  | .barInval h m n => [h.bits ++ 1213184#21 ++ m ++ n]
  | .barArrw h n => [h.bits ++ 9706496#24 ++ n]
  | .musSet h k n => [h.bits ++ 9728#14 ++ k ++ n]
  | .musClr h n => [h.bits ++ 19924992#25 ++ n]
  | .ringInit h d n => [h.bits ++ 1277952#21 ++ d ++ n]
  | .ringAcq h k n => [h.bits ++ 39940#16 ++ k ++ 0#4 ++ n]
  | .ringRel h k n => [h.bits ++ 39944#16 ++ k ++ 0#4 ++ n]
  | .ringTake h k n => [h.bits ++ 39948#16 ++ k ++ 0#4 ++ n]
  | .ringFree h k n => [h.bits ++ 39952#16 ++ k ++ 0#4 ++ n]
  | .futFinit h a o => [h.bits ++ 40960#16 ++ a ++ o]
  | .futFput h d a o => [h.bits ++ 641#10 ++ d ++ a ++ o]
  | .futFget h d a o => [h.bits ++ 642#10 ++ d ++ a ++ o]
  | .futFpoll h d a o => [h.bits ++ 5144#13 ++ d ++ a ++ o]
  | .cpyMm h z d a b => [h.bits ++ 164#8 ++ z ++ d ++ a ++ 0#2 ++ b]
  | .cpyMs h z d a b => [h.bits ++ 165#8 ++ z ++ d ++ a ++ 0#2 ++ b]
  | .cpySm h z d a b => [h.bits ++ 166#8 ++ z ++ d ++ a ++ 0#2 ++ b]
  | .cpySs h z d a b => [h.bits ++ 167#8 ++ z ++ d ++ a ++ 0#2 ++ b]
  | .tcpySp h r q b n => [h.bits ++ 42#6 ++ BitVec.ofBool r ++ 0#7 ++ q ++ b ++ n ++ 0#2]
  | .tcpyOa h r q b n x => [h.bits ++ 42#6 ++ BitVec.ofBool r ++ 1#7 ++ q ++ b ++ n ++ x]
  | .tcpyWb h r q b n x => [h.bits ++ 42#6 ++ BitVec.ofBool r ++ 2#7 ++ q ++ b ++ n ++ x]
  | .tcpySt h r q b n => [h.bits ++ 42#6 ++ BitVec.ofBool r ++ 3#7 ++ q ++ b ++ n ++ 0#2]
  | .tcpyGath h r q b n => [h.bits ++ 42#6 ++ BitVec.ofBool r ++ 4#7 ++ q ++ b ++ n ++ 0#2]
  | .tcpyScat h r q b n => [h.bits ++ 42#6 ++ BitVec.ofBool r ++ 5#7 ++ q ++ b ++ n ++ 0#2]
  | .tcpyZero h r q n => [h.bits ++ 42#6 ++ BitVec.ofBool r ++ 6#7 ++ q ++ 0#4 ++ n ++ 0#2]
  | .seal h m k => [h.bits ++ 704512#20 ++ m ++ k]
  | .unseal h k => [h.bits ++ 5636608#23 ++ k]
  | .mma h x y t o w m b e => [h.bits ++ 88#7 ++ BitVec.ofBool x ++ BitVec.ofBool y ++ 0#1 ++ t ++ o ++ w ++ m ++ b ++ e]
  | .mmaz h x y t o w m b e => [h.bits ++ 88#7 ++ BitVec.ofBool x ++ BitVec.ofBool y ++ 1#1 ++ t ++ o ++ w ++ m ++ b ++ e]
  | .mmag h x y t o w m b e lists => [h.bits ++ 90#7 ++ BitVec.ofBool x ++ BitVec.ofBool y ++ 0#1 ++ t ++ o ++ w ++ m ++ b ++ e] ++ [lists]
  | .mmagz h x y t o w m b e lists => [h.bits ++ 90#7 ++ BitVec.ofBool x ++ BitVec.ofBool y ++ 1#1 ++ t ++ o ++ w ++ m ++ b ++ e] ++ [lists]
  | .taccTzero h t => [h.bits ++ 48234496#26 ++ t]
  | .taccTstSp h b n t => [h.bits ++ 94216#17 ++ b ++ n ++ t]
  | .taccTstMem h b n t => [h.bits ++ 94224#17 ++ b ++ n ++ t]
  | .taccTld h b n t => [h.bits ++ 94232#17 ++ b ++ n ++ t]
  | .taccTscale h x k t => [h.bits ++ 47120#16 ++ BitVec.ofBool x ++ 0#4 ++ k ++ t]
  | .taccTbias h k t => [h.bits ++ 1507968#21 ++ k ++ t]
  | .qntPi8 h d a => [h.bits ++ 752#10 ++ d ++ a ++ 0#6]
  | .qntE2m1 h d a => [h.bits ++ 753#10 ++ d ++ a ++ 0#6]
  | .taskSpawn h e k => [h.bits ++ 196608#18 ++ e ++ k]
  | .taskLaunch h e k => [h.bits ++ 196624#18 ++ e ++ k]
  | .arenaNew h e k => [h.bits ++ 200704#18 ++ e ++ k]
  | .arenaEnd h k => [h.bits ++ 6423040#23 ++ k]
  | .arenaChk h m k => [h.bits ++ 802944#20 ++ m ++ k]
  | .bsnDef h k => [h.bits ++ 6553600#23 ++ k]
  | .bsnResize h b k => [h.bits ++ 409632#19 ++ b ++ k]
  | .bsnDrop h b k => [h.bits ++ 409664#19 ++ b ++ k]
  | .bsnStat h e k => [h.bits ++ 204848#18 ++ e ++ k]
  | .pgBsn h b i k => [h.bits ++ 25608#15 ++ b ++ i ++ k]
  | .tsysInvVa h k => [h.bits ++ 6684672#23 ++ k]
  | .tsysInvAll h => [h.bits ++ 213925888#28]
  | .tsysWqpop h m d => [h.bits ++ 417856#19 ++ m ++ d]
  | .tsysWqdone h d => [h.bits ++ 3343104#22 ++ d]
  | .tsysPtld h a d => [h.bits ++ 52240#16 ++ a ++ d]
  | .tsysFrmTake h z m d => [h.bits ++ 208976#18 ++ BitVec.ofBool z ++ m ++ d]
  | .tsysFrmGive h z a => [h.bits ++ 208992#18 ++ BitVec.ofBool z ++ 0#3 ++ a]
  | .tsysMzero h z a => [h.bits ++ 209008#18 ++ BitVec.ofBool z ++ 0#3 ++ a]
  | .tsysMcopy h z a d => [h.bits ++ 26128#15 ++ BitVec.ofBool z ++ a ++ d]
  | .tsysMeterRd h e k => [h.bits ++ 209040#18 ++ e ++ k]
  | .tsysPsaveDone h => [h.bits ++ 214073344#28]
  | .tsysFaultPost h d => [h.bits ++ 3345152#22 ++ d]
  | .performLoad .. => []
  | .renew .. => []
  | .streamLoad .. => []
  | .prefetch .. => []
  | .baseDieAccess .. => []
  | .performStore .. => []
  | .performAtomic .. => []
  | .recall .. => []
  | .land .. => []
  | .spAccess .. => []
  | .enqueueHost .. => []
  | .enqueuePeer .. => []
  | .drainHost .. => []
  | .drainPeer .. => []
  | .readHost .. => []
  | .readPeer .. => []
  | .wake .. => []
  | .signal .. => []
  | .tick .. => []
  | .recover .. => []
  | .loadWriteback .. => []
  | .flashData .. => []
  | .remoteErrorCompletion .. => []
  | .pendingCauseDelivery .. => []
  | .atsCompletion .. => []
  | .priResponse .. => []
  | .atsInvalidation .. => []
  | .invalidationCompletion .. => []
  | .strokeStep .. => []
  | .monitorPoll .. => []
  | .rotation .. => []
  | .binDraw .. => []
  | .placement .. => []
  | .steal .. => []
  | .poolAgeLimit .. => []
  | .swapOut .. => []
  | .swapIn .. => []
  | .nodeRetire .. => []
  | .arenaDeath .. => []
  | .resizeLineMove .. => []
  | .bsnDropComplete .. => []
  | .pgBsnComplete .. => []
  | .frameWorkComplete .. => []
  | .bprefComplete .. => []
  | .serviceRestart .. => []
  | .saveHandlerEntry .. => []
  | .saveDeadline .. => []
  | .timeQuantum .. => []
  | .create .. => []
  | .teardown .. => []
  | .quadReturn .. => []
  | .bankReturn .. => []
  | .frameReturn .. => []
  | .preempt .. => []
  | .halt .. => []
  | .inspect .. => []
  | .grant .. => []
  | .revoke .. => []
  | .grantWithdrawn .. => []
  | .setcap .. => []
  | .usageInterval .. => []
  | .recordRelease .. => []
  | .hostWindowRead .. => []
  | .hostWindowWrite .. => []
  | .peerRequest .. => []
  | .mplLinkFail .. => []
  | .peerRouteTimeout .. => []
  | .ideIntegrityFail .. => []
  | .attestation .. => []
  | .powerOn .. => []
  | .emergencyHalt .. => []
  | .thermalThrottle .. => []
  | .correctedError .. => []
  | .uncorrectedError .. => []
  | .crewFailure .. => []
  | .coreRetire .. => []
  | .bankRetire .. => []
  | .fflagsWrite .. => []
  | .ptrootWrite .. => []
  | .awindowWrite .. => []
  | .thrashWrite .. => []
  | .csrWrite .. => []
  | .illegalEnc .. => []
  | .illegalPacket .. => []
  | .instructionFetch .. => []
  | .taccComplete .. => []
  | .thrashThrottleEnd .. => []
  | .lostFlitRetry .. => []

/-- The word an instruction occupies, 0 for a step without encoding. -/
def wordOf (i : Instr) : Word := (encode i).headD 0

/-- Little-endian bytes of a word (R1, R70). -/
def wordBytes (w : Word) : List Byte :=
  [w.extractLsb' 0 8, w.extractLsb' 8 8, w.extractLsb' 16 8, w.extractLsb' 24 8]

/-- A word from four bytes, the first in the least significant place (R1). -/
def bytesWord (b0 b1 b2 b3 : Byte) : Word := b3 ++ b2 ++ b1 ++ b0

/-- The instruction read from an instruction whose bits are `w` as the opcode table numbers them: its word is the
first of a packet whose other words are zero. -/
noncomputable def decodeTableWord (_nbits w : Nat) : Option Instr := decodeWord (BitVec.ofNat 32 w) (BitVec.ofNat 32 (w >>> 32))

end Sys2Proof
end

