-- ==== Sys2Proof/Config.lean ====
section
/-!
DEFINITION. What the manual leaves open or leaves to one module: free values, applied to the counter `State.free` or
to the operands they depend on, and constants fixed at manufacture. Every constant here is opaque: no proof can see
its value, so a claim holds whatever it is.
-/

namespace Sys2Proof

/-- A free value of `w` bits, fresh for each count (log 3). -/
opaque Config.freeBits (w : Nat) (count : Nat) : BitVec w

/-- A free natural number, fresh for each count (log 3). -/
opaque Config.freeNat (count : Nat) : Nat

/-- The result that one of the 2-ulp functions prefers for an operand, by function, rounding mode with FZ, and the operand's pattern:
the same operand gives the same result in every run (R66, R67; log 6). -/
opaque Config.sfuPick (fn mode operand : Nat) : Nat

/-- The mesh stop (row, column) of a quad; the second argument counts the replacements of that quad (R235). -/
opaque Config.meshStop (quad moves : Nat) : Nat × Nat

/-- SHA-256 of a byte string (R19, R302, R313). The manual names the function and does not define it (log 4). -/
opaque Config.sha256 (bytes : List Byte) : BitVec 256

/-- The SLH-DSA-SHA2-128f signature of a byte string under the device identity key (R313, R318; log 4). -/
opaque Config.sign (bytes : List Byte) : List Byte

/-- SLH-DSA-SHA2-128f verification of a firmware image (R317; log 4). -/
opaque Config.verify (key bytes signature : List Byte) : Bool

/-- The fused SHA-256 of the firmware's public key (R317). -/
opaque Config.fusedKey : BitVec 256

/-- The fused anti-rollback counter (R317). -/
opaque Config.antiRollback : Nat

/-- The AES-256-GCM ciphertext and tag of an image, by key and IV (R226, R296; log 5). -/
opaque Config.cipher (α : Type) (key : BitVec 256) (iv : BitVec 96) (image : α) : Nat → Byte

/-- The IV from which the seals count (R296; log 5). -/
opaque Config.ivBase : BitVec 96

/-- The sealing key, and the HBM key, in tenant key material that only the security engine unwraps (R237, R309; log 5). -/
opaque Config.sealKey (wrapped : BitVec 256) : BitVec 256
opaque Config.hbmKey (wrapped : BitVec 256) : BitVec 256

/-- The AES-XTS-256 ciphertext of a 32-byte unit, by key and tweak (R237; log 5). -/
opaque Config.aesXts (key : BitVec 256) (tweak : Nat) (unit : List Byte) : List Byte

/-- How far a sensor of the module reads from its nominal value at a time: the input in millivolts, the coolant inlet in °C and its
flow in ml/min, the module's power in watts, or a die's junction in °C (R315, R316). -/
opaque Config.sensor (which count : Nat) : Int

/-- The cycles in which firmware stalls issue while it limits the module (R314). -/
opaque Config.stalls (cycle : Nat) : Bool

/-- The module's energy, in millijoules, that the meters of its input add between two readings (R312). -/
opaque Config.measured (count : Nat) : Nat

/-- The page requests that the host allots to a virtual function (R304). -/
opaque Config.priAllocation (vf : Nat) : Nat

/-- Zorloth's certificate for the device identity key (R317). -/
opaque Config.certificate : List Byte

/-- The energy, in millijoules, that firmware's activity model adds to a partition's meter over an interval (R312). -/
opaque Config.energy (count : Nat) : Nat

end Sys2Proof
end

