-- ==== Sys2Proof/Machine/SMap.lean ====
section
/-!
DEFINITION. Sparse storage: a list of (address, value) pairs in one canonical form, addresses strictly rising and no
entry equal to 0, which is what an unlisted address reads as. HBM, host memory, scratchpads, basin lines, engine
buffers and register files are held in this form.
-/

namespace Sys2Proof.Machine

/-- Values of `w` bits by address; an unlisted address holds 0. -/
abbrev SMap (w : Nat) := List (Nat × BitVec w)

/-- The value at an address. -/
def SMap.get {w : Nat} : SMap w → Nat → BitVec w
  | [], _ => 0
  | (a, x) :: t, k => if k = a then x else SMap.get t k

/-- The map without address `k`. -/
def SMap.erase {w : Nat} : SMap w → Nat → SMap w
  | [], _ => []
  | (a, x) :: t, k => if a = k then SMap.erase t k else (a, x) :: SMap.erase t k

/-- Adds an entry before the first greater address. -/
def SMap.insert {w : Nat} : SMap w → Nat → BitVec w → SMap w
  | [], k, v => [(k, v)]
  | (a, x) :: t, k, v => if k < a then (k, v) :: (a, x) :: t else (a, x) :: SMap.insert t k v

/-- Writes a value: an entry of 0 is not listed. -/
def SMap.set {w : Nat} (m : SMap w) (k : Nat) (v : BitVec w) : SMap w :=
  if v = 0 then m.erase k else (m.erase k).insert k v

/-- Writes consecutive values from address `k` upward. -/
def SMap.setList {w : Nat} : SMap w → Nat → List (BitVec w) → SMap w
  | m, _, [] => m
  | m, k, v :: vs => SMap.setList (m.set k v) (k + 1) vs

/-- Reads `n` consecutive values from address `k` upward. -/
def SMap.getList {w : Nat} (m : SMap w) (k : Nat) : Nat → List (BitVec w)
  | 0 => []
  | n + 1 => m.get k :: SMap.getList m (k + 1) n

/-- Removes every entry of the half-open address range. -/
def SMap.clear {w : Nat} (m : SMap w) (lo hi : Nat) : SMap w := m.filter fun e => e.1 < lo || hi ≤ e.1

/-- The canonical form: addresses strictly rising and no entry 0. -/
def SMap.wf {w : Nat} : SMap w → Bool
  | [] => true
  | [(_, x)] => x != 0
  | (a, x) :: (b, y) :: t => x != 0 && decide (a < b) && SMap.wf ((b, y) :: t)

/-- Bytes by address. -/
abbrev Memory := SMap 8

/-- The canonical form of a memory. -/
abbrev Memory.wf (m : Memory) : Bool := SMap.wf m

/-- The little-endian value of a byte string (R1). -/
def leNat : List Byte → Nat
  | [] => 0
  | b :: t => b.toNat + 256 * leNat t

/-- The `n` little-endian bytes of a value (R1). -/
def leBytes (x : Nat) : Nat → List Byte
  | 0 => []
  | n + 1 => BitVec.ofNat 8 x :: leBytes (x / 256) n

end Sys2Proof.Machine
end

