-- ==== Sys2Proof/Machine/State.lean ====
section
/-!
DEFINITION. The state of one Fulutin M8 module as plain data, the reasons a step can stop, and the state at reset.
The module is the ordering machine of R246 with its cores, engines, tenants and firmware. `State.agenda` says which
step is taken next and what the outside does; when it is empty the machine takes its own next step.
-/

namespace Sys2Proof.Machine

/-- The modes of a group (R45). Mode S runs on no compute core. -/
inductive Mode where
  | u
  | t1
  | t2
  deriving DecidableEq, Repr

/-- The roles of a group (R31). -/
inductive Role where
  | copy
  | matrix
  | vector
  | service
  deriving DecidableEq, Repr

/-- The named cause codes of R285. -/
inductive Cause where
  | illegalEnc | illegalPacket | priv | role | uniformViolation | breakpoint | userTrap | repNest | reformRole
  | regBudget | fpInvalid | fpDivZero | fpOverflow | fpUnderflow | fpInexact | scaleInvalid | notPresent | protection
  | align | arenaDead | arenaTag | formatMismatch | remoteError | atsDenied | poison | otherTenant | basinUndefined
  | cisternMiss | ptFrame | spRange | thrashHold | barOverarrive | barBusy | barInvalidated | musterOversign
  | futureEmpty | futureRefill | ringMisuse | spawnDepth | spawnFootprint | copyAlign | copyDestDead | mmaFormat
  | tileBounds | bankShare | bankLost | basinBusy | sealTag | sealStale | arenaRefused | basinRecord | preempt
  | allotmentExhausted | nestedFaultLimit | saveDeadline | tenantHalt | replayDiverged | rasCorrected
  | rasUncorrected | rasHomeLost | coreRetired | replaceAdvisory
  deriving DecidableEq, Repr

/-- The mode, and the number of user handlers entered and not returned from, in which a path runs (R47, R287). -/
structure Tag where
  mode  : Mode
  depth : Nat
  deriving DecidableEq, Repr

/-- Repetition state: the repeated packet and the passes left (R124). -/
structure Rep where
  pkt  : DWord
  left : Nat
  deriving DecidableEq, Repr

/-- A path: the lanes that share a PC (R34, R37). `owed` lists the load words that these lanes have left to issue again, by
ticket (R153). -/
structure Path where
  mask : Mask
  pc   : DWord
  age  : Nat
  rot  : Nat
  rep  : Option Rep
  tag  : Tag
  owed : List Nat
  deriving DecidableEq, Repr

/-- The conditions of a condition monitor (R169). -/
inductive MonCond where
  | eq | ne | lt | ge | ltn | gen | chg
  deriving DecidableEq, Repr

/-- What a set of lanes waits for (R38, R153). `deferred` is ready, and so is `fault`, a path whose blocked word has failed
(R171, R174). -/
inductive Cond where
  | deferred
  | counters (ld st cp tl : BitVec 5)
  | barrier (b : BitVec 4) (phase : Bool)
  | monitor (m : Nat)
  | acq (q : BitVec 3) (k : BitVec 5)
  | take (q : BitVec 3) (k : BitVec 5)
  | reform
  | walk
  | pri (rq : Nat) (ea : DWord)
  | fault (c : Cause) (val : DWord)
  deriving DecidableEq, Repr

/-- A deferred or blocked set (R37, R38). `data` lists the flash words whose data its lanes still wait for, beside the condition
(R153). `backPc` and `backRep` are the PC and the repetition state of the word that blocked, for a fault charged to it later. -/
structure PSet where
  path    : Path
  cond    : Cond
  data    : List Nat
  backPc  : DWord
  backRep : Option Rep
  deriving DecidableEq, Repr

/-- The outstanding counters (R26, R156). -/
inductive Counter where
  | ld | st | cp | tl
  deriving DecidableEq, Repr

/-- What one lane's element of an access does (R162, R249). -/
inductive ElOp where
  | load
  | store (data : List Byte)
  | atomic (fn : BitVec 4) (a b : DWord) (rm : BitVec 2) (fz : Bool)
  deriving DecidableEq, Repr

/-- One element of an access: its lane, its part of the lane's value, its byte address and length. -/
structure El where
  lane : Nat
  part : Nat
  pa   : Nat
  len  : Nat
  op   : ElOp
  deriving DecidableEq, Repr

/-- One entry of a posted-write queue or a peer FIFO (R246): the access it was, the elements of one word in one line, and
the word that an atomic returns to, 0 for a store. -/
structure QEnt where
  id   : Nat
  seq  : Nat
  els  : List El
  vpn  : Nat
  word : Nat
  ea   : Nat
  hp   : Nat
  deriving DecidableEq, Repr

/-- Why a group is in an issue stall that outlasts its word (R187, R207, R222). -/
inductive Hold where
  | arena (slot : Nat)
  | inv (accs xfers : List Nat)
  deriving DecidableEq, Repr

/-- One set of trap registers: cause with the EV bit, saved PC, value (R46, R290). -/
structure TrapRegs where
  cause : BitVec 9
  epc   : DWord
  val   : DWord
  deriving DecidableEq, Repr

/-- A group of 32 lanes (R26). `v` holds v(n) of lane l at 32·n + l; `s` holds s(n) at n; `g` holds the lane mask of
g(n) at n. `lanes` are the lanes formed with the group and `ended` those that have ended (R30, R41). `dropped` lists the pages
of a waiting `mem.pref` or `mem.bpref` for which a cause has been posted (R167, R168). -/
structure Group where
  id      : Nat
  tn      : Nat
  crew    : Nat
  num     : Nat
  core    : Nat
  slot    : Bool
  role    : Role
  budget  : Nat
  mode    : Mode
  depth   : Nat
  lanes   : Mask
  ended   : Mask
  v       : SMap 32
  s       : SMap 32
  g       : SMap 32
  path    : Path
  sets    : List PSet
  saves   : List (Tag × Option Rep)
  ld      : Nat
  st      : Nat
  cp      : Nat
  tl      : Nat
  ltime   : Nat
  due     : Nat
  fmode   : BitVec 8
  fflags  : BitVec 5
  utvec   : DWord
  utrap   : TrapRegs
  t1trap  : TrapRegs
  t2trap  : TrapRegs
  pend    : List (Cause × DWord)
  dropped : List Nat
  csrw    : Option (BitVec 12 × Word)
  hold    : Option Hold
  charge  : Option (Cause × DWord)
  hostQ   : List QEnt
  peerQ   : List (Nat × QEnt)
  age     : Nat
  ages    : Nat
  seq     : Nat
  notTill : Nat
  since   : Nat
  saving  : Option Nat
  deadAt  : Nat
  restart : Option Nat
  stopped : Bool
  deriving DecidableEq, Repr

/-- The chain in issue: the PC of the word, the PC past the chain, the word, the three words of its packet, whether the
chain has stopped, whether the word has set its path's PC itself, whether the word did not issue (an issue stall), whether
that holds back the whole chain whatever its earlier words did, and the lanes that leave the path after the chain, with
the flash word whose data they wait for (R153). -/
structure Ctx where
  pc      : DWord
  next    : DWord
  word    : Word
  pkt     : List Word
  stop    : Bool
  moved   : Bool
  stalled : Bool
  whole   : Bool
  leave   : List (Mask × Nat)
  deriving DecidableEq, Repr

/-- A barrier (R172). `unobs` counts arrivals whose signal is not yet observable and `t` is the logical time of the
phase (R256); `doneT` and `doneC` are those of the most recent completion. -/
structure Barrier where
  valid     : Bool
  exp       : Nat
  xfer      : Bool
  arr       : Nat
  phase     : Bool
  drops     : Nat
  att       : Nat
  cancelled : Bool
  unobs     : Nat
  t         : Nat
  doneT     : Nat
  doneC     : Bool
  last      : List (Nat × Bool)
  deriving DecidableEq, Repr

/-- The fields that a muster's first signature fixes (R198), and the groups that have signed. -/
structure Signed where
  zero    : Bool
  gath    : Bool
  ta      : BitVec 2
  oa      : BitVec 2
  wb      : BitVec 2
  bar     : Option (BitVec 4)
  bb      : BitVec 4
  ef      : BitVec 5
  lists   : Word
  alist   : List (BitVec 16)
  clist   : List (BitVec 16)
  core    : Nat
  grps    : List Nat
  deriving DecidableEq, Repr

/-- A muster (R176). -/
structure Muster where
  count  : Nat
  signs  : Nat
  signed : Option Signed
  deriving DecidableEq, Repr

/-- The states of a ring stage (R177). -/
inductive StageState where
  | empty | held | pending | full | taken
  deriving DecidableEq, Repr

/-- A stage of a ring: its state, its phase bit, its attached copies, whether its release's signal is still
unobservable, and the logical time it carries (R177, R256). -/
structure Stage where
  st     : StageState
  phase  : Bool
  copies : Nat
  unobs  : Bool
  t      : Nat
  deriving DecidableEq, Repr

/-- A stage ring (R177). -/
structure Ring where
  valid  : Bool
  stages : List Stage
  pi     : Nat
  ci     : Nat
  held   : List Nat
  taken  : List Nat
  deriving DecidableEq, Repr

/-- One lane filed in a reform bin (R40). -/
structure Filed where
  pc : DWord
  v  : SMap 32
  g  : BitVec 8
  deriving DecidableEq, Repr

/-- A reform bin (R40, R41): `num` and `s` come from the lowest-numbered group that filed, `t` is the largest ltime. -/
structure Bin where
  key   : DWord
  first : Nat
  filed : List Filed
  num   : Nat
  s     : SMap 32
  t     : Nat
  deriving DecidableEq, Repr

/-- The life of a crew: placed, asked to stop, its save handler queued or running, or exited, with words of it still in flight
that use its window and engine buffers (R30, R256). -/
inductive CrewLife where
  | running | stopping | saving | exited
  deriving DecidableEq, Repr

/-- A memory class of R248. -/
inductive Cls where
  | device
  | scratch
  | host
  | peer (dev : Nat)
  | flash
  deriving DecidableEq, Repr

/-- A translated place: class, home, byte address in that class, and what the leaf says of it. For scratchpad, `pa` is
the crew's offset and the crew stands in `key.tn`; `hp` is the host virtual page of a host place (R276). -/
structure Loc where
  cls : Cls
  key : HomeKey
  pa  : Nat
  vpn : Nat
  fm  : Nat
  ms  : Bool
  pin : Bool
  va  : Nat
  hp  : Nat
  deriving DecidableEq, Repr

/-- A condition monitor, held in its line's table or by its path (R169, R170). `met` is the wts of the write that
satisfied it, and `rearm` tells that the next reload arms it at its line's home again (R170, R171). -/
structure Monitor where
  id    : Nat
  grp   : Nat
  ea    : DWord
  loc   : Loc
  table : Bool
  cond  : MonCond
  x     : Word
  w     : Word
  poll  : Nat
  rearm : Bool
  met   : Option Nat
  deriving DecidableEq, Repr

/-- A placed crew, or the pseudo-crew of one service group (R26, R32). `units` lists, for each core of its set, the
4 KiB units of that core's scratchpad that hold its window (R229). `freeNums` are the numbers of vector slots that
reform has freed, with core and age (R41), and `mons` are the monitors that pre-emption has released (R171). -/
structure Crew where
  id       : Nat
  tn       : Nat
  node     : Nat
  service  : Bool
  idx      : Nat
  x        : Nat
  y        : Nat
  z        : Nat
  base     : Nat
  width    : Nat
  scratch  : Nat
  units    : List (List Nat)
  matrix   : List Nat
  bars     : List Barrier
  musters  : List Muster
  rings    : List Ring
  bins     : List Bin
  freeNums : List (Nat × Nat × Nat)
  life     : CrewLife
  mons     : List Monitor
  deriving DecidableEq, Repr

/-- A launch record as its fields (R104), with its capture extension (R302). -/
structure LaunchRec where
  entry   : DWord
  arg     : DWord
  gx      : Nat
  gy      : Nat
  gz      : Nat
  width   : Nat
  prio    : Nat
  nCopy   : Nat
  nMat    : Nat
  nVec    : Nat
  bCopy   : Nat
  bMat    : Nat
  bVec    : Nat
  scratch : Nat
  arena   : Nat
  future  : DWord
  basin   : Nat
  flags   : BitVec 8
  rsvd    : Bool
  capBuf  : Nat
  capLen  : Nat
  capMode : Nat
  capRsvd : Bool
  deriving DecidableEq, Repr

/-- What capture records (R303). -/
inductive CapEvent where
  | place (crew core : Nat)
  | steal (src dst : Nat)
  | digest (page : Nat) (h : BitVec 256)
  | remote (crew num seq addr : Nat) (value : List Byte)
  | order (line : Nat) (crew num seq : Nat)
  deriving DecidableEq, Repr

/-- A node's capture or replay in progress (R302, R303): `log` is what is recorded, or what is left to replay. -/
structure Capture where
  replay : Bool
  log    : List CapEvent
  used   : Nat
  status : Nat
  pages  : List Nat
  deriving DecidableEq, Repr

/-- A node of the task graph (R43). `slot` and `ext` are the places at which its
completion future and its capture extension were found, and `buf` those of the pages of its capture buffer. -/
structure Node where
  id      : Nat
  tn      : Nat
  depth   : Nat
  recVa   : DWord
  lr      : LaunchRec
  arena   : Option Nat
  start   : Nat
  utvec   : DWord
  total   : Nat
  exited  : Nat
  visible : Bool
  fill    : BitVec 8
  tmax    : Nat
  slot    : Option Loc
  ext     : Option Loc
  buf     : List Loc
  cap     : Option Capture
  deriving DecidableEq, Repr

/-- Unplaced crews of one node in one die's pool: crew indices `lo` up to, not including, `hi` (R320, R325). -/
structure PoolEnt where
  tn    : Nat
  die   : Nat
  node  : Nat
  lo    : Nat
  hi    : Nat
  enter : Nat
  since : Nat
  first : Bool
  deriving DecidableEq, Repr

/-- The content tag of an operand buffer or a weight-buffer bank (R189). -/
structure BufTag where
  code   : Nat
  planes : Nat
  scaled : Bool
  deriving DecidableEq, Repr

/-- A core's matrix engine (R188, R189): `oa` holds byte `b` of oaN at 40,960·N + b (the scale side from 32,768), `wb`
byte `b` of wbN at 65,536·N + b, `ta` word `w` of taN at 16,384·N + w. `poisoned` lists the buffers that hold
poison: oa0 to oa3 as 0 to 3, wb as 4 to 7, ta as 8 to 11 (R299). -/
structure Engine where
  oa       : SMap 8
  wb       : SMap 8
  ta       : SMap 32
  oaTag    : List (Nat × BufTag)
  wbTag    : List (Nat × BufTag)
  poisoned : List Nat
  deriving DecidableEq, Repr

/-- A stroke: its fields, lists, next step and the groups that signed it (R198 to R200). -/
structure Stroke where
  f     : Signed
  step  : Nat
  stop  : Bool
  deriving DecidableEq, Repr

/-- The kinds of an access (R250). -/
inductive AKind where
  | load | stream | pref | store | atomic | crewAtomic
  deriving DecidableEq, Repr

/-- An access issued and not performed: the elements of one word in one line (R155, R246). -/
structure Access where
  id    : Nat
  word  : Nat
  grp   : Nat
  core  : Nat
  tn    : Nat
  seq   : Nat
  lanes : Mask
  kind  : AKind
  cls   : Cls
  key   : HomeKey
  pa    : Nat
  els   : List El
  vpn   : Nat
  user  : Bool
  pin   : Bool
  va    : Nat
  hp    : Nat
  deriving DecidableEq, Repr

/-- What a word does when its accesses have performed (R156, R159, R161, R162, R219). -/
inductive WKind where
  | load (d size : Nat) (signed : Bool)
  | planes (d k : Nat) (deq : Bool)
  | atomic (d size : Nat) (float : Bool)
  | store
  | none
  deriving DecidableEq, Repr

/-- A memory word that has issued and not completed: the values its lanes have received, and the lanes whose element
failed (R154, R156). `away` counts the sets of lanes that are to issue the load word again, under its `ticket`; the word
keeps its counter raised while there are some (R153). -/
structure PendWord where
  id    : Nat
  grp   : Nat
  seq   : Nat
  kind  : WKind
  ctr   : Counter
  mask  : Mask
  got   : List (Nat × Nat × List Byte)
  fails : Mask
  flags : List (Nat × BitVec 6)
  ticket : Nat
  away  : Nat
  deriving DecidableEq, Repr

/-- One element of a `cpy` word (R182). -/
structure CpyEl where
  lane : Nat
  src  : Loc
  dst  : Loc
  deriving DecidableEq, Repr

/-- A tile record as its fields (R190). -/
structure TileRec where
  far    : DWord
  stride : Nat
  rows   : Nat
  cols   : Nat
  planes : Nat
  code   : Nat
  near   : Word
  erows  : Nat
  ecols  : Nat
  list   : Nat
  core   : Nat
  mask   : Bool
  trans  : Bool
  rsvd   : Bool
  deriving DecidableEq, Repr

/-- What an engine word in flight does at its landing (R192, R202, R203, R221, R168, R211 to R214). `map` lists the
4 KiB pages the word touches with their places. -/
inductive XKind where
  | cpy (size : Nat) (els : List CpyEl)
  | tileIn (dest : Nat) (buf : Nat) (r : TileRec) (idx : List (BitVec 16)) (map : List (Nat × Loc))
  | tileOut (r : TileRec) (idx : List (BitVec 16)) (scat : Bool) (map : List (Nat × Loc))
  | tileZero (r : TileRec)
  | taccZero (ta : Nat)
  | taccSp (ta : Nat) (r : TileRec)
  | taccMem (ta : Nat) (r : TileRec) (map : List (Nat × Loc))
  | taccLd (ta : Nat) (r : TileRec) (map : List (Nat × Loc))
  | taccScale (ta : Nat) (row : Bool) (off : Nat)
  | taccBias (ta : Nat) (u wv : Nat)
  | stroke (k : Stroke)
  | frames (copy : Bool) (fs : List (Nat × Nat))
  | bpref (keys : List (HomeKey × Nat))
  | bsnResize (id : Nat)
  | bsnDrop (id : Nat)
  | pgBsn (lo hi : Nat) (bs : Nat) (frames : List Nat)
  deriving DecidableEq, Repr

/-- A range of the range scoreboard (R184, R195). -/
structure SbEnt where
  crew : Nat
  lo   : Nat
  hi   : Nat
  dest : Bool
  deriving DecidableEq, Repr

/-- An engine word in flight. The list of them stands in issue order (R189). `held` marks a stroke stopped by pre-emption
and the engine words of its crew that keep their place behind it (R291); `lost` lists the 128-byte lines of host or peer memory,
by address, whose transfer ended in a completion error (R154), and `skip` the delivered rows whose entry of the index list was
poison at issue (R193, R299). -/
structure Xfer where
  id     : Nat
  grp    : Nat
  core   : Nat
  crew   : Nat
  tn     : Nat
  seq    : Nat
  kind   : XKind
  claims : List HomeKey
  sb     : List SbEnt
  lines  : Nat
  bar    : Option (BitVec 4 × Bool)
  ring   : Option (BitVec 3 × Nat)
  ctr    : Option Counter
  t      : Nat
  user   : Bool
  held   : Bool
  lost   : List Nat
  skip   : List Nat
  deriving DecidableEq, Repr

/-- What a completion signal does once it is observable (R256); that of a task word carries the largest of the logical
time at which the word issued and the timestamps of what the signal has waited for (R247, R256; log 98). -/
inductive SigKind where
  | arrive (crew : Nat) (bar : BitVec 4)
  | release (crew : Nat) (ring : BitVec 3) (stage : Nat)
  | fput (a : Access)
  | node (nd t : Nat)
  deriving DecidableEq, Repr

/-- A completion signal not yet observable (R256): the accesses, the copies and the earlier puts that it waits for. -/
structure Signal where
  id    : Nat
  grp   : Nat
  kind  : SigKind
  accs  : List Nat
  xfers : List Nat
  sigs  : List Nat
  deriving DecidableEq, Repr

/-- The home of a resident basin line, or of a base-die line whose data is in HBM (R233, R246). -/
structure Home where
  key    : HomeKey
  data   : SMap 8
  dirty  : Bool
  wts    : Nat
  rts    : Nat
  owner  : Option Nat
  stamp  : Nat
  old    : Bool
  deriving DecidableEq, Repr

/-- The summary pair of a slice (R233). -/
structure SliceSum where
  tn   : Nat
  bs   : Nat
  bank : Nat
  wts  : Nat
  rts  : Nat
  deriving DecidableEq, Repr

/-- A line held in an L1: a lease copy, a flash line, or an exclusive line (R230, R254). -/
structure L1Line where
  key   : HomeKey
  pa    : Nat
  data  : SMap 8
  wts   : Nat
  lease : Nat
  rts   : Nat
  excl  : Bool
  flash : Bool
  stamp : Nat
  deriving DecidableEq, Repr

/-- An exclusive line on its way from an L1 to its home (R255). -/
structure WriteBack where
  key   : HomeKey
  pa    : Nat
  data  : SMap 8
  wts   : Nat
  rts   : Nat
  deriving DecidableEq, Repr

/-- A cached translation (R231). `leaf` is the leaf as installed, `va` the page's first address, `user` the mode bit of
a TC entry's tag, `host` the ATS completion of a host page: the TC entry that holds one is of that 4 KiB page alone (R276). -/
structure Xent where
  tn    : Nat
  va    : Nat
  level : Nat
  leaf  : DWord
  user  : Bool
  pin   : Bool
  die   : Nat
  host  : Option (Nat × Bool)
  stamp : Nat
  deriving DecidableEq, Repr

/-- A group that waits on a walk entry, with the faulting address that a posted cause gives: of a word at issue, or of the fetch of
its packet (R72, R218, R288); a prefetch, whose lanes are dropped without a fault, has none (R167, R168). `refused` is the fault that answers in the place of a
posted cause: that of a launch record whose capture buffer is not mapped (R103, R302). -/
structure Waiter where
  grp     : Nat
  ea      : Option DWord
  fetch   : Bool
  refused : Option (Cause × DWord)
  deriving DecidableEq, Repr

/-- An entry of a core's walk queue (R216, R270). -/
structure Walk where
  token  : BitVec 32
  vpn    : Nat
  write  : Bool
  fetch  : Bool
  user   : Bool
  arena  : Bool
  basin  : Nat
  served : Bool
  stale  : Bool
  grps   : List Waiter
  deriving DecidableEq, Repr

/-- An ATS or PRI request outstanding (R276). `again` tells that a host invalidation has met the ATS request, whose answer is
then asked for anew (R280), and `late` that its page request waits for a free slot of the VF (R304). `user` is the mode bit of
the TC entry that the completion is stored in (R231). -/
structure HostReq where
  id    : Nat
  tn    : Nat
  core  : Nat
  user  : Bool
  page  : Nat
  vpn   : Nat
  write : Bool
  pri   : Bool
  again : Bool
  late  : Bool
  deriving DecidableEq, Repr

/-- A host ATS invalidation in progress: the accesses, queue entries and engine words it waits for (R280). -/
structure HostInv where
  id    : Nat
  tn    : Nat
  vpns  : List Nat
  accs  : List Nat
  xfers : List Nat
  deriving DecidableEq, Repr

/-- A core (R11): its resources, the chains picked in this cycle with the age of the last, the pipes and bank reads taken
in this cycle and those held into the next (R78, R332), and the crews whose save handler waits for its service group
(R292). -/
structure Core where
  num    : Nat
  resetAt : Nat
  tc     : List Xent
  l1     : List L1Line
  wq     : List Walk
  token  : BitVec 32
  sp     : SMap 8
  eng    : Engine
  owner  : Option Nat
  pipes  : List Nat
  reads  : List (Nat × Nat)
  picks  : Nat
  pickAge : Nat
  heldPipes : List Nat
  heldReads : List (Nat × Nat)
  saveQ  : List Nat
  deriving DecidableEq, Repr

/-- An arena (R205, R206). `dying` lists what its death waits for (R328). -/
structure Arena where
  slot   : Nat
  gen    : BitVec 16
  base   : Nat
  len    : Nat
  owner  : Nat
  frames : List Nat
  dying  : Option (List Nat × List Nat)
  deriving DecidableEq, Repr

/-- A basin (R210 to R213). `old` is the bank set that a running resize leaves. -/
structure Basin where
  defn  : BasinRec
  old   : Option (BitVec 64)
  drop  : Bool
  lost  : Bool
  deriving DecidableEq, Repr

/-- A save counter, keyed by the launch record's address and the crew's indices (R298). -/
structure SaveCtr where
  recVa : DWord
  x     : Nat
  y     : Nat
  z     : Nat
  count : Nat
  live  : Bool
  deriving DecidableEq, Repr

/-- A page of the thrash detector (R245). -/
structure Thrash where
  vpn   : Nat
  frame : Nat
  die   : Nat
  count : Nat
  start : Nat
  till  : Nat
  stamp : Nat
  deriving DecidableEq, Repr

/-- A leaf as it was last installed for its pages on a die: what tells a migration from another install (R245), and which of the
tenant's lines a retargeted range may have in a basin (R214). `live` ends with the arena that the leaf maps (R207): the leaf then
places nothing any more, and still tells a migration. -/
structure Installed where
  va    : Nat
  level : Nat
  leaf  : DWord
  die   : Nat
  live  : Bool
  deriving DecidableEq, Repr

/-- A usage record (R313); its hash is made when it is written to the host's buffer. -/
structure UsageRec where
  kind   : Nat
  seq    : Nat
  flags  : Nat
  from_  : Nat
  till   : Nat
  meters : List Nat
  code   : BitVec 8
  reason : BitVec 16
  core   : Nat
  pc     : DWord
  count  : Nat
  hash   : BitVec 256
  deriving DecidableEq, Repr

/-- The life of a partition: running, halted (R281), inspected (R283), its teardown begun and waiting for the VF's
invalidations, its storage on the way back to firmware (R311). -/
inductive Life where
  | live | halted | inspected | stopping | ending
  deriving DecidableEq, Repr

/-- A tenant and its partition: allotment, CSRs of its own, keys, translations, arenas, basins, meters and records. `keys` is the
key material that the security engine holds while the partition exists (R237, R310, R311). -/
structure Tenant where
  id       : Nat
  tid      : BitVec 32
  vf       : Nat
  life     : Life
  quads    : List Nat
  banks    : List (Nat × BitVec 64)
  wHbm     : Nat
  wCopy    : Nat
  wWalk    : Nat
  ptroot   : DWord
  cistern  : DWord
  cisterns : Word
  awbase   : DWord
  awsize   : Word
  soff     : DWord
  allot    : Nat
  used     : List Nat
  free     : List Nat
  tstat    : BitVec 8
  tperm    : BitVec 3
  thrash   : Word
  actbase  : DWord
  keyslot  : BitVec 4
  keys     : Option (BitVec 256)
  deadline : Nat
  tvec     : DWord
  winBase  : Nat
  winBits  : Nat
  flashGBs : Nat
  flash    : List Nat
  stc      : List Xent
  arenas   : List Arena
  genCtr   : BitVec 16
  basins   : List Basin
  meters   : List Nat
  saves    : List SaveCtr
  events   : List (Cause × DWord)
  pages    : List Thrash
  leaves   : List Installed
  interval : Nat
  nextRec  : Nat
  lastRec  : Nat
  seq      : Nat
  hash     : BitVec 256
  creation : BitVec 256
  held     : List UsageRec
  signed   : Nat
  throttled : Bool
  pasid    : Nat
  atsOff   : Bool
  deriving DecidableEq, Repr

/-- A pre-empted crew as its image holds it (R297): the crew, its groups, its scratchpad window, its engines, its stopped strokes with
what they hold back: engine words, completion signals, and the words of its puts. -/
structure Image where
  crew    : Crew
  groups  : List Group
  window  : SMap 8
  engines : List (Nat × Engine)
  strokes : List Xfer
  sigs    : List Signal
  words   : List PendWord
  mons    : List Monitor
  forced  : Bool
  deriving DecidableEq, Repr

/-- A sealed image: the bytes the engine wrote, and what they hold (R226, R296). -/
structure Sealed where
  tn    : Nat
  stamp : Nat
  bytes : List Byte
  count : Nat
  recVa : DWord
  image : Image
  deriving DecidableEq, Repr

/-- A resumed crew waiting in a pool (R227, R294, R320). `bytes` is its sealed image: for a forced save it stands in memory that
firmware holds and that no software reads (R294). -/
structure Resumed where
  tn    : Nat
  die   : Nat
  saved : Nat
  since : Nat
  first : Bool
  bytes : List Byte
  image : Image
  deriving DecidableEq, Repr

/-- What the module sends to the outside: mailbox answers, host link traffic, peer answers, attestations. -/
inductive Out where
  | ready (tn : Nat) (stops : List (Nat × Nat))
  | answer (cmd : String) (res : String)
  | atsRequest (tn page : Nat) (write : Bool)
  | priRequest (tn page : Nat) (write : Bool)
  | invalidated (iv : Nat)
  | readData (vf : Nat) (data : List Byte)
  | unsupported (vf : Nat)
  | peerData (dev : Nat) (data : List Byte)
  | peerError (dev : Nat)
  | record (tn : Nat) (r : UsageRec)
  | signature (tn first count : Nat) (sig : List Byte)
  | poisoned (vf : Nat)
  | attested (fn : Nat) (nonce fw : BitVec 256) (version rollback : Nat) (health : BitVec 256) (creation : Option (BitVec 256))
      (sig : List Byte)
  | inspected (tn : Nat)
  deriving DecidableEq, Repr

/-- What the module's sensors read (R315, R316): input, coolant inlet and flow, power, and each die's junction. -/
structure Readings where
  input    : Nat
  inlet    : Nat
  flow     : Nat
  watts    : Nat
  junction : List Nat
  deriving DecidableEq, Repr

/-- The health record (R316). `moved` lists a quad once for each spare that has taken its number, which gives its mesh stop
(R235, R301); `repeats` counts the events that were already pending (R289). `throttle` lists the limits that are passed, and
`outFor` counts the cycles for which the input has been out of its range (R315). -/
structure Health where
  spareQuads : List Nat
  spareBanks : List Nat
  deadCores  : List Nat
  deadBanks  : List Nat
  moved      : List Nat
  advisory   : Bool
  corrected  : Nat
  uncorrected : Nat
  ideErrors  : Nat
  winErrors  : Nat
  flits      : Nat
  repeats    : Nat
  throttle   : List Limit
  outFor     : Nat
  readings   : Readings
  deriving DecidableEq, Repr

/-- The module as a whole: power, time, firmware, pools, the remote tiers and what it has sent out. `stall` tells that firmware
stalls issue in this cycle (R314); `self`, `domain` and `routes` are the load-store domain (R306); `recBase`, `recSize`, `recWr`
and `recRd` are the buffer of usage records in host memory, with the bytes written to it and taken from it (R312); `measured`
and `attributed` are the module's energy and what the meters of all partitions hold of it (R312). `deadQ` and `deadB` are the quads
and banks that no spare has replaced (R236, R301). -/
structure Dev where
  power    : Bool
  cycle    : Nat
  firmware : Option (BitVec 256 × Nat)
  cap      : Nat
  stall    : Bool
  self     : Nat
  domain   : List Nat
  routes   : List (Nat × Nat)
  recBase  : Nat
  recSize  : Nat
  recWr    : Nat
  recRd    : Nat
  measured : Nat
  attributed : Nat
  grants   : List Grant
  leaving  : List Grant
  ports    : List Nat
  insecure : List Nat
  refused  : List Nat
  deadQ    : List Nat
  deadB    : List Nat
  health   : Health
  host     : Memory
  peers    : List (Nat × Memory)
  flash    : Memory
  poison   : List Place
  sealed   : List Sealed
  captures : List (Nat × Nat × Nat × List CapEvent)
  outs     : List Out
  deriving DecidableEq, Repr

/-- The ordering machine's steps in flight (R246). `errs` lists the groups whose next read of host memory within a word or for a
monitor ends in a completion error (R154). -/
structure Flow where
  accs  : List Access
  words : List PendWord
  xfers : List Xfer
  sigs  : List Signal
  mons  : List Monitor
  homes : List Home
  sums  : List SliceSum
  wbs   : List WriteBack
  reqs  : List HostReq
  invs  : List HostInv
  errs  : List Nat
  deriving DecidableEq, Repr

/-- What the machine does next: a step or outside event of the table, the issue of one chain on a core, or the end of a
CCLK cycle. -/
inductive Turn where
  | event (i : Instr)
  | issue (core : Nat)
  | cycle
  deriving DecidableEq, Repr

/-- The state of the module. `cur` is the group in issue and `groups` are all the others; `hbm` holds the bytes of the
HBM stacks by physical address. `fresh` numbers what the machine creates, and `free` is the model's own counter that
the free values of `Config` are applied to. -/
structure State where
  dev     : Dev
  hbm     : Memory
  flow    : Flow
  tenants : List Tenant
  nodes   : List Node
  pool    : List PoolEnt
  resumed : List Resumed
  crews   : List Crew
  cores   : List Core
  cur     : Group
  groups  : List Group
  ctx     : Ctx
  agenda  : List Turn
  fresh   : Nat
  free    : Nat
  deriving DecidableEq, Repr

/-- Why the machine stops with a fault. -/
inductive Fault where
  /-- Raised by `step` alone, when the module is off (R9: either powered and managed, or off) and the agenda is empty, so that
  nothing is left to happen; while a turn stands in the agenda, a module that is off takes it, and every turn but
  POWER_ON then leaves the machine as it is. Safe: no effect is claimed for a module without power. -/
  | moduleOff
  deriving DecidableEq, Repr

/-- Why the machine has no meaning for an instruction. -/
inductive Refusal where
  /-- Raised by an arm of `exec` whose instruction has no meaning yet; the string is its mnemonic. Safe: nothing is
  claimed of it. -/
  | notModelled (mnemonic : String)
  deriving DecidableEq, Repr

/-- Trap registers at 0 (R29). -/
def TrapRegs.zero : TrapRegs := ⟨0, 0, 0⟩

/-- A path with no lanes. -/
def Path.blank : Path := ⟨0, 0, 0, 0, Option.none, ⟨.u, 0⟩, []⟩

/-- A group with no lanes and every register 0: what `cur` holds while no group has issued. -/
def Group.blank : Group :=
  { id := 0, tn := 0, crew := 0, num := 0, core := 0, slot := false, role := .vector, budget := 64, mode := .u,
    depth := 0, lanes := 0, ended := 0, v := [], s := [], g := [], path := Path.blank, sets := [], saves := [],
    ld := 0, st := 0, cp := 0, tl := 0, ltime := 0, due := 0, fmode := 0, fflags := 0, utvec := 0,
    utrap := TrapRegs.zero, t1trap := TrapRegs.zero, t2trap := TrapRegs.zero, pend := [], dropped := [],
    csrw := Option.none, hold := Option.none, charge := Option.none, hostQ := [], peerQ := [], age := 0, ages := 0, seq := 0, notTill := 0,
    since := 0, saving := Option.none, deadAt := 0, restart := Option.none, stopped := false }

/-- No chain in issue. -/
def Ctx.blank : Ctx := ⟨0, 0, 0, [], false, false, false, false, []⟩

/-- The health record at reset: one spare quad and two spare banks on each die (R10, R13), nothing retired. -/
def Health.reset : Health :=
  { spareQuads := List.replicate 8 1, spareBanks := List.replicate 8 2, deadCores := [], deadBanks := [], moved := [],
    advisory := false, corrected := 0, uncorrected := 0, ideErrors := 0, winErrors := 0, flits := 0, repeats := 0, throttle := [],
    outFor := 0, readings := ⟨54000, 0, 1500, 0, List.replicate 8 0⟩ }

/-- The module at power-on, before its boot ROM has run: no partition, all sixteen peer ports up (R18), every memory
reading zero, and the largest power cap (R314). -/
def Dev.reset : Dev :=
  { power := true, cycle := 0, firmware := none, cap := 3200, stall := false, self := 0, domain := [], routes := [],
    recBase := 0, recSize := 0, recWr := 0, recRd := 0, measured := 0, attributed := 0, grants := [], leaving := [], ports := List.range 16,
    insecure := [], refused := [], deadQ := [], deadB := [], health := Health.reset,
    host := [], peers := [], flash := [], poison := [], sealed := [], captures := [], outs := [] }

/-- The machine right after reset. -/
def State.reset : State :=
  { dev := Dev.reset, hbm := [],
    flow := { accs := [], words := [], xfers := [], sigs := [], mons := [], homes := [], sums := [], wbs := [], reqs := [],
              invs := [], errs := [] },
    tenants := [], nodes := [], pool := [], resumed := [], crews := [], cores := [], cur := Group.blank, groups := [],
    ctx := Ctx.blank, agenda := [], fresh := 1, free := 0 }

end Sys2Proof.Machine
end

