-- ==== Sys2Proof/Machine/Ops.lean ====
section
/-!
DEFINITION. The named operations over the state: registers of a group, lookups of groups, crews, cores and tenants, the
paths of a group (R34 to R38), taking an exception and returning from one (R45 to R47, R284 to R288), the counters
(R156) and the tenant halt state (R281, R282).
-/

namespace Sys2Proof.Machine

/-! ## Lists -/

/-- Inserts an element before the first one that it may stand before. -/
def insertOn {α : Type} (x : α) (le : α → α → Bool) : List α → List α
  | [] => [x]
  | y :: t => if le x y then x :: y :: t else y :: insertOn x le t

/-- A list in the order of `le`; equals keep their order. -/
def sortOn {α : Type} (l : List α) (le : α → α → Bool) : List α := l.foldr (fun x a => insertOn x le a) []

/-! ## Masks -/

/-- Whether lane `l` is in a mask. -/
def inMask (m : Mask) (l : Nat) : Bool := m.getLsbD l

/-- The lanes of a mask in ascending order (R7). -/
def lanesOf (m : Mask) : List Nat := lanes.filter (inMask m)

/-- The mask of the lanes that satisfy a predicate. -/
def maskOf (p : Nat → Bool) : Mask := BitVec.ofNat 32 ((lanes.filter p).foldl (fun a l => a + 2 ^ l) 0)

/-- The lowest lane of a mask, 0 for the empty mask. -/
def lowest (m : Mask) : Nat := (lanesOf m).headD 0

/-- Bits `lo` up of a value, `n` of them. -/
def bits {w : Nat} (x : BitVec w) (lo n : Nat) : BitVec n := x.extractLsb' lo n

/-- The 64-bit value of a pair, low word first (R49). -/
def pair64 (lo hi : Word) : DWord := hi ++ lo

/-- The low word of a 64-bit value (R49). -/
def lo32 (x : DWord) : Word := x.extractLsb' 0 32

/-- The high word of a 64-bit value (R49). -/
def hi32 (x : DWord) : Word := x.extractLsb' 32 32

/-! ## Registers of a group -/

/-- v(n) of lane `l` (R26). -/
def Group.getV (g : Group) (n l : Nat) : Word := g.v.get (32 * n + l)

/-- Writes v(n) in one lane. -/
def Group.putV (g : Group) (n l : Nat) (x : Word) : Group := { g with v := g.v.set (32 * n + l) x }

/-- Writes v(n) in the lanes of a mask, lane `l` receiving `f l`. -/
def Group.setV (g : Group) (n : Nat) (m : Mask) (f : Nat → Word) : Group :=
  { g with v := (lanesOf m).foldl (fun r l => r.set (32 * n + l) (f l)) g.v }

/-- The pair v(n), v(n+1) of a lane (R49). -/
def Group.getV2 (g : Group) (n l : Nat) : DWord := pair64 (g.getV n l) (g.getV (n + 1) l)

/-- Writes the pair v(n), v(n+1) in the lanes of a mask (R49). -/
def Group.setV2 (g : Group) (n : Nat) (m : Mask) (f : Nat → DWord) : Group :=
  (g.setV n m fun l => lo32 (f l)).setV (n + 1) m fun l => hi32 (f l)

/-- s(n); s0 reads 0 (R26). -/
def Group.getS (g : Group) (n : Nat) : Word := if n = 0 then 0 else g.s.get n

/-- Writes s(n); s0 ignores writes (R26). -/
def Group.setS (g : Group) (n : Nat) (x : Word) : Group := if n = 0 then g else { g with s := g.s.set n x }

/-- The pair s(n), s(n+1) (R187). -/
def Group.getS2 (g : Group) (n : Nat) : DWord := pair64 (g.getS n) (g.getS (n + 1))

/-- Writes the pair s(n), s(n+1) (R187). -/
def Group.setS2 (g : Group) (n : Nat) (x : DWord) : Group := (g.setS n (lo32 x)).setS (n + 1) (hi32 x)

/-- The lane mask of g(n); g0 reads 1 in every lane (R26). -/
def Group.getG (g : Group) (n : Nat) : Mask := if n = 0 then BitVec.allOnes 32 else g.g.get n

/-- Writes g(n) in the lanes of a mask; g0 ignores writes (R26). -/
def Group.setG (g : Group) (n : Nat) (m : Mask) (x : Mask) : Group :=
  if n = 0 then g else { g with g := g.g.set n ((g.g.get n &&& ~~~m) ||| (x &&& m)) }

/-- The lanes of the group that have not ended (R30, R143). -/
def Group.live (g : Group) : Mask := g.lanes &&& ~~~g.ended

/-- Writes one bit to g(n) in every lane that has not ended (R143, R174, R180, R208). -/
def Group.setGAll (g : Group) (n : Nat) (b : Bool) : Group := g.setG n g.live (if b then BitVec.allOnes 32 else 0)

/-- The active lanes: those of the current path (R34). -/
def Group.active (g : Group) : Mask := g.path.mask

/-- P: the active lanes whose guard is true (R79, R150). -/
def Group.lanesP (g : Group) (h : Hdr) : Mask := g.active &&& g.getG h.guard.toNat

/-! ## Counters -/

/-- The value of an outstanding counter (R156). -/
def Group.ctr (g : Group) : Counter → Nat
  | .ld => g.ld
  | .st => g.st
  | .cp => g.cp
  | .tl => g.tl

/-- Sets an outstanding counter. -/
def Group.setCtr (g : Group) (c : Counter) (n : Nat) : Group :=
  match c with
  | .ld => { g with ld := n }
  | .st => { g with st := n }
  | .cp => { g with cp := n }
  | .tl => { g with tl := n }

/-- Raises a counter by one at issue (R156). -/
def Group.raise (g : Group) (c : Counter) : Group := g.setCtr c (g.ctr c + 1)

/-- Lowers a counter by one at completion (R156). -/
def Group.lower (g : Group) (c : Counter) : Group := g.setCtr c (g.ctr c - 1)

/-- Joins a logical time into the group's clock (R246: it never decreases). -/
def Group.join (g : Group) (t : Nat) : Group := { g with ltime := max g.ltime t }

/-! ## Lookups -/

/-- A core with nothing in it (R11). -/
def Core.empty (n : Nat) : Core :=
  { num := n, resetAt := 0, tc := [], l1 := [], wq := [], token := 0, sp := [],
    eng := { oa := [], wb := [], ta := [], oaTag := [], wbTag := [], poisoned := [] }, owner := none, pipes := [],
    reads := [], picks := 0, pickAge := 0, heldPipes := [], heldReads := [], saveQ := [] }

/-- A partition with nothing in it. -/
def Tenant.blank : Tenant :=
  { id := 0, tid := 0, vf := 0, life := .ending, quads := [], banks := [], wHbm := 1, wCopy := 1, wWalk := 1, ptroot := 0,
    cistern := 0, cisterns := 0, awbase := 0, awsize := 0, soff := 0, allot := 0, used := [], free := [], tstat := 0,
    tperm := 0, thrash := 0x06400A04, actbase := 0, keyslot := 0, keys := none, deadline := 50, tvec := 0, winBase := 0, winBits := 0,
    flashGBs := 0, flash := [], stc := [], arenas := [], genCtr := 0, basins := [], meters := List.replicate 12 0,
    saves := [], events := [], pages := [], leaves := [], interval := 0, nextRec := 0, lastRec := 0, seq := 0, hash := 0,
    creation := 0, held := [], signed := 0, throttled := false, pasid := 0, atsOff := false }

/-- An invalid barrier (R172). -/
def Barrier.invalid : Barrier := ⟨false, 0, false, 0, false, 0, 0, false, 0, 0, 0, false, []⟩

/-- An unarmed muster (R176). -/
def Muster.unarmed : Muster := ⟨0, 0, none⟩

/-- An invalid ring (R177). -/
def Ring.invalid : Ring := ⟨false, [], 0, 0, [], []⟩

/-- A crew with no cores: barriers invalid, musters unarmed, rings invalid (R172, R176, R177). -/
def Crew.blank : Crew :=
  { id := 0, tn := 0, node := 0, service := true, idx := 0, x := 0, y := 0, z := 0, base := 0, width := 1, scratch := 0,
    units := [], matrix := [], bars := List.replicate 16 Barrier.invalid, musters := List.replicate 8 Muster.unarmed,
    rings := List.replicate 8 Ring.invalid, bins := [], freeNums := [], life := .running, mons := [] }

/-- A launch record of zeros. -/
def LaunchRec.zero : LaunchRec :=
  { entry := 0, arg := 0, gx := 0, gy := 0, gz := 0, width := 0, prio := 0, nCopy := 0, nMat := 0, nVec := 0, bCopy := 0,
    bMat := 0, bVec := 0, scratch := 0, arena := 0, future := 0, basin := 15, flags := 0, rsvd := false, capBuf := 0,
    capLen := 0, capMode := 0, capRsvd := false }

/-- No node: what the service group belongs to (R32). -/
def Node.blank : Node :=
  { id := 0, tn := 0, depth := 0, recVa := 0, lr := LaunchRec.zero, arena := Option.none, start := 0, utvec := 0,
    total := 0, exited := 0, visible := false, fill := 0, tmax := 0, slot := Option.none, ext := Option.none, buf := [],
    cap := Option.none }

/-- The core numbered `n`. -/
def State.core (s : State) (n : Nat) : Core := (s.cores.find? (·.num == n)).getD (Core.empty n)

/-- Changes the core numbered `n`. -/
def State.mapCore (s : State) (n : Nat) (f : Core → Core) : State :=
  if s.cores.any (·.num == n) then { s with cores := s.cores.map fun c => if c.num == n then f c else c }
  else { s with cores := s.cores ++ [f (Core.empty n)] }

/-- The tenant with an internal number. -/
def State.tenant (s : State) (id : Nat) : Tenant := (s.tenants.find? (·.id == id)).getD Tenant.blank

/-- Changes a tenant. -/
def State.mapTenant (s : State) (id : Nat) (f : Tenant → Tenant) : State :=
  { s with tenants := s.tenants.map fun t => if t.id == id then f t else t }

/-- The tenant of the group in issue. -/
def State.tn (s : State) : Tenant := s.tenant s.cur.tn

/-- The crew with an internal number. -/
def State.crew (s : State) (id : Nat) : Crew := (s.crews.find? (·.id == id)).getD Crew.blank

/-- Changes a crew. -/
def State.mapCrew (s : State) (id : Nat) (f : Crew → Crew) : State :=
  { s with crews := s.crews.map fun c => if c.id == id then f c else c }

/-- The node with an internal number. -/
def State.node (s : State) (id : Nat) : Node := (s.nodes.find? (·.id == id)).getD Node.blank

/-- Changes a node. -/
def State.mapNode (s : State) (id : Nat) (f : Node → Node) : State :=
  { s with nodes := s.nodes.map fun n => if n.id == id then f n else n }

/-- The node of the group in issue; none for the service group (R32). -/
def State.curNode (s : State) : Node := s.node (s.crew s.cur.crew).node

/-- Every group, the one in issue first. -/
def State.allGroups (s : State) : List Group := s.cur :: s.groups

/-- The group with an internal number. -/
def State.grp? (s : State) (id : Nat) : Option Group := s.allGroups.find? (·.id == id)

/-- Changes the group with an internal number. -/
def State.mapGrp (s : State) (id : Nat) (f : Group → Group) : State :=
  { s with cur := if s.cur.id == id then f s.cur else s.cur,
           groups := s.groups.map fun g => if g.id == id then f g else g }

/-- Changes every group. -/
def State.mapGrps (s : State) (f : Group → Group) : State := { s with cur := f s.cur, groups := s.groups.map f }

/-- Changes the group in issue. -/
def State.onCur (s : State) (f : Group → Group) : State := { s with cur := f s.cur }

/-- Changes the device-wide part. -/
def State.onDev (s : State) (f : Dev → Dev) : State := { s with dev := f s.dev }

/-- Changes the steps in flight. -/
def State.onFlow (s : State) (f : Flow → Flow) : State := { s with flow := f s.flow }

/-- Sends something to the outside. -/
def State.emit (s : State) (o : Out) : State := s.onDev fun d => { d with outs := d.outs ++ [o] }

/-! ## The order of use of engine buffers (R189) -/

/-- The core whose engine buffers a word uses. -/
def State.engineCore (s : State) (x : Xfer) : Option Nat :=
  match x.kind with
  | .tileIn d _ r _ _ => if d = 0 then none else some ((s.crew x.crew).base + r.core)
  | .taccZero _ | .taccSp .. | .taccMem .. | .taccLd .. | .taccScale .. | .taccBias .. | .stroke _ => some x.core
  | _ => none

/-- The buffers a word reads and those it writes: oa0 to oa3 as 0 to 3, wb as 4 to 7, ta as 8 to 11. A scaled copy at 2
planes also writes the side of the other oa of its pair, which a 2-bit stroke reads (R188, R192). -/
def Xfer.bufs (x : Xfer) : List Nat × List Nat :=
  match x.kind with
  | .tileIn 1 b r _ _ => ([], b :: if r.code = 7 ∧ r.planes = 2 then [b ^^^ 1] else [])
  | .tileIn _ b _ _ _ => ([], [4 + b])
  | .taccZero t | .taccLd t .. => ([], [8 + t])
  | .taccScale t .. | .taccBias t .. => ([8 + t], [8 + t])
  | .taccSp t .. | .taccMem t .. => ([8 + t], [])
  | .stroke k => (k.f.oa.toNat :: (4 + k.f.wb.toNat) :: (if k.f.ef = 9 then [k.f.oa.toNat ^^^ 1] else []), [8 + k.f.ta.toNat])
  | _ => ([], [])

/-- Whether a word has to wait for an earlier-issued one of its core: they share a buffer that one of them writes, or both
are strokes, which run one at a time (R189). -/
def State.engineBehind (s : State) (x y : Xfer) : Bool :=
  decide (y.id < x.id) && (s.engineCore x).isSome && s.engineCore y == s.engineCore x &&
    (y.bufs.2.any (fun b => x.bufs.1.contains b || x.bufs.2.contains b) || y.bufs.1.any x.bufs.2.contains ||
      (match x.kind, y.kind with | .stroke _, .stroke _ => true | _, _ => false))

/-- Whether an engine word is a stroke. -/
def Xfer.isStroke (x : Xfer) : Bool :=
  match x.kind with
  | .stroke _ => true
  | _ => false

/-- The engine words, of those that `mine` picks, that keep their place behind a stopped stroke: those that wait for one of `held`
(R189, R291). -/
def State.heldBehind (s : State) (mine : Xfer → Bool) : Nat → List Nat → List Nat
  | 0, held => held
  | fuel + 1, held =>
    let more := (s.flow.xfers.filter fun x => mine x && !held.contains x.id &&
      s.flow.xfers.any fun y => held.contains y.id && s.engineBehind x y).map (·.id)
    if more.isEmpty then held else s.heldBehind mine fuel (held ++ more)

/-- The strokes among the words that `mine` picks, and what waits behind them (R189, R291). -/
def State.heldWords (s : State) (mine : Xfer → Bool) : List Nat :=
  s.heldBehind mine s.flow.xfers.length ((s.flow.xfers.filter fun x => mine x && x.isStroke).map (·.id))

/-- A stopped stroke takes no step, and keeps its place (R200, R291). -/
def Xfer.hold (held : List Nat) (x : Xfer) : Xfer :=
  if !held.contains x.id then x
  else
    let k : XKind := match x.kind with
      | .stroke k => .stroke { k with stop := true }
      | k => k
    { x with held := true, kind := k }

/-- Whether an engine word stands still: a stroke stopped at a step boundary, or a word held behind one (R200, R291). -/
def Xfer.still (x : Xfer) : Bool :=
  match x.kind with
  | .stroke k => k.stop || x.held
  | _ => x.held

/-- Whether an access waits for the range scoreboard's entry of a word that stands still (R184, R291). -/
def State.spStuck (s : State) (a : Access) : Bool :=
  a.cls == .scratch && s.flow.xfers.any fun x => x.still && x.sb.any fun e => e.crew == a.key.tn &&
    a.els.any fun y => decide (y.pa < e.hi) && decide (e.lo < y.pa + y.len)

/-- Whether an access stands still, itself or behind an earlier one of its lanes (R250). -/
def State.stuck (s : State) (a : Access) : Bool :=
  s.flow.accs.any fun b => b.grp == a.grp && (b.id == a.id || (decide (b.seq < a.seq) && b.lanes &&& a.lanes != 0)) && s.spStuck b

/-- Whether a word of a tenant is in flight: an access, a posted write, a memory word, or an engine word, that does not stand
still (R282). -/
def State.inFlight (s : State) (tn : Nat) : Bool :=
  s.flow.accs.any (fun a => a.tn == tn && !s.stuck a) || s.flow.xfers.any (fun x => x.tn == tn && !x.still) ||
    s.allGroups.any fun g => g.tn == tn && (!g.hostQ.isEmpty || !g.peerQ.isEmpty || s.flow.words.any fun w =>
      w.grp == g.id && w.away == 0 && !s.flow.accs.any fun a => a.word == w.id && s.stuck a)

/-- Adds to a meter of a tenant; a halted tenant's meters stop once its words in flight have completed (R223, R282). -/
def State.meter (s : State) (tn idx n : Nat) : State :=
  s.mapTenant tn fun t =>
    if t.life = .live || s.inFlight tn then { t with meters := t.meters.mapIdx fun i m => if i = idx then m + n else m } else t

/-- A meter as it reads: the time meters count bank cycles and frame cycles within, and read in microseconds and seconds
(R223, R312). -/
def Tenant.meterOf (t : Tenant) (i : Nat) : Nat :=
  let m := t.meters.getD i 0
  if i = 9 then m / 1250 else if i = 10 then m / 1250000000 else m

/-! ## Causes -/

/-- The 8-bit code of a cause (R285). -/
def Cause.code : Cause → BitVec 8
  | .illegalEnc => 0x01 | .illegalPacket => 0x02 | .priv => 0x03 | .role => 0x04 | .uniformViolation => 0x05
  | .breakpoint => 0x06 | .userTrap => 0x07 | .repNest => 0x08 | .reformRole => 0x09 | .regBudget => 0x0A
  | .fpInvalid => 0x20 | .fpDivZero => 0x21 | .fpOverflow => 0x22 | .fpUnderflow => 0x23 | .fpInexact => 0x24
  | .scaleInvalid => 0x25 | .notPresent => 0x40 | .protection => 0x41 | .align => 0x42 | .arenaDead => 0x43
  | .arenaTag => 0x44 | .formatMismatch => 0x45 | .remoteError => 0x46 | .atsDenied => 0x47 | .poison => 0x48
  | .otherTenant => 0x49 | .basinUndefined => 0x4A | .cisternMiss => 0x4B | .ptFrame => 0x4C | .spRange => 0x4D
  | .thrashHold => 0x4E | .barOverarrive => 0x80 | .barBusy => 0x81 | .barInvalidated => 0x82
  | .musterOversign => 0x83 | .futureEmpty => 0x84 | .futureRefill => 0x85 | .ringMisuse => 0x86
  | .spawnDepth => 0x88 | .spawnFootprint => 0x89 | .copyAlign => 0xA0 | .copyDestDead => 0xA1 | .mmaFormat => 0xA2
  | .tileBounds => 0xA3 | .bankShare => 0xA4 | .bankLost => 0xA5 | .basinBusy => 0xA6 | .sealTag => 0xA7
  | .sealStale => 0xA8 | .arenaRefused => 0xA9 | .basinRecord => 0xAA | .preempt => 0xC0
  | .allotmentExhausted => 0xC1 | .nestedFaultLimit => 0xC2 | .saveDeadline => 0xC3 | .tenantHalt => 0xC4
  | .replayDiverged => 0xC5 | .rasCorrected => 0xE0 | .rasUncorrected => 0xE1 | .rasHomeLost => 0xE2
  | .coreRetired => 0xE3 | .replaceAdvisory => 0xE4

/-- The causes that mode U receives itself (R46, R285). -/
def Cause.toUser : Cause → Bool
  | .breakpoint | .userTrap | .fpInvalid | .fpDivZero | .fpOverflow | .fpUnderflow | .fpInexact | .scaleInvalid
  | .futureEmpty => true
  | _ => false

/-- The causes a walker can post: 0x40 to 0x4E but for 0x4B (R218). -/
def Cause.posted (c : BitVec 8) : Option Cause :=
  [Cause.notPresent, .protection, .align, .arenaDead, .arenaTag, .formatMismatch, .remoteError, .atsDenied, .poison,
   .otherTenant, .basinUndefined, .ptFrame, .spRange, .thrashHold].find? (·.code == c)

/-! ## PCs -/

/-- The check of a control-transfer target: bits [63:48] zero and bits [1:0] not 3 (R70). -/
def pcOk (x : DWord) : Bool := bits x 48 16 == 0 && bits x 0 2 != 3

/-- The packet address of a PC (R70). -/
def pktOf (pc : DWord) : DWord := pc &&& ~~~3#64

/-- The word index of a PC (R70). -/
def idxOf (pc : DWord) : Nat := (bits pc 0 2).toNat

/-- The address of the next packet (R70, R119). -/
def nextPkt (pc : DWord) : DWord := pktOf pc + 12

/-! ## Paths -/

/-- Inserts a set in its place by age, oldest first (R38). -/
def insertSet : List PSet → PSet → List PSet
  | [], p => [p]
  | q :: t, p => if p.path.age < q.path.age then p :: q :: t else q :: insertSet t p

/-- Whether a deferred set of equal PC may take more lanes: same mode and no repetition state (R37, R125). -/
def canMerge (p q : PSet) : Bool :=
  q.cond == .deferred && p.cond == .deferred && q.data.isEmpty && p.data.isEmpty && q.path.pc == p.path.pc && q.path.tag == p.path.tag &&
    q.path.rep.isNone && p.path.rep.isNone

/-- Adds a set, merging it into a deferred set of equal PC, which keeps the older age (R37). -/
def addSet (ps : List PSet) (p : PSet) : List PSet :=
  match ps.find? (canMerge p) with
  | some q =>
    insertSet (ps.filter fun r => !(r == q))
      { q with path := { q.path with mask := q.path.mask ||| p.path.mask, age := min q.path.age p.path.age,
                                     owed := q.path.owed ++ p.path.owed } }
  | none => insertSet ps p

/-- A path as a ready deferred set. -/
def Path.deferred (p : Path) : PSet := ⟨p, .deferred, [], p.pc, p.rep⟩

/-- The mode level in which the group runs. -/
def Group.tag (g : Group) : Tag := ⟨g.mode, g.depth⟩

/-- Whether a condition holds (R38). -/
def Cond.ready : Cond → Bool
  | .deferred | .fault .. => true
  | _ => false

/-- Whether a set is ready: its condition holds, and the flash data of its lanes has arrived (R38, R153). -/
def PSet.ready (p : PSet) : Bool := p.cond.ready && p.data.isEmpty

/-- Whether a set can become the current path: ready, and held in the group's mode (R38, R47). -/
def Group.canRun (g : Group) (p : PSet) : Bool := p.ready && p.path.tag == g.tag

/-- A larger number for a tag nested deeper (R47). -/
def Tag.level (t : Tag) : Nat := 3 * t.depth + (match t.mode with | .u => 0 | .t1 => 1 | .t2 => 2)

/-- The oldest ready set becomes the current path with a rotation count of 0 (R38); with none the group has no current
path. A set whose word has failed comes back to that word, charged with the fault. -/
def Group.resume (g : Group) : Group :=
  match g.sets.find? g.canRun with
  | some p =>
    match p.cond with
    | .fault c v =>
      { g with path := { p.path with rot := 0, pc := p.backPc, rep := p.backRep }, sets := g.sets.erase p, charge := some (c, v) }
    | _ => { g with path := { p.path with rot := 0 }, sets := g.sets.erase p }
  | none => g

/-- Removes the repetition state set aside for a mode level. -/
def Group.dropSave (g : Group) (t : Tag) : List (Tag × Option Rep) := g.saves.filter fun e => !(e.1 == t)

/-- The highest mode level in which sets are held. -/
def Group.topTag (g : Group) : Option Tag :=
  g.sets.foldl (fun m p => match m with
    | none => some p.path.tag
    | some t => if t.level < p.path.tag.level then some p.path.tag else some t) none

/-- When the current path has no lane left: the oldest ready set runs; if no set is held in the group's mode, the group
takes the mode in which its remaining paths are held (R38, R47). -/
def Group.next (g : Group) : Group :=
  if g.path.mask ≠ 0 then g
  else if g.sets.any (·.path.tag == g.tag) then g.resume
  else match g.topTag with
    | some t => Group.resume { g with mode := t.mode, depth := t.depth }
    | none => g

/-- A fresh age for a set, younger than every set before it (R36). -/
def Group.newAge (g : Group) : Nat × Group := (g.ages, { g with ages := g.ages + 1 })

/-- The current path becomes the youngest deferred set, and the oldest ready set becomes current with a rotation count
of 0; the same path if no other is ready (R38). -/
def Group.rotate (g : Group) : Group :=
  let p := { g.path with age := g.ages, rot := 0 }
  let g' := { g with ages := g.ages + 1, sets := addSet g.sets p.deferred, path := { p with mask := 0 } }
  g'.resume

/-- Ready deferred sets at the current PC join the active lanes, and the rotation count returns to 0 (R37). -/
def Group.joinSets (g : Group) : Group :=
  let js := g.sets.filter fun p => g.canRun p && canMerge g.path.deferred p
  if js.isEmpty then g
  else { g with sets := g.sets.filter fun p => !(js.contains p),
                path := { g.path with mask := js.foldl (fun m p => m ||| p.path.mask) g.path.mask, rot := 0,
                                      age := js.foldl (fun a p => min a p.path.age) g.path.age,
                                      owed := g.path.owed ++ js.flatMap (·.path.owed) } }

/-- A path moved past the chain at `pc`: a repeated packet starts again while passes are left (R73, R124). -/
def Path.advance (p : Path) (pc next : DWord) : Path :=
  match p.rep with
  | some r =>
    if pktOf pc = r.pkt ∧ next = r.pkt + 12 then
      if r.left ≤ 1 then { p with pc := next, rep := none } else { p with pc := r.pkt, rep := some { r with left := r.left - 1 } }
    else { p with pc := next }
  | none => { p with pc := next }

/-- The chain stops here and its PC is settled. -/
def State.stopChain (s : State) : State := { s with ctx := { s.ctx with stop := true, moved := true } }

/-- The word does not issue: an issue stall (R156). -/
def State.stallWord (s : State) : State := { s with ctx := { s.ctx with stop := true, moved := true, stalled := true } }

/-- A counter that a word would raise beyond 63 holds back its whole chain (R156). -/
def State.stallChain (s : State) : State :=
  { s with ctx := { s.ctx with stop := true, moved := true, stalled := true, whole := true } }

/-- The current path becomes a blocked set past its chain, in its place by age (R38). -/
def State.blockPast (s : State) (c : Cond) : State :=
  (s.onCur fun g =>
    { g with sets := insertSet g.sets ⟨g.path.advance s.ctx.pc s.ctx.next, c, [], s.ctx.pc, g.path.rep⟩,
             path := { g.path with mask := 0 } }).stopChain

/-- The current path becomes a blocked set at the word itself, which it issues again (R126, R153, R216). -/
def State.blockAt (s : State) (c : Cond) : State :=
  (s.onCur fun g =>
    { g with sets := insertSet g.sets ⟨{ g.path with pc := s.ctx.pc }, c, [], s.ctx.pc, g.path.rep⟩,
             path := { g.path with mask := 0 } }).stopChain

/-- The lanes of a mask leave the path as a blocked set, with the load words that they are to issue again; the other lanes go
on (R153). -/
def State.blockLanes (s : State) (m : Mask) (c : Cond) (past : Bool) (owed : List Nat) : State :=
  s.onCur fun g =>
    let p := { g.path with mask := g.path.mask &&& m, age := g.ages, owed := owed }
    let q := if past then p.advance s.ctx.pc s.ctx.next else { p with pc := s.ctx.pc }
    { g with ages := g.ages + 1, sets := insertSet g.sets ⟨q, c, [], s.ctx.pc, g.path.rep⟩,
             path := { g.path with mask := g.path.mask &&& ~~~m } }

/-- Makes ready the sets of a group whose condition satisfies a predicate (R38). -/
def Group.wake (g : Group) (p : PSet → Bool) : Group :=
  { g with sets := g.sets.map fun q => if p q then { q with cond := .deferred } else q }

/-! ## Taking an exception and returning from one -/

/-- The path that faulted moves to a handler: its repetition state is set aside, its lanes and its PC take the entry
point, and the group takes the handler's mode (R47, R125, R287). -/
def Group.enter (g : Group) (t : Tag) (entry : DWord) : Group :=
  { g with mode := t.mode, depth := t.depth, saves := (g.path.tag, g.path.rep) :: g.dropSave g.path.tag,
           path := { g.path with pc := entry, rep := none, tag := t } }

/-- The trap registers as an exception leaves them: cause with EV 0, saved PC, whose bits [63:48] are 0, and value (R70, R287,
R290). -/
def trapRegs (c : Cause) (pc val : DWord) : TrapRegs := ⟨0#1 ++ c.code, pc &&& 0xFFFFFFFFFFFF, val⟩

/-- The bytes +0x00 to +0xDF of a usage record; `prev` is its chain value (R313). -/
def UsageRec.body (r : UsageRec) (tid : BitVec 32) (prev : BitVec 256) : List Byte :=
  [0x55, 0x53, 0x47, 0x52] ++ leBytes 1 2 ++ leBytes r.kind 2 ++ leBytes r.seq 8 ++ leBytes tid.toNat 4 ++
    leBytes r.flags 4 ++ leBytes r.from_ 8 ++ leBytes r.till 8 ++ r.meters.flatMap (leBytes · 8) ++
    (if r.kind = 1 then [r.code, 0] ++ leBytes r.reason.toNat 2 ++ leBytes r.core 2 ++ leBytes 0 2 ++ leBytes r.pc.toNat 8
        ++ leBytes 0 16
     else if r.kind = 2 then [r.code] ++ leBytes 0 7 ++ leBytes r.pc.toNat 8 ++ leBytes r.count 8 ++ leBytes 0 8
     else leBytes 0 32) ++ leBytes 0 24 ++ leBytes prev.toNat 32

/-- Nanoseconds since boot: CCLK runs at 1.25 GHz (R9, R313). -/
def State.nanos (s : State) : Nat := s.dev.cycle * 4 / 5

/-- Changes the last element of a list that satisfies a predicate; nothing when none does. -/
def mapLast {α : Type} (p : α → Bool) (f : α → α) : List α → Option (List α)
  | [] => none
  | x :: t => match mapLast p f t with
    | some u => some (x :: u)
    | none => if p x then some (f x :: t) else none

/-- The records that firmware's reserve takes beyond the 65,536 of the main store: one creation, one final, and one halt record
for each of the 64 slots of each core (R312). -/
def Tenant.reserved (t : Tenant) : Nat := 2 + 256 * t.quads.length

/-- A record joins those held for the host's buffer. With the main store full an interval record merges into the last held one
and an event record, once the reserve is full too, into the last of its code; the merged record sets MERGED (R312). -/
def Tenant.hold (t : Tenant) (r : UsageRec) : Tenant :=
  let app := { t with held := t.held ++ [r], seq := t.seq + 1 }
  let more := fun (x : UsageRec) => { x with flags := x.flags ||| r.flags ||| 1, till := r.till, meters := r.meters }
  let merged :=
    if t.held.length < 65536 then none
    else if r.kind = 0 then mapLast (·.kind == 0) more t.held
    else if r.kind = 2 && decide (65536 + t.reserved ≤ t.held.length) then
      mapLast (fun x => x.kind == 2 && x.code == r.code) (fun x => { more x with count := x.count + 1 }) t.held
    else none
  match merged with
  | some l => { t with held := l }
  | none => app

/-- Makes a usage record of a tenant (R312, R313). Flag bit 1 is THROTTLED, which the interval's last record still shows
(R314). The creation record's hash is kept for attestation (R318). -/
def State.addRecord (s : State) (tn kind : Nat) (code : BitVec 8) (reason : BitVec 16) (core : Nat) (pc : DWord) : State :=
  s.mapTenant tn fun t =>
    let r : UsageRec :=
      { kind := kind, seq := t.seq, flags := (if t.throttled then 2 else 0), from_ := t.lastRec, till := s.nanos,
        meters := (List.range 12).map t.meterOf, code := code, reason := reason, core := core, pc := pc, count := 1, hash := 0 }
    let u := t.hold r
    { u with lastRec := s.nanos, throttled := t.throttled && kind != 0,
             creation := if kind = 4 then Config.sha256 (r.body t.tid t.hash) else t.creation }

/-- The tenant halt state, entered on every core of the tenant at once: walk queues are discarded, monitors released, strokes stop at
their next step and what waits behind them stands still, as under pre-emption, and one halt record is made (R281, R282, R291). -/
def State.haltTenant (s : State) (tn : Nat) (c : Cause) (reason : BitVec 16) (core : Nat) (pc : DWord) : State :=
  let s1 := s.addRecord tn 1 c.code reason core pc
  let s2 := s1.mapTenant tn fun t => { t with life := .halted }
  { s2 with cores := s2.cores.map (fun k => if (s2.tenant tn).quads.contains (k.num / 4) then { k with wq := [] } else k),
            flow := { s2.flow with mons := s2.flow.mons.filter (fun m => m.loc.key.tn != tn),
                                   xfers := s2.flow.xfers.map (Xfer.hold (s2.heldWords (·.tn == tn))) } }

/-- Enters T1 at sr.tvec (R46, R290). -/
def State.enterT1 (s : State) (c : Cause) (val pc : DWord) : State :=
  (s.onCur fun g => { g.enter ⟨.t1, g.depth⟩ s.tn.tvec with t1trap := trapRegs c pc val }).stopChain

/-- Enters T2 at sr.tvec + 0x100 (R46, R290). -/
def State.enterT2 (s : State) (c : Cause) (val pc : DWord) : State :=
  (s.onCur fun g => { g.enter ⟨.t2, g.depth⟩ (s.tn.tvec + 0x100) with t2trap := trapRegs c pc val }).stopChain

/-- Enters the user handler at sr.utvec (R46, R120). -/
def State.enterU (s : State) (c : Cause) (val pc : DWord) : State :=
  (s.onCur fun g => { g.enter ⟨.u, g.depth + 1⟩ g.utvec with utrap := trapRegs c pc val }).stopChain

/-- TAKING AN EXCEPTION. A cause raised in U goes to U or to T1, one raised in T1 to T2, one raised in T2 to the tenant
halt state with the cause's code as reason; a user cause goes to T1 when sr.utvec is 0 or fails the check of R70
(R46, R281, R286, R287). When lanes of an earlier word of the chain have left the path for their flash data, the chain ends before
this word instead: the other lanes issue it again without them, and take its exception then (R153, log 86). -/
def State.deliver (s : State) (c : Cause) (val pc : DWord) : State :=
  if !s.ctx.leave.isEmpty then (s.onCur fun g => { g with path := { g.path with pc := s.ctx.pc } }).stopChain
  else match s.cur.mode with
  | .u => if c.toUser ∧ s.cur.utvec ≠ 0 ∧ pcOk s.cur.utvec then s.enterU c val pc else s.enterT1 c val pc
  | .t1 => s.enterT2 c val pc
  | .t2 => (s.haltTenant s.cur.tn .nestedFaultLimit (0#8 ++ c.code) s.cur.core pc).stopChain

/-- A fault of the word in issue: the saved PC names the word (R77). -/
def State.fault (s : State) (c : Cause) (val : DWord) : State := s.deliver c val s.ctx.pc

/-- RETURNING FROM AN EXCEPTION. The path's lanes take the saved PC, the group takes the mode it returns to, and that
mode's repetition state is restored; paths held there become eligible again (R47, R120, R125). A handler whose path has split
returns in parts, and the manual does not say which of them takes the repetition state that was set aside: the model gives it to
the first that returns, and the later ones resume without it (DESIGN CHOICE, log 83). -/
def Group.leave (g : Group) (t : Tag) (target : DWord) : Group :=
  { g with mode := t.mode, depth := t.depth, saves := g.dropSave t,
           path := { g.path with pc := target, tag := t, rep := ((g.saves.find? (·.1 == t)).bind (·.2)) } }

/-- A fault to whose value register the manual gives no address and no number: the value is free (log 3). -/
def State.faultFree (s : State) (c : Cause) : State := State.fault { s with free := s.free + 1 } c (Config.freeBits 64 s.free)

/-! ## Events of the tenant -/

/-- An event pends on the tenant, one per code; a repeat is counted only in the health record (R289). -/
def State.event (s : State) (tn : Nat) (c : Cause) (val : DWord) : State :=
  if (s.tenant tn).events.any (·.1 == c) then
    s.onDev fun d => { d with health := { d.health with repeats := d.health.repeats + 1 } }
  else s.mapTenant tn fun t => { t with events := t.events ++ [(c, val)] }

/-- The core whose service group takes an event: the tenant's lowest-numbered one, for BANK_LOST on the bank's die if the
tenant has a core there (R236, R289); a core that has been retired without a spare takes none (R301). -/
def Tenant.eventCore (t : Tenant) (dead : List Nat) (e : Cause × DWord) : Nat :=
  let live := t.quads.filter (!dead.contains ·)
  let low := fun (qs : List Nat) => qs.foldl min (qs.headD 0) * 4
  let near := live.filter fun q => q / 11 == e.2.toNat / 64
  if e.1 = .bankLost ∧ !near.isEmpty then low near else low live

/-- The event of the lowest code that a core's service group is to take (R289). -/
def State.eventFor (s : State) (core tn : Nat) : Option (Cause × DWord) :=
  let t := s.tenant tn
  let mine := t.events.filter fun e => t.eventCore s.dev.deadQ e == core
  mine.find? fun e => mine.all fun f => e.1.code.toNat ≤ f.1.code.toNat

/-- Holds a cause pending for a group; a repeat of a code keeps the first value (R288). -/
def Group.pending (g : Group) (c : Cause) (val : DWord) : Group :=
  if g.pend.any (·.1 == c) then g else { g with pend := g.pend ++ [(c, val)] }

/-! ## Waiting on counters -/

/-- The groups of a crew. -/
def State.crewGroups (s : State) (crew : Nat) : List Group := s.allGroups.filter fun g => g.crew == crew && g.id != 0

/-- The words of a group that a stopped stroke holds back count as not outstanding (R291). -/
def State.heldFor (s : State) (g : Group) (c : Counter) : Nat :=
  s.flow.xfers.foldl (fun n x => if !x.held then n else match x.kind with
    | .stroke k => if c = .tl then n + k.f.grps.count g.id else n
    | _ => if x.grp == g.id && x.ctr == some c then n + 1 else n) 0

/-- The value a `wait` tests: within a save handler the larger of the handler's own and the largest among the saved
crew's groups (R158, R291, R293). -/
def State.ctrSeen (s : State) (g : Group) (c : Counter) : Nat :=
  match g.saving with
  | some k => (s.crewGroups k).foldl (fun m h => max m (h.ctr c - s.heldFor h c)) (g.ctr c)
  | none => g.ctr c

/-- Whether a limit of `wait` holds; 31 is no constraint (R158). -/
def limitOk (lim : BitVec 5) (n : Nat) : Bool := lim == 31 || n ≤ lim.toNat

/-- The condition of `wait` (R158). -/
def State.waitOk (s : State) (g : Group) (ld st cp tl : BitVec 5) : Bool :=
  limitOk ld (s.ctrSeen g .ld) && limitOk st (s.ctrSeen g .st) && limitOk cp (s.ctrSeen g .cp) && limitOk tl (s.ctrSeen g .tl)

/-- Makes ready every set whose counters have come within their limits, or whose walk queue or events have something for it
(R38, R40, R158, R216). -/
def State.settle (s : State) : State :=
  s.mapGrps fun g => g.wake fun p => match p.cond with
    | .counters ld st cp tl => s.waitOk g ld st cp tl
    | .reform => g.ld == 0 && g.st == 0 && g.cp == 0 && g.tl == 0
    | .walk => (s.core g.core).wq.any (!·.served) || (s.eventFor g.core g.tn).isSome
    | _ => false

/-- A word of a group completes: its counter falls (R156). -/
def State.complete (s : State) (grp : Nat) (c : Counter) : State := (s.mapGrp grp (·.lower c)).settle

end Sys2Proof.Machine
end

