-- ==== Sys2Proof/Machine/Float.lean ====
section
/-!
DEFINITION. Floating formats and exact arithmetic with one rounding (R50 to R57, R60, R61). A finite value is an exact
dyadic number; an operation forms its exact result and rounds it once into a format.
-/

namespace Sys2Proof.Machine

/-- Exceptions raised, one bit each: 0 invalid, 1 divide-by-zero, 2 overflow, 3 underflow, 4 inexact (R55), and 5 an
invalid block scale, which raises the invalid flag under its own cause (R54). -/
abbrev Flags := BitVec 6

def fNV : Flags := 1
def fDZ : Flags := 2
def fOF : Flags := 4
def fUF : Flags := 8
def fNX : Flags := 16
def fSI : Flags := 32

/-- Rounding modes (R54). -/
inductive RM where
  | rne | rtz | rup | rdn
  deriving DecidableEq, Repr

/-- The rounding mode that sr.fmode selects (R54). -/
def rmOf (m : BitVec 8) : RM :=
  match (bits m 0 2).toNat with
  | 0 => .rne
  | 1 => .rtz
  | 2 => .rup
  | _ => .rdn

/-- The FZ bit of sr.fmode (R54). -/
def fzOf (m : BitVec 8) : Bool := m.getLsbD 2

/-- The special values a format has: infinities and NaNs, one NaN code, or neither (R50). -/
inductive FmtKind where
  | ieee
  | oneNan
  | finite
  deriving DecidableEq, Repr

/-- A floating format (R50): exponent bits, fraction bits, bias, kind, canonical NaN (R53), and whether FZ applies to it
(R56). -/
structure Fmt where
  eb   : Nat
  fb   : Nat
  bias : Nat
  kind : FmtKind
  nan  : Nat
  fz   : Bool
  deriving DecidableEq, Repr

def f32 : Fmt := ⟨8, 23, 127, .ieee, 0x7FC00000, true⟩
def f16 : Fmt := ⟨5, 10, 15, .ieee, 0x7E00, true⟩
def bf16 : Fmt := ⟨8, 7, 127, .ieee, 0x7FC0, true⟩
def e4m3 : Fmt := ⟨4, 3, 7, .oneNan, 0x7F, false⟩
def e5m2 : Fmt := ⟨5, 2, 15, .ieee, 0x7E, false⟩
def e2m1 : Fmt := ⟨2, 1, 1, .finite, 0, false⟩

/-- A decoded value: a NaN and whether it is signalling, an infinity, or (−1)^neg · m · 2^e (R50, R53). -/
inductive FVal where
  | nan (sig : Bool)
  | inf (neg : Bool)
  | fin (neg : Bool) (m : Nat) (e : Int)
  deriving DecidableEq, Repr

/-- The exponent field's largest value. -/
def Fmt.emax (f : Fmt) : Nat := 2 ^ f.eb - 1

/-- The exponent of the last place of a subnormal (R50). -/
def Fmt.elow (f : Fmt) : Int := 1 - (f.bias : Int) - (f.fb : Int)

/-- The sign bit's weight. -/
def Fmt.sbit (f : Fmt) : Nat := 2 ^ (f.eb + f.fb)

/-- Decodes the bits of a format (R50). -/
def Fmt.decode (f : Fmt) (x : Nat) : FVal :=
  let neg := x / f.sbit % 2 == 1
  let e := x / 2 ^ f.fb % 2 ^ f.eb
  let m := x % 2 ^ f.fb
  match f.kind, decide (e = f.emax) with
  | .ieee, true => if m = 0 then .inf neg else .nan (decide (m < 2 ^ (f.fb - 1)))
  | .oneNan, true => if m = 2 ^ f.fb - 1 then .nan false else .fin neg (2 ^ f.fb + m) ((e : Int) - f.bias - f.fb)
  | _, _ => if e = 0 then .fin neg m f.elow else .fin neg (2 ^ f.fb + m) ((e : Int) - f.bias - f.fb)

/-- The bits of the infinity of a sign, for a format that has one. -/
def Fmt.infBits (f : Fmt) (neg : Bool) : Nat := (if neg then f.sbit else 0) + f.emax * 2 ^ f.fb

/-- The bits of the largest finite value of a sign (R50). -/
def Fmt.maxBits (f : Fmt) (neg : Bool) : Nat :=
  (if neg then f.sbit else 0) + (match f.kind with
    | .ieee => f.emax * 2 ^ f.fb - 1
    | .oneNan => f.sbit - 2
    | .finite => f.sbit - 1)

/-- The bits of the zero of a sign. -/
def Fmt.zeroBits (f : Fmt) (neg : Bool) : Nat := if neg then f.sbit else 0

/-- FZ on an operand: a subnormal reads as the zero of its sign, in the formats it applies to (R54, R56). -/
def Fmt.flush (f : Fmt) (fz : Bool) : FVal → FVal
  | .fin neg m e => if fz ∧ f.fz ∧ m < 2 ^ f.fb then .fin neg 0 e else .fin neg m e
  | v => v

/-- The operand as a function reads it: decoded, then flushed if FZ is set. -/
def Fmt.read (f : Fmt) (fz : Bool) (x : Nat) : FVal := f.flush fz (f.decode x)

/-- Whether an operand is a signalling NaN (R53). -/
def FVal.isSig : FVal → Bool
  | .nan s => s
  | _ => false

def FVal.isNan : FVal → Bool
  | .nan _ => true
  | _ => false

/-- The sign of a value. -/
def FVal.neg : FVal → Bool
  | .nan _ => false
  | .inf n => n
  | .fin n _ _ => n

/-- Whether the kept part is raised by one: by the rounding mode, the sign, the last kept bit and the part cut off. -/
def roundUp (rm : RM) (neg odd : Bool) (rem half : Nat) : Bool :=
  match rm with
  | .rne => decide (rem > half) || (decide (rem = half) && odd)
  | .rtz => false
  | .rup => decide (rem > 0) && !neg
  | .rdn => decide (rem > 0) && neg

/-- m · 2^e cut to an integer multiple of 2^q: the rounded multiple and whether it is inexact. -/
def roundAt (rm : RM) (neg : Bool) (m : Nat) (e q : Int) : Nat × Bool :=
  if q ≤ e then (m * 2 ^ (e - q).toNat, false)
  else
    let k := (q - e).toNat
    let kept := m / 2 ^ k
    let rem := m % 2 ^ k
    (kept + (if roundUp rm neg (kept % 2 == 1) rem (2 ^ (k - 1)) then 1 else 0), decide (rem ≠ 0))

/-- What an overflow gives: infinity or the largest finite value by the rounding direction (R56); the largest finite
value where the function saturates. -/
def Fmt.overflow (f : Fmt) (rm : RM) (neg sat : Bool) : Nat :=
  if sat ∨ f.kind ≠ .ieee then f.maxBits neg
  else match rm with
    | .rne => f.infBits neg
    | .rtz => f.maxBits neg
    | .rup => if neg then f.maxBits neg else f.infBits neg
    | .rdn => if neg then f.infBits neg else f.maxBits neg

/-- Rounds the exact nonzero value (−1)^neg · m · 2^e into a format once: its bits and the flags raised (R55, R56). -/
def Fmt.round (f : Fmt) (rm : RM) (fz sat neg : Bool) (m : Nat) (e : Int) : Nat × Flags :=
  let top : Int := (Nat.log2 m : Int) + e
  let q := max (top - f.fb) f.elow
  let (k, nx) := roundAt rm neg m e q
  let (k', _) := roundAt rm neg m e (top - f.fb)
  let low := decide ((top - f.fb < f.elow) ∧ ¬ (k' = 2 ^ (f.fb + 1) ∧ top - f.fb + 1 = f.elow))
  let s := if neg then f.sbit else 0
  let field : Int := q - f.elow + (if k < 2 ^ f.fb then 0 else 1)
  let mag : Nat := if k < 2 ^ f.fb then k else if k < 2 ^ (f.fb + 1) then field.toNat * 2 ^ f.fb + (k - 2 ^ f.fb)
    else (field.toNat + 1) * 2 ^ f.fb
  if mag > f.maxBits false then (f.overflow rm neg sat, fOF ||| fNX)
  else if fz ∧ f.fz ∧ mag < 2 ^ f.fb ∧ mag ≠ 0 then (f.zeroBits neg, fUF ||| fNX)
  else (s + mag, (if nx then fNX else 0) ||| (if nx ∧ low then fUF else 0))

/-- Rounds an exact value that may be zero; an exact zero takes the sign given. -/
def Fmt.roundV (f : Fmt) (rm : RM) (fz sat neg : Bool) (m : Nat) (e : Int) : Nat × Flags :=
  if m = 0 then (f.zeroBits neg, 0) else f.round rm fz sat neg m e

/-- The exact sum of two signed dyadic numbers: sign and magnitude, with the exponent of the last place. -/
def dySum (n1 : Bool) (m1 : Nat) (e1 : Int) (n2 : Bool) (m2 : Nat) (e2 : Int) : Bool × Nat × Int :=
  let e := min e1 e2
  let a : Int := (if n1 then -1 else 1) * ((m1 * 2 ^ (e1 - e).toNat : Nat) : Int)
  let b : Int := (if n2 then -1 else 1) * ((m2 * 2 ^ (e2 - e).toNat : Nat) : Int)
  (decide (a + b < 0), (a + b).natAbs, e)

/-- a · b + c with one rounding (R53, R133, R134): infinities, the invalid cases and the sign of an exact zero. -/
def Fmt.fma (f : Fmt) (rm : RM) (fz : Bool) (a b c : FVal) : Nat × Flags :=
  let sig : Flags := if a.isSig || b.isSig || c.isSig then fNV else 0
  let pn := a.neg != b.neg
  let badMul : Bool := match a, b with
    | .inf _, .fin _ 0 _ => true
    | .fin _ 0 _, .inf _ => true
    | _, _ => false
  if badMul then (f.nan, fNV)
  else if a.isNan || b.isNan || c.isNan then (f.nan, sig)
  else match a, b, c with
    | .fin _ ma ea, .fin _ mb eb, .fin nc mc ec =>
      let (n, m, e) := dySum pn (ma * mb) (ea + eb) nc mc ec
      if m = 0 then (f.zeroBits (if pn = nc then pn else decide (rm = .rdn)), 0) else f.round rm fz false n m e
    | .fin _ _ _, .fin _ _ _, .inf nc => (f.infBits nc, 0)
    | _, _, .inf nc => if pn = nc then (f.infBits nc, 0) else (f.nan, fNV)
    | _, _, _ => (f.infBits pn, 0)

/-- a + b with one rounding (R133). -/
def Fmt.add (f : Fmt) (rm : RM) (fz : Bool) (a b : FVal) : Nat × Flags := f.fma rm fz a (.fin false 1 0) b

/-- The operand with its sign inverted. -/
def FVal.flip : FVal → FVal
  | .nan s => .nan s
  | .inf n => .inf (!n)
  | .fin n m e => .fin (!n) m e

/-- a · b with one rounding; the zero product keeps the product's sign (R133). -/
def Fmt.mul (f : Fmt) (rm : RM) (fz : Bool) (a b : FVal) : Nat × Flags :=
  f.fma rm fz a b (.fin (a.neg != b.neg) 0 0)

/-- Compares two values that are not NaN: negative, zero or positive. −0 equals +0. -/
def FVal.cmp : FVal → FVal → Int
  | .inf n, .inf n' => (if n then -1 else 1) - (if n' then -1 else 1)
  | .inf n, _ => if n then -1 else 1
  | _, .inf n => if n then 1 else -1
  | .fin n1 m1 e1, .fin n2 m2 e2 => let (n, m, _) := dySum n1 m1 e1 (!n2) m2 e2; if m = 0 then 0 else if n then -1 else 1
  | _, _ => 0

/-- The encoding of a value already representable in the format (no rounding is needed). -/
def Fmt.exact (f : Fmt) (v : FVal) : Nat :=
  match v with
  | .nan _ => f.nan
  | .inf n => f.infBits n
  | .fin n m e => if m = 0 then f.zeroBits n else (f.round .rne false false n m e).1

/-- Minimum (`big` false) or maximum: one NaN gives the other operand, −0 counts as less than +0 (R134). -/
def Fmt.minmax (f : Fmt) (big : Bool) (a b : FVal) : Nat × Flags :=
  let sig : Flags := if a.isSig || b.isSig then fNV else 0
  if a.isNan && b.isNan then (f.nan, sig)
  else if a.isNan then (f.exact b, sig)
  else if b.isNan then (f.exact a, sig)
  else
    let c := a.cmp b
    let aLess : Bool := decide (c < 0) || (decide (c = 0) && a.neg && !b.neg)
    (f.exact (if aLess != big then a else b), 0)

/-- Rounds to an integral value in a direction; infinities and zeros unchanged, the sign of a zero that of the operand
(R134). -/
def Fmt.integral (f : Fmt) (rm : RM) (a : FVal) (nxFlag : Bool) : Nat × Flags :=
  match a with
  | .nan s => (f.nan, if s then fNV else 0)
  | .inf n => (f.infBits n, 0)
  | .fin n m e =>
    let (k, nx) := roundAt rm n m e 0
    if m = 0 then (f.zeroBits n, 0)
    else (f.exact (.fin n k 0), if nx ∧ nxFlag then fNX else 0)

/-- An integer of a range, from a value rounded in a mode; NaN and out of range raise NV (R57). -/
def toInt (rm : RM) (lo hi : Int) (a : FVal) : Int × Flags :=
  match a with
  | .nan _ => (0, fNV)
  | .inf n => (if n then lo else hi, fNV)
  | .fin n m e =>
    let (k, nx) := roundAt rm n m e 0
    let x : Int := if n then -(k : Int) else k
    if x < lo then (lo, fNV) else if x > hi then (hi, fNV) else (x, if nx then fNX else 0)

/-- A square root of a natural number, floor, bit by bit from weight 2^n. -/
def isqrt (x : Nat) : Nat → Nat → Nat
  | 0, r => r
  | n + 1, r => isqrt x n (if (r + 2 ^ n) * (r + 2 ^ n) ≤ x then r + 2 ^ n else r)

/-- The quotient of two nonzero magnitudes with enough bits for one correct rounding: the last bit is sticky. -/
def dyDiv (m1 : Nat) (e1 : Int) (m2 : Nat) (e2 : Int) : Nat × Int :=
  let k := 64 + Nat.log2 m2
  let q := m1 * 2 ^ k / m2
  (2 * q + (if m1 * 2 ^ k % m2 = 0 then 0 else 1), e1 - e2 - k - 1)

/-- The square root of a nonzero magnitude with enough bits for one correct rounding: the last bit is sticky. -/
def dySqrt (m : Nat) (e : Int) : Nat × Int :=
  let odd := e % 2 = 1
  let m' := (if odd then 2 * m else m) * 2 ^ 64
  let e' := (if odd then e - 1 else e) - 64
  let r := isqrt m' 64 0
  (2 * r + (if r * r = m' then 0 else 1), e' / 2 - 1)

/-- Division, correctly rounded (R67). -/
def Fmt.div (f : Fmt) (rm : RM) (fz : Bool) (a b : FVal) : Nat × Flags :=
  let sig : Flags := if a.isSig || b.isSig then fNV else 0
  let n := a.neg != b.neg
  match a, b with
  | .nan _, _ => (f.nan, sig)
  | _, .nan _ => (f.nan, sig)
  | .inf _, .inf _ => (f.nan, fNV)
  | .inf _, .fin _ _ _ => (f.infBits n, 0)
  | .fin _ _ _, .inf _ => (f.zeroBits n, 0)
  | .fin _ ma ea, .fin _ mb eb =>
    if mb = 0 then (if ma = 0 then (f.nan, fNV) else (f.infBits n, fDZ))
    else if ma = 0 then (f.zeroBits n, 0)
    else let (m, e) := dyDiv ma ea mb eb; f.round rm fz false n m e

/-- Square root, correctly rounded (R67). -/
def Fmt.sqrt (f : Fmt) (rm : RM) (fz : Bool) (a : FVal) : Nat × Flags :=
  match a with
  | .nan s => (f.nan, if s then fNV else 0)
  | .inf n => if n then (f.nan, fNV) else (f.infBits false, 0)
  | .fin n m e =>
    if m = 0 then (f.zeroBits n, 0)
    else if n then (f.nan, fNV)
    else let (r, e') := dySqrt m e; f.round rm fz false false r e'

/-! ## Block scales (R60, R61) -/

/-- The value of an S20 slot; `none` is an invalid block: bits [31:20] nonzero or exponent 255 (R60, R61). -/
def s20Value (slot : Nat) : Option (Nat × Int) :=
  let e := slot / 4096 % 256
  let m := slot % 4096
  if slot ≥ 2 ^ 20 ∨ e = 255 then none
  else if e = 0 then some (m, -138) else some (4096 + m, (e : Int) - 127 - 12)

/-- The value of an e8m0 slot; `none` is an invalid block (R51, R60). -/
def e8m0Value (slot : Nat) : Option (Nat × Int) := if slot ≥ 255 then none else some (1, (slot : Int) - 127)

/-- The smallest S20 at or above the positive value m · 2^e; `none` above the largest (R57, R63). -/
def s20RoundUp (m : Nat) (e : Int) : Option (Nat × Bool) :=
  let q := max ((Nat.log2 m : Int) + e - 12) (-138)
  let (k, nx) := roundAt .rup false m e q
  let code := if k < 4096 then k else if k < 8192 then (q + 139).toNat * 4096 + (k - 4096) else ((q + 139).toNat + 1) * 4096
  if code ≥ 255 * 4096 then none else some (code, nx)

/-- The slot that marks an invalid block (R57, R63). -/
def s20Invalid : Nat := 0x000FF000

end Sys2Proof.Machine
end

