-- ==== Sys2Proof/Machine/Info.lean ====
section
/-!
DEFINITION. What the issue of each word needs to know of it: kind and guard (R79), pipes (R78, R86), the groups that
may issue it (R32), whether it ends its chain (R75), whether a repeated packet may hold it (R125), and the registers
it reads and writes (R31, R76, R78).
-/

namespace Sys2Proof.Machine

/-- The kinds of R79. -/
inductive Kind where
  | perLane
  | uniform
  | lowestLane
  | crossLane
  deriving DecidableEq, Repr

/-- The pipes of a core (R78). -/
inductive Pipe where
  | v0 | v1 | m | c | x | s
  deriving DecidableEq, Repr

/-- Which groups may issue a word (R32, R121, R126, R215): every role, one role, `ctl.reform`'s rule, the T modes, the
service group alone, or the rules of the two trap returns. -/
inductive Who where
  | all
  | copy
  | matrix
  | vector
  | reform
  | tmode
  | service
  | uret
  | tret
  deriving DecidableEq, Repr

/-- The issue facts of a word. -/
structure Info where
  guard  : Nat
  kind   : Kind
  pipes  : List Pipe
  who    : Who
  ending : Bool
  noRep  : Bool
  vr     : List Nat
  vw     : List Nat
  sr     : List Nat
  sw     : List Nat
  gr     : List Nat
  gw     : List Nat
  csr    : Option (BitVec 12)
  ef     : Option (BitVec 5)
  deriving DecidableEq, Repr

/-- A word of the vector pipes that every role may issue and that names no register. -/
def Info.base (h : Hdr) (k : Kind) : Info :=
  { guard := h.guard.toNat, kind := k, pipes := [.v0, .v1], who := .all, ending := false, noRep := false, vr := [], vw := [],
    sr := [], sw := [], gr := [], gw := [], csr := none, ef := none }

/-- The registers of a pair (R84). -/
def pr {n : Nat} (x : BitVec n) : List Nat := [x.toNat, x.toNat + 1]

/-- Three consecutive registers (R187). -/
def tri {n : Nat} (x : BitVec n) : List Nat := [x.toNat, x.toNat + 1, x.toNat + 2]

/-- The registers of a quad (R84). -/
def qd {n : Nat} (x : BitVec n) : List Nat := [x.toNat, x.toNat + 1, x.toNat + 2, x.toNat + 3]

/-- The eight registers of a tile record (R190). -/
def tileRegs (n : BitVec 5) : List Nat := (List.range 8).map (n.toNat + ·)

/-- The vector register a B operand names; a literal names none (R31). -/
def vregsOf : VSrc → List Nat
  | .reg r => [r.toNat]
  | .lit _ => []

/-- The pair a B operand names (R127). -/
def vpairsOf : VSrc → List Nat
  | .reg r => pr r
  | .lit _ => []

/-- The scalar register an operand names. -/
def sregsOf : SSrc → List Nat
  | .reg r => [r.toNat]
  | .lit _ => []

/-- The scalar pair an operand names (R142). -/
def spairsOf : SSrc → List Nat
  | .reg r => pr r
  | .lit _ => []

/-- `sys.nop` (R120). -/
def infoSysNop (h : Hdr) : Info :=
  { Info.base h .uniform with pipes := [.s] }
/-- `sys.exit` (R120). -/
def infoSysExit (h : Hdr) : Info :=
  { Info.base h .perLane with pipes := [.s], ending := true, noRep := true }
/-- `sys.yield` (R120). -/
def infoSysYield (h : Hdr) : Info :=
  { Info.base h .uniform with pipes := [.s], ending := true, noRep := true }
/-- `sys.trap` (R120). -/
def infoSysTrap (h : Hdr) : Info :=
  { Info.base h .uniform with pipes := [.s], ending := true, noRep := true }
/-- `sys.uret` (R120). -/
def infoSysUret (h : Hdr) : Info :=
  { Info.base h .uniform with pipes := [.s], who := .uret, ending := true, noRep := true }
/-- `sys.tret` (R120). -/
def infoSysTret (h : Hdr) : Info :=
  { Info.base h .uniform with pipes := [.s], who := .tret, ending := true, noRep := true }
/-- `sys.brk` (R120). -/
def infoSysBrk (h : Hdr) : Info :=
  { Info.base h .uniform with pipes := [.s], ending := true, noRep := true }
/-- `sys.halt` (R120). -/
def infoSysHalt (h : Hdr) : Info :=
  { Info.base h .uniform with pipes := [.s], who := .tmode, ending := true, noRep := true }
/-- `bra` (R122). -/
def infoBra (h : Hdr) : Info :=
  { Info.base h .perLane with pipes := [.s], ending := true, noRep := true }
/-- `bra.lk` (R122). -/
def infoBraLk (h : Hdr) : Info :=
  { Info.base h .perLane with pipes := [.s], ending := true, noRep := true }
/-- `bra.ulk` (R122). -/
def infoBraUlk (h : Hdr) : Info :=
  { Info.base h .perLane with pipes := [.s], ending := true, noRep := true }
/-- `bra.unf` (R122). -/
def infoBraUnf (h : Hdr) : Info :=
  { Info.base h .perLane with pipes := [.s], ending := true, noRep := true }
/-- `ctl.jump` (R123). -/
def infoCtlJump (h : Hdr) (a : BitVec 6) : Info :=
  { Info.base h .perLane with vr := pr a, pipes := [.s], ending := true, noRep := true }
/-- `ctl.call` (R123). -/
def infoCtlCall (h : Hdr) (d : BitVec 6) (a : BitVec 6) : Info :=
  { Info.base h .perLane with vr := pr a, vw := pr d, pipes := [.s], ending := true, noRep := true }
/-- `ctl.calli` (R123). -/
def infoCtlCalli (h : Hdr) (d : BitVec 6) : Info :=
  { Info.base h .perLane with vw := pr d, pipes := [.s], ending := true, noRep := true }
/-- `ctl.ret` (R123). -/
def infoCtlRet (h : Hdr) (a : BitVec 6) : Info :=
  { Info.base h .perLane with vr := pr a, pipes := [.s], ending := true, noRep := true }
/-- `ctl.rep` (R124). -/
def infoCtlRep (h : Hdr) (a : SSrc) : Info :=
  { Info.base h .uniform with sr := sregsOf a, pipes := [.s], ending := true, noRep := true }
/-- `ctl.reform` (R126). -/
def infoCtlReform (h : Hdr) : Info :=
  { Info.base h .perLane with pipes := [.s], who := .reform, ending := true, noRep := true }
/-- `wait` (R158). -/
def infoWait (h : Hdr) : Info :=
  { Info.base h .uniform with pipes := [.s], ending := true }
/-- `via.add` (R127). -/
def infoViaAdd (h : Hdr) (d : BitVec 6) (a : BitVec 6) (b : VSrc) : Info :=
  { Info.base h .perLane with vr := [a.toNat] ++ vregsOf b, vw := [d.toNat] }
/-- `via.sub` (R127). -/
def infoViaSub (h : Hdr) (d : BitVec 6) (a : BitVec 6) (b : VSrc) : Info :=
  { Info.base h .perLane with vr := [a.toNat] ++ vregsOf b, vw := [d.toNat] }
/-- `via.mul` (R127). -/
def infoViaMul (h : Hdr) (d : BitVec 6) (a : BitVec 6) (b : VSrc) : Info :=
  { Info.base h .perLane with vr := [a.toNat] ++ vregsOf b, vw := [d.toNat] }
/-- `via.mulh` (R127). -/
def infoViaMulh (h : Hdr) (d : BitVec 6) (a : BitVec 6) (b : VSrc) : Info :=
  { Info.base h .perLane with vr := [a.toNat] ++ vregsOf b, vw := [d.toNat] }
/-- `via.mulhn` (R127). -/
def infoViaMulhn (h : Hdr) (d : BitVec 6) (a : BitVec 6) (b : VSrc) : Info :=
  { Info.base h .perLane with vr := [a.toNat] ++ vregsOf b, vw := [d.toNat] }
/-- `via.mad` (R127). -/
def infoViaMad (h : Hdr) (d : BitVec 6) (a : BitVec 6) (b : VSrc) : Info :=
  { Info.base h .perLane with vr := [a.toNat] ++ vregsOf b ++ [d.toNat], vw := [d.toNat] }
/-- `via.min` (R127). -/
def infoViaMin (h : Hdr) (d : BitVec 6) (a : BitVec 6) (b : VSrc) : Info :=
  { Info.base h .perLane with vr := [a.toNat] ++ vregsOf b, vw := [d.toNat] }
/-- `via.max` (R127). -/
def infoViaMax (h : Hdr) (d : BitVec 6) (a : BitVec 6) (b : VSrc) : Info :=
  { Info.base h .perLane with vr := [a.toNat] ++ vregsOf b, vw := [d.toNat] }
/-- `via.minn` (R127). -/
def infoViaMinn (h : Hdr) (d : BitVec 6) (a : BitVec 6) (b : VSrc) : Info :=
  { Info.base h .perLane with vr := [a.toNat] ++ vregsOf b, vw := [d.toNat] }
/-- `via.maxn` (R127). -/
def infoViaMaxn (h : Hdr) (d : BitVec 6) (a : BitVec 6) (b : VSrc) : Info :=
  { Info.base h .perLane with vr := [a.toNat] ++ vregsOf b, vw := [d.toNat] }
/-- `via.abs` (R127). -/
def infoViaAbs (h : Hdr) (d : BitVec 6) (a : BitVec 6) : Info :=
  { Info.base h .perLane with vr := [a.toNat], vw := [d.toNat] }
/-- `via.neg` (R127). -/
def infoViaNeg (h : Hdr) (d : BitVec 6) (a : BitVec 6) : Info :=
  { Info.base h .perLane with vr := [a.toNat], vw := [d.toNat] }
/-- `via.addc` (R127). -/
def infoViaAddc (h : Hdr) (d : BitVec 6) (a : BitVec 6) (b : VSrc) : Info :=
  { Info.base h .perLane with vr := pr a ++ vpairsOf b, vw := pr d }
/-- `via.subc` (R127). -/
def infoViaSubc (h : Hdr) (d : BitVec 6) (a : BitVec 6) (b : VSrc) : Info :=
  { Info.base h .perLane with vr := pr a ++ vpairsOf b, vw := pr d }
/-- `via.clz` (R127). -/
def infoViaClz (h : Hdr) (d : BitVec 6) (a : BitVec 6) : Info :=
  { Info.base h .perLane with vr := [a.toNat], vw := [d.toNat] }
/-- `via.popc` (R127). -/
def infoViaPopc (h : Hdr) (d : BitVec 6) (a : BitVec 6) : Info :=
  { Info.base h .perLane with vr := [a.toNat], vw := [d.toNat] }
/-- `vil.and` (R128). -/
def infoVilAnd (h : Hdr) (d : BitVec 6) (a : BitVec 6) (b : VSrc) : Info :=
  { Info.base h .perLane with vr := [a.toNat] ++ vregsOf b, vw := [d.toNat] }
/-- `vil.or` (R128). -/
def infoVilOr (h : Hdr) (d : BitVec 6) (a : BitVec 6) (b : VSrc) : Info :=
  { Info.base h .perLane with vr := [a.toNat] ++ vregsOf b, vw := [d.toNat] }
/-- `vil.xor` (R128). -/
def infoVilXor (h : Hdr) (d : BitVec 6) (a : BitVec 6) (b : VSrc) : Info :=
  { Info.base h .perLane with vr := [a.toNat] ++ vregsOf b, vw := [d.toNat] }
/-- `vil.andn` (R128). -/
def infoVilAndn (h : Hdr) (d : BitVec 6) (a : BitVec 6) (b : VSrc) : Info :=
  { Info.base h .perLane with vr := [a.toNat] ++ vregsOf b, vw := [d.toNat] }
/-- `vil.not` (R128). -/
def infoVilNot (h : Hdr) (d : BitVec 6) (a : BitVec 6) : Info :=
  { Info.base h .perLane with vr := [a.toNat], vw := [d.toNat] }
/-- `vil.shl` (R128). -/
def infoVilShl (h : Hdr) (d : BitVec 6) (a : BitVec 6) (b : VSrc) : Info :=
  { Info.base h .perLane with vr := [a.toNat] ++ vregsOf b, vw := [d.toNat] }
/-- `vil.shr` (R128). -/
def infoVilShr (h : Hdr) (d : BitVec 6) (a : BitVec 6) (b : VSrc) : Info :=
  { Info.base h .perLane with vr := [a.toNat] ++ vregsOf b, vw := [d.toNat] }
/-- `vil.sra` (R128). -/
def infoVilSra (h : Hdr) (d : BitVec 6) (a : BitVec 6) (b : VSrc) : Info :=
  { Info.base h .perLane with vr := [a.toNat] ++ vregsOf b, vw := [d.toNat] }
/-- `vil.rotl` (R128). -/
def infoVilRotl (h : Hdr) (d : BitVec 6) (a : BitVec 6) (b : VSrc) : Info :=
  { Info.base h .perLane with vr := [a.toNat] ++ vregsOf b, vw := [d.toNat] }
/-- `vil.brev` (R128). -/
def infoVilBrev (h : Hdr) (d : BitVec 6) (a : BitVec 6) : Info :=
  { Info.base h .perLane with vr := [a.toNat], vw := [d.toNat] }
/-- `vil.bfx` (R129). -/
def infoVilBfx (h : Hdr) (d : BitVec 6) (a : BitVec 6) (b : VSrc) : Info :=
  { Info.base h .perLane with vr := [a.toNat] ++ vregsOf b, vw := [d.toNat] }
/-- `vil.bfxn` (R129). -/
def infoVilBfxn (h : Hdr) (d : BitVec 6) (a : BitVec 6) (b : VSrc) : Info :=
  { Info.base h .perLane with vr := [a.toNat] ++ vregsOf b, vw := [d.toNat] }
/-- `vil.bfi` (R129). -/
def infoVilBfi (h : Hdr) (d : BitVec 6) (a : BitVec 6) (b : VSrc) : Info :=
  { Info.base h .perLane with vr := [a.toNat] ++ vregsOf b ++ [d.toNat], vw := [d.toNat] }
/-- `vil.mov` (R128). -/
def infoVilMov (h : Hdr) (d : BitVec 6) (a : BitVec 6) : Info :=
  { Info.base h .perLane with vr := [a.toNat], vw := [d.toNat] }
/-- `vil.bsel` (R129). -/
def infoVilBsel (h : Hdr) (d : BitVec 6) (a : BitVec 6) (b : VSrc) : Info :=
  { Info.base h .perLane with vr := [a.toNat] ++ vregsOf b, vw := [d.toNat] }
/-- `vic.eq` (R130). -/
def infoVicEq (h : Hdr) (k : BitVec 3) (n : BitVec 3) (a : BitVec 6) (b : BitVec 6) : Info :=
  { Info.base h .perLane with vr := [a.toNat] ++ [b.toNat], gr := (if k = 0 then [] else [n.toNat]), gw := [n.toNat] }
/-- `vic.ne` (R130). -/
def infoVicNe (h : Hdr) (k : BitVec 3) (n : BitVec 3) (a : BitVec 6) (b : BitVec 6) : Info :=
  { Info.base h .perLane with vr := [a.toNat] ++ [b.toNat], gr := (if k = 0 then [] else [n.toNat]), gw := [n.toNat] }
/-- `vic.lt` (R130). -/
def infoVicLt (h : Hdr) (k : BitVec 3) (n : BitVec 3) (a : BitVec 6) (b : BitVec 6) : Info :=
  { Info.base h .perLane with vr := [a.toNat] ++ [b.toNat], gr := (if k = 0 then [] else [n.toNat]), gw := [n.toNat] }
/-- `vic.le` (R130). -/
def infoVicLe (h : Hdr) (k : BitVec 3) (n : BitVec 3) (a : BitVec 6) (b : BitVec 6) : Info :=
  { Info.base h .perLane with vr := [a.toNat] ++ [b.toNat], gr := (if k = 0 then [] else [n.toNat]), gw := [n.toNat] }
/-- `vic.gt` (R130). -/
def infoVicGt (h : Hdr) (k : BitVec 3) (n : BitVec 3) (a : BitVec 6) (b : BitVec 6) : Info :=
  { Info.base h .perLane with vr := [a.toNat] ++ [b.toNat], gr := (if k = 0 then [] else [n.toNat]), gw := [n.toNat] }
/-- `vic.ge` (R130). -/
def infoVicGe (h : Hdr) (k : BitVec 3) (n : BitVec 3) (a : BitVec 6) (b : BitVec 6) : Info :=
  { Info.base h .perLane with vr := [a.toNat] ++ [b.toNat], gr := (if k = 0 then [] else [n.toNat]), gw := [n.toNat] }
/-- `vic.ltn` (R130). -/
def infoVicLtn (h : Hdr) (k : BitVec 3) (n : BitVec 3) (a : BitVec 6) (b : BitVec 6) : Info :=
  { Info.base h .perLane with vr := [a.toNat] ++ [b.toNat], gr := (if k = 0 then [] else [n.toNat]), gw := [n.toNat] }
/-- `vic.len` (R130). -/
def infoVicLen (h : Hdr) (k : BitVec 3) (n : BitVec 3) (a : BitVec 6) (b : BitVec 6) : Info :=
  { Info.base h .perLane with vr := [a.toNat] ++ [b.toNat], gr := (if k = 0 then [] else [n.toNat]), gw := [n.toNat] }
/-- `vic.gtn` (R130). -/
def infoVicGtn (h : Hdr) (k : BitVec 3) (n : BitVec 3) (a : BitVec 6) (b : BitVec 6) : Info :=
  { Info.base h .perLane with vr := [a.toNat] ++ [b.toNat], gr := (if k = 0 then [] else [n.toNat]), gw := [n.toNat] }
/-- `vic.gen` (R130). -/
def infoVicGen (h : Hdr) (k : BitVec 3) (n : BitVec 3) (a : BitVec 6) (b : BitVec 6) : Info :=
  { Info.base h .perLane with vr := [a.toNat] ++ [b.toNat], gr := (if k = 0 then [] else [n.toNat]), gw := [n.toNat] }
/-- `vic.eq64` (R130). -/
def infoVicEq64 (h : Hdr) (k : BitVec 3) (n : BitVec 3) (a : BitVec 6) (b : BitVec 6) : Info :=
  { Info.base h .perLane with vr := pr a ++ pr b, gr := (if k = 0 then [] else [n.toNat]), gw := [n.toNat] }
/-- `vic.lt64` (R130). -/
def infoVicLt64 (h : Hdr) (k : BitVec 3) (n : BitVec 3) (a : BitVec 6) (b : BitVec 6) : Info :=
  { Info.base h .perLane with vr := pr a ++ pr b, gr := (if k = 0 then [] else [n.toNat]), gw := [n.toNat] }
/-- `vic.ltn64` (R130). -/
def infoVicLtn64 (h : Hdr) (k : BitVec 3) (n : BitVec 3) (a : BitVec 6) (b : BitVec 6) : Info :=
  { Info.base h .perLane with vr := pr a ++ pr b, gr := (if k = 0 then [] else [n.toNat]), gw := [n.toNat] }
/-- `addi` (R131). -/
def infoAddi (h : Hdr) (d : BitVec 6) (a : BitVec 6) : Info :=
  { Info.base h .perLane with vr := [a.toNat], vw := [d.toNat] }
/-- `andi` (R131). -/
def infoAndi (h : Hdr) (d : BitVec 6) (a : BitVec 6) : Info :=
  { Info.base h .perLane with vr := [a.toNat], vw := [d.toNat] }
/-- `ori` (R131). -/
def infoOri (h : Hdr) (d : BitVec 6) (a : BitVec 6) : Info :=
  { Info.base h .perLane with vr := [a.toNat], vw := [d.toNat] }
/-- `xori` (R131). -/
def infoXori (h : Hdr) (d : BitVec 6) (a : BitVec 6) : Info :=
  { Info.base h .perLane with vr := [a.toNat], vw := [d.toNat] }
/-- `shli` (R131). -/
def infoShli (h : Hdr) (d : BitVec 6) (a : BitVec 6) : Info :=
  { Info.base h .perLane with vr := [a.toNat], vw := [d.toNat] }
/-- `shri` (R131). -/
def infoShri (h : Hdr) (d : BitVec 6) (a : BitVec 6) : Info :=
  { Info.base h .perLane with vr := [a.toNat], vw := [d.toNat] }
/-- `srai` (R131). -/
def infoSrai (h : Hdr) (d : BitVec 6) (a : BitVec 6) : Info :=
  { Info.base h .perLane with vr := [a.toNat], vw := [d.toNat] }
/-- `muli` (R131). -/
def infoMuli (h : Hdr) (d : BitVec 6) (a : BitVec 6) : Info :=
  { Info.base h .perLane with vr := [a.toNat], vw := [d.toNat] }
/-- `movi` (R132). -/
def infoMovi (h : Hdr) (d : BitVec 6) : Info :=
  { Info.base h .perLane with vw := [d.toNat] }
/-- `movhi` (R132). -/
def infoMovhi (h : Hdr) (d : BitVec 6) : Info :=
  { Info.base h .perLane with vr := [d.toNat], vw := [d.toNat] }
/-- `vf.fadd` (R133). -/
def infoVfFadd (h : Hdr) (d : BitVec 6) (a : BitVec 6) (b : VSrc) : Info :=
  { Info.base h .perLane with vr := [a.toNat] ++ vregsOf b, vw := [d.toNat], who := .vector }
/-- `vf.fsub` (R133). -/
def infoVfFsub (h : Hdr) (d : BitVec 6) (a : BitVec 6) (b : VSrc) : Info :=
  { Info.base h .perLane with vr := [a.toNat] ++ vregsOf b, vw := [d.toNat], who := .vector }
/-- `vf.fmul` (R133). -/
def infoVfFmul (h : Hdr) (d : BitVec 6) (a : BitVec 6) (b : VSrc) : Info :=
  { Info.base h .perLane with vr := [a.toNat] ++ vregsOf b, vw := [d.toNat], who := .vector }
/-- `vf.ffma` (R133). -/
def infoVfFfma (h : Hdr) (d : BitVec 6) (a : BitVec 6) (b : VSrc) : Info :=
  { Info.base h .perLane with vr := [a.toNat] ++ vregsOf b ++ [d.toNat], vw := [d.toNat], who := .vector }
/-- `vf.ffms` (R133). -/
def infoVfFfms (h : Hdr) (d : BitVec 6) (a : BitVec 6) (b : VSrc) : Info :=
  { Info.base h .perLane with vr := [a.toNat] ++ vregsOf b ++ [d.toNat], vw := [d.toNat], who := .vector }
/-- `vf.fmin` (R134). -/
def infoVfFmin (h : Hdr) (d : BitVec 6) (a : BitVec 6) (b : VSrc) : Info :=
  { Info.base h .perLane with vr := [a.toNat] ++ vregsOf b, vw := [d.toNat], who := .vector }
/-- `vf.fmax` (R134). -/
def infoVfFmax (h : Hdr) (d : BitVec 6) (a : BitVec 6) (b : VSrc) : Info :=
  { Info.base h .perLane with vr := [a.toNat] ++ vregsOf b, vw := [d.toNat], who := .vector }
/-- `vf.fabs` (R134). -/
def infoVfFabs (h : Hdr) (d : BitVec 6) (a : BitVec 6) : Info :=
  { Info.base h .perLane with vr := [a.toNat], vw := [d.toNat], who := .vector }
/-- `vf.fneg` (R134). -/
def infoVfFneg (h : Hdr) (d : BitVec 6) (a : BitVec 6) : Info :=
  { Info.base h .perLane with vr := [a.toNat], vw := [d.toNat], who := .vector }
/-- `vf.fcopys` (R134). -/
def infoVfFcopys (h : Hdr) (d : BitVec 6) (a : BitVec 6) (b : VSrc) : Info :=
  { Info.base h .perLane with vr := [a.toNat] ++ vregsOf b, vw := [d.toNat], who := .vector }
/-- `vf.ffloor` (R134). -/
def infoVfFfloor (h : Hdr) (d : BitVec 6) (a : BitVec 6) : Info :=
  { Info.base h .perLane with vr := [a.toNat], vw := [d.toNat], who := .vector }
/-- `vf.fceil` (R134). -/
def infoVfFceil (h : Hdr) (d : BitVec 6) (a : BitVec 6) : Info :=
  { Info.base h .perLane with vr := [a.toNat], vw := [d.toNat], who := .vector }
/-- `vf.frint` (R134). -/
def infoVfFrint (h : Hdr) (d : BitVec 6) (a : BitVec 6) : Info :=
  { Info.base h .perLane with vr := [a.toNat], vw := [d.toNat], who := .vector }
/-- `vf.ftrunc` (R134). -/
def infoVfFtrunc (h : Hdr) (d : BitVec 6) (a : BitVec 6) : Info :=
  { Info.base h .perLane with vr := [a.toNat], vw := [d.toNat], who := .vector }
/-- `vf.fsat` (R134). -/
def infoVfFsat (h : Hdr) (d : BitVec 6) (a : BitVec 6) : Info :=
  { Info.base h .perLane with vr := [a.toNat], vw := [d.toNat], who := .vector }
/-- `vf.fscale` (R134). -/
def infoVfFscale (h : Hdr) (d : BitVec 6) (a : BitVec 6) (b : VSrc) : Info :=
  { Info.base h .perLane with vr := [a.toNat] ++ vregsOf b, vw := [d.toNat], who := .vector }
/-- `vfc.feq` (R135). -/
def infoVfcFeq (h : Hdr) (k : BitVec 3) (n : BitVec 3) (a : BitVec 6) (b : BitVec 6) : Info :=
  { Info.base h .perLane with vr := [a.toNat] ++ [b.toNat], gr := (if k = 0 then [] else [n.toNat]), gw := [n.toNat], who := .vector }
/-- `vfc.fne` (R135). -/
def infoVfcFne (h : Hdr) (k : BitVec 3) (n : BitVec 3) (a : BitVec 6) (b : BitVec 6) : Info :=
  { Info.base h .perLane with vr := [a.toNat] ++ [b.toNat], gr := (if k = 0 then [] else [n.toNat]), gw := [n.toNat], who := .vector }
/-- `vfc.flt` (R135). -/
def infoVfcFlt (h : Hdr) (k : BitVec 3) (n : BitVec 3) (a : BitVec 6) (b : BitVec 6) : Info :=
  { Info.base h .perLane with vr := [a.toNat] ++ [b.toNat], gr := (if k = 0 then [] else [n.toNat]), gw := [n.toNat], who := .vector }
/-- `vfc.fle` (R135). -/
def infoVfcFle (h : Hdr) (k : BitVec 3) (n : BitVec 3) (a : BitVec 6) (b : BitVec 6) : Info :=
  { Info.base h .perLane with vr := [a.toNat] ++ [b.toNat], gr := (if k = 0 then [] else [n.toNat]), gw := [n.toNat], who := .vector }
/-- `vfc.fgt` (R135). -/
def infoVfcFgt (h : Hdr) (k : BitVec 3) (n : BitVec 3) (a : BitVec 6) (b : BitVec 6) : Info :=
  { Info.base h .perLane with vr := [a.toNat] ++ [b.toNat], gr := (if k = 0 then [] else [n.toNat]), gw := [n.toNat], who := .vector }
/-- `vfc.fge` (R135). -/
def infoVfcFge (h : Hdr) (k : BitVec 3) (n : BitVec 3) (a : BitVec 6) (b : BitVec 6) : Info :=
  { Info.base h .perLane with vr := [a.toNat] ++ [b.toNat], gr := (if k = 0 then [] else [n.toNat]), gw := [n.toNat], who := .vector }
/-- `vfc.fun` (R135). -/
def infoVfcFun (h : Hdr) (k : BitVec 3) (n : BitVec 3) (a : BitVec 6) (b : BitVec 6) : Info :=
  { Info.base h .perLane with vr := [a.toNat] ++ [b.toNat], gr := (if k = 0 then [] else [n.toNat]), gw := [n.toNat], who := .vector }
/-- `vfc.ford` (R135). -/
def infoVfcFord (h : Hdr) (k : BitVec 3) (n : BitVec 3) (a : BitVec 6) (b : BitVec 6) : Info :=
  { Info.base h .perLane with vr := [a.toNat] ++ [b.toNat], gr := (if k = 0 then [] else [n.toNat]), gw := [n.toNat], who := .vector }
/-- `vfc.fclass` (R136). -/
def infoVfcFclass (h : Hdr) (k : BitVec 3) (n : BitVec 3) (a : BitVec 6) (b : BitVec 6) : Info :=
  { Info.base h .perLane with vr := [a.toNat] ++ [b.toNat], gr := (if k = 0 then [] else [n.toNat]), gw := [n.toNat], who := .vector }
/-- `vh.hadd.type` (R137). -/
def infoVhHadd (h : Hdr) (d : BitVec 6) (a : BitVec 6) (b : VSrc) : Info :=
  { Info.base h .perLane with vr := [a.toNat] ++ vregsOf b, vw := [d.toNat], who := .vector }
/-- `vh.hsub.type` (R137). -/
def infoVhHsub (h : Hdr) (d : BitVec 6) (a : BitVec 6) (b : VSrc) : Info :=
  { Info.base h .perLane with vr := [a.toNat] ++ vregsOf b, vw := [d.toNat], who := .vector }
/-- `vh.hmul.type` (R137). -/
def infoVhHmul (h : Hdr) (d : BitVec 6) (a : BitVec 6) (b : VSrc) : Info :=
  { Info.base h .perLane with vr := [a.toNat] ++ vregsOf b, vw := [d.toNat], who := .vector }
/-- `vh.hfma.type` (R137). -/
def infoVhHfma (h : Hdr) (d : BitVec 6) (a : BitVec 6) (b : VSrc) : Info :=
  { Info.base h .perLane with vr := [a.toNat] ++ vregsOf b ++ [d.toNat], vw := [d.toNat], who := .vector }
/-- `vh.hmin.type` (R137). -/
def infoVhHmin (h : Hdr) (d : BitVec 6) (a : BitVec 6) (b : VSrc) : Info :=
  { Info.base h .perLane with vr := [a.toNat] ++ vregsOf b, vw := [d.toNat], who := .vector }
/-- `vh.hmax.type` (R137). -/
def infoVhHmax (h : Hdr) (d : BitVec 6) (a : BitVec 6) (b : VSrc) : Info :=
  { Info.base h .perLane with vr := [a.toNat] ++ vregsOf b, vw := [d.toNat], who := .vector }
/-- `vh.hneg.type` (R137). -/
def infoVhHneg (h : Hdr) (d : BitVec 6) (a : BitVec 6) : Info :=
  { Info.base h .perLane with vr := [a.toNat], vw := [d.toNat], who := .vector }
/-- `vh.habs.type` (R137). -/
def infoVhHabs (h : Hdr) (d : BitVec 6) (a : BitVec 6) : Info :=
  { Info.base h .perLane with vr := [a.toNat], vw := [d.toNat], who := .vector }
/-- `sfu.frcp` (R138). -/
def infoSfuFrcp (h : Hdr) (d : BitVec 6) (a : BitVec 6) : Info :=
  { Info.base h .perLane with vr := [a.toNat], vw := [d.toNat], pipes := [.v1], who := .vector }
/-- `sfu.frsq` (R138). -/
def infoSfuFrsq (h : Hdr) (d : BitVec 6) (a : BitVec 6) : Info :=
  { Info.base h .perLane with vr := [a.toNat], vw := [d.toNat], pipes := [.v1], who := .vector }
/-- `sfu.fsqrt` (R138). -/
def infoSfuFsqrt (h : Hdr) (d : BitVec 6) (a : BitVec 6) : Info :=
  { Info.base h .perLane with vr := [a.toNat], vw := [d.toNat], pipes := [.v1], who := .vector }
/-- `sfu.fexp2` (R138). -/
def infoSfuFexp2 (h : Hdr) (d : BitVec 6) (a : BitVec 6) : Info :=
  { Info.base h .perLane with vr := [a.toNat], vw := [d.toNat], pipes := [.v1], who := .vector }
/-- `sfu.flog2` (R138). -/
def infoSfuFlog2 (h : Hdr) (d : BitVec 6) (a : BitVec 6) : Info :=
  { Info.base h .perLane with vr := [a.toNat], vw := [d.toNat], pipes := [.v1], who := .vector }
/-- `sfu.fsin` (R138). -/
def infoSfuFsin (h : Hdr) (d : BitVec 6) (a : BitVec 6) : Info :=
  { Info.base h .perLane with vr := [a.toNat], vw := [d.toNat], pipes := [.v1], who := .vector }
/-- `sfu.fcos` (R138). -/
def infoSfuFcos (h : Hdr) (d : BitVec 6) (a : BitVec 6) : Info :=
  { Info.base h .perLane with vr := [a.toNat], vw := [d.toNat], pipes := [.v1], who := .vector }
/-- `sfu.ftanh` (R138). -/
def infoSfuFtanh (h : Hdr) (d : BitVec 6) (a : BitVec 6) : Info :=
  { Info.base h .perLane with vr := [a.toNat], vw := [d.toNat], pipes := [.v1], who := .vector }
/-- `sfu.fdiv` (R138). -/
def infoSfuFdiv (h : Hdr) (d : BitVec 6) (a : BitVec 6) (b : BitVec 6) : Info :=
  { Info.base h .perLane with vr := [a.toNat] ++ [b.toNat], vw := [d.toNat], pipes := [.v1], who := .vector }
/-- `cvt.f32.i32` (R57). -/
def infoCvtF32I32 (h : Hdr) (d : BitVec 6) (a : BitVec 6) : Info :=
  { Info.base h .perLane with vr := [a.toNat], vw := [d.toNat], who := .vector }
/-- `cvt.f32.n32` (R57). -/
def infoCvtF32N32 (h : Hdr) (d : BitVec 6) (a : BitVec 6) : Info :=
  { Info.base h .perLane with vr := [a.toNat], vw := [d.toNat], who := .vector }
/-- `cvt.i32.f32` (R57). -/
def infoCvtI32F32 (h : Hdr) (d : BitVec 6) (a : BitVec 6) : Info :=
  { Info.base h .perLane with vr := [a.toNat], vw := [d.toNat], who := .vector }
/-- `cvt.n32.f32` (R57). -/
def infoCvtN32F32 (h : Hdr) (d : BitVec 6) (a : BitVec 6) : Info :=
  { Info.base h .perLane with vr := [a.toNat], vw := [d.toNat], who := .vector }
/-- `cvt.f32.f16` (R57). -/
def infoCvtF32F16 (h : Hdr) (d : BitVec 6) (a : BitVec 6) : Info :=
  { Info.base h .perLane with vr := [a.toNat], vw := [d.toNat], who := .vector }
/-- `cvt.f16.f32` (R57). -/
def infoCvtF16F32 (h : Hdr) (d : BitVec 6) (a : BitVec 6) : Info :=
  { Info.base h .perLane with vr := [a.toNat], vw := [d.toNat], who := .vector }
/-- `cvt.f32.bf16` (R57). -/
def infoCvtF32Bf16 (h : Hdr) (d : BitVec 6) (a : BitVec 6) : Info :=
  { Info.base h .perLane with vr := [a.toNat], vw := [d.toNat], who := .vector }
/-- `cvt.bf16.f32` (R57). -/
def infoCvtBf16F32 (h : Hdr) (d : BitVec 6) (a : BitVec 6) : Info :=
  { Info.base h .perLane with vr := [a.toNat], vw := [d.toNat], who := .vector }
/-- `cvt.f32.e4m3` (R57). -/
def infoCvtF32E4m3 (h : Hdr) (d : BitVec 6) (a : BitVec 6) : Info :=
  { Info.base h .perLane with vr := [a.toNat], vw := [d.toNat], who := .vector }
/-- `cvt.e4m3.f32` (R57). -/
def infoCvtE4m3F32 (h : Hdr) (d : BitVec 6) (a : BitVec 6) : Info :=
  { Info.base h .perLane with vr := [a.toNat] ++ [d.toNat], vw := [d.toNat], who := .vector }
/-- `cvt.f32.e5m2` (R57). -/
def infoCvtF32E5m2 (h : Hdr) (d : BitVec 6) (a : BitVec 6) : Info :=
  { Info.base h .perLane with vr := [a.toNat], vw := [d.toNat], who := .vector }
/-- `cvt.e5m2.f32` (R57). -/
def infoCvtE5m2F32 (h : Hdr) (d : BitVec 6) (a : BitVec 6) : Info :=
  { Info.base h .perLane with vr := [a.toNat] ++ [d.toNat], vw := [d.toNat], who := .vector }
/-- `cvt.f32.e2m1` (R57). -/
def infoCvtF32E2m1 (h : Hdr) (d : BitVec 6) (a : BitVec 6) : Info :=
  { Info.base h .perLane with vr := [a.toNat], vw := [d.toNat], who := .vector }
/-- `cvt.e2m1.f32` (R57). -/
def infoCvtE2m1F32 (h : Hdr) (d : BitVec 6) (a : BitVec 6) : Info :=
  { Info.base h .perLane with vr := [a.toNat] ++ [d.toNat], vw := [d.toNat], who := .vector }
/-- `cvt.f32.s20` (R57). -/
def infoCvtF32S20 (h : Hdr) (d : BitVec 6) (a : BitVec 6) : Info :=
  { Info.base h .perLane with vr := [a.toNat], vw := [d.toNat], who := .vector }
/-- `cvt.s20.f32` (R57). -/
def infoCvtS20F32 (h : Hdr) (d : BitVec 6) (a : BitVec 6) : Info :=
  { Info.base h .perLane with vr := [a.toNat], vw := [d.toNat], who := .vector }
/-- `lane.pick` (R140). -/
def infoLanePick (h : Hdr) (d : BitVec 6) (a : BitVec 6) (b : BitVec 6) : Info :=
  { Info.base h .crossLane with vr := [a.toNat] ++ [b.toNat], vw := [d.toNat], pipes := [.v1] }
/-- `lane.back` (R140). -/
def infoLaneBack (h : Hdr) (d : BitVec 6) (a : BitVec 6) (b : BitVec 6) : Info :=
  { Info.base h .crossLane with vr := [a.toNat] ++ [b.toNat], vw := [d.toNat], pipes := [.v1] }
/-- `lane.fwd` (R140). -/
def infoLaneFwd (h : Hdr) (d : BitVec 6) (a : BitVec 6) (b : BitVec 6) : Info :=
  { Info.base h .crossLane with vr := [a.toNat] ++ [b.toNat], vw := [d.toNat], pipes := [.v1] }
/-- `lane.flip` (R140). -/
def infoLaneFlip (h : Hdr) (d : BitVec 6) (a : BitVec 6) (b : BitVec 6) : Info :=
  { Info.base h .crossLane with vr := [a.toNat] ++ [b.toNat], vw := [d.toNat], pipes := [.v1] }
/-- `lane.any` (R140). -/
def infoLaneAny (h : Hdr) (d : BitVec 6) (a : BitVec 6) : Info :=
  { Info.base h .crossLane with vr := [a.toNat], vw := [d.toNat], pipes := [.v1] }
/-- `lane.every` (R140). -/
def infoLaneEvery (h : Hdr) (d : BitVec 6) (a : BitVec 6) : Info :=
  { Info.base h .crossLane with vr := [a.toNat], vw := [d.toNat], pipes := [.v1] }
/-- `lane.mask` (R140). -/
def infoLaneMask (h : Hdr) (d : BitVec 6) (a : BitVec 6) : Info :=
  { Info.base h .crossLane with vr := [a.toNat], vw := [d.toNat], pipes := [.v1] }
/-- `lane.sum` (R140). -/
def infoLaneSum (h : Hdr) (d : BitVec 6) (a : BitVec 6) : Info :=
  { Info.base h .crossLane with vr := [a.toNat], vw := [d.toNat], pipes := [.v1] }
/-- `lane.least` (R140). -/
def infoLaneLeast (h : Hdr) (d : BitVec 6) (a : BitVec 6) : Info :=
  { Info.base h .crossLane with vr := [a.toNat], vw := [d.toNat], pipes := [.v1] }
/-- `lane.most` (R140). -/
def infoLaneMost (h : Hdr) (d : BitVec 6) (a : BitVec 6) : Info :=
  { Info.base h .crossLane with vr := [a.toNat], vw := [d.toNat], pipes := [.v1] }
/-- `lane.fsum` (R141). -/
def infoLaneFsum (h : Hdr) (d : BitVec 6) (a : BitVec 6) : Info :=
  { Info.base h .crossLane with vr := [a.toNat], vw := [d.toNat], pipes := [.v1], who := .vector }
/-- `lane.from` (R140). -/
def infoLaneFrom (h : Hdr) (d : BitVec 6) (a : BitVec 6) : Info :=
  { Info.base h .crossLane with vr := [a.toNat], vw := [d.toNat], pipes := [.v1] }
/-- `salu.sadd` (R142). -/
def infoSaluSadd (h : Hdr) (d : BitVec 5) (a : BitVec 5) (b : SSrc) : Info :=
  { Info.base h .uniform with sr := [a.toNat] ++ sregsOf b, sw := [d.toNat], pipes := [.s] }
/-- `salu.ssub` (R142). -/
def infoSaluSsub (h : Hdr) (d : BitVec 5) (a : BitVec 5) (b : SSrc) : Info :=
  { Info.base h .uniform with sr := [a.toNat] ++ sregsOf b, sw := [d.toNat], pipes := [.s] }
/-- `salu.smul` (R142). -/
def infoSaluSmul (h : Hdr) (d : BitVec 5) (a : BitVec 5) (b : SSrc) : Info :=
  { Info.base h .uniform with sr := [a.toNat] ++ sregsOf b, sw := [d.toNat], pipes := [.s] }
/-- `salu.sand` (R142). -/
def infoSaluSand (h : Hdr) (d : BitVec 5) (a : BitVec 5) (b : SSrc) : Info :=
  { Info.base h .uniform with sr := [a.toNat] ++ sregsOf b, sw := [d.toNat], pipes := [.s] }
/-- `salu.sor` (R142). -/
def infoSaluSor (h : Hdr) (d : BitVec 5) (a : BitVec 5) (b : SSrc) : Info :=
  { Info.base h .uniform with sr := [a.toNat] ++ sregsOf b, sw := [d.toNat], pipes := [.s] }
/-- `salu.sxor` (R142). -/
def infoSaluSxor (h : Hdr) (d : BitVec 5) (a : BitVec 5) (b : SSrc) : Info :=
  { Info.base h .uniform with sr := [a.toNat] ++ sregsOf b, sw := [d.toNat], pipes := [.s] }
/-- `salu.sshl` (R142). -/
def infoSaluSshl (h : Hdr) (d : BitVec 5) (a : BitVec 5) (b : SSrc) : Info :=
  { Info.base h .uniform with sr := [a.toNat] ++ sregsOf b, sw := [d.toNat], pipes := [.s] }
/-- `salu.sshr` (R142). -/
def infoSaluSshr (h : Hdr) (d : BitVec 5) (a : BitVec 5) (b : SSrc) : Info :=
  { Info.base h .uniform with sr := [a.toNat] ++ sregsOf b, sw := [d.toNat], pipes := [.s] }
/-- `salu.ssra` (R142). -/
def infoSaluSsra (h : Hdr) (d : BitVec 5) (a : BitVec 5) (b : SSrc) : Info :=
  { Info.base h .uniform with sr := [a.toNat] ++ sregsOf b, sw := [d.toNat], pipes := [.s] }
/-- `salu.smin` (R142). -/
def infoSaluSmin (h : Hdr) (d : BitVec 5) (a : BitVec 5) (b : SSrc) : Info :=
  { Info.base h .uniform with sr := [a.toNat] ++ sregsOf b, sw := [d.toNat], pipes := [.s] }
/-- `salu.smax` (R142). -/
def infoSaluSmax (h : Hdr) (d : BitVec 5) (a : BitVec 5) (b : SSrc) : Info :=
  { Info.base h .uniform with sr := [a.toNat] ++ sregsOf b, sw := [d.toNat], pipes := [.s] }
/-- `salu.smov` (R142). -/
def infoSaluSmov (h : Hdr) (d : BitVec 5) (a : BitVec 5) : Info :=
  { Info.base h .uniform with sr := [a.toNat], sw := [d.toNat], pipes := [.s] }
/-- `salu.saddc` (R142). -/
def infoSaluSaddc (h : Hdr) (d : BitVec 5) (a : BitVec 5) (b : SSrc) : Info :=
  { Info.base h .uniform with sr := pr a ++ spairsOf b, sw := pr d, pipes := [.s] }
/-- `salu.scmp.cmp` (R143). -/
def infoSaluScmp (h : Hdr) (k : BitVec 2) (n : BitVec 3) (a : BitVec 5) (b : SSrc) : Info :=
  { Info.base h .uniform with sr := [a.toNat] ++ sregsOf b, gr := (if k = 0 then [] else [n.toNat]), gw := [n.toNat], pipes := [.s] }
/-- `smov.s2v` (R144). -/
def infoSmovS2v (h : Hdr) (d : BitVec 6) (a : BitVec 6) : Info :=
  { Info.base h .perLane with vw := [d.toNat], sr := [a.toNat], pipes := [.v1] }
/-- `smov.v2s` (R144). -/
def infoSmovV2s (h : Hdr) (d : BitVec 6) (a : BitVec 6) : Info :=
  { Info.base h .uniform with vr := [a.toNat], sw := [d.toNat], pipes := [.v1] }
/-- `grd.gand` (R145). -/
def infoGrdGand (h : Hdr) (d : BitVec 3) (a : BitVec 3) (b : BitVec 3) : Info :=
  { Info.base h .perLane with gr := [a.toNat] ++ [b.toNat], gw := [d.toNat] }
/-- `grd.gor` (R145). -/
def infoGrdGor (h : Hdr) (d : BitVec 3) (a : BitVec 3) (b : BitVec 3) : Info :=
  { Info.base h .perLane with gr := [a.toNat] ++ [b.toNat], gw := [d.toNat] }
/-- `grd.gxor` (R145). -/
def infoGrdGxor (h : Hdr) (d : BitVec 3) (a : BitVec 3) (b : BitVec 3) : Info :=
  { Info.base h .perLane with gr := [a.toNat] ++ [b.toNat], gw := [d.toNat] }
/-- `grd.gnot` (R145). -/
def infoGrdGnot (h : Hdr) (d : BitVec 3) (a : BitVec 3) : Info :=
  { Info.base h .perLane with gr := [a.toNat], gw := [d.toNat] }
/-- `grd.gmov` (R145). -/
def infoGrdGmov (h : Hdr) (d : BitVec 3) (a : BitVec 3) : Info :=
  { Info.base h .perLane with gr := [a.toNat], gw := [d.toNat] }
/-- `grd.gset` (R145). -/
def infoGrdGset (h : Hdr) (d : BitVec 3) (a : BitVec 6) : Info :=
  { Info.base h .perLane with vr := [a.toNat], gw := [d.toNat] }
/-- `grd.gtov` (R145). -/
def infoGrdGtov (h : Hdr) (d : BitVec 6) (a : BitVec 3) : Info :=
  { Info.base h .perLane with vw := [d.toNat], gr := [a.toNat] }
/-- `csr.rdsr` (R146). -/
def infoCsrRdsr (h : Hdr) (d : BitVec 6) (a : BitVec 6) (b : BitVec 6) : Info :=
  { Info.base h .perLane with vw := [d.toNat], pipes := [.s], csr := some (csrNumber a b) }
/-- `csr.wrsr` (R146). -/
def infoCsrWrsr (h : Hdr) (d : BitVec 6) (a : BitVec 6) (b : BitVec 6) : Info :=
  { Info.base h .uniform with vr := [d.toNat], pipes := [.s], ending := true, csr := some (csrNumber a b) }
/-- `csr.rdsrs` (R146). -/
def infoCsrRdsrs (h : Hdr) (d : BitVec 6) (a : BitVec 6) (b : BitVec 6) : Info :=
  { Info.base h .uniform with sw := [d.toNat], pipes := [.s], csr := some (csrNumber a b) }
/-- `csr.wrsrs` (R146). -/
def infoCsrWrsrs (h : Hdr) (d : BitVec 6) (a : BitVec 6) (b : BitVec 6) : Info :=
  { Info.base h .uniform with sr := [d.toNat], pipes := [.s], ending := true, csr := some (csrNumber a b) }
/-- `ld.b8` (R159). -/
def infoLdB8 (h : Hdr) (d : BitVec 6) (a : BitVec 6) : Info :=
  { Info.base h .perLane with vr := pr a, vw := [d.toNat], pipes := [.m] }
/-- `ld.b8s` (R159). -/
def infoLdB8s (h : Hdr) (d : BitVec 6) (a : BitVec 6) : Info :=
  { Info.base h .perLane with vr := pr a, vw := [d.toNat], pipes := [.m] }
/-- `ld.b16` (R159). -/
def infoLdB16 (h : Hdr) (d : BitVec 6) (a : BitVec 6) : Info :=
  { Info.base h .perLane with vr := pr a, vw := [d.toNat], pipes := [.m] }
/-- `ld.b16s` (R159). -/
def infoLdB16s (h : Hdr) (d : BitVec 6) (a : BitVec 6) : Info :=
  { Info.base h .perLane with vr := pr a, vw := [d.toNat], pipes := [.m] }
/-- `ld.b32` (R159). -/
def infoLdB32 (h : Hdr) (d : BitVec 6) (a : BitVec 6) : Info :=
  { Info.base h .perLane with vr := pr a, vw := [d.toNat], pipes := [.m] }
/-- `ld.b64` (R159). -/
def infoLdB64 (h : Hdr) (d : BitVec 6) (a : BitVec 6) : Info :=
  { Info.base h .perLane with vr := pr a, vw := pr d, pipes := [.m] }
/-- `ld.b128` (R159). -/
def infoLdB128 (h : Hdr) (d : BitVec 6) (a : BitVec 6) : Info :=
  { Info.base h .perLane with vr := pr a, vw := qd d, pipes := [.m] }
/-- `st.b8` (R159). -/
def infoStB8 (h : Hdr) (d : BitVec 6) (a : BitVec 6) : Info :=
  { Info.base h .perLane with vr := pr a ++ [d.toNat], pipes := [.m] }
/-- `st.b16` (R159). -/
def infoStB16 (h : Hdr) (d : BitVec 6) (a : BitVec 6) : Info :=
  { Info.base h .perLane with vr := pr a ++ [d.toNat], pipes := [.m] }
/-- `st.b32` (R159). -/
def infoStB32 (h : Hdr) (d : BitVec 6) (a : BitVec 6) : Info :=
  { Info.base h .perLane with vr := pr a ++ [d.toNat], pipes := [.m] }
/-- `st.b64` (R159). -/
def infoStB64 (h : Hdr) (d : BitVec 6) (a : BitVec 6) : Info :=
  { Info.base h .perLane with vr := pr a ++ pr d, pipes := [.m] }
/-- `st.b128` (R159). -/
def infoStB128 (h : Hdr) (d : BitVec 6) (a : BitVec 6) : Info :=
  { Info.base h .perLane with vr := pr a ++ qd d, pipes := [.m] }
/-- `lds.b8` (R160). -/
def infoLdsB8 (h : Hdr) (d : BitVec 6) (a : BitVec 6) : Info :=
  { Info.base h .perLane with vr := [a.toNat], vw := [d.toNat], pipes := [.m] }
/-- `lds.b8s` (R160). -/
def infoLdsB8s (h : Hdr) (d : BitVec 6) (a : BitVec 6) : Info :=
  { Info.base h .perLane with vr := [a.toNat], vw := [d.toNat], pipes := [.m] }
/-- `lds.b16` (R160). -/
def infoLdsB16 (h : Hdr) (d : BitVec 6) (a : BitVec 6) : Info :=
  { Info.base h .perLane with vr := [a.toNat], vw := [d.toNat], pipes := [.m] }
/-- `lds.b16s` (R160). -/
def infoLdsB16s (h : Hdr) (d : BitVec 6) (a : BitVec 6) : Info :=
  { Info.base h .perLane with vr := [a.toNat], vw := [d.toNat], pipes := [.m] }
/-- `lds.b32` (R160). -/
def infoLdsB32 (h : Hdr) (d : BitVec 6) (a : BitVec 6) : Info :=
  { Info.base h .perLane with vr := [a.toNat], vw := [d.toNat], pipes := [.m] }
/-- `lds.b64` (R160). -/
def infoLdsB64 (h : Hdr) (d : BitVec 6) (a : BitVec 6) : Info :=
  { Info.base h .perLane with vr := [a.toNat], vw := pr d, pipes := [.m] }
/-- `lds.b128` (R160). -/
def infoLdsB128 (h : Hdr) (d : BitVec 6) (a : BitVec 6) : Info :=
  { Info.base h .perLane with vr := [a.toNat], vw := qd d, pipes := [.m] }
/-- `sts.b8` (R160). -/
def infoStsB8 (h : Hdr) (d : BitVec 6) (a : BitVec 6) : Info :=
  { Info.base h .perLane with vr := [a.toNat] ++ [d.toNat], pipes := [.m] }
/-- `sts.b16` (R160). -/
def infoStsB16 (h : Hdr) (d : BitVec 6) (a : BitVec 6) : Info :=
  { Info.base h .perLane with vr := [a.toNat] ++ [d.toNat], pipes := [.m] }
/-- `sts.b32` (R160). -/
def infoStsB32 (h : Hdr) (d : BitVec 6) (a : BitVec 6) : Info :=
  { Info.base h .perLane with vr := [a.toNat] ++ [d.toNat], pipes := [.m] }
/-- `sts.b64` (R160). -/
def infoStsB64 (h : Hdr) (d : BitVec 6) (a : BitVec 6) : Info :=
  { Info.base h .perLane with vr := [a.toNat] ++ pr d, pipes := [.m] }
/-- `sts.b128` (R160). -/
def infoStsB128 (h : Hdr) (d : BitVec 6) (a : BitVec 6) : Info :=
  { Info.base h .perLane with vr := [a.toNat] ++ qd d, pipes := [.m] }
/-- `ldp.kN` (R161). -/
def infoLdp (h : Hdr) (d : BitVec 6) (a : BitVec 6) : Info :=
  { Info.base h .perLane with vr := pr a, vw := [d.toNat], pipes := [.m] }
/-- `ldp.kN.f32` (R161). -/
def infoLdpF32 (h : Hdr) (d : BitVec 6) (a : BitVec 6) : Info :=
  { Info.base h .perLane with vr := pr a, vw := [d.toNat], pipes := [.m] }
/-- `upd.add` (R162). -/
def infoUpdAdd (h : Hdr) (d : BitVec 6) (a : BitVec 6) : Info :=
  { Info.base h .perLane with vr := pr a ++ [d.toNat], vw := [d.toNat], pipes := [.m] }
/-- `upd.fadd` (R165). -/
def infoUpdFadd (h : Hdr) (d : BitVec 6) (a : BitVec 6) : Info :=
  { Info.base h .perLane with vr := pr a ++ [d.toNat], vw := [d.toNat], pipes := [.m] }
/-- `upd.min` (R162). -/
def infoUpdMin (h : Hdr) (d : BitVec 6) (a : BitVec 6) : Info :=
  { Info.base h .perLane with vr := pr a ++ [d.toNat], vw := [d.toNat], pipes := [.m] }
/-- `upd.max` (R162). -/
def infoUpdMax (h : Hdr) (d : BitVec 6) (a : BitVec 6) : Info :=
  { Info.base h .perLane with vr := pr a ++ [d.toNat], vw := [d.toNat], pipes := [.m] }
/-- `upd.minn` (R162). -/
def infoUpdMinn (h : Hdr) (d : BitVec 6) (a : BitVec 6) : Info :=
  { Info.base h .perLane with vr := pr a ++ [d.toNat], vw := [d.toNat], pipes := [.m] }
/-- `upd.maxn` (R162). -/
def infoUpdMaxn (h : Hdr) (d : BitVec 6) (a : BitVec 6) : Info :=
  { Info.base h .perLane with vr := pr a ++ [d.toNat], vw := [d.toNat], pipes := [.m] }
/-- `upd.and` (R162). -/
def infoUpdAnd (h : Hdr) (d : BitVec 6) (a : BitVec 6) : Info :=
  { Info.base h .perLane with vr := pr a ++ [d.toNat], vw := [d.toNat], pipes := [.m] }
/-- `upd.or` (R162). -/
def infoUpdOr (h : Hdr) (d : BitVec 6) (a : BitVec 6) : Info :=
  { Info.base h .perLane with vr := pr a ++ [d.toNat], vw := [d.toNat], pipes := [.m] }
/-- `upd.xor` (R162). -/
def infoUpdXor (h : Hdr) (d : BitVec 6) (a : BitVec 6) : Info :=
  { Info.base h .perLane with vr := pr a ++ [d.toNat], vw := [d.toNat], pipes := [.m] }
/-- `upd.swap` (R162). -/
def infoUpdSwap (h : Hdr) (d : BitVec 6) (a : BitVec 6) : Info :=
  { Info.base h .perLane with vr := pr a ++ [d.toNat], vw := [d.toNat], pipes := [.m] }
/-- `upd.cas` (R162). -/
def infoUpdCas (h : Hdr) (d : BitVec 6) (a : BitVec 6) : Info :=
  { Info.base h .perLane with vr := pr a ++ pr d, vw := [d.toNat], pipes := [.m] }
/-- `upd.add64` (R162). -/
def infoUpdAdd64 (h : Hdr) (d : BitVec 6) (a : BitVec 6) : Info :=
  { Info.base h .perLane with vr := pr a ++ pr d, vw := pr d, pipes := [.m] }
/-- `upd.swap64` (R162). -/
def infoUpdSwap64 (h : Hdr) (d : BitVec 6) (a : BitVec 6) : Info :=
  { Info.base h .perLane with vr := pr a ++ pr d, vw := pr d, pipes := [.m] }
/-- `upd.cas64` (R162). -/
def infoUpdCas64 (h : Hdr) (d : BitVec 6) (a : BitVec 6) : Info :=
  { Info.base h .perLane with vr := pr a ++ qd d, vw := pr d, pipes := [.m] }
/-- `updc.add` (R163). -/
def infoUpdcAdd (h : Hdr) (d : BitVec 6) (a : BitVec 6) : Info :=
  { Info.base h .perLane with vr := pr a ++ [d.toNat], vw := [d.toNat], pipes := [.m] }
/-- `updc.fadd` (R165). -/
def infoUpdcFadd (h : Hdr) (d : BitVec 6) (a : BitVec 6) : Info :=
  { Info.base h .perLane with vr := pr a ++ [d.toNat], vw := [d.toNat], pipes := [.m] }
/-- `updc.min` (R163). -/
def infoUpdcMin (h : Hdr) (d : BitVec 6) (a : BitVec 6) : Info :=
  { Info.base h .perLane with vr := pr a ++ [d.toNat], vw := [d.toNat], pipes := [.m] }
/-- `updc.max` (R163). -/
def infoUpdcMax (h : Hdr) (d : BitVec 6) (a : BitVec 6) : Info :=
  { Info.base h .perLane with vr := pr a ++ [d.toNat], vw := [d.toNat], pipes := [.m] }
/-- `updc.minn` (R163). -/
def infoUpdcMinn (h : Hdr) (d : BitVec 6) (a : BitVec 6) : Info :=
  { Info.base h .perLane with vr := pr a ++ [d.toNat], vw := [d.toNat], pipes := [.m] }
/-- `updc.maxn` (R163). -/
def infoUpdcMaxn (h : Hdr) (d : BitVec 6) (a : BitVec 6) : Info :=
  { Info.base h .perLane with vr := pr a ++ [d.toNat], vw := [d.toNat], pipes := [.m] }
/-- `updc.and` (R163). -/
def infoUpdcAnd (h : Hdr) (d : BitVec 6) (a : BitVec 6) : Info :=
  { Info.base h .perLane with vr := pr a ++ [d.toNat], vw := [d.toNat], pipes := [.m] }
/-- `updc.or` (R163). -/
def infoUpdcOr (h : Hdr) (d : BitVec 6) (a : BitVec 6) : Info :=
  { Info.base h .perLane with vr := pr a ++ [d.toNat], vw := [d.toNat], pipes := [.m] }
/-- `updc.xor` (R163). -/
def infoUpdcXor (h : Hdr) (d : BitVec 6) (a : BitVec 6) : Info :=
  { Info.base h .perLane with vr := pr a ++ [d.toNat], vw := [d.toNat], pipes := [.m] }
/-- `updc.swap` (R163). -/
def infoUpdcSwap (h : Hdr) (d : BitVec 6) (a : BitVec 6) : Info :=
  { Info.base h .perLane with vr := pr a ++ [d.toNat], vw := [d.toNat], pipes := [.m] }
/-- `updc.cas` (R163). -/
def infoUpdcCas (h : Hdr) (d : BitVec 6) (a : BitVec 6) : Info :=
  { Info.base h .perLane with vr := pr a ++ pr d, vw := [d.toNat], pipes := [.m] }
/-- `updc.add64` (R163). -/
def infoUpdcAdd64 (h : Hdr) (d : BitVec 6) (a : BitVec 6) : Info :=
  { Info.base h .perLane with vr := pr a ++ pr d, vw := pr d, pipes := [.m] }
/-- `updc.swap64` (R163). -/
def infoUpdcSwap64 (h : Hdr) (d : BitVec 6) (a : BitVec 6) : Info :=
  { Info.base h .perLane with vr := pr a ++ pr d, vw := pr d, pipes := [.m] }
/-- `updc.cas64` (R163). -/
def infoUpdcCas64 (h : Hdr) (d : BitVec 6) (a : BitVec 6) : Info :=
  { Info.base h .perLane with vr := pr a ++ qd d, vw := pr d, pipes := [.m] }
/-- `updn.add` (R162). -/
def infoUpdnAdd (h : Hdr) (d : BitVec 6) (a : BitVec 6) : Info :=
  { Info.base h .perLane with vr := pr a ++ [d.toNat], pipes := [.m] }
/-- `updn.fadd` (R165). -/
def infoUpdnFadd (h : Hdr) (d : BitVec 6) (a : BitVec 6) : Info :=
  { Info.base h .perLane with vr := pr a ++ [d.toNat], pipes := [.m] }
/-- `updn.min` (R162). -/
def infoUpdnMin (h : Hdr) (d : BitVec 6) (a : BitVec 6) : Info :=
  { Info.base h .perLane with vr := pr a ++ [d.toNat], pipes := [.m] }
/-- `updn.max` (R162). -/
def infoUpdnMax (h : Hdr) (d : BitVec 6) (a : BitVec 6) : Info :=
  { Info.base h .perLane with vr := pr a ++ [d.toNat], pipes := [.m] }
/-- `updn.minn` (R162). -/
def infoUpdnMinn (h : Hdr) (d : BitVec 6) (a : BitVec 6) : Info :=
  { Info.base h .perLane with vr := pr a ++ [d.toNat], pipes := [.m] }
/-- `updn.maxn` (R162). -/
def infoUpdnMaxn (h : Hdr) (d : BitVec 6) (a : BitVec 6) : Info :=
  { Info.base h .perLane with vr := pr a ++ [d.toNat], pipes := [.m] }
/-- `updn.and` (R162). -/
def infoUpdnAnd (h : Hdr) (d : BitVec 6) (a : BitVec 6) : Info :=
  { Info.base h .perLane with vr := pr a ++ [d.toNat], pipes := [.m] }
/-- `updn.or` (R162). -/
def infoUpdnOr (h : Hdr) (d : BitVec 6) (a : BitVec 6) : Info :=
  { Info.base h .perLane with vr := pr a ++ [d.toNat], pipes := [.m] }
/-- `updn.xor` (R162). -/
def infoUpdnXor (h : Hdr) (d : BitVec 6) (a : BitVec 6) : Info :=
  { Info.base h .perLane with vr := pr a ++ [d.toNat], pipes := [.m] }
/-- `mem.fence.host` (R166). -/
def infoMemFenceHost (h : Hdr) : Info :=
  { Info.base h .uniform with pipes := [.m] }
/-- `mem.fence.peer` (R166). -/
def infoMemFencePeer (h : Hdr) : Info :=
  { Info.base h .uniform with pipes := [.m] }
/-- `mem.fence.sys` (R166). -/
def infoMemFenceSys (h : Hdr) : Info :=
  { Info.base h .uniform with pipes := [.m] }
/-- `mem.pref` (R167). -/
def infoMemPref (h : Hdr) (a : BitVec 6) : Info :=
  { Info.base h .perLane with vr := pr a, pipes := [.m] }
/-- `mem.bpref` (R168). -/
def infoMemBpref (h : Hdr) (d : BitVec 6) : Info :=
  { Info.base h .uniform with sr := [d.toNat, d.toNat + 1, d.toNat + 2], pipes := [.c], who := .copy }
/-- `mon.waitc.eq` (R169). -/
def infoMonWaitcEq (h : Hdr) (d : BitVec 6) (a : BitVec 6) : Info :=
  { Info.base h .lowestLane with vr := pr a ++ [d.toNat], pipes := [.m], ending := true }
/-- `mon.waitc.ne` (R169). -/
def infoMonWaitcNe (h : Hdr) (d : BitVec 6) (a : BitVec 6) : Info :=
  { Info.base h .lowestLane with vr := pr a ++ [d.toNat], pipes := [.m], ending := true }
/-- `mon.waitc.lt` (R169). -/
def infoMonWaitcLt (h : Hdr) (d : BitVec 6) (a : BitVec 6) : Info :=
  { Info.base h .lowestLane with vr := pr a ++ [d.toNat], pipes := [.m], ending := true }
/-- `mon.waitc.ge` (R169). -/
def infoMonWaitcGe (h : Hdr) (d : BitVec 6) (a : BitVec 6) : Info :=
  { Info.base h .lowestLane with vr := pr a ++ [d.toNat], pipes := [.m], ending := true }
/-- `mon.waitc.ltn` (R169). -/
def infoMonWaitcLtn (h : Hdr) (d : BitVec 6) (a : BitVec 6) : Info :=
  { Info.base h .lowestLane with vr := pr a ++ [d.toNat], pipes := [.m], ending := true }
/-- `mon.waitc.gen` (R169). -/
def infoMonWaitcGen (h : Hdr) (d : BitVec 6) (a : BitVec 6) : Info :=
  { Info.base h .lowestLane with vr := pr a ++ [d.toNat], pipes := [.m], ending := true }
/-- `mon.waitc.chg` (R169). -/
def infoMonWaitcChg (h : Hdr) (a : BitVec 6) : Info :=
  { Info.base h .lowestLane with vr := pr a, pipes := [.m], ending := true }
/-- `bar.init` (R174). -/
def infoBarInit (h : Hdr) : Info :=
  { Info.base h .uniform with pipes := [.c] }
/-- `bar.init.x` (R174). -/
def infoBarInitX (h : Hdr) : Info :=
  { Info.base h .uniform with pipes := [.c] }
/-- `bar.arr` (R174). -/
def infoBarArr (h : Hdr) : Info :=
  { Info.base h .uniform with pipes := [.c] }
/-- `bar.drop` (R174). -/
def infoBarDrop (h : Hdr) : Info :=
  { Info.base h .uniform with pipes := [.c] }
/-- `bar.wait` (R174). -/
def infoBarWait (h : Hdr) : Info :=
  { Info.base h .uniform with pipes := [.c], ending := true }
/-- `bar.test` (R174). -/
def infoBarTest (h : Hdr) (m : BitVec 3) : Info :=
  { Info.base h .uniform with gw := [m.toNat], pipes := [.c] }
/-- `bar.inval` (R174). -/
def infoBarInval (h : Hdr) (m : BitVec 3) : Info :=
  { Info.base h .uniform with gw := [m.toNat], pipes := [.c] }
/-- `bar.arrw` (R174). -/
def infoBarArrw (h : Hdr) : Info :=
  { Info.base h .uniform with pipes := [.c], ending := true }
/-- `mus.set` (R176). -/
def infoMusSet (h : Hdr) : Info :=
  { Info.base h .uniform with pipes := [.c] }
/-- `mus.clr` (R176). -/
def infoMusClr (h : Hdr) : Info :=
  { Info.base h .uniform with pipes := [.c] }
/-- `ring.init` (R178). -/
def infoRingInit (h : Hdr) : Info :=
  { Info.base h .uniform with pipes := [.c] }
/-- `ring.acq` (R178). -/
def infoRingAcq (h : Hdr) (k : BitVec 5) : Info :=
  { Info.base h .uniform with sw := [k.toNat], pipes := [.c], ending := true }
/-- `ring.rel` (R178). -/
def infoRingRel (h : Hdr) (k : BitVec 5) : Info :=
  { Info.base h .uniform with sr := [k.toNat], pipes := [.c] }
/-- `ring.take` (R178). -/
def infoRingTake (h : Hdr) (k : BitVec 5) : Info :=
  { Info.base h .uniform with sw := [k.toNat], pipes := [.c], ending := true }
/-- `ring.free` (R178). -/
def infoRingFree (h : Hdr) (k : BitVec 5) : Info :=
  { Info.base h .uniform with sr := [k.toNat], pipes := [.c] }
/-- `fut.finit` (R180). -/
def infoFutFinit (h : Hdr) (a : BitVec 6) : Info :=
  { Info.base h .lowestLane with vr := pr a, pipes := [.m] }
/-- `fut.fput` (R180). -/
def infoFutFput (h : Hdr) (d : BitVec 6) (a : BitVec 6) : Info :=
  { Info.base h .lowestLane with vr := pr a ++ pr d, pipes := [.m] }
/-- `fut.fget` (R180). -/
def infoFutFget (h : Hdr) (d : BitVec 6) (a : BitVec 6) : Info :=
  { Info.base h .lowestLane with vr := pr a, vw := pr d, pipes := [.m], ending := true }
/-- `fut.fpoll` (R180). -/
def infoFutFpoll (h : Hdr) (d : BitVec 3) (a : BitVec 6) : Info :=
  { Info.base h .lowestLane with vr := pr a, gw := [d.toNat], pipes := [.m] }
/-- `cpy.size.mm` (R182). -/
def infoCpyMm (h : Hdr) (d : BitVec 6) (a : BitVec 6) : Info :=
  { Info.base h .perLane with vr := pr d ++ pr a, pipes := [.c], who := .copy }
/-- `cpy.size.ms` (R182). -/
def infoCpyMs (h : Hdr) (d : BitVec 6) (a : BitVec 6) : Info :=
  { Info.base h .perLane with vr := pr d ++ [a.toNat], pipes := [.c], who := .copy }
/-- `cpy.size.sm` (R182). -/
def infoCpySm (h : Hdr) (d : BitVec 6) (a : BitVec 6) : Info :=
  { Info.base h .perLane with vr := [d.toNat] ++ pr a, pipes := [.c], who := .copy }
/-- `cpy.size.ss` (R182). -/
def infoCpySs (h : Hdr) (d : BitVec 6) (a : BitVec 6) : Info :=
  { Info.base h .perLane with vr := [d.toNat] ++ [a.toNat], pipes := [.c], who := .copy }
/-- `tcpy.sp` (R192). -/
def infoTcpySp (h : Hdr) (n : BitVec 5) : Info :=
  { Info.base h .uniform with sr := tileRegs n, pipes := [.c], who := .copy }
/-- `tcpy.oa` (R192). -/
def infoTcpyOa (h : Hdr) (n : BitVec 5) : Info :=
  { Info.base h .uniform with sr := tileRegs n, pipes := [.c], who := .copy }
/-- `tcpy.wb` (R192). -/
def infoTcpyWb (h : Hdr) (n : BitVec 5) : Info :=
  { Info.base h .uniform with sr := tileRegs n, pipes := [.c], who := .copy }
/-- `tcpy.st` (R193). -/
def infoTcpySt (h : Hdr) (n : BitVec 5) : Info :=
  { Info.base h .uniform with sr := tileRegs n, pipes := [.c], who := .copy }
/-- `tcpy.gath` (R193). -/
def infoTcpyGath (h : Hdr) (n : BitVec 5) : Info :=
  { Info.base h .uniform with sr := tileRegs n, pipes := [.c], who := .copy }
/-- `tcpy.scat` (R193). -/
def infoTcpyScat (h : Hdr) (n : BitVec 5) : Info :=
  { Info.base h .uniform with sr := tileRegs n, pipes := [.c], who := .copy }
/-- `tcpy.zero` (R192). -/
def infoTcpyZero (h : Hdr) (n : BitVec 5) : Info :=
  { Info.base h .uniform with sr := [n.toNat + 3, n.toNat + 4, n.toNat + 5, n.toNat + 7], pipes := [.c], who := .copy }
/-- `seal.seal` (R226). -/
def infoSeal (h : Hdr) (m : BitVec 3) (k : BitVec 5) : Info :=
  { Info.base h .uniform with sr := tri k, sw := [k.toNat + 2], gw := [m.toNat], pipes := [.c], who := .tmode }
/-- `seal.unseal` (R227). -/
def infoUnseal (h : Hdr) (k : BitVec 5) : Info :=
  { Info.base h .uniform with sr := tri k, pipes := [.c], who := .tmode }
/-- `mma.ef` (R199). -/
def infoMma (h : Hdr) (e : BitVec 5) : Info :=
  { Info.base h .crossLane with pipes := [.x], who := .matrix, ef := some e }
/-- `mmaz.ef` (R199). -/
def infoMmaz (h : Hdr) (e : BitVec 5) : Info :=
  { Info.base h .crossLane with pipes := [.x], who := .matrix, ef := some e }
/-- `mmag.ef` (R199). -/
def infoMmag (h : Hdr) (e : BitVec 5) : Info :=
  { Info.base h .crossLane with pipes := [.x], who := .matrix, ef := some e }
/-- `mmagz.ef` (R199). -/
def infoMmagz (h : Hdr) (e : BitVec 5) : Info :=
  { Info.base h .crossLane with pipes := [.x], who := .matrix, ef := some e }
/-- `tacc.tzero` (R201). -/
def infoTaccTzero (h : Hdr) : Info :=
  { Info.base h .uniform with pipes := [.x], who := .matrix }
/-- `tacc.tst.sp` (R202). -/
def infoTaccTstSp (h : Hdr) (n : BitVec 5) : Info :=
  { Info.base h .uniform with sr := tileRegs n, pipes := [.x], who := .matrix }
/-- `tacc.tst.mem` (R202). -/
def infoTaccTstMem (h : Hdr) (n : BitVec 5) : Info :=
  { Info.base h .uniform with sr := tileRegs n, pipes := [.x], who := .matrix }
/-- `tacc.tld` (R203). -/
def infoTaccTld (h : Hdr) (n : BitVec 5) : Info :=
  { Info.base h .uniform with sr := tileRegs n, pipes := [.x], who := .matrix }
/-- `tacc.tscale.col` (R203). -/
def infoTaccTscale (h : Hdr) (k : BitVec 5) : Info :=
  { Info.base h .uniform with sr := [k.toNat], pipes := [.x], who := .matrix }
/-- `tacc.tbias` (R203). -/
def infoTaccTbias (h : Hdr) (k : BitVec 5) : Info :=
  { Info.base h .uniform with sr := pr k, pipes := [.x], who := .matrix }
/-- `qnt.pi8` (R63). -/
def infoQntPi8 (h : Hdr) (d : BitVec 6) (a : BitVec 6) : Info :=
  { Info.base h .crossLane with vr := [a.toNat], vw := pr d, pipes := [.v1], who := .vector }
/-- `qnt.e2m1` (R64). -/
def infoQntE2m1 (h : Hdr) (d : BitVec 6) (a : BitVec 6) : Info :=
  { Info.base h .crossLane with vr := [a.toNat], vw := pr d, pipes := [.v1], who := .vector }
/-- `task.spawn` (R204). -/
def infoTaskSpawn (h : Hdr) (e : BitVec 5) (k : BitVec 5) : Info :=
  { Info.base h .uniform with sr := pr k, sw := pr e, pipes := [.c] }
/-- `task.launch` (R204). -/
def infoTaskLaunch (h : Hdr) (e : BitVec 5) (k : BitVec 5) : Info :=
  { Info.base h .uniform with sr := pr k, sw := pr e, pipes := [.c] }
/-- `arena.new` (R206). -/
def infoArenaNew (h : Hdr) (e : BitVec 5) (k : BitVec 5) : Info :=
  { Info.base h .uniform with sr := [k.toNat], sw := tri e, pipes := [.c] }
/-- `arena.end` (R207). -/
def infoArenaEnd (h : Hdr) (k : BitVec 5) : Info :=
  { Info.base h .uniform with sr := [k.toNat], pipes := [.c] }
/-- `arena.chk` (R208). -/
def infoArenaChk (h : Hdr) (m : BitVec 3) (k : BitVec 5) : Info :=
  { Info.base h .uniform with sr := pr k, gw := [m.toNat], pipes := [.c] }
/-- `bsn.def` (R210). -/
def infoBsnDef (h : Hdr) (k : BitVec 5) : Info :=
  { Info.base h .uniform with sr := pr k, pipes := [.c] }
/-- `bsn.resize` (R211). -/
def infoBsnResize (h : Hdr) (k : BitVec 5) : Info :=
  { Info.base h .uniform with sr := pr k, pipes := [.c] }
/-- `bsn.drop` (R212). -/
def infoBsnDrop (h : Hdr) (k : BitVec 5) : Info :=
  { Info.base h .uniform with sr := [k.toNat], pipes := [.c] }
/-- `bsn.stat` (R213). -/
def infoBsnStat (h : Hdr) (e : BitVec 5) (k : BitVec 5) : Info :=
  { Info.base h .uniform with sr := [k.toNat], sw := tri e, pipes := [.c] }
/-- `pg.bsn` (R214). -/
def infoPgBsn (h : Hdr) (k : BitVec 5) : Info :=
  { Info.base h .uniform with sr := tri k, pipes := [.c] }
/-- `tsys.inv.va` (R222). -/
def infoTsysInvVa (h : Hdr) (k : BitVec 5) : Info :=
  { Info.base h .uniform with sr := tri k, pipes := [.c], who := .tmode }
/-- `tsys.inv.all` (R222). -/
def infoTsysInvAll (h : Hdr) : Info :=
  { Info.base h .uniform with pipes := [.c], who := .tmode }
/-- `tsys.wqpop` (R216). -/
def infoTsysWqpop (h : Hdr) (m : BitVec 3) (d : BitVec 6) : Info :=
  { Info.base h .uniform with vw := qd d, gw := [m.toNat], pipes := [.c], who := .service, ending := true }
/-- `tsys.wqdone` (R217). -/
def infoTsysWqdone (h : Hdr) (d : BitVec 6) : Info :=
  { Info.base h .uniform with vr := qd d, pipes := [.c], who := .service }
/-- `tsys.ptld` (R219). -/
def infoTsysPtld (h : Hdr) (a : BitVec 6) (d : BitVec 6) : Info :=
  { Info.base h .uniform with vr := pr a, vw := pr d, pipes := [.c], who := .tmode }
/-- `tsys.frm.take` (R220). -/
def infoTsysFrmTake (h : Hdr) (m : BitVec 3) (d : BitVec 6) : Info :=
  { Info.base h .uniform with vw := pr d, gw := [m.toNat], pipes := [.c], who := .tmode }
/-- `tsys.frm.give` (R220). -/
def infoTsysFrmGive (h : Hdr) (a : BitVec 6) : Info :=
  { Info.base h .uniform with vr := pr a, pipes := [.c], who := .tmode }
/-- `tsys.mzero` (R221). -/
def infoTsysMzero (h : Hdr) (a : BitVec 6) : Info :=
  { Info.base h .uniform with vr := pr a, pipes := [.c], who := .tmode }
/-- `tsys.mcopy` (R221). -/
def infoTsysMcopy (h : Hdr) (a : BitVec 6) (d : BitVec 6) : Info :=
  { Info.base h .uniform with vr := pr d ++ pr a, pipes := [.c], who := .tmode }
/-- `tsys.meter.rd` (R223). -/
def infoTsysMeterRd (h : Hdr) (e : BitVec 5) (k : BitVec 5) : Info :=
  { Info.base h .uniform with sr := [k.toNat], sw := pr e, pipes := [.c], who := .tmode }
/-- `tsys.psave.done` (R224). -/
def infoTsysPsaveDone (h : Hdr) : Info :=
  { Info.base h .uniform with pipes := [.c], who := .tmode }
/-- `tsys.fault.post` (R218). -/
def infoTsysFaultPost (h : Hdr) (d : BitVec 6) : Info :=
  { Info.base h .uniform with vr := [d.toNat + 2, d.toNat + 3], pipes := [.c], who := .service }

/-- The issue facts of an instruction word; a step of the machine has none. -/
def info : Instr → Option Info
  | .sysNop h => some (infoSysNop h)
  | .sysExit h => some (infoSysExit h)
  | .sysYield h => some (infoSysYield h)
  | .sysTrap h _ => some (infoSysTrap h)
  | .sysUret h => some (infoSysUret h)
  | .sysTret h => some (infoSysTret h)
  | .sysBrk h _ => some (infoSysBrk h)
  | .sysHalt h _ => some (infoSysHalt h)
  | .bra h _ => some (infoBra h)
  | .braLk h _ => some (infoBraLk h)
  | .braUlk h _ => some (infoBraUlk h)
  | .braUnf h _ => some (infoBraUnf h)
  | .ctlJump h a _ => some (infoCtlJump h a)
  | .ctlCall h d a => some (infoCtlCall h d a)
  | .ctlCalli h d _ => some (infoCtlCalli h d)
  | .ctlRet h a => some (infoCtlRet h a)
  | .ctlRep h a => some (infoCtlRep h a)
  | .ctlReform h => some (infoCtlReform h)
  | .wait h _ _ _ _ => some (infoWait h)
  | .viaAdd h d a b => some (infoViaAdd h d a b)
  | .viaSub h d a b => some (infoViaSub h d a b)
  | .viaMul h d a b => some (infoViaMul h d a b)
  | .viaMulh h d a b => some (infoViaMulh h d a b)
  | .viaMulhn h d a b => some (infoViaMulhn h d a b)
  | .viaMad h d a b => some (infoViaMad h d a b)
  | .viaMin h d a b => some (infoViaMin h d a b)
  | .viaMax h d a b => some (infoViaMax h d a b)
  | .viaMinn h d a b => some (infoViaMinn h d a b)
  | .viaMaxn h d a b => some (infoViaMaxn h d a b)
  | .viaAbs h d a => some (infoViaAbs h d a)
  | .viaNeg h d a => some (infoViaNeg h d a)
  | .viaAddc h d a b => some (infoViaAddc h d a b)
  | .viaSubc h d a b => some (infoViaSubc h d a b)
  | .viaClz h d a => some (infoViaClz h d a)
  | .viaPopc h d a => some (infoViaPopc h d a)
  | .vilAnd h d a b => some (infoVilAnd h d a b)
  | .vilOr h d a b => some (infoVilOr h d a b)
  | .vilXor h d a b => some (infoVilXor h d a b)
  | .vilAndn h d a b => some (infoVilAndn h d a b)
  | .vilNot h d a => some (infoVilNot h d a)
  | .vilShl h d a b => some (infoVilShl h d a b)
  | .vilShr h d a b => some (infoVilShr h d a b)
  | .vilSra h d a b => some (infoVilSra h d a b)
  | .vilRotl h d a b => some (infoVilRotl h d a b)
  | .vilBrev h d a => some (infoVilBrev h d a)
  | .vilBfx h d a b => some (infoVilBfx h d a b)
  | .vilBfxn h d a b => some (infoVilBfxn h d a b)
  | .vilBfi h d a b => some (infoVilBfi h d a b)
  | .vilMov h d a => some (infoVilMov h d a)
  | .vilBsel h d a b => some (infoVilBsel h d a b)
  | .vicEq h k n a b => some (infoVicEq h k n a b)
  | .vicNe h k n a b => some (infoVicNe h k n a b)
  | .vicLt h k n a b => some (infoVicLt h k n a b)
  | .vicLe h k n a b => some (infoVicLe h k n a b)
  | .vicGt h k n a b => some (infoVicGt h k n a b)
  | .vicGe h k n a b => some (infoVicGe h k n a b)
  | .vicLtn h k n a b => some (infoVicLtn h k n a b)
  | .vicLen h k n a b => some (infoVicLen h k n a b)
  | .vicGtn h k n a b => some (infoVicGtn h k n a b)
  | .vicGen h k n a b => some (infoVicGen h k n a b)
  | .vicEq64 h k n a b => some (infoVicEq64 h k n a b)
  | .vicLt64 h k n a b => some (infoVicLt64 h k n a b)
  | .vicLtn64 h k n a b => some (infoVicLtn64 h k n a b)
  | .addi h d a _ => some (infoAddi h d a)
  | .andi h d a _ => some (infoAndi h d a)
  | .ori h d a _ => some (infoOri h d a)
  | .xori h d a _ => some (infoXori h d a)
  | .shli h d a _ => some (infoShli h d a)
  | .shri h d a _ => some (infoShri h d a)
  | .srai h d a _ => some (infoSrai h d a)
  | .muli h d a _ => some (infoMuli h d a)
  | .movi h d _ => some (infoMovi h d)
  | .movhi h d _ => some (infoMovhi h d)
  | .vfFadd h d a b => some (infoVfFadd h d a b)
  | .vfFsub h d a b => some (infoVfFsub h d a b)
  | .vfFmul h d a b => some (infoVfFmul h d a b)
  | .vfFfma h d a b => some (infoVfFfma h d a b)
  | .vfFfms h d a b => some (infoVfFfms h d a b)
  | .vfFmin h d a b => some (infoVfFmin h d a b)
  | .vfFmax h d a b => some (infoVfFmax h d a b)
  | .vfFabs h d a => some (infoVfFabs h d a)
  | .vfFneg h d a => some (infoVfFneg h d a)
  | .vfFcopys h d a b => some (infoVfFcopys h d a b)
  | .vfFfloor h d a => some (infoVfFfloor h d a)
  | .vfFceil h d a => some (infoVfFceil h d a)
  | .vfFrint h d a => some (infoVfFrint h d a)
  | .vfFtrunc h d a => some (infoVfFtrunc h d a)
  | .vfFsat h d a => some (infoVfFsat h d a)
  | .vfFscale h d a b => some (infoVfFscale h d a b)
  | .vfcFeq h k n a b => some (infoVfcFeq h k n a b)
  | .vfcFne h k n a b => some (infoVfcFne h k n a b)
  | .vfcFlt h k n a b => some (infoVfcFlt h k n a b)
  | .vfcFle h k n a b => some (infoVfcFle h k n a b)
  | .vfcFgt h k n a b => some (infoVfcFgt h k n a b)
  | .vfcFge h k n a b => some (infoVfcFge h k n a b)
  | .vfcFun h k n a b => some (infoVfcFun h k n a b)
  | .vfcFord h k n a b => some (infoVfcFord h k n a b)
  | .vfcFclass h k n a b => some (infoVfcFclass h k n a b)
  | .vhHadd h _ d a b => some (infoVhHadd h d a b)
  | .vhHsub h _ d a b => some (infoVhHsub h d a b)
  | .vhHmul h _ d a b => some (infoVhHmul h d a b)
  | .vhHfma h _ d a b => some (infoVhHfma h d a b)
  | .vhHmin h _ d a b => some (infoVhHmin h d a b)
  | .vhHmax h _ d a b => some (infoVhHmax h d a b)
  | .vhHneg h _ d a => some (infoVhHneg h d a)
  | .vhHabs h _ d a => some (infoVhHabs h d a)
  | .sfuFrcp h d a => some (infoSfuFrcp h d a)
  | .sfuFrsq h d a => some (infoSfuFrsq h d a)
  | .sfuFsqrt h d a => some (infoSfuFsqrt h d a)
  | .sfuFexp2 h d a => some (infoSfuFexp2 h d a)
  | .sfuFlog2 h d a => some (infoSfuFlog2 h d a)
  | .sfuFsin h d a => some (infoSfuFsin h d a)
  | .sfuFcos h d a => some (infoSfuFcos h d a)
  | .sfuFtanh h d a => some (infoSfuFtanh h d a)
  | .sfuFdiv h d a b => some (infoSfuFdiv h d a b)
  | .cvtF32I32 h d a => some (infoCvtF32I32 h d a)
  | .cvtF32N32 h d a => some (infoCvtF32N32 h d a)
  | .cvtI32F32 h d a => some (infoCvtI32F32 h d a)
  | .cvtN32F32 h d a => some (infoCvtN32F32 h d a)
  | .cvtF32F16 h d a => some (infoCvtF32F16 h d a)
  | .cvtF16F32 h d a => some (infoCvtF16F32 h d a)
  | .cvtF32Bf16 h d a => some (infoCvtF32Bf16 h d a)
  | .cvtBf16F32 h d a => some (infoCvtBf16F32 h d a)
  | .cvtF32E4m3 h d a _ => some (infoCvtF32E4m3 h d a)
  | .cvtE4m3F32 h d a _ => some (infoCvtE4m3F32 h d a)
  | .cvtF32E5m2 h d a _ => some (infoCvtF32E5m2 h d a)
  | .cvtE5m2F32 h d a _ => some (infoCvtE5m2F32 h d a)
  | .cvtF32E2m1 h d a _ => some (infoCvtF32E2m1 h d a)
  | .cvtE2m1F32 h d a _ => some (infoCvtE2m1F32 h d a)
  | .cvtF32S20 h d a => some (infoCvtF32S20 h d a)
  | .cvtS20F32 h d a => some (infoCvtS20F32 h d a)
  | .lanePick h d a b => some (infoLanePick h d a b)
  | .laneBack h d a b => some (infoLaneBack h d a b)
  | .laneFwd h d a b => some (infoLaneFwd h d a b)
  | .laneFlip h d a b => some (infoLaneFlip h d a b)
  | .laneAny h d a => some (infoLaneAny h d a)
  | .laneEvery h d a => some (infoLaneEvery h d a)
  | .laneMask h d a => some (infoLaneMask h d a)
  | .laneSum h d a => some (infoLaneSum h d a)
  | .laneLeast h d a => some (infoLaneLeast h d a)
  | .laneMost h d a => some (infoLaneMost h d a)
  | .laneFsum h d a => some (infoLaneFsum h d a)
  | .laneFrom h d a _ => some (infoLaneFrom h d a)
  | .saluSadd h d a b => some (infoSaluSadd h d a b)
  | .saluSsub h d a b => some (infoSaluSsub h d a b)
  | .saluSmul h d a b => some (infoSaluSmul h d a b)
  | .saluSand h d a b => some (infoSaluSand h d a b)
  | .saluSor h d a b => some (infoSaluSor h d a b)
  | .saluSxor h d a b => some (infoSaluSxor h d a b)
  | .saluSshl h d a b => some (infoSaluSshl h d a b)
  | .saluSshr h d a b => some (infoSaluSshr h d a b)
  | .saluSsra h d a b => some (infoSaluSsra h d a b)
  | .saluSmin h d a b => some (infoSaluSmin h d a b)
  | .saluSmax h d a b => some (infoSaluSmax h d a b)
  | .saluSmov h d a => some (infoSaluSmov h d a)
  | .saluSaddc h d a b => some (infoSaluSaddc h d a b)
  | .saluScmp h k n a b _ => some (infoSaluScmp h k n a b)
  | .smovS2v h d a => some (infoSmovS2v h d a)
  | .smovV2s h d a _ => some (infoSmovV2s h d a)
  | .grdGand h d a b => some (infoGrdGand h d a b)
  | .grdGor h d a b => some (infoGrdGor h d a b)
  | .grdGxor h d a b => some (infoGrdGxor h d a b)
  | .grdGnot h d a => some (infoGrdGnot h d a)
  | .grdGmov h d a => some (infoGrdGmov h d a)
  | .grdGset h d a _ => some (infoGrdGset h d a)
  | .grdGtov h d a => some (infoGrdGtov h d a)
  | .csrRdsr h d a b => some (infoCsrRdsr h d a b)
  | .csrWrsr h d a b => some (infoCsrWrsr h d a b)
  | .csrRdsrs h d a b => some (infoCsrRdsrs h d a b)
  | .csrWrsrs h d a b => some (infoCsrWrsrs h d a b)
  | .ldB8 h _ d a _ => some (infoLdB8 h d a)
  | .ldB8s h _ d a _ => some (infoLdB8s h d a)
  | .ldB16 h _ d a _ => some (infoLdB16 h d a)
  | .ldB16s h _ d a _ => some (infoLdB16s h d a)
  | .ldB32 h _ d a _ => some (infoLdB32 h d a)
  | .ldB64 h _ d a _ => some (infoLdB64 h d a)
  | .ldB128 h _ d a _ => some (infoLdB128 h d a)
  | .stB8 h d a _ => some (infoStB8 h d a)
  | .stB16 h d a _ => some (infoStB16 h d a)
  | .stB32 h d a _ => some (infoStB32 h d a)
  | .stB64 h d a _ => some (infoStB64 h d a)
  | .stB128 h d a _ => some (infoStB128 h d a)
  | .ldsB8 h d a _ => some (infoLdsB8 h d a)
  | .ldsB8s h d a _ => some (infoLdsB8s h d a)
  | .ldsB16 h d a _ => some (infoLdsB16 h d a)
  | .ldsB16s h d a _ => some (infoLdsB16s h d a)
  | .ldsB32 h d a _ => some (infoLdsB32 h d a)
  | .ldsB64 h d a _ => some (infoLdsB64 h d a)
  | .ldsB128 h d a _ => some (infoLdsB128 h d a)
  | .stsB8 h d a _ => some (infoStsB8 h d a)
  | .stsB16 h d a _ => some (infoStsB16 h d a)
  | .stsB32 h d a _ => some (infoStsB32 h d a)
  | .stsB64 h d a _ => some (infoStsB64 h d a)
  | .stsB128 h d a _ => some (infoStsB128 h d a)
  | .ldp h _ d a _ => some (infoLdp h d a)
  | .ldpF32 h _ d a _ => some (infoLdpF32 h d a)
  | .updAdd h d a _ => some (infoUpdAdd h d a)
  | .updFadd h d a _ => some (infoUpdFadd h d a)
  | .updMin h d a _ => some (infoUpdMin h d a)
  | .updMax h d a _ => some (infoUpdMax h d a)
  | .updMinn h d a _ => some (infoUpdMinn h d a)
  | .updMaxn h d a _ => some (infoUpdMaxn h d a)
  | .updAnd h d a _ => some (infoUpdAnd h d a)
  | .updOr h d a _ => some (infoUpdOr h d a)
  | .updXor h d a _ => some (infoUpdXor h d a)
  | .updSwap h d a _ => some (infoUpdSwap h d a)
  | .updCas h d a _ => some (infoUpdCas h d a)
  | .updAdd64 h d a _ => some (infoUpdAdd64 h d a)
  | .updSwap64 h d a _ => some (infoUpdSwap64 h d a)
  | .updCas64 h d a _ => some (infoUpdCas64 h d a)
  | .updcAdd h d a _ => some (infoUpdcAdd h d a)
  | .updcFadd h d a _ => some (infoUpdcFadd h d a)
  | .updcMin h d a _ => some (infoUpdcMin h d a)
  | .updcMax h d a _ => some (infoUpdcMax h d a)
  | .updcMinn h d a _ => some (infoUpdcMinn h d a)
  | .updcMaxn h d a _ => some (infoUpdcMaxn h d a)
  | .updcAnd h d a _ => some (infoUpdcAnd h d a)
  | .updcOr h d a _ => some (infoUpdcOr h d a)
  | .updcXor h d a _ => some (infoUpdcXor h d a)
  | .updcSwap h d a _ => some (infoUpdcSwap h d a)
  | .updcCas h d a _ => some (infoUpdcCas h d a)
  | .updcAdd64 h d a _ => some (infoUpdcAdd64 h d a)
  | .updcSwap64 h d a _ => some (infoUpdcSwap64 h d a)
  | .updcCas64 h d a _ => some (infoUpdcCas64 h d a)
  | .updnAdd h d a _ => some (infoUpdnAdd h d a)
  | .updnFadd h d a _ => some (infoUpdnFadd h d a)
  | .updnMin h d a _ => some (infoUpdnMin h d a)
  | .updnMax h d a _ => some (infoUpdnMax h d a)
  | .updnMinn h d a _ => some (infoUpdnMinn h d a)
  | .updnMaxn h d a _ => some (infoUpdnMaxn h d a)
  | .updnAnd h d a _ => some (infoUpdnAnd h d a)
  | .updnOr h d a _ => some (infoUpdnOr h d a)
  | .updnXor h d a _ => some (infoUpdnXor h d a)
  | .memFenceHost h => some (infoMemFenceHost h)
  | .memFencePeer h => some (infoMemFencePeer h)
  | .memFenceSys h => some (infoMemFenceSys h)
  | .memPref h a _ => some (infoMemPref h a)
  | .memBpref h d _ => some (infoMemBpref h d)
  | .monWaitcEq h d a _ => some (infoMonWaitcEq h d a)
  | .monWaitcNe h d a _ => some (infoMonWaitcNe h d a)
  | .monWaitcLt h d a _ => some (infoMonWaitcLt h d a)
  | .monWaitcGe h d a _ => some (infoMonWaitcGe h d a)
  | .monWaitcLtn h d a _ => some (infoMonWaitcLtn h d a)
  | .monWaitcGen h d a _ => some (infoMonWaitcGen h d a)
  | .monWaitcChg h a _ => some (infoMonWaitcChg h a)
  | .barInit h _ _ => some (infoBarInit h)
  | .barInitX h _ _ => some (infoBarInitX h)
  | .barArr h _ => some (infoBarArr h)
  | .barDrop h _ => some (infoBarDrop h)
  | .barWait h _ => some (infoBarWait h)
  | .barTest h m _ => some (infoBarTest h m)
  | .barInval h m _ => some (infoBarInval h m)
  | .barArrw h _ => some (infoBarArrw h)
  | .musSet h _ _ => some (infoMusSet h)
  | .musClr h _ => some (infoMusClr h)
  | .ringInit h _ _ => some (infoRingInit h)
  | .ringAcq h k _ => some (infoRingAcq h k)
  | .ringRel h k _ => some (infoRingRel h k)
  | .ringTake h k _ => some (infoRingTake h k)
  | .ringFree h k _ => some (infoRingFree h k)
  | .futFinit h a _ => some (infoFutFinit h a)
  | .futFput h d a _ => some (infoFutFput h d a)
  | .futFget h d a _ => some (infoFutFget h d a)
  | .futFpoll h d a _ => some (infoFutFpoll h d a)
  | .cpyMm h _ d a _ => some (infoCpyMm h d a)
  | .cpyMs h _ d a _ => some (infoCpyMs h d a)
  | .cpySm h _ d a _ => some (infoCpySm h d a)
  | .cpySs h _ d a _ => some (infoCpySs h d a)
  | .tcpySp h _ _ _ n => some (infoTcpySp h n)
  | .tcpyOa h _ _ _ n _ => some (infoTcpyOa h n)
  | .tcpyWb h _ _ _ n _ => some (infoTcpyWb h n)
  | .tcpySt h _ _ _ n => some (infoTcpySt h n)
  | .tcpyGath h _ _ _ n => some (infoTcpyGath h n)
  | .tcpyScat h _ _ _ n => some (infoTcpyScat h n)
  | .tcpyZero h _ _ n => some (infoTcpyZero h n)
  | .seal h m k => some (infoSeal h m k)
  | .unseal h k => some (infoUnseal h k)
  | .mma h _ _ _ _ _ _ _ e => some (infoMma h e)
  | .mmaz h _ _ _ _ _ _ _ e => some (infoMmaz h e)
  | .mmag h _ _ _ _ _ _ _ e _ => some (infoMmag h e)
  | .mmagz h _ _ _ _ _ _ _ e _ => some (infoMmagz h e)
  | .taccTzero h _ => some (infoTaccTzero h)
  | .taccTstSp h _ n _ => some (infoTaccTstSp h n)
  | .taccTstMem h _ n _ => some (infoTaccTstMem h n)
  | .taccTld h _ n _ => some (infoTaccTld h n)
  | .taccTscale h _ k _ => some (infoTaccTscale h k)
  | .taccTbias h k _ => some (infoTaccTbias h k)
  | .qntPi8 h d a => some (infoQntPi8 h d a)
  | .qntE2m1 h d a => some (infoQntE2m1 h d a)
  | .taskSpawn h e k => some (infoTaskSpawn h e k)
  | .taskLaunch h e k => some (infoTaskLaunch h e k)
  | .arenaNew h e k => some (infoArenaNew h e k)
  | .arenaEnd h k => some (infoArenaEnd h k)
  | .arenaChk h m k => some (infoArenaChk h m k)
  | .bsnDef h k => some (infoBsnDef h k)
  | .bsnResize h _ k => some (infoBsnResize h k)
  | .bsnDrop h _ k => some (infoBsnDrop h k)
  | .bsnStat h e k => some (infoBsnStat h e k)
  | .pgBsn h _ _ k => some (infoPgBsn h k)
  | .tsysInvVa h k => some (infoTsysInvVa h k)
  | .tsysInvAll h => some (infoTsysInvAll h)
  | .tsysWqpop h m d => some (infoTsysWqpop h m d)
  | .tsysWqdone h d => some (infoTsysWqdone h d)
  | .tsysPtld h a d => some (infoTsysPtld h a d)
  | .tsysFrmTake h _ m d => some (infoTsysFrmTake h m d)
  | .tsysFrmGive h _ a => some (infoTsysFrmGive h a)
  | .tsysMzero h _ a => some (infoTsysMzero h a)
  | .tsysMcopy h _ a d => some (infoTsysMcopy h a d)
  | .tsysMeterRd h e k => some (infoTsysMeterRd h e k)
  | .tsysPsaveDone h => some (infoTsysPsaveDone h)
  | .tsysFaultPost h d => some (infoTsysFaultPost h d)
  | .performLoad .. => none
  | .renew .. => none
  | .streamLoad .. => none
  | .prefetch .. => none
  | .baseDieAccess .. => none
  | .performStore .. => none
  | .performAtomic .. => none
  | .recall .. => none
  | .land .. => none
  | .spAccess .. => none
  | .enqueueHost .. => none
  | .enqueuePeer .. => none
  | .drainHost .. => none
  | .drainPeer .. => none
  | .readHost .. => none
  | .readPeer .. => none
  | .wake .. => none
  | .signal .. => none
  | .tick .. => none
  | .recover .. => none
  | .loadWriteback .. => none
  | .flashData .. => none
  | .remoteErrorCompletion .. => none
  | .pendingCauseDelivery .. => none
  | .atsCompletion .. => none
  | .priResponse .. => none
  | .atsInvalidation .. => none
  | .invalidationCompletion .. => none
  | .strokeStep .. => none
  | .monitorPoll .. => none
  | .rotation .. => none
  | .binDraw .. => none
  | .placement .. => none
  | .steal .. => none
  | .poolAgeLimit .. => none
  | .swapOut .. => none
  | .swapIn .. => none
  | .nodeRetire .. => none
  | .arenaDeath .. => none
  | .resizeLineMove .. => none
  | .bsnDropComplete .. => none
  | .pgBsnComplete .. => none
  | .frameWorkComplete .. => none
  | .bprefComplete .. => none
  | .serviceRestart .. => none
  | .saveHandlerEntry .. => none
  | .saveDeadline .. => none
  | .timeQuantum .. => none
  | .create .. => none
  | .teardown .. => none
  | .quadReturn .. => none
  | .bankReturn .. => none
  | .frameReturn .. => none
  | .preempt .. => none
  | .halt .. => none
  | .inspect .. => none
  | .grant .. => none
  | .revoke .. => none
  | .grantWithdrawn .. => none
  | .setcap .. => none
  | .usageInterval .. => none
  | .recordRelease .. => none
  | .hostWindowRead .. => none
  | .hostWindowWrite .. => none
  | .peerRequest .. => none
  | .mplLinkFail .. => none
  | .peerRouteTimeout .. => none
  | .ideIntegrityFail .. => none
  | .attestation .. => none
  | .powerOn .. => none
  | .emergencyHalt .. => none
  | .thermalThrottle .. => none
  | .correctedError .. => none
  | .uncorrectedError .. => none
  | .crewFailure .. => none
  | .coreRetire .. => none
  | .bankRetire .. => none
  | .fflagsWrite .. => none
  | .ptrootWrite .. => none
  | .awindowWrite .. => none
  | .thrashWrite .. => none
  | .csrWrite .. => none
  | .illegalEnc .. => none
  | .illegalPacket .. => none
  | .instructionFetch .. => none
  | .taccComplete .. => none
  | .thrashThrottleEnd .. => none
  | .lostFlitRetry .. => none

end Sys2Proof.Machine
end

