-- ==== Sys2Proof/Machine/Operands.lean ====
section
/-!
DEFINITION. The operand forms: register or literal operands of the vector and scalar words (R83, R118, R127, R142),
effective addresses (R151), scratchpad offsets (R160) and the values that words of each size move (R150).
-/

namespace Sys2Proof.Machine

/-- Sign extension to 64 bits (R83). -/
def sext64 {n : Nat} (x : BitVec n) : DWord := x.signExtend 64

/-- The B operand of a vector word in lane `l` (R118). -/
def vval (g : Group) (b : VSrc) (l : Nat) : Word :=
  match b with
  | .reg r => g.getV r.toNat l
  | .lit w => w

/-- The B operand of a pair function: a pair, or the literal sign-extended (R83, R127). -/
def vval64 (g : Group) (b : VSrc) (l : Nat) : DWord :=
  match b with
  | .reg r => g.getV2 r.toNat l
  | .lit w => sext64 w

/-- The SB operand of `salu` or the count of `ctl.rep` (R83, R142). -/
def sval (g : Group) (b : SSrc) : Word :=
  match b with
  | .reg r => g.getS r.toNat
  | .lit w => w

/-- The SB pair of `salu.saddc` (R142). -/
def sval64 (g : Group) (b : SSrc) : DWord :=
  match b with
  | .reg r => g.getS2 r.toNat
  | .lit w => sext64 w

/-- The effective address of a lane: the base pair plus the offset times the access size (R151). -/
def effAddr (g : Group) (a : BitVec 6) (off : BitVec 6) (size l : Nat) : DWord :=
  g.getV2 a.toNat l + BitVec.ofNat 64 (off.toNat * size)

/-- The tag of an address (R151). -/
def tagOf (ea : DWord) : BitVec 16 := bits ea 48 16

/-- The virtual address of an address (R151). -/
def vaOf (ea : DWord) : Nat := (bits ea 0 48).toNat

/-- The scratchpad offset of a lane, exact (R160). -/
def spOff (g : Group) (a : BitVec 6) (off : BitVec 6) (size l : Nat) : Nat := (g.getV a.toNat l).toNat + off.toNat * size

/-- The bytes of a value of 1, 2, 4, 8 or 16 bytes held in v(D) upward (R150). -/
def regBytes (g : Group) (d l size : Nat) : List Byte :=
  if size ≤ 4 then leBytes (g.getV d l).toNat size
  else (List.range (size / 4)).flatMap fun i => leBytes (g.getV (d + i) l).toNat 4

/-- Writes a loaded value of 1 to 16 bytes into v(D) upward in one lane, extended as the word says (R150, R159). -/
def putLoaded (g : Group) (d l size : Nat) (signed : Bool) (bs : List Byte) : Group :=
  let x := leNat (bs.take size)
  if size ≤ 4 then
    g.putV d l (if signed then (BitVec.ofNat (8 * size) x).signExtend 32 else BitVec.ofNat 32 x)
  else (List.range (size / 4)).foldl (fun h i => h.putV (d + i) l (BitVec.ofNat 32 (x / 2 ^ (32 * i)))) g

end Sys2Proof.Machine
end

