-- ==== Sys2Proof/Machine/Flags.lean ====
section
/-!
DEFINITION. The flags: what a floating word does to sr.fflags and when it traps (R54 to R56), how a compare combines
into a guard register (R130, R143), and the issue checks of a word with the action of its guard (R33, R79, R80).
-/

namespace Sys2Proof.Machine

/-- The flags of sr.fflags that a set of exceptions raises: an invalid scale raises the invalid flag (R55, R62). -/
def Flags.raised (f : Flags) : BitVec 5 := f.setWidth 5 ||| (if f.getLsbD 5 then 1 else 0)

/-- The exceptions whose trap bit sr.fmode sets; the invalid scale has the trap bit of the invalid cause (R54). -/
def Flags.enabled (f : Flags) (mode : BitVec 8) : Flags :=
  f &&& ((bits mode 3 5).setWidth 6 ||| (if mode.getLsbD 3 then fSI else 0))

/-- The cause of exception bit `i` (R54). -/
def fpCause : Nat → Cause
  | 0 => .fpInvalid
  | 1 => .fpDivZero
  | 2 => .fpOverflow
  | 3 => .fpUnderflow
  | 4 => .fpInexact
  | _ => .scaleInvalid

/-- The lowest exception bit of a nonzero set: the lowest-numbered cause (R56). -/
def Flags.first (f : Flags) : Nat := ((List.range 6).find? fun i => f.getLsbD i).getD 0

/-- All exceptions raised by the lanes of a mask. -/
def flagsOf (m : Mask) (f : Nat → Flags) : Flags := (lanesOf m).foldl (fun a l => a ||| f l) 0

/-- Sets flags; nothing but a write to sr.fflags clears one (R55). -/
def Group.setFlags (g : Group) (f : Flags) : Group := { g with fflags := g.fflags ||| f.raised }

/-- The effect of a floating word on its lanes `m`: the flags raised are set; if an enabled cause is raised the word
writes nothing and traps with the lowest one and the mask of the lanes that raised it; otherwise `w` writes (R56).
`whole` is the mask a cross-lane word reports whichever lane raised the cause. -/
def State.floatWrite (s : State) (m : Mask) (f : Nat → Flags) (whole : Bool) (w : Group → Group) : State :=
  let all := flagsOf m f
  let en := all.enabled s.cur.fmode
  let s1 := s.onCur (·.setFlags all)
  if en = 0 then s1.onCur w
  else
    let i := en.first
    let who := if whole then m else maskOf fun l => inMask m l && (f l).getLsbD i
    s1.fault (fpCause i) (who.setWidth 64)

/-- Combines a compare's result into a guard register: set, and, or (R130). -/
def combine (k : Nat) (old new : Bool) : Bool := if k = 0 then new else if k = 1 then old && new else old || new

/-- Writes a compare's results into g(n) in the lanes of a mask (R130, R135). -/
def Group.combineG (g : Group) (k n : Nat) (m : Mask) (c : Nat → Bool) : Group :=
  g.setG n m (maskOf fun l => combine k (inMask (g.getG n) l) (c l))

/-! ## Issue checks -/

/-- Whether the mode and the group may issue the word: 0x03 PRIV otherwise (R32, R33, R85, R121, R126, R215). -/
def privOk (i : Info) (g : Group) : Bool :=
  (match i.who with
    | .tmode => g.mode != .u
    | .service => g.mode != .u && g.role == .service
    | .uret => g.mode == .u
    | .tret => g.mode == .t2 || (g.mode == .t1 && g.role != .service)
    | .reform => g.mode == .u
    | _ => true) &&
  (match i.csr with
    | some n => csrUser n || g.mode != .u
    | none => true)

/-- The role check: 0x04 ROLE, or 0x09 REFORM_ROLE for `ctl.reform` (R32). -/
def roleFault (i : Info) (g : Group) : Option Cause :=
  match i.who with
  | .copy => if g.role = .copy then none else some .role
  | .matrix => if g.role = .matrix then none else some .role
  | .vector => if g.role = .vector then none else some .role
  | .reform => if g.role = .vector then none else some .reformRole
  | _ => none

/-- Whether the word stands in the repeated packet of its path (R125). -/
def inRep (g : Group) (pc : DWord) : Bool :=
  match g.path.rep with
  | some r => pktOf pc == r.pkt
  | none => false

/-- The issue checks of a decoded word in the order of R33, from PRIV on; 0x01 and 0x02 are decided by its packet. -/
def issueFault (i : Info) (s : State) : Option Cause :=
  if !privOk i s.cur then some .priv
  else match roleFault i s.cur with
    | some c => some c
    | none =>
      if i.noRep && inRep s.cur s.ctx.pc then some .repNest
      else if (i.vr ++ i.vw).any (fun n => s.cur.budget ≤ n) then some .regBudget
      else match i.ef with
        | some e => if e.toNat ≤ 10 then none else some .mmaFormat
        | none => none

/-- The P of a word: active lanes whose guard is true (R79). -/
def guardMask (i : Info) (s : State) : Mask := s.cur.active &&& s.cur.getG i.guard

/-- A word at issue: a failed issue check faults with the charged word as its value (R33, R285); a word whose guard is
false in every active lane has no effect (R80); otherwise its effect on P. -/
def runWord (i : Info) (s : State) (eff : Mask → State → State) : Host.Outcome State Fault Refusal :=
  match issueFault i s with
  | some c => .next (s.fault c (s.ctx.word.setWidth 64))
  | none => if guardMask i s = 0 then .next s else .next (eff (guardMask i s) s)

/-- A redirecting word at issue: it sends the active lanes on even when its guard is false in all of them (R119). -/
def runBranch (i : Info) (s : State) (eff : Mask → State → State) : Host.Outcome State Fault Refusal :=
  match issueFault i s with
  | some c => .next (s.fault c (s.ctx.word.setWidth 64))
  | none => .next (eff (guardMask i s) s)

end Sys2Proof.Machine
end

