-- ==== Sys2Proof/Machine/Csr.lean ====
section
/-!
DEFINITION. The control registers: the `csr` words (R146 to R148) and the steps in which a write takes effect. A write
stands in `Group.csrw` until then, and is performed before the group's next chain issues (R148).
-/

namespace Sys2Proof.Machine

/-! ## Reading -/

/-- The value of sr.mode (R45). -/
def Mode.code : Mode → Word
  | .u => 0
  | .t1 => 1
  | .t2 => 2

/-- The value of sr.role (R31). -/
def Role.code : Role → Word
  | .copy => 0
  | .matrix => 1
  | .vector => 2
  | .service => 3

/-- sr.crew: the low 10 bits of the crew's indices (R29). -/
def Crew.srCrew (c : Crew) : Word := BitVec.ofNat 32 (c.x % 1024 + c.y % 1024 * 2 ^ 10 + c.z % 1024 * 2 ^ 20)

/-- An arena handle (R205). -/
def Arena.handle (a : Arena) : Word := BitVec.ofNat 32 (a.gen.toNat * 4096 + a.slot)

/-- The live arena that a node owns (R44, R206). -/
def State.arenaOf (s : State) (tn : Nat) (slot : Option Nat) : Option Arena :=
  slot.bind fun k => (s.tenant tn).arenas.find? (·.slot == k)

/-- sr.arena: the handle of the node's arena, 0 for none and in the service group (R44). -/
def State.srArena (s : State) (g : Group) : Word :=
  match s.arenaOf g.tn (s.node (s.crew g.crew).node).arena with
  | some a => a.handle
  | none => 0

/-- Whether a save counter is a crew's: by its launch record's address and its indices (R298). -/
def SaveCtr.isOf (e : SaveCtr) (va : DWord) (c : Crew) : Bool := e.recVa == va && e.x == c.x && e.y == c.y && e.z == c.z

/-- sr.savectr: in a save handler the save counter of the crew it saves; elsewhere 0 (R290). -/
def State.srSavectr (s : State) (g : Group) : DWord :=
  match g.saving with
  | some k =>
    let c := s.crew k
    let va := (s.node c.node).recVa
    match (s.tenant g.tn).saves.find? (·.isOf va c) with
    | some e => BitVec.ofNat 64 e.count
    | none => 0
  | none => 0

/-- sr.tstat: frames on the free list, saturating, and the code of the last take (R265). -/
def Tenant.srTstat (t : Tenant) : Word := BitVec.ofNat 24 (min t.free.length 0xFFFFFF) ++ t.tstat

/-- sr.ctr (R147). -/
def Group.srCtr (g : Group) : Word :=
  BitVec.ofNat 8 g.tl ++ (BitVec.ofNat 8 g.cp ++ (BitVec.ofNat 8 g.st ++ BitVec.ofNat 8 g.ld))

/-- sr.grid (R147). -/
def LaunchRec.srGrid (r : LaunchRec) : Word := BitVec.ofNat 16 r.gy ++ BitVec.ofNat 16 r.gx

/-- One half of a 64-bit register. -/
def half (x : DWord) (hi : Bool) : Word := if hi then hi32 x else lo32 x

/-- The control registers that mode U may read, as lane `l` sees them (R147). A service group belongs to no crew and no node (R32),
and the manual is silent on what sr.group, sr.crew, sr.grid, sr.depth and sr.launch read there: the model reads its pseudo-crew
and a blank node, hence 0 (DESIGN CHOICE, log 82). -/
def State.csrReadU (s : State) (g : Group) (n l : Nat) : Option Word :=
  let c := s.crew g.crew
  let nd := s.node c.node
  match n with
  | 0x000 => some (BitVec.ofNat 32 l)
  | 0x001 => some (BitVec.ofNat 32 g.num)
  | 0x002 => some c.srCrew
  | 0x003 => some nd.lr.srGrid
  | 0x004 => some (BitVec.ofNat 32 g.core)
  | 0x005 => some g.role.code
  | 0x006 => some (half (BitVec.ofNat 64 (s.dev.cycle - (s.core g.core).resetAt)) false)
  | 0x007 => some (half (BitVec.ofNat 64 (s.dev.cycle - (s.core g.core).resetAt)) true)
  | 0x008 => some (half (BitVec.ofNat 64 g.ltime) false)
  | 0x009 => some (half (BitVec.ofNat 64 g.ltime) true)
  | 0x00A => some (s.srArena g)
  | 0x00B => some (BitVec.ofNat 32 nd.depth)
  | 0x00C => some (half nd.recVa false)
  | 0x00D => some (half nd.recVa true)
  | 0x010 => some (g.fmode.setWidth 32)
  | 0x011 => some (g.fflags.setWidth 32)
  | 0x012 => some g.srCtr
  | 0x020 => some (half g.utvec false)
  | 0x021 => some (half g.utvec true)
  | 0x022 => some ((bits g.utrap.cause 0 8).setWidth 32)
  | 0x023 => some (half g.utrap.epc false)
  | 0x024 => some (half g.utrap.epc true)
  | 0x025 => some (half g.utrap.val false)
  | 0x026 => some (half g.utrap.val true)
  | 0x030 => some (s.tenant g.tn).tid
  | 0x031 => some g.mode.code
  | _ => none

/-- The control registers of the T modes (R242, R244, R265, R290). -/
def State.csrReadT (s : State) (g : Group) (n : Nat) : Word :=
  let t := s.tenant g.tn
  match n with
  | 0x040 => half t.tvec false
  | 0x041 => half t.tvec true
  | 0x042 => g.t1trap.cause.setWidth 32
  | 0x043 => half g.t1trap.epc false
  | 0x044 => half g.t1trap.epc true
  | 0x045 => half g.t1trap.val false
  | 0x046 => half g.t1trap.val true
  | 0x047 => t.srTstat
  | 0x048 => half t.ptroot false
  | 0x049 => half t.ptroot true
  | 0x04A => half t.cistern false
  | 0x04B => half t.cistern true
  | 0x04C => t.cisterns
  | 0x04D => half t.awbase false
  | 0x04E => half t.awbase true
  | 0x04F => t.awsize
  | 0x050 => half t.soff false
  | 0x051 => half t.soff true
  | 0x052 => BitVec.ofNat 32 t.allot
  | 0x053 => BitVec.ofNat 32 t.used.length
  | 0x054 => t.tperm.setWidth 32
  | 0x055 => t.thrash
  | 0x056 => half t.actbase false
  | 0x057 => half t.actbase true
  | 0x058 => half (s.srSavectr g) false
  | 0x059 => half (s.srSavectr g) true
  | 0x05A => t.keyslot.setWidth 32
  | 0x05B => BitVec.ofNat 32 t.deadline
  | 0x060 => g.t2trap.cause.setWidth 32
  | 0x061 => half g.t2trap.epc false
  | 0x062 => half g.t2trap.epc true
  | 0x063 => half g.t2trap.val false
  | 0x064 => half g.t2trap.val true
  | _ => 0

/-- `csr_read` (R146). -/
def State.csrRead (s : State) (g : Group) (n : BitVec 12) (l : Nat) : Word :=
  (s.csrReadU g n.toNat l).getD (s.csrReadT g n.toNat)

/-! ## Writing -/

/-- Replaces one half of a 64-bit register in the bits of a mask; the others are read-only (R4, R148). -/
def putHalf (old : DWord) (hi : Bool) (x : Word) (mask : DWord) : DWord :=
  let new : DWord := if hi then x ++ lo32 old else hi32 old ++ x
  (old &&& ~~~mask) ||| (new &&& mask)

/-- Bits [hi:lo] of a 64-bit register. -/
def fieldMask64 (hi lo : Nat) : DWord := BitVec.ofNat 64 (2 ^ (hi + 1) - 2 ^ lo)

/-- The code field of a cause register (R290). -/
def putCode (c : BitVec 9) (x : Word) : BitVec 9 := bits c 8 1 ++ bits x 0 8

/-- The registers of the group that a write changes (R147, R290). -/
def Group.csrWrite (g : Group) (n : Nat) (x : Word) : Group :=
  let pc := fieldMask64 47 0
  let all := BitVec.allOnes 64
  match n with
  | 0x010 => { g with fmode := bits x 0 8 }
  | 0x020 => { g with utvec := putHalf g.utvec false x (fieldMask64 63 2) }
  | 0x021 => { g with utvec := putHalf g.utvec true x all }
  | 0x022 => { g with utrap := { g.utrap with cause := putCode g.utrap.cause x } }
  | 0x023 => { g with utrap := { g.utrap with epc := putHalf g.utrap.epc false x all } }
  | 0x024 => { g with utrap := { g.utrap with epc := putHalf g.utrap.epc true x all } }
  | 0x025 => { g with utrap := { g.utrap with val := putHalf g.utrap.val false x all } }
  | 0x026 => { g with utrap := { g.utrap with val := putHalf g.utrap.val true x all } }
  | 0x042 => { g with t1trap := { g.t1trap with cause := putCode g.t1trap.cause x } }
  | 0x043 => { g with t1trap := { g.t1trap with epc := putHalf g.t1trap.epc false x pc } }
  | 0x044 => { g with t1trap := { g.t1trap with epc := putHalf g.t1trap.epc true x pc } }
  | 0x045 => { g with t1trap := { g.t1trap with val := putHalf g.t1trap.val false x all } }
  | 0x046 => { g with t1trap := { g.t1trap with val := putHalf g.t1trap.val true x all } }
  | 0x060 => { g with t2trap := { g.t2trap with cause := putCode g.t2trap.cause x } }
  | 0x061 => { g with t2trap := { g.t2trap with epc := putHalf g.t2trap.epc false x pc } }
  | 0x062 => { g with t2trap := { g.t2trap with epc := putHalf g.t2trap.epc true x pc } }
  | 0x063 => { g with t2trap := { g.t2trap with val := putHalf g.t2trap.val false x all } }
  | 0x064 => { g with t2trap := { g.t2trap with val := putHalf g.t2trap.val true x all } }
  | _ => g

/-- Writing sr.fflags sets or clears each flag (R55). -/
def Group.fflagsWrite (g : Group) (x : Word) : Group := { g with fflags := bits x 0 5 }

/-- The registers of the tenant that a write changes, but for those with a step of their own (R242, R265, R290). -/
def Tenant.csrWrite (t : Tenant) (n : Nat) (x : Word) : Tenant :=
  let act := fieldMask64 47 36 ||| 1
  match n with
  | 0x040 => { t with tvec := putHalf t.tvec false x (fieldMask64 47 2) }
  | 0x041 => { t with tvec := putHalf t.tvec true x (fieldMask64 47 2) }
  | 0x050 => { t with soff := putHalf t.soff false x (fieldMask64 47 13) }
  | 0x051 => { t with soff := putHalf t.soff true x (fieldMask64 47 13) }
  | 0x056 => { t with actbase := putHalf t.actbase false x act }
  | 0x057 => { t with actbase := putHalf t.actbase true x act }
  | _ => t

/-- Writing sr.ptroot affects later walks and drops no translation (R265). -/
def Tenant.ptrootWrite (t : Tenant) (hi : Bool) (x : Word) : Tenant :=
  { t with ptroot := putHalf t.ptroot hi x (fieldMask64 39 12) }

/-- Whether two ranges of addresses share an address; an empty range shares none. -/
def overlap (a n b m : Nat) : Bool := decide (max a b < min (a + n) (b + m))

/-- A write to sr.awbase or sr.awsize, unless an arena is live (one past its death point is not, R328), the new window would overlap
the cistern, or it would pass 2^48 (R265). -/
def Tenant.awindowWrite (t : Tenant) (n : Nat) (x : Word) : Tenant :=
  let base := if n = 0x04D then putHalf t.awbase false x (fieldMask64 47 16)
    else if n = 0x04E then putHalf t.awbase true x (fieldMask64 47 16) else t.awbase
  let size := if n = 0x04F then x &&& 0xFFFF0000 else t.awsize
  if t.arenas.any (·.dying.isNone) || overlap base.toNat size.toNat t.cistern.toNat t.cisterns.toNat
      || decide (base.toNat + size.toNat > 2 ^ 48) then t
  else { t with awbase := base, awsize := size }

/-- Writing sr.thrash; a period written as 0 reads back as 1 (R244). -/
def Tenant.thrashWrite (t : Tenant) (x : Word) : Tenant :=
  let th := bits x 20 12
  let w := bits x 8 12
  { t with thrash := (if th = 0 then 1 else th) ++ ((if w = 0 then 1 else w) ++ bits x 0 8) }

/-- Which step performs a write. -/
inductive CsrStep where
  | fflags | ptroot | awindow | thrash | other
  deriving DecidableEq, Repr

def csrStep (n : BitVec 12) : CsrStep :=
  if n = 0x011 then .fflags
  else if n = 0x048 ∨ n = 0x049 then .ptroot
  else if n = 0x04D ∨ n = 0x04E ∨ n = 0x04F then .awindow
  else if n = 0x055 then .thrash
  else .other

/-- A write takes effect: `csr_write` (R146). -/
def State.csrPerform (s : State) (grp : Nat) (n : BitVec 12) (x : Word) : State :=
  let s1 := s.mapGrp grp fun g => { g with csrw := none }
  let tn := match s.grp? grp with | some g => g.tn | none => 0
  match csrStep n with
  | .fflags => s1.mapGrp grp (·.fflagsWrite x)
  | .ptroot => s1.mapTenant tn (·.ptrootWrite (n == 0x049) x)
  | .awindow => s1.mapTenant tn (·.awindowWrite n.toNat x)
  | .thrash => s1.mapTenant tn (·.thrashWrite x)
  | .other => (s1.mapGrp grp (·.csrWrite n.toNat x)).mapTenant tn (·.csrWrite n.toNat x)

/-- The pending write of a group takes effect before its next chain (R148). -/
def State.csrCommit (s : State) (grp : Nat) : State :=
  match (s.grp? grp).bind (·.csrw) with
  | some (n, x) => s.csrPerform grp n x
  | none => s

/-- A step that performs a pending write of its kind; without one it changes nothing. -/
def csrEvent (k : CsrStep) (grp : Nat) (s : State) : Host.Outcome State Fault Refusal :=
  match (s.grp? grp).bind (·.csrw) with
  | some (n, x) => .next (if csrStep n = k then s.csrPerform grp n x else s)
  | none => .next s

/-! ## The words -/

/-- `csr.rdsr` (R146). -/
def execCsrRdsr (h : Hdr) (d a b : BitVec 6) (s : State) : Host.Outcome State Fault Refusal :=
  runWord (infoCsrRdsr h d a b) s fun P s =>
    s.onCur fun g => g.setV d.toNat P fun l => s.csrRead s.cur (csrNumber a b) l

/-- `csr.wrsr` takes its value from the lowest lane of P (R146). -/
def execCsrWrsr (h : Hdr) (d a b : BitVec 6) (s : State) : Host.Outcome State Fault Refusal :=
  runWord (infoCsrWrsr h d a b) s fun P s =>
    s.onCur fun g => { g with csrw := some (csrNumber a b, g.getV d.toNat (lowest P)) }

/-- `csr.rdsrs` reads as the lowest lane of P (R146). -/
def execCsrRdsrs (h : Hdr) (d a b : BitVec 6) (s : State) : Host.Outcome State Fault Refusal :=
  runWord (infoCsrRdsrs h d a b) s fun P s =>
    s.onCur fun g => g.setS d.toNat (s.csrRead s.cur (csrNumber a b) (lowest P))

/-- `csr.wrsrs` (R146). -/
def execCsrWrsrs (h : Hdr) (d a b : BitVec 6) (s : State) : Host.Outcome State Fault Refusal :=
  runWord (infoCsrWrsrs h d a b) s fun _ s =>
    s.onCur fun g => { g with csrw := some (csrNumber a b, g.getS d.toNat) }

/-! ## The steps -/

/-- FFLAGS_WRITE (R55). -/
def execFflagsWrite (grp : Nat) (s : State) : Host.Outcome State Fault Refusal := csrEvent .fflags grp s

/-- PTROOT_WRITE (R265). -/
def execPtrootWrite (grp : Nat) (s : State) : Host.Outcome State Fault Refusal := csrEvent .ptroot grp s

/-- AWINDOW_WRITE (R265). -/
def execAwindowWrite (grp : Nat) (s : State) : Host.Outcome State Fault Refusal := csrEvent .awindow grp s

/-- THRASH_WRITE (R244). -/
def execThrashWrite (grp : Nat) (s : State) : Host.Outcome State Fault Refusal := csrEvent .thrash grp s

/-- CSR_WRITE: every other register (R146). -/
def execCsrWrite (grp : Nat) (s : State) : Host.Outcome State Fault Refusal := csrEvent .other grp s

end Sys2Proof.Machine
end

