-- ==== Sys2Proof/Machine/Xlat.lean ====
section
/-!
DEFINITION. Translation: leaves (R262, R264), the translation caches (R231), the checks of a virtual address (R152, R268),
walk entries (R270), and the requests for host pages (R276).
-/

namespace Sys2Proof.Machine

/-! ## Leaves -/

/-- The bytes that a leaf of a level maps (R262). -/
def pageSize (level : Nat) : Nat :=
  match level with
  | 0 => 2 ^ 12
  | 1 => 2 ^ 16
  | 2 => 2 ^ 21
  | _ => 2 ^ 30

def leafV (x : DWord) : Bool := x.getLsbD 0
def leafK (x : DWord) : Bool := x.getLsbD 1
def leafW (x : DWord) : Bool := x.getLsbD 2
def leafX (x : DWord) : Bool := x.getLsbD 3
def leafU (x : DWord) : Bool := x.getLsbD 4
def leafD (x : DWord) : Bool := x.getLsbD 6
def leafMS (x : DWord) : Bool := x.getLsbD 7
def leafPIN (x : DWord) : Bool := x.getLsbD 8
def leafTP (x : DWord) : Bool := x.getLsbD 9
def leafAR (x : DWord) : Bool := x.getLsbD 10
def leafTY (x : DWord) : Nat := (bits x 52 2).toNat
def leafBS (x : DWord) : Nat := (bits x 54 4).toNat
def leafFM (x : DWord) : Nat := (bits x 58 4).toNat

/-- The page's physical base: frame bits below the page size are ignored (R262). -/
def leafBase (x : DWord) (level : Nat) : Nat := (bits x 12 40).toNat * 4096 / pageSize level * pageSize level

/-- Reserved bits of a leaf (R264). -/
def leafRsvd (x : DWord) : Bool := x.getLsbD 11 || bits x 62 2 != 0

/-- Whether a cached translation covers an address of a tenant. -/
def Xent.covers (x : Xent) (tn va : Nat) : Bool := x.tn == tn && decide (x.va ≤ va) && decide (va < x.va + pageSize x.level)

/-- The place that a translation gives to a covered address. -/
def Xent.place (x : Xent) (va : Nat) : Nat := leafBase x.leaf x.level + (va - x.va)

/-- The die of a core (R10). -/
def dieOf (core : Nat) : Nat := core / 44

/-- The home die of a physical address (R14). -/
def paDie (pa : Nat) : Nat := pa / 2 ^ 37

/-! ## Basins as the checks see them -/

/-- The basin that a tenant has defined under an id (R210). -/
def Tenant.basin? (t : Tenant) (bs : Nat) : Option Basin := t.basins.find? (·.defn.id == bs)

/-- The line size of a record's line code (R107). -/
def lineSize (code : Nat) : Nat := 64 * 2 ^ code

/-- The basin through which an access names its line: none for basin 15 and for a basin with no bank left (R234, R236). -/
def State.liveBasin (s : State) (tn bs : Nat) : Option Basin :=
  if bs = 15 then none else ((s.tenant tn).basin? bs).bind fun b => if b.defn.mask = 0 then none else some b

/-- The single home of a physical address under a leaf's BS (R233, R234). -/
def State.keyOf (s : State) (tn bs pa : Nat) : HomeKey :=
  match s.liveBasin tn bs with
  | some b => ⟨tn, bs, pa / lineSize b.defn.line * lineSize b.defn.line⟩
  | none => ⟨tn, 15, pa / 128 * 128⟩

/-- The bytes of a home's line. -/
def State.lineLen (s : State) (k : HomeKey) : Nat :=
  match s.liveBasin k.tn k.bs with
  | some b => lineSize b.defn.line
  | none => 128

/-! ## Windows -/

/-- Whether an address lies in the cistern (R152). -/
def Tenant.inCistern (t : Tenant) (va : Nat) : Bool :=
  decide (t.cistern.toNat ≤ va) && decide (va < t.cistern.toNat + t.cisterns.toNat)

/-- Whether an address lies in the arena window (R152). -/
def Tenant.inWindow (t : Tenant) (va : Nat) : Bool :=
  decide (t.awbase.toNat ≤ va) && decide (va < t.awbase.toNat + t.awsize.toNat)

/-- The live arena that contains an address (R206); one that has passed its death point is dead (R328). -/
def Tenant.arenaAt (t : Tenant) (va : Nat) : Option Arena :=
  t.arenas.find? fun a => a.dying.isNone && decide (a.base ≤ va) && decide (va < a.base + a.len)

/-- Whether a frame belongs to the tenant's allotment (R264, R274). -/
def Tenant.hasFrame (t : Tenant) (f : Nat) : Bool := t.used.contains f || t.free.contains f

/-! ## The checks of R152 -/

/-- What an access asks of a page: whether it writes or fetches, whether it is the seal engine's (R225), and which TY and
FM it accepts; `pref` tells a prefetch, which is dropped where others fault. -/
structure XReq where
  write : Bool
  fetch : Bool
  eng   : Bool
  pref  : Bool
  acc   : Nat → Nat → Bool

/-- What an access that has to be walked tells the walker and waits with (R216); `refused` is the fault that answers in the place of
a posted cause. -/
structure WalkReq where
  ea      : DWord
  write   : Bool
  fetch   : Bool
  eng     : Bool
  pref    : Bool
  refused : Option (Cause × DWord)
  deriving DecidableEq, Repr

/-- What the checks answer for one address: a place; a failure with its cause and value; a translation that has to be
walked; an ATS request to send; an answer to wait for, with the page of the translation that has been hit, if one has; or a page
request outstanding (R152, R153, R270, R276). -/
inductive XRes where
  | ok (l : Loc)
  | fail (c : Cause) (addr : DWord)
  | walk (w : WalkReq)
  | ask (page vpn : Nat) (write : Bool)
  | wait (vpn : Option Nat)
  | pri (rq : Nat) (ea : DWord)
  deriving DecidableEq, Repr

/-- The TC entry that covers an address in a mode (R231); one with the completion of a host page first. -/
def State.tcFind (s : State) (core tn : Nat) (user : Bool) (va : Nat) : Option Xent :=
  let mine := (s.core core).tc.filter fun x => x.covers tn va && x.user == user
  mine.find? (·.host.isSome) <|> mine.head?

/-- The STC entry that covers an address (R231). -/
def State.stcFind (s : State) (core tn va : Nat) : Option Xent :=
  (s.tenant tn).stc.find? fun x => x.covers tn va && x.die == dieOf core

/-- A write through a translation with W = 1 and D = 0 walks again (R216, R264). -/
def needsD (write : Bool) (x : Xent) : Bool := write && leafW x.leaf && !leafD x.leaf

/-- The cached translation that an address hits: the TC's, else the STC's (R231, R270). -/
def State.xhit (s : State) (g : Group) (va : Nat) : Option Xent :=
  s.tcFind g.core g.tn (g.mode == .u) va <|> s.stcFind g.core g.tn va

/-- The translation to use: the TC's, else the STC's; a write through one whose D is 0 has to be walked (R231, R270). -/
def State.xfind (s : State) (g : Group) (write : Bool) (va : Nat) : Option Xent :=
  (s.xhit g va).filter (!needsD write ·)

/-- A host page's place (R276). -/
def State.xhost (s : State) (g : Group) (rq : XReq) (x : Xent) (ea : DWord) : XRes :=
  let va := vaOf ea
  let hva := x.place va
  let page := hva / 4096
  let asked := s.flow.reqs.find? fun r => r.core == g.core && r.page == page && r.tn == g.tn && r.user == (g.mode == .u)
  match x.host.filter (fun c => c.2 || !rq.write), asked with
  | some (hpa, _), _ =>
    .ok ⟨.host, ⟨g.tn, 15, (hpa + hva % 4096) / 128 * 128⟩, hpa + hva % 4096, va / 4096, leafFM x.leaf, false,
      leafPIN x.leaf, ea.toNat, page⟩
  | none, some r => if r.pri || r.late then .pri r.id ea else if r.write || !rq.write then .wait (some (va / 4096)) else .ask page (va / 4096) rq.write
  | none, none => .ask page (va / 4096) rq.write

/-- Checks 6 to 9 under a translation, and the place it gives (R152, R264, R265, R277, R278). -/
def State.xleaf (s : State) (g : Group) (rq : XReq) (x : Xent) (ea : DWord) : XRes :=
  let t := s.tenant g.tn
  let va := vaOf ea
  let pa := x.place va
  let ty := leafTY x.leaf
  let permitted := ty == 0 || t.tperm.getLsbD (ty - 1)
  let own := match ty with
    | 0 => t.hasFrame (pa / 4096)
    | 3 => t.flash.contains (pa / 4096)
    | _ => true
  if !permitted || !own then .fail .otherTenant ea
  else if leafBS x.leaf < 15 && (t.basin? (leafBS x.leaf)).isNone then .fail .basinUndefined ea
  else if leafFM x.leaf > 3 || !rq.acc ty (leafFM x.leaf) then .fail .formatMismatch ea
  else if (rq.write && (!leafW x.leaf || ty == 3)) || (g.mode == .u && !leafU x.leaf) || (rq.fetch && !leafX x.leaf) then
    .fail .protection ea
  else
    let loc := fun (cls : Cls) (key : HomeKey) (p : Nat) =>
      XRes.ok ⟨cls, key, p, va / 4096, leafFM x.leaf, leafMS x.leaf && ty == 0, leafPIN x.leaf, ea.toNat, 0⟩
    match ty with
    | 0 => loc .device (s.keyOf g.tn (leafBS x.leaf) pa) pa
    | 1 => s.xhost g rq x ea
    | 2 => loc (.peer (pa / 2 ^ 44)) ⟨g.tn, 15, pa / 128 * 128⟩ pa
    | _ => loc .flash ⟨g.tn, 15, pa / 128 * 128⟩ pa

/-- Whether a running `pg.bsn` holds an access to an address at issue (R214). -/
def State.retargeting (s : State) (tn va : Nat) : Bool :=
  s.flow.xfers.any fun x => x.tn == tn && (match x.kind with
    | .pgBsn lo hi _ _ => decide (lo ≤ va) && decide (va < hi)
    | _ => false)

/-- The checks of R152 on one address, in their order. In T1 and T2 a write to the cistern through a TC entry with W = 1 and D = 0 walks
again as the D row says (R264); one that misses the TC faults with CISTERN_MISS, an STC entry with D = 0 notwithstanding, since R267
says that such an access never enters the walk queue (DESIGN CHOICE, log 99). -/
def State.xcheck (s : State) (g : Group) (rq : XReq) (ea : DWord) (size : Nat) : XRes :=
  let t := s.tenant g.tn
  let va := vaOf ea
  let tmode := g.mode != .u && !rq.eng
  if ea.toNat % size ≠ 0 then .fail .align ea
  else if tmode && !t.inCistern va then .fail .cisternMiss ea
  else if t.inWindow va != (tagOf ea != 0) then .fail .arenaTag ea
  else if t.inWindow va && (match t.arenaAt va with | some a => a.gen != tagOf ea | none => true) then .fail .arenaDead ea
  else if s.retargeting g.tn va then .wait none
  else match s.xfind g rq.write va with
    | some x => s.xleaf g rq x ea
    | none =>
      if tmode && (s.tcFind g.core g.tn (g.mode == .u) va).isNone then .fail .cisternMiss ea
      else if rq.pref && g.dropped.contains (va / 4096) then .fail .notPresent ea
      else .walk ⟨ea, rq.write, rq.fetch, rq.eng, rq.pref, none⟩

/-! ## What a check changes -/

/-- The least recently used of the entries that may leave leaves a full cache. With every entry of a tenant's share of the STC pinned
the manual names none to replace: the model keeps them all, and the tenant then holds more than its share (R231, R267; DESIGN
CHOICE, log 100). -/
def evictLru (l : List Xent) (cap : Nat) (may : Xent → Bool) : List Xent :=
  if l.length ≤ cap then l
  else
    let c := l.filter may
    match c.find? fun x => c.all fun y => x.stamp ≤ y.stamp with
    | some v => l.erase v
    | none => l

/-- Installs a translation in a core's TC (R231). -/
def State.tcPut (s : State) (core : Nat) (x : Xent) : State :=
  let s1 := s.mapCore core fun c =>
    let rest := c.tc.filter fun y =>
      !(y.tn == x.tn && y.va == x.va && y.level == x.level && y.user == x.user)
    { c with tc := evictLru ({ x with stamp := s.fresh } :: rest) 2048 fun _ => true }
  { s1 with fresh := s.fresh + 1 }

/-- The STC entries of a tenant on a die: ⌊65,536 · q / 11⌋ for q quads there (R231). -/
def Tenant.stcShare (t : Tenant) (die : Nat) : Nat := 65536 * (t.quads.countP (· / 11 == die)) / 11

/-- Installs a translation in the STC of a die; a pinned entry is never replaced (R231, R267). -/
def State.stcPut (s : State) (tn : Nat) (x : Xent) : State :=
  let s1 := s.mapTenant tn fun t =>
    let mine := { x with stamp := s.fresh } :: t.stc.filter fun y => y.die == x.die && !(y.va == x.va && y.level == x.level)
    { t with stc := evictLru mine (t.stcShare x.die) (!·.pin) ++ t.stc.filter fun y => y.die != x.die }
  { s1 with fresh := s.fresh + 1 }

/-- A use of a translation: it stands in the TC, most recently used; an STC hit is installed there (R270). The manual does not say
whether a TC hit counts as a use of the STC's entry: the model makes that one the most recent too (DESIGN CHOICE, log 101). -/
def State.xtouch (s : State) (g : Group) (va : Nat) : State :=
  match s.xhit g va with
  | some x =>
    let s1 := s.tcPut g.core { x with user := g.mode == .u }
    s1.mapTenant g.tn fun t => { t with stc := t.stc.map fun y =>
      if y.va == x.va && y.level == x.level && y.die == dieOf g.core then { y with stamp := s.fresh } else y }
  | none => s

/-- A group waits on an entry once: with the address that it came with first, which is its lowest lane's (R218). -/
def joinWait (ws : List Waiter) (w : Waiter) : List Waiter := if ws.any (·.grp == w.grp) then ws else ws ++ [w]

/-- Whether a group waits on a walk entry. -/
def Walk.waits (w : Walk) (grp : Nat) : Bool := w.grps.any (·.grp == grp)

/-- An access joins the walk entry of its page or makes one; with the queue full it makes none (R216, R270). A save
handler's seal does not wait for the entry, which the handler itself serves (R293). -/
def State.walkAsk (s : State) (g : Group) (r : WalkReq) : State :=
  let vpn := vaOf r.ea / 4096
  let me : List Waiter := if r.eng && g.saving.isSome then [] else [⟨g.id, if r.pref then none else some r.ea, r.fetch, r.refused⟩]
  let bs := if r.eng then 15 else (s.node (s.crew g.crew).node).lr.basin
  let user := g.mode == .u
  let arena := tagOf r.ea != 0
  s.mapCore g.core fun c =>
    if c.wq.any fun w => w.vpn == vpn && !w.stale then
      { c with wq := c.wq.map fun w =>
          if w.vpn == vpn && !w.stale then
            { w with write := w.write || r.write, fetch := w.fetch || r.fetch, user := w.user || user,
                     arena := w.arena || arena, grps := me.foldl joinWait w.grps }
          else w }
    else if c.wq.length ≥ 64 then c
    else
      { c with token := c.token + 1,
               wq := c.wq ++ [{ token := c.token + 1, vpn := vpn, write := r.write, fetch := r.fetch, user := user,
                                arena := arena, basin := bs, served := false, stale := false, grps := me }] }

/-- Sends an ATS translation request for a host page (R276). -/
def State.atsAsk (s : State) (g : Group) (write : Bool) (page vpn : Nat) : State :=
  let r : HostReq := { id := s.fresh, tn := g.tn, core := g.core, user := g.mode == .u, page := page, vpn := vpn, write := write, pri := false,
                       again := false, late := false }
  let s1 := s.onFlow fun f =>
    { f with reqs := f.reqs.filter (fun q => !(q.core == g.core && q.page == page && q.tn == g.tn && q.user == r.user)) ++ [r] }
  { s1 with fresh := s.fresh + 1 }.emit (.atsRequest g.tn page write)

/-- What a word's checks come to. -/
inductive Verdict where
  | stall
  | fault (c : Cause) (addr : DWord)
  | go
  deriving DecidableEq, Repr

/-- Whether an answer is a translation still outstanding (R152). -/
def XRes.open : XRes → Bool
  | .walk .. | .ask .. | .wait _ => true
  | _ => false

/-- While any translation is outstanding the word does not issue; otherwise the first failure decides (R152). -/
def verdict (rs : List XRes) : Verdict :=
  if rs.any (·.open) then .stall
  else rs.foldr (fun r v => match r with | .fail c a => .fault c a | _ => v) .go

/-- The requests that outstanding translations make. -/
def State.xask (s : State) (g : Group) (rs : List XRes) : State :=
  rs.foldl (fun s r => match r with
    | .walk w => s.walkAsk g w
    | .ask page vpn write =>
      if s.flow.reqs.any (fun q => q.core == g.core && q.page == page && q.tn == g.tn && q.user == (g.mode == .u) &&
          (q.write || !write)) then s
      else s.atsAsk g write page vpn
    | _ => s) s

/-- The address whose cached translation an answer has hit: all but those that have to be walked and those that no check of R152 from
6 on has seen. -/
def XRes.hitVa : XRes → Option Nat
  | .ok l => if l.cls = .scratch then none else some (l.va % 2 ^ 48)
  | .fail c a => if c = .otherTenant ∨ c = .basinUndefined ∨ c = .formatMismatch ∨ c = .protection then some (vaOf a) else none
  | .ask _ vpn _ => some (vpn * 4096)
  | .wait v => v.map (· * 4096)
  | .pri _ ea => some (vaOf ea)
  | .walk _ => none

/-- The uses of translations that a word's checks have hit: the word issues, or faults (R270). -/
def State.xuse (s : State) (g : Group) (rs : List XRes) : State := (rs.filterMap XRes.hitVa).foldl (fun s va => s.xtouch g va) s

/-- What a word's checks have hit while it waits for other translations: each hit that the TC lacks is installed there (R270). -/
def State.xfill (s : State) (g : Group) (rs : List XRes) : State :=
  (rs.filterMap XRes.hitVa).foldl (fun s va => if (s.tcFind g.core g.tn (g.mode == .u) va).isSome then s else s.xtouch g va) s

/-- A word that waits for translations: its hits are installed, what it lacks is asked for, and it does not issue (R152, R270). -/
def State.xstall (s : State) (rs : List XRes) : State := ((s.xfill s.cur rs).xask s.cur rs).stallWord

/-- The page request that lanes wait for (R153). -/
def XRes.priOf : XRes → Option (Nat × DWord)
  | .pri r ea => some (r, ea)
  | _ => none

/-- The place of an answer. -/
def XRes.loc? : XRes → Option Loc
  | .ok l => some l
  | _ => none

/-- What the checks of one lane come to, in their order: the first failure or outstanding translation, else a page request that
the lane waits for (R152, R153, R182). -/
def firstOf (rs : List XRes) : XRes :=
  rs.foldr (fun x v => match x, v with
    | .ok _, _ => v
    | .pri .., .ok _ => x
    | .pri .., _ => v
    | _, _ => x) (.ok ⟨.device, ⟨0, 0, 0⟩, 0, 0, 0, false, false, 0, 0⟩)

/-- A virtual word at issue: it stalls, faults, or goes on with the lanes whose pages are at hand; lanes whose host page
is requested leave the path to issue the word again, under the tickets `owed` (R152, R153). `rs` gives each lane's checks in
their order. -/
def State.xword (s : State) (owed : List Nat) (rs : List (Nat × List XRes)) (go : List (Nat × List Loc) → State → State) : State :=
  let flat := rs.flatMap (·.2)
  match verdict (rs.map fun r => firstOf r.2) with
  | .stall => s.xstall flat
  | .fault c a => (s.xuse s.cur flat).fault c a
  | .go =>
    let held := rs.filterMap fun r => (r.2.findSome? XRes.priOf).map fun q => (r.1, q)
    let s1 := (held.map (·.2.1)).dedup.foldl (fun s q =>
      let mine := held.filter (·.2.1 == q)
      s.blockLanes (maskOf fun l => mine.any (·.1 == l)) (.pri q ((mine.head?.map (·.2.2)).getD 0)) false owed)
      (s.xuse s.cur flat)
    let ready := rs.filter fun r => (r.2.findSome? XRes.priOf).isNone
    if ready.isEmpty then s1 else go (ready.map fun r => (r.1, r.2.filterMap XRes.loc?)) s1

/-- The checks of a word that acts once: as `xword`, but a page request holds the whole path at the word (R152, R153). -/
def State.xone (s : State) (rs : List XRes) (go : List Loc → State → State) : State :=
  match verdict rs with
  | .stall => s.xstall rs
  | .fault c a => (s.xuse s.cur rs).fault c a
  | .go =>
    match rs.findSome? XRes.priOf with
    | some q => (s.xuse s.cur rs).blockAt (.pri q.1 q.2)
    | none => go (rs.filterMap XRes.loc?) (s.xuse s.cur rs)

/-- A range check of a scratchpad operand: the crew's offset as a place (R160). -/
def State.spCheck (s : State) (g : Group) (off size : Nat) (odd : Cause) : XRes :=
  let c := s.crew g.crew
  if off % size ≠ 0 then .fail odd (BitVec.ofNat 64 off)
  else if off + size > c.scratch then .fail .spRange (BitVec.ofNat 64 off)
  else .ok ⟨.scratch, ⟨g.crew, 15, off⟩, off, 0, 0, false, false, off, 0⟩

end Sys2Proof.Machine
end

