-- ==== Sys2Proof/Machine/Home.lean ====
section
/-!
DEFINITION. Homes and their lines: placement, allocation and eviction in a basin (R232 to R234), L1 lines (R230),
exclusive ownership and its recall (R254, R255), scratchpad bytes (R229), poison (R299), and what a write at a home does
to monitors (R169).
-/

namespace Sys2Proof.Machine

/-! ## Sparse bytes -/

/-- The entries of an address range. -/
def SMap.range {w : Nat} (m : SMap w) (lo hi : Nat) : SMap w := m.filter fun e => decide (lo ≤ e.1) && decide (e.1 < hi)

/-- Writes every address of a range from another map. -/
def SMap.copyRange {w : Nat} (m src : SMap w) (lo hi : Nat) : SMap w :=
  (src.range lo hi).foldl (fun a e => a.set e.1 e.2) (m.clear lo hi)

/-! ## Placement (R232) -/

/-- The XOR of the 16-bit fields of a number below 2^64. -/
def xor16 (x : Nat) : Nat := (List.range 4).foldl (fun a i => a ^^^ (x / 2 ^ (16 * i) % 2 ^ 16)) 0

/-- The banks of a mask, ascending. -/
def banksOf (m : BitVec 64) : List Nat := (List.range 64).filter m.getLsbD

/-- The bank of a line under a mask, by its number on the die (R232). -/
def bankUnder (m : BitVec 64) (line : Nat) (pa : Nat) : Nat :=
  let bs := banksOf m
  bs.getD (xor16 (pa / line) % bs.length) 0

/-- The set of a line (R232). -/
def setOf (r : BasinRec) (pa : Nat) : Nat :=
  pa / lineSize r.line % (2 ^ 20 / (lineSize r.line * r.ways))

/-- The bank id in which a resident line stands: its old place until it has moved (R211). -/
def Basin.bankOf (b : Basin) (old : Bool) (pa : Nat) : Nat :=
  b.defn.die * 64 + bankUnder (if old then b.old.getD b.defn.mask else b.defn.mask) (lineSize b.defn.line) pa

/-! ## Homes -/

/-- The home entry of a line (R233, R246). -/
def State.home? (s : State) (k : HomeKey) : Option Home := s.flow.homes.find? (·.key == k)

/-- Changes a home entry. -/
def State.mapHome (s : State) (k : HomeKey) (f : Home → Home) : State :=
  s.onFlow fun fl => { fl with homes := fl.homes.map fun h => if h.key == k then f h else h }

/-- The summary pair of a slice (R233). -/
def State.sumOf (s : State) (tn bs bank : Nat) : Nat × Nat :=
  match s.flow.sums.find? fun p => p.tn == tn && p.bs == bs && p.bank == bank with
  | some p => (p.wts, p.rts)
  | none => (0, 0)

/-- Raises the summary pair of a slice (R233). -/
def State.raiseSum (s : State) (tn bs bank w r : Nat) : State :=
  let old := s.sumOf tn bs bank
  s.onFlow fun fl =>
    { fl with sums := ⟨tn, bs, bank, max old.1 w, max old.2 r⟩ ::
        fl.sums.filter fun p => !(p.tn == tn && p.bs == bs && p.bank == bank) }

/-- The timestamps of a line: its entry's, else its slice's summary pair (R233). That of basin 15 is 0 until a basin of the tenant has
lost its last bank (R236). -/
def State.stamps (s : State) (k : HomeKey) : Nat × Nat :=
  match s.home? k with
  | some h => (h.wts, h.rts)
  | none =>
    match s.liveBasin k.tn k.bs with
    | some b => s.sumOf k.tn k.bs (b.bankOf false k.line)
    | none => s.sumOf k.tn 15 0

/-- Whether a line has data in a basin: a base-die line never has. -/
def State.resident (s : State) (k : HomeKey) : Bool := k.bs != 15 && (s.home? k).isSome

/-- Bytes of a line as its home holds them (R249). -/
def State.homeBytes (s : State) (k : HomeKey) (pa n : Nat) : List Byte :=
  match s.home? k with
  | some h => if k.bs = 15 then s.hbm.getList pa n else h.data.getList pa n
  | none => s.hbm.getList pa n

/-- Bytes of a tenant's memory through a basin, each from its own home. -/
def State.memBytes (s : State) (tn bs pa n : Nat) : List Byte :=
  (List.range n).flatMap fun i => s.homeBytes (s.keyOf tn bs (pa + i)) (pa + i) 1

/-- The lines that a byte range of a tenant's memory touches. -/
def State.linesOf (s : State) (tn bs pa n : Nat) : List HomeKey :=
  let len := s.lineLen ⟨tn, bs, 0⟩
  if n = 0 then []
  else (List.range ((pa + n - 1) / len - pa / len + 1)).map fun i => s.keyOf tn bs ((pa / len + i) * len)

/-! ## Poison (R299) -/

/-- The 32-byte units of HBM that a range touches (R237). -/
def unitsOf (pa n : Nat) : List Nat := (List.range ((pa + n - 1) / 32 - pa / 32 + 1)).map fun i => pa / 32 + i

/-- Whether bytes of a home read as poison. -/
def State.homePoison (s : State) (k : HomeKey) (pa n : Nat) : Bool :=
  if s.resident k then s.dev.poison.contains (.basin k)
  else (unitsOf pa n).any fun u => s.dev.poison.contains (.hbm (u * 32))

/-- Makes a place poison. -/
def Dev.addPoison (d : Dev) (p : Place) : Dev := if d.poison.contains p then d else { d with poison := p :: d.poison }

/-- Ends the poison of a place. -/
def Dev.dropPoison (d : Dev) (p : Place) : Dev := { d with poison := d.poison.filter (· ≠ p) }

/-- Ends the poison of the units that a write covers whole (log 14). -/
def Dev.overwritten (d : Dev) (pa n : Nat) : Dev :=
  { d with poison := d.poison.filter fun p => match p with
      | .hbm u => !(decide (pa ≤ u) && decide (u + 32 ≤ pa + n))
      | _ => true }

/-- Writes bytes to HBM through a base die, metering them (R312). -/
def State.hbmWrite (s : State) (tn pa : Nat) (bs : List Byte) : State :=
  ({ s with hbm := s.hbm.setList pa bs, dev := s.dev.overwritten pa bs.length }).meter tn 5 bs.length

/-- A 32-byte unit of HBM as it stands in its stack: AES-XTS-256 under the key of the tenant that owns the frame, the unit's offset
within the frame as tweak; a unit of zeros stands as zeros (R15, R237). `State.hbm` holds what the base die deciphers. A frame whose
owner's key has been destroyed has no reading. -/
def State.storedUnit (s : State) (pa : Nat) : Option (List Byte) :=
  let u := pa / 32 * 32
  let bs := s.hbm.getList u 32
  if bs.all (· == 0) then some bs
  else (s.tenants.find? (·.hasFrame (u / 4096))).bind fun t =>
    t.keys.map fun k => Config.aesXts (Config.hbmKey k) (u / 32 % 128) bs

/-! ## L1 (R230) -/

/-- The bytes that one L1 copy of a home's line covers. -/
def State.chunkLen (s : State) (k : HomeKey) : Nat := min (s.lineLen k) 128

/-- The copy of an address in a core's L1. -/
def State.l1? (s : State) (core : Nat) (k : HomeKey) (pa : Nat) : Option L1Line :=
  (s.core core).l1.find? fun x => x.key == k && decide (x.pa ≤ pa) && decide (pa < x.pa + s.chunkLen k)

/-- Changes the lines of a core's L1. -/
def State.mapL1 (s : State) (core : Nat) (f : List L1Line → List L1Line) : State :=
  s.mapCore core fun c => { c with l1 := f c.l1 }

/-- Poison of an L1 line that holds its home's only data goes home with it (R299). -/
def State.poisonHome (s : State) (core : Nat) (x : L1Line) : State :=
  if x.excl && s.dev.poison.contains (.l1 core x.pa) then s.onDev fun d => (d.dropPoison (.l1 core x.pa)).addPoison (.basin x.key)
  else s

/-- The parts of a line that a core holds exclusively. -/
def State.exclOf (s : State) (core : Nat) (k : HomeKey) : List L1Line := (s.core core).l1.filter fun y => y.excl && y.key == k

/-- A line held exclusively as it returns to its home. -/
def L1Line.back (x : L1Line) : WriteBack := ⟨x.key, x.pa, x.data, x.wts, x.rts⟩

/-- Removes an L1 line; an exclusive one goes on its way to its home, whole (R255). -/
def State.l1Drop (s : State) (core : Nat) (x : L1Line) : State :=
  if x.excl then
    let xs := s.exclOf core x.key
    let s1 := (xs.foldl (fun s y => s.poisonHome core y) s).mapL1 core (·.filter fun y => !(y.excl && y.key == x.key))
    s1.onFlow fun f => { f with wbs := f.wbs ++ xs.map L1Line.back }
  else s.mapL1 core (·.filter (· ≠ x))

/-- The line of an L1 that a copy stands in: 128 bytes of one basin's memory, or of flash (R230). -/
def L1Line.tag (x : L1Line) : Nat × Nat × Nat × Bool := (x.pa / 128, x.key.tn, x.key.bs, x.flash)

/-- Puts a line into a core's L1: 128 sets of 8 ways by address bits [13:7], least recently used out first (R230). New data
there is no poison. -/
def State.l1Put (s : State) (core : Nat) (x : L1Line) : State :=
  let x := { x with stamp := s.fresh }
  let same := (s.core core).l1.any fun y => y.key == x.key && y.pa == x.pa && y.wts == x.wts && y.data == x.data
  let s0 := if same then s else s.onDev (·.dropPoison (.l1 core x.pa))
  let s1 := { s0.mapL1 core (fun l => x :: l.filter fun y => !(y.key == x.key && y.pa == x.pa)) with fresh := s.fresh + 1 }
  let way := (s1.core core).l1.filter fun y => y.pa / 128 % 128 == x.pa / 128 % 128
  let tags : List (Nat × Nat × Nat × Bool) := (way.map (·.tag)).dedup
  if tags.length ≤ 8 then s1
  else
    let newest := fun t => (way.filter (·.tag == t)).foldl (fun m y => max m y.stamp) 0
    match tags.find? fun t => tags.all fun u => newest t ≤ newest u with
    | some t => (way.filter (·.tag == t)).foldl (fun s y => s.l1Drop core y) s1
    | none => s1

/-- A use of an L1 line. -/
def State.l1Touch (s : State) (core : Nat) (x : L1Line) : State :=
  { s.mapL1 core (·.map fun y => if y.key == x.key && y.pa == x.pa then { y with stamp := s.fresh } else y) with
    fresh := s.fresh + 1 }

/-- Drops the copies of a line from every L1 but the exclusive ones. -/
def State.dropCopies (s : State) (p : L1Line → Bool) : State :=
  { s with cores := s.cores.map fun c => { c with l1 := c.l1.filter fun x => x.excl || !p x } }

/-- The lease end that governs a copy: of a 64-byte basin line, the earlier of it and its sibling's (R230). -/
def State.leaseOf (s : State) (core : Nat) (x : L1Line) : Nat :=
  if s.chunkLen x.key ≥ 128 then x.lease
  else
    (s.core core).l1.foldl (fun m y =>
      if y.tag == x.tag && !y.excl then min m y.lease else m) x.lease

/-! ## Recall (R249, R254, R255) -/

/-- Whether a basin writes its data through to memory (R234). -/
def State.through (s : State) (k : HomeKey) : Bool := (s.liveBasin k.tn k.bs).any (·.defn.write == 1)

/-- Returned data of a line goes on to memory in a write-through basin, so that the line stays clean; poison stays with the
line until it is evicted (R234, R299). -/
def State.passOn (s : State) (k : HomeKey) (back : List WriteBack) : State :=
  if s.through k && !s.dev.poison.contains (.basin k) then
    back.foldl (fun s w => s.hbmWrite k.tn w.pa (w.data.getList w.pa (s.chunkLen k))) s
  else s.mapHome k fun h => { h with dirty := h.dirty || !back.isEmpty }

/-- The owner returns the line, from its L1 or in an arriving write-back; the home takes data, wts and rts. With `keep` a
write-through basin passes the data on to memory; without, the line is about to be dropped unwritten (R207, R328). -/
def State.recallAs (s : State) (k : HomeKey) (keep : Bool) : State :=
  match (s.home? k).bind (·.owner) with
  | none => s
  | some c =>
    let back := (s.exclOf c k).map L1Line.back ++ s.flow.wbs.filter (·.key == k)
    let s0 := (s.exclOf c k).foldl (fun s x => s.poisonHome c x) s
    let s1 := s0.mapL1 c (·.filter fun x => !(x.excl && x.key == k))
    let s2 := s1.onFlow fun f => { f with wbs := f.wbs.filter (·.key != k) }
    let s3 := s2.mapHome k fun h =>
      back.foldl (fun h w => { h with data := h.data.copyRange w.data w.pa (w.pa + s.chunkLen k), wts := max h.wts w.wts,
                                      rts := max h.rts w.rts }) { h with owner := none }
    if keep then s3.passOn k back else s3

/-- The owner returns a line that stays. -/
def State.recallNow (s : State) (k : HomeKey) : State := s.recallAs k true

/-! ## Eviction and allocation (R233, R234) -/

/-- A dirty line goes to memory whole (R234); poison goes with it. -/
def State.writeOut (s : State) (h : Home) (len : Nat) : State :=
  let s1 := (s.hbmWrite h.key.tn h.key.line (h.data.getList h.key.line len))
  if s.dev.poison.contains (.basin h.key) then
    s1.onDev fun d => (unitsOf h.key.line len).foldl (fun d u => d.addPoison (.hbm (u * 32))) d
  else s1

/-- Whether the entry of a line has lost its timestamps or its owner slot, and waits for RECOVER (R259, R299). -/
def State.entryLost (s : State) (k : HomeKey) : Bool := s.dev.poison.contains (.homeEntry k)

/-- Whether an entry of a line of some frames waits for RECOVER, in any basin of the tenant. -/
def State.lostIn (s : State) (tn : Nat) (frames : List Nat) : Bool :=
  s.dev.poison.any fun p => match p with
    | .homeEntry k => k.tn == tn && frames.contains (k.line / 4096)
    | _ => false

/-- Whether an entry of a line of a basin waits for RECOVER. -/
def State.lostInBasin (s : State) (tn bs : Nat) : Bool :=
  s.dev.poison.any fun p => match p with
    | .homeEntry k => k.tn == tn && k.bs == bs
    | _ => false

/-- A line leaves its basin: its owner returns it, dirty data goes to memory if `keep`, and the slice's summary pair takes
its timestamps (R233). -/
def State.evict (s : State) (k : HomeKey) (keep : Bool) : State :=
  let s1 := s.recallAs k keep
  match s1.home? k, s1.liveBasin k.tn k.bs with
  | some h, some b =>
    let s2 := if keep && h.dirty then s1.writeOut h (lineSize b.defn.line) else s1
    let s3 := (s2.onDev fun d => (d.dropPoison (.basin k)).dropPoison (.homeEntry k)).raiseSum k.tn k.bs (b.bankOf h.old k.line) h.wts h.rts
    -- the slice that the line goes to next takes no less (R211)
    let s4 := if h.old then s3.raiseSum k.tn k.bs (b.bankOf false k.line) h.wts h.rts else s3
    s4.onFlow fun f => { f with homes := f.homes.filter (·.key != k) }
  | some _, none => s1.onFlow fun f => { f with homes := f.homes.filter (·.key != k) }
  | none, _ => s1

/-- The lines that share a way set: the same bank and set of one basin (R232). -/
def State.setLines (s : State) (k : HomeKey) (b : Basin) (bank : Nat) : List Home :=
  s.flow.homes.filter fun h =>
    h.key.tn == k.tn && h.key.bs == k.bs && b.bankOf h.old h.key.line == bank && setOf b.defn h.key.line == setOf b.defn k.line

/-- The lines of a set that may give way: one whose entry waits for RECOVER stays (R259). -/
def State.waysOf (s : State) (k : HomeKey) (b : Basin) (bank : Nat) : List Home := (s.setLines k b bank).filter fun h => !s.entryLost h.key

/-- Whether a line has a way, or can get one now. -/
def State.hasRoom (s : State) (k : HomeKey) : Bool :=
  (s.home? k).isSome || (match s.liveBasin k.tn k.bs with
    | none => true
    | some b => decide ((s.setLines k b (b.bankOf false k.line)).length < b.defn.ways) || !(s.waysOf k b (b.bankOf false k.line)).isEmpty)

/-- The victim of a full set (R234): the least recently used way, or one that the slice's generator chooses. -/
def victim (b : Basin) (set : List Home) (free : Nat) : Option Home :=
  if b.defn.repl = 1 then set[Config.freeNat free % set.length]?
  else set.find? fun h => set.all fun g => h.stamp ≤ g.stamp

/-- A line is looked up for a step: a resident one becomes the most recent; any other is allocated with its slice's
summary pair and the data of memory, inserted least recent in a `low` basin, and by a read in a `stream` one. A write of a
`stream` basin that covers the `whole` line reads no memory (R233, R234). A line of a basin that has come to no bank is nowhere: its
pages are served as under basin 15 (R236). -/
def State.allocateFor (s : State) (k : HomeKey) (write whole : Bool) : State :=
  match s.home? k with
  | some _ => { s.mapHome k (fun h => { h with stamp := s.fresh }) with fresh := s.fresh + 1 }
  | none =>
    match s.liveBasin k.tn k.bs with
    | none =>
      let (w, r) := s.sumOf k.tn 15 0
      if k.bs = 15 then s.onFlow fun f => { f with homes := ⟨k, [], false, w, r, none, 0, false⟩ :: f.homes } else s
    | some b =>
      let len := lineSize b.defn.line
      let bank := b.bankOf false k.line
      let set := s.setLines k b bank
      let s1 := if set.length < b.defn.ways then s
        else match victim b (s.waysOf k b bank) s.free with
          | some v => State.evict { s with free := s.free + 1 } v.key true
          | none => s
      let (w, r) := s1.sumOf k.tn k.bs bank
      let unread := b.defn.write == 3 && whole
      let low := (b.defn.write == 3 && !write) || b.defn.repl == 2
      let h : Home := { key := k, data := if unread then [] else s1.hbm.range k.line (k.line + len), dirty := false, wts := w,
                        rts := r, owner := none, stamp := if low then 0 else s1.fresh, old := false }
      let s2 := { s1.onFlow (fun f => { f with homes := h :: f.homes }) with fresh := s1.fresh + 1 }
      if unread then s2
      else
        let s3 := s2.meter k.tn 5 len
        if s1.homePoison k k.line len then s3.onDev (·.addPoison (.basin k)) else s3

/-- The lookup of a step that reads a line (R234). -/
def State.allocate (s : State) (k : HomeKey) : State := s.allocateFor k false false

/-! ## Scratchpad bytes (R229) -/

/-- The core and the byte of its scratchpad that hold offset `o` of a crew's window (R229). -/
def Crew.spByte (c : Crew) (o : Nat) : Nat × Nat :=
  let i := o / 4096 % c.width
  (c.base + i, ((c.units.getD i []).getD (o / 4096 / c.width) 0) * 4096 + o % 4096)

/-- Reads bytes of a crew's scratchpad. -/
def State.spRead (s : State) (crew o n : Nat) : List Byte :=
  let c := s.crew crew
  (List.range n).map fun i => let p := c.spByte (o + i); (s.core p.1).sp.get p.2

/-- Writes bytes of a crew's scratchpad; poison there ends. -/
def State.spWrite (s : State) (crew o : Nat) (bs : List Byte) : State :=
  let c := s.crew crew
  let s1 := (bs.zipIdx).foldl (fun s b =>
    let p := c.spByte (o + b.2)
    s.mapCore p.1 fun k => { k with sp := k.sp.set p.2 b.1 }) s
  s1.onDev fun d => { d with poison := d.poison.filter fun p => match p with
    | .scratch cr q => !(cr == crew && decide (o ≤ q) && decide (q < o + bs.length))
    | _ => true }

/-- Whether a byte range of a crew's scratchpad holds poison (R299). -/
def State.spPoison (s : State) (crew o n : Nat) : Bool :=
  s.dev.poison.any fun p => match p with
    | .scratch cr q => cr == crew && decide (o ≤ q) && decide (q < o + n)
    | _ => false

/-! ## Claims and the range scoreboard (R184, R249) -/

/-- Whether two byte ranges meet. -/
def meets (a n b m : Nat) : Bool := decide (a < b + m) && decide (b < a + n)

/-- Whether a frame of 4 KiB belongs to the frames that a frame word claims (R221). -/
def Xfer.claims? (s : State) (x : Xfer) (pa n : Nat) : Bool :=
  x.claims.any (fun k => meets pa n k.line (s.lineLen k)) ||
  match x.kind with
  | .frames _ fs => fs.any fun f => meets pa n (f.1 * 4096) 4096
  | _ => false

/-- Whether a range of home bytes is claimed by an engine word in flight other than `me` (R249, R258). -/
def State.claimed (s : State) (pa n me : Nat) : Bool := s.flow.xfers.any fun x => x.id != me && x.claims? s pa n

/-- Whether a range of a crew's scratchpad waits for the range scoreboard: a read waits for destination ranges, a write
also for source ranges (R184). -/
def State.spHeld (s : State) (crew o n : Nat) (write : Bool) : Bool :=
  s.flow.xfers.any fun x => x.sb.any fun e => e.crew == crew && meets o n e.lo (e.hi - e.lo) && (e.dest || write)

/-! ## Monitors (R169, R170) -/

/-- Whether a watched word meets a comparing condition (R169). -/
def MonCond.holds (c : MonCond) (w x : Word) : Bool :=
  match c with
  | .eq => w == x
  | .ne => w != x
  | .lt => w.slt x
  | .ge => x.sle w
  | .ltn => w.ult x
  | .gen => x.ule w
  | .chg => false

/-- The 32-bit value of four bytes (R1). -/
def wordVal (bs : List Byte) : Word := BitVec.ofNat 32 (leNat bs)

/-- A write at a home: every monitor in the table of that line whose condition now holds is met (R169). -/
def State.noteWrite (s : State) (k : HomeKey) (pa n wts : Nat) : State :=
  s.onFlow fun f => { f with mons := f.mons.map fun m =>
    if m.table && m.met.isNone && m.loc.key == k &&
        (if m.cond = .chg then meets pa n m.loc.pa 4 else m.cond.holds (wordVal (s.homeBytes k m.loc.pa 4)) m.x) then
      { m with met := some wts }
    else m }

/-! ## Access counters (R242, R243) -/

/-- Adds 1, saturating, to the counter of a page after a line access that missed the L1 in mode U; nothing is counted for
the table itself, or where the counter's page is not mapped, writable, plain HBM of the tenant. The byte is added to at its
home, where a line held exclusively returns first. The device reads no tables (R262): where the counter's page is mapped there and
cached in neither the core's TC nor the die's STC, the model counts nothing and makes no walk entry (R243 does not say; DESIGN
CHOICE, log 102). -/
def State.countAccess (s : State) (core tn va : Nat) : State :=
  let t := s.tenant tn
  let base := (bits t.actbase 36 12).toNat * 2 ^ 36
  if !t.actbase.getLsbD 0 || (decide (base ≤ va) && decide (va < base + 2 ^ 36)) then s
  else
    let at_ := base + va / 4096 % 2 ^ 36
    match (s.core core).tc.find? (fun x => x.covers tn at_) <|> s.stcFind core tn at_ with
    | none => s
    | some x =>
      let pa := x.place at_
      if !leafW x.leaf || leafTY x.leaf != 0 || leafFM x.leaf != 0 || !t.hasFrame (pa / 4096) then s
      else
        let k := s.keyOf tn (leafBS x.leaf) pa
        let s1 := s.recallNow k
        match s1.homeBytes k pa 1 with
        | [b] =>
          let b' : Byte := if b = 255 then 255 else b + 1
          if !s1.resident k then { s1 with hbm := s1.hbm.set pa b' }
          else
            let s2 := s1.mapHome k fun h => { h with data := h.data.set pa b', dirty := h.dirty || !s1.through k }
            if s1.through k then { s2 with hbm := s2.hbm.set pa b' } else s2
        | _ => s

end Sys2Proof.Machine
end

