-- ==== Sys2Proof/Machine/Capture.lean ====
section
/-!
DEFINITION. Capture and replay (R302, R303): what a node under capture records, and what a node under replay must do in
the recorded order. The manual does not lay out the records in the buffer, so their sizes are free values (log 7).
-/

namespace Sys2Proof.Machine

/-- The node of a group. -/
def State.nodeOf (s : State) (g : Group) : Node := s.node (s.crew g.crew).node

/-- Adds a record to a node's capture; once the buffer overflows nothing more is recorded (R303). -/
def State.record (s : State) (nd : Nat) (e : CapEvent) : State :=
  match (s.node nd).cap with
  | some c =>
    if c.replay || c.status != 0 then s
    else
      let used := c.used + Config.freeNat s.free
      let c' := if (s.node nd).lr.capLen < used then { c with status := 1 } else { c with log := c.log ++ [e], used := used }
      { s.mapNode nd fun n => { n with cap := some c' } with free := s.free + 1 }
  | none => s

/-- Whether a record orders steps at a place. -/
def CapEvent.atPlace (place : Nat) : CapEvent → Bool
  | .order p _ _ _ => p == place
  | _ => false

/-- Whether the recorded order lets an atomic, wake or signal of a group act at a place now (R303). -/
def State.capMay (s : State) (g : Group) (place seq : Nat) : Bool :=
  match (s.nodeOf g).cap with
  | some c =>
    !c.replay || (match c.log.find? (CapEvent.atPlace place) with
      | some e => e == .order place (s.crew g.crew).idx g.num seq
      | none => true)
  | none => true

/-- An atomic, wake or signal of a group acts at a place: recorded, or taken off the recorded order (R303). -/
def State.capDo (s : State) (g : Group) (place seq : Nat) : State :=
  let nd := s.nodeOf g
  let e := CapEvent.order place (s.crew g.crew).idx g.num seq
  match nd.cap with
  | some c =>
    if c.replay then s.mapNode nd.id fun n => { n with cap := some { c with log := c.log.erase e } } else s.record nd.id e
  | none => s

/-- Whether a record is the remote value of one lane's read. -/
def CapEvent.remoteOf (crew num seq addr : Nat) : CapEvent → Option (List Byte)
  | .remote c n q a v => if c = crew ∧ n = num ∧ q = seq ∧ a = addr then some v else none
  | _ => none

/-- A value read from host or peer memory: recorded, or replaced by the recorded one; the reads of one place by one access are
replayed in their recorded order (R303). -/
def State.capRemote (s : State) (g : Group) (seq addr : Nat) (v : List Byte) : State × List Byte :=
  let nd := s.nodeOf g
  let idx := (s.crew g.crew).idx
  match nd.cap with
  | some c =>
    if c.replay then
      match c.log.find? fun e => (CapEvent.remoteOf idx g.num seq addr e).isSome with
      | some e =>
        (s.mapNode nd.id fun n => { n with cap := some { c with log := c.log.erase e } },
          (CapEvent.remoteOf idx g.num seq addr e).getD v)
      | none => (s, v)
    else (s.record nd.id (.remote idx g.num seq addr v), v)
  | none => (s, v)

/-- The recorded digest of a page. -/
def CapEvent.digestOf (page : Nat) : CapEvent → Option (BitVec 256)
  | .digest p h => if p = page then some h else none
  | _ => none

/-- The bytes of the page in which a byte of device memory or of flash stands. -/
def State.pageBytes (s : State) (cls : Cls) (k : HomeKey) (pa : Nat) : List Byte :=
  let lo := pa / 4096 * 4096
  if cls = .flash then s.dev.flash.getList lo 4096 else s.memBytes k.tn k.bs lo 4096

/-- The first read of a page of device memory or flash: its digest is recorded, or checked against the recorded one; a mismatch pends
REPLAY_DIVERGED with the page's address (R303). -/
def State.capPage (s : State) (g : Group) (cls : Cls) (k : HomeKey) (pa vpn : Nat) : State :=
  let nd := s.nodeOf g
  match nd.cap with
  | some c =>
    if c.pages.contains vpn then s
    else
      let h := Config.sha256 (s.pageBytes cls k pa)
      let s1 := s.mapNode nd.id fun n => { n with cap := n.cap.map fun c => { c with pages := vpn :: c.pages } }
      if c.replay then
        match c.log.findSome? (CapEvent.digestOf vpn) with
        | some h' =>
          if h = h' then s1
          else
            (s1.mapNode nd.id fun n => { n with cap := n.cap.map fun c => { c with status := 2 } }).mapGrp g.id
              (·.pending .replayDiverged (BitVec.ofNat 64 (vpn * 4096)))
        | none => s1
      else s1.record nd.id (.digest vpn h)
  | none => s

end Sys2Proof.Machine
end

