-- ==== Sys2Proof/Machine/Order.lean ====
section
/-!
DEFINITION. The steps of the ordering machine that perform accesses (R249 to R255), the order within a lane (R250), the
arrival of loads (R154, R156, R161, R165), the logical clock (R247), RECOVER (R259), and the monitors (R169, R170).
Every step is written as an operation that answers nothing while its condition does not hold; the event then changes
nothing.
-/

namespace Sys2Proof.Machine

/-- An event of the ordering machine: the step when its condition holds, and no change otherwise. -/
def stepWhen (s : State) (r : Option State) : Host.Outcome State Fault Refusal := .next (r.getD s)

/-! ## Accesses in flight -/

/-- The access with an internal number. -/
def State.acc? (s : State) (id : Nat) : Option Access := s.flow.accs.find? (·.id == id)

/-- The word in flight with an internal number. -/
def State.word? (s : State) (id : Nat) : Option PendWord := s.flow.words.find? (·.id == id)

/-- Changes a word in flight. -/
def State.mapWord (s : State) (id : Nat) (f : PendWord → PendWord) : State :=
  s.onFlow fun fl => { fl with words := fl.words.map fun w => if w.id == id then f w else w }

/-- The address of an element, by its distance from the access's first element. -/
def Access.ea (a : Access) (e : El) : DWord := BitVec.ofNat 64 (a.va + e.pa - a.pa)

/-- Whether an access is a load alone. -/
def Access.isLoad (a : Access) : Bool := a.kind == .load || a.kind == .stream

/-- Whether two accesses are of one memory class; flash lines belong to the device class (R248). -/
def sameClass (a b : Cls) : Bool := a == b || (a == .device && b == .flash) || (a == .flash && b == .device)

/-- Whether an earlier access of a lane, issued and not performed, keeps a later one from performing (R250). A host or
peer write that has not entered its queue keeps back everything; an atomic is a load as well as a store (R163). A write that has entered its
queue or FIFO has taken its step, and keeps nothing back: a host store passes a peer store that still stands in its FIFO, of which the
table's peer row does not speak (DESIGN CHOICE, log 103). -/
def keepsBack (b a : Access) : Bool :=
  match b.kind with
  | .pref => false
  | .load | .stream =>
    match b.cls, a.cls with
    | .peer d, .peer e => d == e || !a.isLoad
    | _, _ => true
  | .store =>
    match b.cls with
    | .device | .scratch => sameClass b.cls a.cls
    | _ => true
  | _ => true

/-- Whether two reads share a channel, which answers in order (R246, R253). -/
def sameChannel (b a : Access) : Bool :=
  b.isLoad && a.isLoad && b.cls == a.cls && (match a.cls with | .host => true | .peer _ => true | _ => false)

/-- Whether the bytes of an access meet those of a queued write. -/
def QEnt.overlaps (q : QEnt) (a : Access) : Bool := q.els.any fun x => a.els.any fun y => meets x.pa x.len y.pa y.len

/-- Whether a host or peer load has to wait for a queued earlier write of its group to the same bytes (R250). -/
def queuedBehind (g : Group) (a : Access) : Bool :=
  a.isLoad && (match a.cls with
    | .host => g.hostQ.any fun q => decide (q.seq < a.seq) && q.overlaps a
    | .peer d => g.peerQ.any fun q => q.1 == d && decide (q.2.seq < a.seq) && q.2.overlaps a
    | _ => false)

/-- The perform order within a lane (R250). A `fut.fput` whose signal is not yet observable is a device store that has issued
(R180, R256); a prefetch has no place in the order (R167). -/
def State.mayPerform (s : State) (a : Access) : Bool :=
  let before := fun (b : Access) => b.grp == a.grp && decide (b.seq < a.seq) && b.kind != .pref &&
    (((b.lanes &&& a.lanes != 0) && keepsBack b a) || sameChannel b a)
  a.kind == .pref ||
    !s.flow.accs.any before &&
      !(s.flow.sigs.any fun x => match x.kind with | .fput b => before b | _ => false) &&
      (match s.grp? a.grp with | some g => !queuedBehind g a | none => true)

/-- The logical time of the group that issued an access. -/
def State.timeOf (s : State) (grp : Nat) : Nat := ((s.grp? grp).map (·.ltime)).getD 0

/-- Joins a time into a group's clock. -/
def State.joinGrp (s : State) (grp t : Nat) : State := s.mapGrp grp (·.join t)

/-- The timestamp of the last write to a line: its home's, or that of the core that holds it exclusively. -/
def State.lastWts (s : State) (k : HomeKey) : Nat :=
  match (s.home? k).bind (·.owner) with
  | some c => (s.exclOf c k).foldl (fun m x => max m x.wts) (s.stamps k).1
  | none => (s.stamps k).1

/-- The latest write that a lease copy of a tenant does not show, as a time; 0 where all show theirs. -/
def State.overtaken (s : State) (tn : Nat) : Nat :=
  (s.cores.flatMap (·.l1)).foldl (fun m x =>
    if x.key.tn == tn && !x.excl && !x.flash && decide (x.wts < s.lastWts x.key) then max m (s.lastWts x.key) else m) 0

/-- A group's scratchpad, host or peer access takes its step: no device load that the group makes after it may show what a write that
has performed by now replaced, since R261 forbids that outcome; so the group's time joins that of every write that a lease copy does
not show (R261; DEDUCED, log 21). -/
def State.catchUp (s : State) (grp tn : Nat) : State := s.joinGrp grp (s.overtaken tn)

/-- Raises the time that the node signals which a predicate picks carry (R256; log 98). -/
def State.raiseNodes (s : State) (p : Signal → Bool) (t : Nat) : State :=
  s.onFlow fun f => { f with sigs := f.sigs.map fun x => match x.kind with
    | .node nd u => if p x then { x with kind := .node nd (max u t) } else x
    | _ => x }

/-- The timestamp of a write by an agent at time `t` to a line whose timestamps are `w` and `r` (R249). It is above the line's
own `w`, as R251 and R260 ask of every line and R249 states for base-die homes (log 21). -/
def nextWts (t w r : Nat) : Nat := max t (max (r + 1) (w + 1))

/-- The core that holds a line exclusively. -/
def State.ownerOf (s : State) (k : HomeKey) : Option Nat := (s.home? k).bind (·.owner)

/-- Whether a line can be reached at its home: not claimed by an engine word, its entry sound, and a way for it where it has none
(R249, R258, R259). -/
def State.open_ (s : State) (k : HomeKey) : Bool := !s.claimed k.line (s.lineLen k) 0 && !s.entryLost k && s.hasRoom k

/-- A store word whose last access has performed is complete: its counter falls (R156). -/
def State.storeDone (s : State) (wd : Nat) : State :=
  match s.word? wd with
  | some w =>
    if s.flow.accs.any (·.word == wd) then s
    else match w.kind with
      | .store => (s.onFlow fun f => { f with words := f.words.filter (·.id != wd) }).complete w.grp w.ctr
      | .none => s.onFlow fun f => { f with words := f.words.filter (·.id != wd) }
      | _ => s
  | none => s

/-- An access has performed: what its lanes received goes to its word, poison that a lane met is held pending with
the address of the lowest such lane (R154), and a task word's signal that has waited for a device write carries its time (R256). -/
def State.finishAcc (s : State) (a : Access) (got : List (Nat × Nat × List Byte)) (bad : El → Bool) : State :=
  let fails := maskOf fun l => a.els.any fun e => e.lane == l && bad e
  let s1 := (s.onFlow fun f => { f with accs := f.accs.filter (·.id != a.id) }).mapWord a.word fun w =>
    { w with got := w.got ++ got, fails := w.fails ||| fails }
  let s2 := match a.els.find? bad with
    | some e => s1.mapGrp a.grp (·.pending .poison (a.ea e))
    | none => s1
  let s3 := if a.cls == .device && !a.isLoad && a.kind != .pref then s2.raiseNodes (·.accs.contains a.id) (s2.timeOf a.grp) else s2
  s3.storeDone a.word

/-! ## Elements -/

/-- What the elements of a load read. -/
def readEls (rd : Nat → Nat → List Byte) (els : List El) : List (Nat × Nat × List Byte) :=
  els.map fun e => (e.lane, e.part, rd e.pa e.len)

/-- The operand size of an atomic function (R162). -/
def atomSize (fn : BitVec 4) : Nat := if fn.toNat ≥ 11 then 8 else 4

/-- The new value of an atomic and the exceptions of `fadd`, which rounds in the mode and under the FZ of its group
(R162, R165). -/
def atomFn (fn : BitVec 4) (rm : BitVec 2) (fz : Bool) (old a b : DWord) : DWord × Flags :=
  let o := lo32 old
  let x := lo32 a
  let w := fun (v : Word) => (v.setWidth 64, (0 : Flags))
  match fn.toNat with
  | 0 => w (o + x)
  | 1 =>
    let r := f32.add (rmOf (rm.setWidth 8)) fz (f32.read fz o.toNat) (f32.read fz x.toNat)
    (BitVec.ofNat 64 r.1, r.2)
  | 2 => w (if o.slt x then o else x)
  | 3 => w (if o.slt x then x else o)
  | 4 => w (if o.ult x then o else x)
  | 5 => w (if o.ult x then x else o)
  | 6 => w (o &&& x)
  | 7 => w (o ||| x)
  | 8 => w (o ^^^ x)
  | 9 => w x
  | 10 => w (if o = x then lo32 b else o)
  | 11 => (old + a, 0)
  | 12 => (a, 0)
  | _ => (if old = a then b else old, 0)

/-- The old value as it returns to the lane: every NaN of `fadd` is canonical (R165). -/
def atomOld (fn : BitVec 4) (bs : List Byte) : List Byte :=
  if fn = 1 ∧ (f32.decode (leNat bs)).isNan then leBytes f32.nan 4 else bs

/-- What the elements of an atomic have done: the bytes written, the old values, the exceptions of each lane. -/
structure AtomRun where
  mem   : SMap 8
  got   : List (Nat × Nat × List Byte)
  flags : List (Nat × Flags)
  deriving DecidableEq, Repr

/-- The lanes of an atomic word act in ascending lane order as one sequence (R164). -/
def runAtoms (els : List El) (m : SMap 8) : AtomRun :=
  els.foldl (fun r e => match e.op with
    | .atomic fn a b rm fz =>
      let bs := r.mem.getList e.pa e.len
      let v := atomFn fn rm fz (BitVec.ofNat 64 (leNat bs)) a b
      { mem := r.mem.setList e.pa (leBytes v.1.toNat e.len), got := r.got ++ [(e.lane, 0, atomOld fn bs)],
        flags := r.flags ++ [(e.lane, v.2)] }
    | .store d => { r with mem := r.mem.setList e.pa d }
    | .load => { r with got := r.got ++ [(e.lane, e.part, r.mem.getList e.pa e.len)] }) ⟨m, [], []⟩

/-- Stores of one word act in ascending lane order, so each byte takes the highest lane's value (R155). -/
def storeEls (m : SMap 8) (els : List El) : SMap 8 := (runAtoms els m).mem

/-- The bytes that elements move. -/
def elBytes (els : List El) : Nat := els.foldl (fun n e => n + e.len) 0

/-- The byte range that the elements cover. -/
def elsLo (els : List El) : Nat := els.foldl (fun m e => min m e.pa) ((els.head?.map (·.pa)).getD 0)
def elsHi (els : List El) : Nat := els.foldl (fun m e => max m (e.pa + e.len)) 0

/-- Whether the elements write every byte of a range. -/
def covers (els : List El) (lo n : Nat) : Bool :=
  (List.range n).all fun i => els.any fun e => decide (e.pa ≤ lo + i) && decide (lo + i < e.pa + e.len)

/-- Writes the elements of a store or atomic straight to a memory. -/
def writeEls (m : SMap 8) (els : List El) (src : SMap 8) : SMap 8 :=
  els.foldl (fun m e => m.setList e.pa (src.getList e.pa e.len)) m

/-! ## Copies in the L1 -/

/-- The L1 chunks that the elements touch. -/
def State.chunks (s : State) (k : HomeKey) (els : List El) : List Nat :=
  (els.map fun e => e.pa / s.chunkLen k * s.chunkLen k).dedup

/-- A copy that a group may read at its time: an exclusive line of its core, a flash line, or a lease copy whose lease has
not passed (R230, R249, R254). -/
def State.validCopy (s : State) (core : Nat) (t : Nat) (k : HomeKey) (pa : Nat) : Option L1Line :=
  match s.l1? core k pa with
  | some x => if x.excl || x.flash || t ≤ s.leaseOf core x then some x else none
  | none => none

/-- Whether a core's L1 holds a valid copy of everything an access reads. -/
def State.hit (s : State) (a : Access) : Bool :=
  (s.chunks a.key a.els).all fun c => (s.validCopy a.core (s.timeOf a.grp) a.key c).isSome

/-- The access counter of a mode U line access that misses the L1 (R243); pinned pages are not counted. -/
def State.missed (s : State) (a : Access) : State := if a.user && !a.pin then s.countAccess a.core a.tn (a.va % 2 ^ 48) else s

/-! ## Device accesses -/

/-- The first read of a page under capture. -/
def State.capLoad (s : State) (a : Access) : State :=
  match s.grp? a.grp with
  | some g => s.capPage g a.cls a.key a.pa a.vpn
  | none => s

/-- Monitors see each element's write. -/
def State.noteEls (s : State) (k : HomeKey) (els : List El) (wts : Nat) : State :=
  els.foldl (fun s e => s.noteWrite k e.pa e.len wts) s

/-- The recorded order lets an atomic act (R303). -/
def State.capAcc (s : State) (a : Access) : Bool :=
  (a.kind != .atomic && a.kind != .crewAtomic) ||
    (match s.grp? a.grp with | some g => s.capMay g a.key.line a.seq | none => true)

/-- An atomic takes its place in the recorded order (R303). -/
def State.capAccDo (s : State) (a : Access) : State :=
  if a.kind != .atomic && a.kind != .crewAtomic then s
  else match s.grp? a.grp with | some g => s.capDo g a.key.line a.seq | none => s

/-- PERFORM-LOAD: the copies' data; the time joins each copy's wts. A load of a line held exclusively takes its steps on
that copy (R249, R254). No access performs while the line's home entry waits for RECOVER (R259). -/
def State.performLoad (s : State) (a : Access) : Option State :=
  if a.isLoad && (a.cls == .device || a.cls == .flash) && s.mayPerform a && s.hit a &&
      !s.entryLost a.key then
    let s1 := (s.chunks a.key a.els).foldl (fun s c =>
      match s.l1? a.core a.key c with
      | some x =>
        let t := max (s.timeOf a.grp) x.wts
        let s' := if x.flash then s else s.joinGrp a.grp t
        let y := if x.excl then { x with lease := t + 16, rts := max x.rts (t + 16) } else x
        (s'.mapL1 a.core (·.map fun z => if z.key == x.key && z.pa == x.pa then y else z)).l1Touch a.core y
      | none => s) s
    let rd := fun pa n => match s.l1? a.core a.key pa with | some x => x.data.getList pa n | none => []
    some ((s1.capLoad a).finishAcc a (readEls rd a.els) fun e =>
      s.dev.poison.contains (.l1 a.core (e.pa / s.chunkLen a.key * s.chunkLen a.key)))
  else none

/-- RENEW's effect on the lease copy of one L1 line at time `t` (R249). -/
def State.renewCopy (s : State) (core : Nat) (k : HomeKey) (h : Home) (t c : Nat) : State :=
  let fresh : L1Line := { key := k, pa := c, data := h.data.range c (c + s.chunkLen k), wts := h.wts, lease := t + 16, rts := 0,
                          excl := false, flash := false, stamp := 0 }
  match s.l1? core k c with
  | some x => s.l1Put core (if x.wts = h.wts then { x with lease := t + 16 } else fresh)
  | none => s.l1Put core fresh

/-- The other basin line of the L1 line that a 64-byte basin line stands in (R230). -/
def siblingOf (k : HomeKey) : HomeKey := { k with line := if k.line % 128 = 0 then k.line + 64 else k.line - 64 }

/-- An L1 line of a 64-byte basin holds two basin lines: with the one that a load renews, the other is filled too where it can be
reached at its home (R230; log 79). -/
def State.fillSibling (s : State) (core t : Nat) (k : HomeKey) : State :=
  let k' := siblingOf k
  if s.chunkLen k ≥ 128 || !s.open_ k' || (s.ownerOf k').isSome then s
  else
    let s0 := s.allocate k'
    match s0.home? k, s0.home? k' with
    | some _, some h =>
      let t' := max t h.wts
      if s0.homePoison k' k'.line 64 then s0
      else (s0.mapHome k' fun h => { h with rts := max h.rts (t' + 16) }).renewCopy core k' h t' k'.line
    | _, _ => s

/-- RENEW: a lease copy is extended, or filled from the home (R249). -/
def State.renew (s : State) (a : Access) : Option State :=
  if a.kind == .load && a.cls == .device && (s.liveBasin a.key.tn a.key.bs).isSome && s.mayPerform a && !s.hit a &&
      s.open_ a.key && (s.ownerOf a.key).isNone then
    let s0 := (s.missed a).allocate a.key
    match s0.home? a.key with
    | none => none
    | some h =>
      let t := max (s.timeOf a.grp) h.wts
      let bad := s0.homePoison a.key h.key.line (s.lineLen a.key)
      let s1 := (s0.joinGrp a.grp t).mapHome a.key fun h => { h with rts := max h.rts (t + 16) }
      let s2 := if bad then s1 else (s.chunks a.key a.els).foldl (fun s c => s.renewCopy a.core a.key h t c) s1
      let rd := fun pa n => match s2.l1? a.core a.key pa with | some x => x.data.getList pa n | none => h.data.getList pa n
      let s3 := if bad then s2 else s2.fillSibling a.core t a.key
      some ((s3.capLoad a).finishAcc a (readEls rd a.els) fun _ => bad)
  else none
/-- STREAM-LOAD: a load at the home that leaves no copy (R159, R249). -/
def State.streamLoad (s : State) (a : Access) : Option State :=
  if a.kind == .stream && a.cls == .device && (s.liveBasin a.key.tn a.key.bs).isSome && s.mayPerform a && !s.hit a &&
      s.open_ a.key && (s.ownerOf a.key).isNone then
    let s0 := (s.missed a).allocate a.key
    match s0.home? a.key with
    | none => none
    | some h =>
      let t := max (s.timeOf a.grp) h.wts
      let bad := s0.homePoison a.key h.key.line (s.lineLen a.key)
      let s1 := (s0.joinGrp a.grp t).mapHome a.key fun h => { h with rts := max h.rts t }
      some ((s1.capLoad a).finishAcc a (readEls (fun pa n => h.data.getList pa n) a.els) fun _ => bad)
  else none

/-- PREFETCH: a lease copy is filled or extended; the group's time does not change (R249). A flash line is read into the
L1; lines of host, peer and basin-15 pages are done (R240). -/
def State.prefetch (s : State) (a : Access) : Option State :=
  if a.kind != .pref then none
  else if a.cls == .flash then
    let x : L1Line := { key := a.key, pa := a.key.line, data := s.dev.flash.range a.key.line (a.key.line + 128), wts := 0,
                        lease := 0, rts := 0, excl := false, flash := true, stamp := 0 }
    some ((s.l1Put a.core x).finishAcc a [] fun _ => false)
  else if a.cls != .device || (s.liveBasin a.key.tn a.key.bs).isNone then some (s.finishAcc a [] fun _ => false)
  else if s.open_ a.key && (s.ownerOf a.key).isNone then
    let s0 := s.allocate a.key
    match s0.home? a.key with
    | none => none
    | some h =>
      let lease := max (s.timeOf a.grp) h.wts + 16
      let s1 := s0.mapHome a.key fun h => { h with rts := max h.rts lease }
      let s2 := if s0.homePoison a.key h.key.line (s.lineLen a.key) then s1 else (s.chunks a.key a.els).foldl (fun s c =>
        s.l1Put a.core { key := a.key, pa := c, data := h.data.range c (c + s.chunkLen a.key), wts := h.wts,
                         lease := lease, rts := 0, excl := false, flash := false, stamp := 0 }) s1
      some (s2.finishAcc a [] fun _ => false)
  else if s.ownerOf a.key = some a.core then some (s.finishAcc a [] fun _ => false)
  else none

/-- The valid lease copies of the issuing core take a store's data and wts (R249). -/
def State.updateCopies (s : State) (a : Access) (src : SMap 8) (wts : Nat) : State :=
  s.mapL1 a.core (·.map fun x =>
    if x.key == a.key && !x.excl && a.els.any (fun e => meets e.pa e.len x.pa (s.chunkLen a.key)) then
      { x with data := x.data.copyRange src x.pa (x.pa + s.chunkLen a.key), wts := wts }
    else x)

/-- What a write at a basin home leaves there, by the basin's write policy (R234): `m` holds the line's bytes after it. -/
def State.putHome (s : State) (a : Access) (m : SMap 8) (wts : Nat) (rts : Nat) : State :=
  match s.liveBasin a.key.tn a.key.bs with
  | none => s
  | some b =>
    if s.resident a.key then
      let s1 := s.mapHome a.key fun h => { h with data := m, wts := wts, rts := max h.rts rts, dirty := h.dirty || b.defn.write != 1 }
      let s2 := if covers a.els a.key.line (s.lineLen a.key) then s1.onDev (·.dropPoison (.basin a.key)) else s1
      if b.defn.write = 1 then
        { s2 with hbm := writeEls s2.hbm a.els m, dev := s2.dev.overwritten (elsLo a.els) (elsHi a.els - elsLo a.els) }.meter
          a.tn 5 (elBytes a.els)
      else s2
    else
      ({ s with hbm := writeEls s.hbm a.els m, dev := s.dev.overwritten (elsLo a.els) (elsHi a.els - elsLo a.els) }.meter
        a.tn 5 (elBytes a.els)).raiseSum a.key.tn a.key.bs (b.bankOf false a.key.line) wts rts

/-- The bytes of a line as its home holds them. -/
def State.lineData (s : State) (k : HomeKey) : SMap 8 :=
  match s.home? k with
  | some h => if k.bs = 15 then s.hbm.range k.line (k.line + s.lineLen k) else h.data
  | none => s.hbm.range k.line (k.line + s.lineLen k)

/-- PERFORM-STORE at a basin home (R234, R249). -/
def State.performStore (s : State) (a : Access) : Option State :=
  match s.liveBasin a.key.tn a.key.bs with
  | none => none
  | some b =>
    if a.kind == .store && a.cls == .device && s.mayPerform a && s.open_ a.key && (s.ownerOf a.key).isNone then
      let s1 := if s.hit a then s else s.missed a
      let s2 := if b.defn.write = 2 && !s1.resident a.key then s1
        else s1.allocateFor a.key true (covers a.els a.key.line (s.lineLen a.key))
      let old := s2.stamps a.key
      let wts := nextWts (s.timeOf a.grp) old.1 old.2
      let m := storeEls (s2.lineData a.key) a.els
      let s3 := ((s2.putHome a m wts 0).updateCopies a m wts).joinGrp a.grp wts
      some ((s3.noteEls a.key a.els wts).finishAcc a [] fun _ => false)
    else none
/-- Whether any element of a base-die access meets poison. -/
def State.elPoison (s : State) (k : HomeKey) (e : El) : Bool := s.homePoison k e.pa e.len

/-- A load, store or atomic at a base-die home, in one step (R249). -/
def State.baseDie (s : State) (a : Access) : Option State :=
  if a.kind != .pref && a.cls == .device && (s.liveBasin a.key.tn a.key.bs).isNone && s.mayPerform a && s.open_ a.key &&
      s.capAcc a then
    let s0 := ((s.missed a).allocate a.key).meter a.tn 5 (elBytes a.els)
    let (w, r) := s0.stamps a.key
    let t := s.timeOf a.grp
    if a.isLoad then
      let t1 := max t w
      let s1 := (s0.joinGrp a.grp t1).mapHome a.key fun h => { h with rts := max h.rts t1 }
      some ((s1.capLoad a).finishAcc a (readEls (fun pa n => s.hbm.getList pa n) a.els) (s.elPoison a.key))
    else
      let atom := a.kind != .store
      let t1 := if atom then max t w else t
      let r1 := if atom then max r t1 else r
      let wts := nextWts t1 w r1
      let good := if atom then a.els.filter (!s.elPoison a.key ·) else a.els
      let run := runAtoms good s.hbm
      let s1 := { s0 with hbm := writeEls s0.hbm good run.mem, dev := good.foldl (fun (d : Dev) (e : El) => d.overwritten e.pa e.len) s0.dev }
      let s2 := (s1.mapHome a.key fun h => { h with wts := wts, rts := max h.rts r1 }).joinGrp a.grp wts
      let s3 := (s2.noteEls a.key good wts).mapWord a.word fun x => { x with flags := x.flags ++ run.flags }
      let s4 := if atom then s3.capLoad a else s3
      some ((s4.capAccDo a).finishAcc a run.got fun e => atom && s.elPoison a.key e)
  else none
/-- Whether a crew-scope atomic may take its line exclusively: no owner, no lease of another core that reaches the
issuer's time (R254), and no monitor on the line (the device need not take a line that it may take). -/
def State.mayOwn (s : State) (a : Access) : Bool :=
  a.kind == .crewAtomic && (s.ownerOf a.key).isNone &&
    s.cores.all (fun c => c.num == a.core || c.l1.all fun x =>
      x.key != a.key || decide (s.leaseOf c.num x < s.timeOf a.grp)) &&
    s.flow.mons.all fun m => !(m.table && m.loc.key == a.key)

/-- The issuing core takes the line exclusively: its L1 holds data, wts and rts (R254). -/
def State.takeLine (s : State) (a : Access) : State :=
  let s1 := s.allocateFor a.key true false
  match s1.home? a.key with
  | none => s1
  | some h =>
    let n := s1.chunkLen a.key
    let s2 := s1.mapHome a.key fun h => { h with owner := some a.core }
    (List.range (s1.lineLen a.key / n)).foldl (fun s i =>
      let c := a.key.line + i * n
      s.l1Put a.core { key := a.key, pa := c, data := h.data.range c (c + n), wts := h.wts, lease := 0, rts := h.rts,
                       excl := true, flash := false, stamp := 0 }) s2

/-- Whether the issuing core's L1 holds exclusively every part of a line that an access touches. -/
def State.ownsAll (s : State) (a : Access) : Bool :=
  (s.chunks a.key a.els).all fun c => (s.l1? a.core a.key c).any (·.excl)

/-- An atomic in the L1 that holds its line exclusively: the steps of R249 applied to the copy, which in a basin of long lines
stands in several L1 lines. -/
def State.atomicInL1 (s : State) (a : Access) : State :=
  let xs := s.exclOf a.core a.key
  let n := s.chunkLen a.key
  let touched := s.chunks a.key a.els
  let w := xs.foldl (fun m x => max m x.wts) 0
  if touched.any fun c => s.dev.poison.contains (.l1 a.core c) then
    ((s.joinGrp a.grp w).capAccDo a).finishAcc a [] fun _ => true
  else
    let run := runAtoms a.els (xs.foldl (fun m x => m.copyRange x.data x.pa (x.pa + n)) [])
    let wts := nextWts (max (s.timeOf a.grp) w) w (xs.foldl (fun m x => max m x.rts) 0)
    let put := fun (x : L1Line) => { x with data := run.mem.range x.pa (x.pa + n), wts := wts }
    let s1 := s.mapL1 a.core (·.map fun z => if z.excl && z.key == a.key then put z else z)
    let s2 := (xs.filter fun x => touched.contains x.pa).foldl (fun s x => s.l1Touch a.core x) s1
    let s3 := (s2.joinGrp a.grp wts).mapWord a.word fun w => { w with flags := w.flags ++ run.flags }
    ((s3.capLoad a).capAccDo a).finishAcc a run.got fun _ => false

/-- PERFORM-ATOMIC at its place under R163: the lanes of a word on one line act in one step. With `excl` a crew-scope
atomic first takes its line exclusively. The table of R234 speaks of read misses and of writes: an atomic that misses in a basin of
policy na reads first, and the model allocates its line as a read miss does (DESIGN CHOICE, log 104). -/
def State.performAtomic (s : State) (a : Access) (excl : Bool) : Option State :=
  if (a.kind == .atomic || a.kind == .crewAtomic) && a.cls == .device && (s.liveBasin a.key.tn a.key.bs).isSome &&
      s.mayPerform a && s.open_ a.key && s.capAcc a then
    if a.kind == .crewAtomic && s.ownerOf a.key == some a.core && s.ownsAll a then
      some (s.atomicInL1 a)
    else if (s.ownerOf a.key).isSome then none
    else if excl && s.mayOwn a && !(s.allocate a.key).homePoison a.key a.key.line (s.lineLen a.key) then
      let s1 := if s.hit a then s else s.missed a
      some ((s1.takeLine a).atomicInL1 a)
    else if excl then none
    else
      let s1 := (if s.hit a then s else s.missed a).allocateFor a.key true false
      let (w, r) := s1.stamps a.key
      if s1.homePoison a.key a.key.line (s.lineLen a.key) then
        some ((s1.joinGrp a.grp w).finishAcc a [] fun _ => true)
      else
        let run := runAtoms a.els (s1.lineData a.key)
        let wts := nextWts (max (s.timeOf a.grp) w) w r
        let s2 := ((s1.putHome a run.mem wts 0).updateCopies a run.mem wts).joinGrp a.grp wts
        let s3 := (s2.noteEls a.key a.els wts).mapWord a.word fun x => { x with flags := x.flags ++ run.flags }
        some (((s3.capLoad a).capAccDo a).finishAcc a run.got fun _ => false)
  else none

/-! ## Scratchpad (R249, R252) -/

/-- SP-ACCESS: a scratchpad access with no overlapping entry of the range scoreboard (R249, R261). -/
def State.spAccess (s : State) (a : Access) : Option State :=
  let write := !a.isLoad
  if a.cls == .scratch && s.mayPerform a && !(a.els.any fun e => s.spHeld a.key.tn e.pa e.len write) then
    let s0 := s.catchUp a.grp a.tn
    if write then
      let s1 := a.els.foldl (fun s e => match e.op with | .store d => s.spWrite a.key.tn e.pa d | _ => s) s0
      some (s1.finishAcc a [] fun _ => false)
    else
      some (s0.finishAcc a (readEls (fun o n => s.spRead a.key.tn o n) a.els) fun e => s.spPoison a.key.tn e.pa e.len)
  else none

/-! ## Host and peer accesses (R246, R250, R253) -/

/-- The queue entry of a host or peer write; an atomic that returns a value names its word. -/
def State.queued (s : State) (a : Access) : QEnt :=
  { id := a.id, seq := a.seq, els := a.els, vpn := a.vpn, ea := a.va,
    word := match s.word? a.word with | some w => (match w.kind with | .atomic .. => w.id | _ => 0) | none => 0, hp := a.hp }

/-- ENQUEUE-HOST: a host store enters the group's posted-write queue. -/
def State.enqueueHost (s : State) (a : Access) : Option State :=
  if a.kind == .store && a.cls == .host && s.mayPerform a then
    some (((s.missed a).mapGrp a.grp fun g => { g with hostQ := g.hostQ ++ [s.queued a] }).finishAcc a [] fun _ => false)
  else none

/-- ENQUEUE-PEER: a peer store or atomic enters the group's FIFO for that device. -/
def State.enqueuePeer (s : State) (a : Access) : Option State :=
  match a.cls with
  | .peer d =>
    if !a.isLoad && a.kind != .pref && s.mayPerform a then
      some (((s.missed a).mapGrp a.grp fun g => { g with peerQ := g.peerQ ++ [(d, s.queued a)] }).finishAcc a [] fun _ => false)
    else none
  | _ => none

/-- The memory of a peer device. -/
def State.peerMem (s : State) (d : Nat) : Memory := ((s.dev.peers.find? (·.1 == d)).map (·.2)).getD []

/-- Sets the memory of a peer device. -/
def State.setPeer (s : State) (d : Nat) (m : Memory) : State :=
  s.onDev fun v => { v with peers := (d, m) :: v.peers.filter (·.1 != d) }

/-- Whether a peer answers no request any more: a device outside the load-store domain that firmware has formed at boot (R277), or
one to which no route has remained (R306). -/
def State.peerGone (s : State) (d : Nat) : Bool := !s.dev.domain.contains d || s.dev.refused.contains d

/-- Whether an MPL port leads to a peer: without one its traffic stands still until it is found unreachable (R306). -/
def State.linked (s : State) (d : Nat) : Bool := s.dev.routes.any (·.2 == d)

/-- Whether requests to a peer perform now. -/
def State.reaches (s : State) (d : Nat) : Bool := s.linked d && !s.peerGone d

/-- DRAIN-HOST: the oldest posted write performs in host memory. -/
def State.drainHost (s : State) (grp : Nat) : Option State :=
  (s.grp? grp).bind fun g => match g.hostQ with
    | [] => none
    | q :: rest =>
      some ((((s.onDev fun d => { d with host := storeEls d.host q.els }).mapGrp grp fun g => { g with hostQ := rest }).catchUp grp
        g.tn).meter g.tn 6 (elBytes q.els))

/-- The old values that a peer's atomics return, recorded or replayed under capture (R303). -/
def State.capOld (s : State) (g : Group) (q : QEnt) (got : List (Nat × Nat × List Byte)) : State × List (Nat × Nat × List Byte) :=
  got.foldl (fun r x =>
    let p := r.1.capRemote g q.seq (q.ea + x.1) x.2.2
    (p.1, r.2 ++ [(x.1, x.2.1, p.2)])) (s, [])

/-- Whether a queue entry holds an atomic. -/
def QEnt.atomic (q : QEnt) : Bool := q.els.any fun e => match e.op with | .atomic .. => true | _ => false

/-- The line of a queue entry, at which its atomics are ordered under capture (R303). -/
def QEnt.line (q : QEnt) : Nat := elsLo q.els / 128 * 128

/-- DRAIN-PEER: the oldest entry of a peer FIFO performs at the peer; an atomic's old values return, and under capture its order is
recorded or followed (R246, R249, R303). -/
def State.drainPeer (s : State) (grp peer : Nat) : Option State :=
  (s.grp? grp).bind fun g => (g.peerQ.find? (·.1 == peer)).bind fun q =>
    if !s.reaches peer || (q.2.atomic && !s.capMay g q.2.line q.2.seq) then none
    else
      let run := runAtoms q.2.els (s.peerMem peer)
      let s0 := ((if q.2.atomic then s.capDo g q.2.line q.2.seq else s).setPeer peer run.mem).catchUp grp g.tn
      let s1 := s0.mapGrp grp fun g => { g with peerQ := g.peerQ.erase q }
      let r := s1.capOld g q.2 run.got
      some ((r.1.mapWord q.2.word fun w => { w with got := w.got ++ r.2, flags := w.flags ++ run.flags }).meter g.tn 7
        (elBytes q.2.els))

/-- The values of a host or peer read, recorded or replayed under capture (R303). -/
def State.remoteGot (s : State) (a : Access) (m : Memory) : State × List (Nat × Nat × List Byte) :=
  match s.grp? a.grp with
  | none => (s, readEls (fun pa n => m.getList pa n) a.els)
  | some g => a.els.foldl (fun r e =>
      let p := r.1.capRemote g a.seq (a.va + e.pa - a.pa) (m.getList e.pa e.len)
      (p.1, r.2 ++ [(e.lane, e.part, p.2)])) (s, [])

/-- READ-HOST: a host load takes its value from host memory. -/
def State.readHost (s : State) (a : Access) : Option State :=
  if a.isLoad && a.cls == .host && s.mayPerform a then
    let r := ((s.missed a).catchUp a.grp a.tn).remoteGot a s.dev.host
    some ((r.1.meter a.tn 6 (elBytes a.els)).finishAcc a r.2 fun _ => false)
  else none

/-- READ-PEER: a peer load takes its value at its home in the peer. -/
def State.readPeer (s : State) (a : Access) : Option State :=
  match a.cls with
  | .peer d =>
    if a.isLoad && s.reaches d && s.mayPerform a then
      let r := ((s.missed a).catchUp a.grp a.tn).remoteGot a (s.peerMem d)
      some ((r.1.meter a.tn 7 (elBytes a.els)).finishAcc a r.2 fun _ => false)
    else none
  | _ => none

/-- A host or peer completion error: the access ends, its lanes receive nothing, and REMOTE_ERROR is held pending with
the failing address (R154). -/
def State.remoteError (s : State) (id : Nat) : Option State :=
  match s.acc? id with
  | some a =>
    if a.isLoad && s.mayPerform a && (match a.cls with | .host => true | .peer _ => true | _ => false) then
      let fails := maskOf fun l => a.els.any (·.lane == l)
      let s1 := (s.mapWord a.word fun w => { w with fails := w.fails ||| fails }).mapGrp a.grp
        (·.pending .remoteError (BitVec.ofNat 64 a.va))
      some (s1.finishAcc a [] fun _ => false)
    else none
  | none =>
    (s.allGroups.find? fun g => (g.hostQ.head?.any (·.id == id)) || g.peerQ.any (·.2.id == id)).map fun g =>
      let q := (g.hostQ ++ g.peerQ.map (·.2)).find? (·.id == id)
      let ea := (q.map (·.ea)).getD 0
      let wd := (q.map (·.word)).getD 0
      let fails := maskOf fun l => (q.map (·.els)).any fun els => els.any (·.lane == l)
      (s.mapWord wd fun w => { w with fails := w.fails ||| fails }).mapGrp g.id fun g =>
        { g with hostQ := g.hostQ.filter (·.id != id), peerQ := g.peerQ.filter (·.2.id != id) }.pending .remoteError
          (BitVec.ofNat 64 ea)

/-! ## Flash (R153, R241) -/

/-- The data that lanes wait for has arrived: their set waits for its condition alone (R153). -/
def State.dataFor (s : State) (wd : Nat) : State :=
  s.mapGrps fun g => { g with sets := g.sets.map fun p => { p with data := p.data.filter (· != wd) } }

/-- The lanes of a flash word are ready when the data of all of them has arrived. -/
def State.flashWake (s : State) (wd : Nat) : State :=
  if s.flow.accs.any (fun a => a.word == wd && a.cls == .flash) then s
  else s.dataFor wd

/-- Flash data arrives: the L1 may hold the line, and the lanes that waited for it become ready. -/
def State.flashData (s : State) (a : Access) : Option State :=
  if a.isLoad && a.cls == .flash && s.mayPerform a then
    let x : L1Line := { key := a.key, pa := a.key.line, data := s.dev.flash.range a.key.line (a.key.line + 128), wts := 0,
                        lease := 0, rts := 0, excl := false, flash := true, stamp := 0 }
    let s1 := if a.kind == .stream then s else s.l1Put a.core x
    let s2 := (s1.missed a).meter a.tn 8 128
    some (((s2.capLoad a).finishAcc a (readEls (fun pa n => s.dev.flash.getList pa n) a.els) fun _ => false).flashWake a.word)
  else none

/-! ## The arrival of a load (R150, R154, R156, R161, R165) -/

/-- The bytes that a lane received for one part of its value. -/
def PendWord.part (w : PendWord) (l p : Nat) : List Byte := ((w.got.find? fun x => x.1 == l && x.2.1 == p).map (·.2.2)).getD []

/-- The plane-read value of a lane: element bit 7−p is bit (e mod 8) of the byte that region p gave it; `part` 8 holds
the element's bit number and `part` 9 its scale slot (R58, R59, R161). -/
def planeInt (k bit : Nat) (byteOf : Nat → List Byte) : Int :=
  let v := (List.range k).foldl (fun a p => a + (leNat (byteOf p) / 2 ^ bit % 2) * 2 ^ (7 - p)) 0
  let t : Int := if v ≥ 128 then (v : Int) - 256 else v
  t / 2 ^ (8 - k)

/-- A dequantised plane read: t · 2^(8−k) · s as f32 (R161); an invalid slot gives the canonical NaN (R62). -/
def planeF32 (mode : BitVec 8) (k : Nat) (t : Int) (slot : Option Nat) : Nat × Flags :=
  let r := fun (sm : Nat) (se : Int) =>
    f32.roundV (rmOf mode) (fzOf mode) false (decide (t < 0)) (t.natAbs * 2 ^ (8 - k) * sm) se
  match slot with
  | none => r 1 0
  | some x => match s20Value x with
    | some (m, e) => r m e
    | none => (f32.nan, fSI)

/-- What the lanes of a word are about to write to their registers: a value and the exceptions of each lane. The manual does not
say which sr.fmode a dequantising plane read rounds and traps under when it is written between issue and arrival: the model
takes the one at LOAD_WRITEBACK (DESIGN CHOICE, log 85). -/
def PendWord.result (w : PendWord) (g : Group) (l : Nat) : List Byte × Flags :=
  match w.kind with
  | .planes _ k deq =>
    let bit := leNat (w.part l 8)
    let t := planeInt k bit (w.part l)
    if deq then
      let r := planeF32 g.fmode k t (if (w.part l 9).isEmpty then none else some (leNat (w.part l 9)))
      (leBytes r.1 4, r.2)
    else (leBytes (BitVec.ofInt 32 t).toNat 4, 0)
  | .atomic _ _ true => (w.part l 0, ((w.flags.filter (·.1 == l)).foldl (fun a x => a ||| x.2) 0))
  | _ => (w.part l 0, 0)

/-- The register, size and extension of a word's result. -/
def WKind.dest : WKind → Option (Nat × Nat × Bool)
  | .load d n sg => some (d, n, sg)
  | .planes d _ _ => some (d, 4, false)
  | .atomic d n _ => some (d, n, false)
  | _ => Option.none

/-- Whether every access of a word has performed and every queued atomic of it has returned. -/
def State.arrived (s : State) (w : PendWord) : Bool :=
  !s.flow.accs.any (·.word == w.id) && !s.allGroups.any fun g => g.peerQ.any (·.2.word == w.id)

/-- LOAD_WRITEBACK: the values reach the registers, and the counter falls. The exceptions of a dequantising plane read or
of `fadd` go to sr.fflags first; an enabled one keeps every lane's register and is held pending with the mask of the
lanes that raised it (R161, R165). -/
def State.loadWriteback (s : State) (w : PendWord) : Option State :=
  match w.kind.dest with
  | none => none
  | some (d, n, sg) =>
    if !s.arrived w then none
    else
      let m := w.mask &&& ~~~w.fails
      let s1 := s.mapGrp w.grp fun g =>
        let all := flagsOf m fun l => (w.result g l).2
        let en := all.enabled g.fmode
        let g1 := g.setFlags all
        if en = 0 then (lanesOf m).foldl (fun h l => putLoaded h d l n sg (w.result g l).1) g1
        else
          let i := en.first
          g1.pending (fpCause i) ((maskOf fun l => inMask m l && ((w.result g l).2).getLsbD i).setWidth 64)
      if w.away = 0 then some ((s1.onFlow fun f => { f with words := f.words.filter (·.id != w.id) }).complete w.grp w.ctr)
      else some (s1.mapWord w.id fun w => { w with kind := .none, mask := 0 })

/-- The lanes of the current path issue again a load word that they have left, or leave it for good: with the last of them the
word's counter is its accesses' alone (R153). -/
def State.settleOne (s : State) (t : Nat) : State :=
  match s.flow.words.find? fun w => w.ticket == t && w.grp == s.cur.id && w.away != 0 with
  | none => s
  | some w =>
    if w.away = 1 && w.kind == .none then (s.onFlow fun f => { f with words := f.words.filter (·.id != w.id) }).complete w.grp w.ctr
    else s.mapWord w.id fun w => { w with away := w.away - 1 }

/-- Every load word that the current path owes is settled. -/
def State.settleOwed (s : State) : State :=
  (s.cur.path.owed.foldl State.settleOne s).onCur fun g => { g with path := { g.path with owed := [] } }

/-! ## Recall, time, monitors, recovery -/

/-- Whether an access at a line calls it back from its owner: one of another core, one that does not perform in the owner's L1, or
one that finds the line on its way home (R249, R254, R255). -/
def State.callsBack (s : State) (k : HomeKey) (owner : Nat) (a : Access) : Bool :=
  a.cls == .device && a.key == k && (a.core != owner || !(a.isLoad || a.kind == .crewAtomic || a.kind == .pref) || !s.ownsAll a)

/-- RECALL: another agent's access meets a line that a core holds exclusively; an arriving write-back answers for an owner
that is evicting the line (R249, R255). The steps that are no access of a lane recall a line as they reach it. -/
def State.recall (s : State) (k : HomeKey) : Option State :=
  (s.ownerOf k).bind fun c =>
    if s.flow.wbs.any (·.key == k) || s.flow.accs.any (s.callsBack k c) then some (s.recallNow k) else none

/-- Whether a group holding a slot is not blocked: some lane of it runs or is ready (R38, R247). -/
def Group.unblocked (g : Group) : Bool := g.path.mask != 0 || g.sets.any PSet.ready

/-- TICK: one of the 64-cycle ends that a group has met (R247). -/
def State.tick (s : State) (grp : Nat) : Option State :=
  (s.grp? grp).bind fun g =>
    if g.due = 0 then none else some (s.mapGrp grp fun g => { g with due := g.due - 1, ltime := g.ltime + 1 })

/-- WAKE: the blocked set of a monitor whose condition was met becomes ready; its group joins the write's wts (R249,
R257). -/
def State.wakeMon (s : State) (id : Nat) : Option State :=
  (s.flow.mons.find? (·.id == id)).bind fun m => m.met.bind fun t =>
    match s.grp? m.grp with
    | none => some (s.onFlow fun f => { f with mons := f.mons.filter (·.id != id) })
    | some g =>
      if s.capMay g m.loc.key.line 0 then
        let s1 := (s.capDo g m.loc.key.line 0).mapGrp m.grp fun g => (g.join t).wake fun p => p.cond == .monitor id
        some (s1.onFlow fun f => { f with mons := f.mons.filter (·.id != id) })
      else none

/-- One read of a word outside a lane's accesses: its value with the group's time joined as RENEW or as a base-die load, and
the error that answers in its place; nothing while the line is claimed. A line held exclusively is recalled first (R154, R170,
R180, R249, R254). -/
def State.readWord (s : State) (g : Group) (l : Loc) (n : Nat) : Option (State × List Byte × Option Cause) :=
  let poison := fun (b : Bool) => if b then some Cause.poison else none
  match l.cls with
  | .device =>
    if !s.open_ l.key then none
    else
      let s0 := (s.recallNow l.key).allocate l.key
      let (w, _) := s0.stamps l.key
      let t := max g.ltime w
      let lease := if (s.liveBasin l.key.tn l.key.bs).isSome then t + 16 else t
      let s1 := (s0.joinGrp g.id t).mapHome l.key fun h => { h with rts := max h.rts lease }
      some (s1, s0.homeBytes l.key l.pa n, poison (s0.homePoison l.key l.pa n))
  | .host =>
    if s.flow.errs.contains g.id then some (s.onFlow fun f => { f with errs := f.errs.erase g.id }, [], some .remoteError)
    else some ((s.catchUp g.id g.tn).meter g.tn 6 n, s.dev.host.getList l.pa n, none)
  | .peer d =>
    if s.peerGone d then some (s, [], some .remoteError)
    else if !s.linked d then none
    else some ((s.catchUp g.id g.tn).meter g.tn 7 n, (s.peerMem d).getList l.pa n, none)
  | .flash => some (s.meter g.tn 8 128, s.dev.flash.getList l.pa n, none)
  | .scratch => some (s.catchUp g.id g.tn, s.spRead l.key.tn l.pa n, poison (s.spPoison l.key.tn l.pa n))

/-- A poll takes RENEW: the word's L1 line is filled or extended (R249, R257). -/
def State.renewWord (s : State) (g : Group) (l : Loc) : State :=
  if l.cls != .device then s
  else match s.home? l.key, s.liveBasin l.key.tn l.key.bs, s.grp? g.id with
    | some h, some _, some g' =>
      let c := l.pa / s.chunkLen l.key * s.chunkLen l.key
      (s.renewCopy g'.core l.key h g'.ltime c).fillSibling g'.core g'.ltime l.key
    | _, _, _ => s

/-- A value read from host or peer memory, or the first read of a page, under capture (R303). -/
def State.capWord (s : State) (g : Group) (seq : Nat) (l : Loc) (bs : List Byte) : State × List Byte :=
  match l.cls with
  | .device | .flash => (s.capPage g l.cls l.key l.pa l.vpn, bs)
  | .host | .peer _ => s.capRemote g seq l.va bs
  | _ => (s, bs)

/-- The access counter of a line that a word reads outside a lane's accesses in mode U, when it misses the L1 (R243). -/
def State.countRead (s : State) (g : Group) (l : Loc) : State :=
  if g.mode == .u && !l.pin && (s.validCopy g.core g.ltime l.key l.pa).isNone then s.countAccess g.core g.tn (l.va % 2 ^ 48) else s

/-- The entries of the monitor table of a line's slice (R170). -/
def State.monitorsIn (s : State) (k : HomeKey) : Nat :=
  match s.liveBasin k.tn k.bs with
  | some b => s.flow.mons.countP fun m =>
      m.table && m.loc.key.tn == k.tn && m.loc.key.bs == k.bs && b.bankOf false m.loc.key.line == b.bankOf false k.line
  | none => 256

/-- The monitor of a set, charged with a failed check of its reload: the path comes back to its word with the fault. -/
def PSet.failMon (id : Nat) (c : Cause) (a : DWord) (p : PSet) : PSet :=
  if p.cond == .monitor id then { p with cond := .fault c a } else p

/-- The request of a plain load (R152). -/
def rqLoad : XReq := ⟨false, false, false, false, fun _ _ => true⟩

/-- MONITOR_POLL: a monitor that its path holds reloads the word every 4,096 cycles, through the checks of R152; chg compares
with the value at arming (R170). One that is to be armed again goes back to its line's table if that has room (R171). A reload
that meets poison or an error holds the cause pending with the word's address (R154); R170 does not say whether the path goes on
then, and the model leaves it blocked, to reload again (DESIGN CHOICE, log 24). A reload that ends the wait is a
monitor wake, whose order capture records and replay follows (R303). -/
def State.pollMon (s : State) (id : Nat) : Option State :=
  (s.flow.mons.find? (·.id == id)).bind fun m =>
    if m.table || s.dev.cycle < m.poll then none
    else (s.grp? m.grp).bind fun g =>
      let mode := ((g.sets.find? (·.cond == .monitor id)).map (·.path.tag.mode)).getD g.mode
      let h := { g with mode := mode }
      let gone := fun (f : Flow) => { f with mons := f.mons.filter (·.id != id) }
      match s.xcheck h rqLoad m.ea 4 with
      | .fail c a => some ((s.mapGrp m.grp fun g => { g with sets := g.sets.map (·.failMon id c a) }).onFlow gone)
      | .ok l =>
        (((s.xuse h [.ok l]).countRead h l).readWord g l 4).bind fun r =>
          let p := if r.2.2.isSome then (r.1, r.2.1) else r.1.capWord g 0 l r.2.1
          let w := wordVal p.2
          let s1 := match r.2.2 with
            | some c => p.1.mapGrp m.grp (·.pending c m.ea)
            | none => p.1.renewWord g l
          if r.2.2.isNone && (if m.cond = .chg then w != m.w else m.cond.holds w m.x) then
            if s.capMay g l.key.line 0 then
              some (((s1.capDo g l.key.line 0).mapGrp m.grp (·.wake fun p => p.cond == .monitor id)).onFlow gone)
            else none
          else
            let here := m.rearm && r.2.2.isNone && l.cls == .device && decide (s1.monitorsIn l.key < 256)
            some <| s1.onFlow fun f => { f with mons := f.mons.map fun x =>
              if x.id == id then { x with loc := l, table := here, rearm := m.rearm && r.2.2.isSome, poll := s.dev.cycle + 4096 }
              else x }
      | r => some ((s.xfill h [r]).xask h [r])

/-- The largest timestamp that any slice of a basin on a die holds (R259). -/
def State.largest (s : State) (tn bs : Nat) : Nat :=
  (s.flow.sums.filter fun p => p.tn == tn && p.bs == bs).foldl (fun m p => max m (max p.wts p.rts))
    ((s.flow.homes.filter fun h => h.key.tn == tn && h.key.bs == bs).foldl (fun m h => max m (max h.wts h.rts)) 0)

/-- RECOVER: a home entry whose timestamps or owner slot are lost is rebuilt (R259). -/
def State.recover (s : State) (k : HomeKey) : Option State :=
  match s.home? k with
  | none => none
  | some _ =>
    if !s.entryLost k then none
    else
      let M := s.largest k.tn k.bs
      let die := ((s.liveBasin k.tn k.bs).map (·.defn.die)).getD (paDie k.line)
      let mine := s.cores.filter fun c => dieOf c.num == die && (s.tenant k.tn).quads.contains (c.num / 4)
      let n := s.chunkLen k
      let back := (mine.flatMap fun c => c.l1.filter fun x => x.excl && x.key == k) ++
        (s.flow.wbs.filter (·.key == k)).map fun w =>
          ({ key := k, pa := w.pa, data := w.data, wts := w.wts, lease := 0, rts := w.rts, excl := true, flash := false,
             stamp := 0 } : L1Line)
      let owners := (mine.filter fun c => c.l1.any fun x => x.excl && x.key == k).length
      let memory := s.hbm.range k.line (k.line + s.lineLen k)
      let one := owners = 1 || (owners = 0 && !back.isEmpty)
      let bad := if one then
          s.dev.poison.contains (.basin k) ||
            mine.any fun c => c.l1.any fun x => x.excl && x.key == k && s.dev.poison.contains (.l1 c.num x.pa)
        else (unitsOf k.line (s.lineLen k)).any fun u => s.dev.poison.contains (.hbm (u * 32))
      let data := if one then back.foldl (fun d x => d.copyRange x.data x.pa (x.pa + n)) memory else memory
      let here := fun (c : Core) => dieOf c.num == die && (s.tenant k.tn).quads.contains (c.num / 4)
      let drop := fun (c : Core) => if here c then { c with l1 := c.l1.filter (·.key != k) } else c
      let s1 := { s with cores := s.cores.map drop }
      let s2 := s1.onFlow fun f => { f with wbs := f.wbs.filter (·.key != k) }
      let s3 := s2.mapHome k fun h => { h with data := if k.bs = 15 then [] else data, wts := M, rts := M, owner := none,
                                               dirty := one }
      let lost := mine.flatMap fun c => (c.l1.filter (·.key == k)).map fun x => Place.l1 c.num x.pa
      let keep := fun (p : Place) => p != .homeEntry k && p != .basin k && !lost.contains p
      let sound := { s3.dev with poison := s3.dev.poison.filter keep }
      let s4 := { s3 with dev := if bad && k.bs != 15 then sound.addPoison (.basin k) else sound }
      some (s4.event k.tn .rasHomeLost (BitVec.ofNat 64 k.line))

/-! ## The events -/

/-- A load takes whichever of its steps it can (R249). -/
def State.loadAny (s : State) (a : Access) : Option State :=
  s.performLoad a <|> s.renew a <|> s.streamLoad a <|> s.baseDie a <|> s.readHost a <|> s.readPeer a <|> s.flashData a

/-- Whether a word's loads perform in one step: those of a dequantising plane read, whose scale slots are read in the same step as its
planes (R161). -/
def WKind.oneStep : WKind → Bool
  | .planes _ _ deq => deq
  | _ => false

/-- The step of an access, with those of its word's other loads where the word reads in one step; it waits until all of them can
perform (R161; DEDUCED, log 96). -/
def State.together (f : State → Access → Option State) (s : State) (a : Access) : Option State :=
  (f s a).bind fun s1 =>
    if (s.word? a.word).any (·.kind.oneStep) then
      (s1.flow.accs.filter (·.word == a.word)).foldl (fun r b => r.bind fun s => s.loadAny b) (some s1)
    else some s1

/-- Looks up an access for a step of the ordering machine. -/
def onAcc (id : Nat) (f : State → Access → Option State) (s : State) : Host.Outcome State Fault Refusal :=
  stepWhen s ((s.acc? id).bind (f s))

/-- PERFORM_LOAD (R249). -/
def execPerformLoad (a : Nat) (s : State) : Host.Outcome State Fault Refusal := onAcc a (State.together State.performLoad) s
/-- RENEW (R249). -/
def execRenew (a : Nat) (s : State) : Host.Outcome State Fault Refusal := onAcc a (State.together State.renew) s
/-- STREAM_LOAD (R249). -/
def execStreamLoad (a : Nat) (s : State) : Host.Outcome State Fault Refusal := onAcc a (State.together State.streamLoad) s
/-- PREFETCH (R249). -/
def execPrefetch (a : Nat) (s : State) : Host.Outcome State Fault Refusal := onAcc a State.prefetch s
/-- BASE_DIE_ACCESS (R249). -/
def execBaseDieAccess (a : Nat) (s : State) : Host.Outcome State Fault Refusal := onAcc a (State.together State.baseDie) s
/-- PERFORM_STORE (R249). -/
def execPerformStore (a : Nat) (s : State) : Host.Outcome State Fault Refusal := onAcc a State.performStore s
/-- PERFORM_ATOMIC (R249). -/
def execPerformAtomic (a : Nat) (excl : Bool) (s : State) : Host.Outcome State Fault Refusal :=
  onAcc a (fun s x => s.performAtomic x excl) s
/-- RECALL (R249). -/
def execRecall (k : HomeKey) (s : State) : Host.Outcome State Fault Refusal := stepWhen s (s.recall k)
/-- SP_ACCESS (R249). -/
def execSpAccess (a : Nat) (s : State) : Host.Outcome State Fault Refusal := onAcc a State.spAccess s
/-- ENQUEUE_HOST (R249). -/
def execEnqueueHost (a : Nat) (s : State) : Host.Outcome State Fault Refusal := onAcc a State.enqueueHost s
/-- ENQUEUE_PEER (R249). -/
def execEnqueuePeer (a : Nat) (s : State) : Host.Outcome State Fault Refusal := onAcc a State.enqueuePeer s
/-- DRAIN_HOST (R249). -/
def execDrainHost (grp : Nat) (s : State) : Host.Outcome State Fault Refusal := stepWhen s (s.drainHost grp)
/-- DRAIN_PEER (R249). -/
def execDrainPeer (grp peer : Nat) (s : State) : Host.Outcome State Fault Refusal := stepWhen s (s.drainPeer grp peer)
/-- READ_HOST (R249). -/
def execReadHost (a : Nat) (s : State) : Host.Outcome State Fault Refusal := onAcc a (State.together State.readHost) s
/-- READ_PEER (R249). -/
def execReadPeer (a : Nat) (s : State) : Host.Outcome State Fault Refusal := onAcc a (State.together State.readPeer) s
/-- WAKE (R249). -/
def execWake (m : Nat) (s : State) : Host.Outcome State Fault Refusal := stepWhen s (s.wakeMon m)
/-- TICK (R247). -/
def execTick (grp : Nat) (s : State) : Host.Outcome State Fault Refusal := stepWhen s (s.tick grp)
/-- RECOVER (R259). -/
def execRecover (k : HomeKey) (s : State) : Host.Outcome State Fault Refusal := stepWhen s (s.recover k)
/-- LOAD_WRITEBACK (R156). -/
def execLoadWriteback (wd : Nat) (s : State) : Host.Outcome State Fault Refusal :=
  stepWhen s ((s.word? wd).bind s.loadWriteback)
/-- FLASH_DATA (R153): for a line of a load, or for the elements of a `cpy` in flight. -/
def execFlashData (a : Nat) (s : State) : Host.Outcome State Fault Refusal :=
  if s.flow.xfers.any (·.id == a) then .next (s.dataFor a) else onAcc a (State.together State.flashData) s
/-- MONITOR_POLL (R170). -/
def execMonitorPoll (m : Nat) (s : State) : Host.Outcome State Fault Refusal := stepWhen s (s.pollMon m)

end Sys2Proof.Machine
end

