-- ==== Sys2Proof/Machine/Mem.lean ====
section
/-!
DEFINITION. The memory words: loads and stores (R159), scratchpad loads and stores (R160), plane reads (R161), atomics
(R162 to R165), fences (R166) and prefetch (R167), over one operation that issues a word's accesses (R155, R156, R249).
-/

namespace Sys2Proof.Machine

/-! ## Issuing accesses -/

/-- One element of a word at issue: its lane, its part of the lane's value, its place, its length, what it does. -/
structure Part where
  lane : Nat
  part : Nat
  loc  : Loc
  len  : Nat
  op   : ElOp
  deriving DecidableEq, Repr

/-- The line in which an element stands: that of its home, or 128 bytes of a crew's scratchpad. -/
def Part.line (p : Part) : Cls × HomeKey :=
  (p.loc.cls, if p.loc.cls = .scratch then ⟨p.loc.key.tn, 15, p.loc.pa / 128 * 128⟩ else p.loc.key)

/-- A part as an element of its access. -/
def Part.el (p : Part) : El := ⟨p.lane, p.part, p.loc.pa, p.len, p.op⟩

/-- Lines without repeats, in the order of their first element. -/
def linesIn (ps : List Part) : List (Cls × HomeKey) :=
  ps.foldl (fun a p => if a.contains p.line then a else a ++ [p.line]) []

/-- The access of a word to one line. A crew-scope atomic on a page with MS = 1 or of a peer acts as a device-scope one
(R163). -/
def State.accessOf (s : State) (wd id : Nat) (ak : AKind) (k : Cls × HomeKey) (ps : List Part) : Access :=
  let mine := ps.filter (·.line == k)
  let l : Loc := (mine.head?.map (·.loc)).getD ⟨k.1, k.2, 0, 0, 0, false, false, 0, 0⟩
  { id := id, word := wd, grp := s.cur.id, core := s.cur.core, tn := s.cur.tn, seq := s.cur.seq + 1,
    lanes := maskOf fun i => mine.any (·.lane == i), kind := if ak = .crewAtomic ∧ l.ms then .atomic else ak,
    cls := k.1, key := k.2, pa := l.pa, els := mine.map Part.el, vpn := l.vpn, user := s.cur.mode == .u, pin := l.pin,
    va := l.va, hp := l.hp }

/-- ISSUE (R249): the word's accesses, one to each line, enter the streams of its lanes, its counter rises, and it is in
flight until it completes (R156). Lanes that wait for flash data leave the path after the chain (R153). -/
def State.issueWord (s : State) (kind : WKind) (ctr : Option Counter) (ak : AKind) (m : Mask)
    (got : List (Nat × Nat × List Byte)) (ps : List Part) : State :=
  let wd := s.fresh
  let lines := linesIn ps
  let accs := lines.mapIdx fun i k => s.accessOf wd (wd + 1 + i) ak k ps
  let w : PendWord := { id := wd, grp := s.cur.id, seq := s.cur.seq + 1, kind := kind, ctr := ctr.getD .ld, mask := m,
                        got := got, fails := 0, flags := [], ticket := 0, away := 0 }
  let late := maskOf fun l => ps.any fun p =>
    p.lane == l && p.loc.cls == .flash && ak != .pref && (s.validCopy s.cur.core s.cur.ltime p.loc.key p.loc.pa).isNone
  let s1 := s.onFlow fun f => { f with accs := f.accs ++ accs, words := if accs.isEmpty then f.words else f.words ++ [w] }
  let s2 := s1.onCur fun g => match ctr with
    | some c => { g.raise c with seq := g.seq + 1 }
    | none => { g with seq := g.seq + 1 }
  { s2 with fresh := wd + 1 + lines.length,
            ctx := if late = 0 then s2.ctx else { s2.ctx with leave := s2.ctx.leave ++ [(late, wd)] } }

/-- A load word some of whose lanes left under a ticket keeps ld raised for them (R153): the word itself, if it has issued
any access, or else a word with no lane left. -/
def State.oweLoad (s : State) (t : Nat) (issued : Bool) : State :=
  let n := s.cur.sets.countP (·.path.owed == [t])
  if n = 0 then s
  else if issued then
    s.onFlow fun f => { f with words := (mapLast (fun _ => true) (fun (w : PendWord) => { w with ticket := t, away := n }) f.words).getD f.words }
  else
    let w : PendWord := { id := s.fresh, grp := s.cur.id, seq := s.cur.seq, kind := .none, ctr := .ld, mask := 0, got := [],
                          fails := 0, flags := [], ticket := t, away := n }
    { (s.onFlow fun f => { f with words := f.words ++ [w] }).onCur (·.raise .ld) with fresh := s.fresh + 1 }

/-- A memory word: a counter at 63 holds back its chain (R156); then the checks of R152 on each lane of P, and its
accesses. -/
def State.memWord (s : State) (ctr : Counter) (P : Mask) (chk : Nat → List XRes)
    (go : Mask → List (Nat × List Loc) → State → State) : State :=
  if s.cur.ctr ctr ≥ 63 then s.stallChain
  else
    let s1 := s.xword (if ctr = .ld then [s.fresh] else []) ((lanesOf P).map fun l => (l, chk l)) fun ls s =>
      go (maskOf fun l => ls.any (·.1 == l)) ls s
    if ctr = .ld then s1.oweLoad s.fresh (decide (s.flow.words.length < s1.flow.words.length)) else s1

/-- The request of a plain store (R152). -/
def rqStore : XReq := ⟨true, false, false, false, fun _ _ => true⟩
/-- An atomic accepts plain pages of TY HBM or peer (R162). -/
def rqAtomic : XReq := ⟨true, false, false, false, fun ty fm => fm == 0 && (ty == 0 || ty == 2)⟩
/-- A plane read accepts PI8 and PI8-B32 pages (R161). -/
def rqPlanes : XReq := ⟨false, false, false, false, fun _ fm => fm == 1 || fm == 2⟩
/-- A future or a record stands on a plain page of TY HBM (R179). -/
def rqPlain (write : Bool) : XReq := ⟨write, false, false, false, fun ty fm => ty == 0 && fm == 0⟩
/-- A prefetch is dropped where others fault (R167, R168). -/
def rqPref : XReq := ⟨false, false, false, true, fun _ _ => true⟩

/-! ## ld and st (R159), lds and sts (R160) -/

/-- A load of 1 to 16 bytes a lane. -/
def loadOp (i : Info) (d a o : BitVec 6) (size : Nat) (signed stream : Bool) (s : State) : Host.Outcome State Fault Refusal :=
  runWord i s fun P s =>
    s.memWord .ld P (fun l => [s.xcheck s.cur rqLoad (effAddr s.cur a o size l) size]) fun m ls s =>
      s.issueWord (.load d.toNat size signed) (some .ld) (if stream then .stream else .load) m []
        (ls.flatMap fun p => p.2.map fun x => ⟨p.1, 0, x, size, .load⟩)

/-- A store of 1 to 16 bytes a lane, its data read at issue. -/
def storeOp (i : Info) (d a o : BitVec 6) (size : Nat) (s : State) : Host.Outcome State Fault Refusal :=
  runWord i s fun P s =>
    s.memWord .st P (fun l => [s.xcheck s.cur rqStore (effAddr s.cur a o size l) size]) fun m ls s =>
      s.issueWord .store (some .st) .store m []
        (ls.flatMap fun p => p.2.map fun x => ⟨p.1, 0, x, size, .store (regBytes s.cur d.toNat p.1 size)⟩)

/-- A scratchpad load. -/
def ldsOp (i : Info) (d a o : BitVec 6) (size : Nat) (signed : Bool) (s : State) : Host.Outcome State Fault Refusal :=
  runWord i s fun P s =>
    s.memWord .ld P (fun l => [s.spCheck s.cur (spOff s.cur a o size l) size .align]) fun m ls s =>
      s.issueWord (.load d.toNat size signed) (some .ld) .load m []
        (ls.flatMap fun p => p.2.map fun x => ⟨p.1, 0, x, size, .load⟩)

/-- A scratchpad store. -/
def stsOp (i : Info) (d a o : BitVec 6) (size : Nat) (s : State) : Host.Outcome State Fault Refusal :=
  runWord i s fun P s =>
    s.memWord .st P (fun l => [s.spCheck s.cur (spOff s.cur a o size l) size .align]) fun m ls s =>
      s.issueWord .store (some .st) .store m []
        (ls.flatMap fun p => p.2.map fun x => ⟨p.1, 0, x, size, .store (regBytes s.cur d.toNat p.1 size)⟩)

/-- `ld.b8` (R159). -/
def execLdB8 (h : Hdr) (st : Bool) (d a o : BitVec 6) (s : State) : Host.Outcome State Fault Refusal :=
  loadOp (infoLdB8 h d a) d a o 1 false st s

/-- `ld.b8s` (R159). -/
def execLdB8s (h : Hdr) (st : Bool) (d a o : BitVec 6) (s : State) : Host.Outcome State Fault Refusal :=
  loadOp (infoLdB8s h d a) d a o 1 true st s

/-- `ld.b16` (R159). -/
def execLdB16 (h : Hdr) (st : Bool) (d a o : BitVec 6) (s : State) : Host.Outcome State Fault Refusal :=
  loadOp (infoLdB16 h d a) d a o 2 false st s

/-- `ld.b16s` (R159). -/
def execLdB16s (h : Hdr) (st : Bool) (d a o : BitVec 6) (s : State) : Host.Outcome State Fault Refusal :=
  loadOp (infoLdB16s h d a) d a o 2 true st s

/-- `ld.b32` (R159). -/
def execLdB32 (h : Hdr) (st : Bool) (d a o : BitVec 6) (s : State) : Host.Outcome State Fault Refusal :=
  loadOp (infoLdB32 h d a) d a o 4 false st s

/-- `ld.b64` (R159). -/
def execLdB64 (h : Hdr) (st : Bool) (d a o : BitVec 6) (s : State) : Host.Outcome State Fault Refusal :=
  loadOp (infoLdB64 h d a) d a o 8 false st s

/-- `ld.b128` (R159). -/
def execLdB128 (h : Hdr) (st : Bool) (d a o : BitVec 6) (s : State) : Host.Outcome State Fault Refusal :=
  loadOp (infoLdB128 h d a) d a o 16 false st s

/-- `st.b8` (R159). -/
def execStB8 (h : Hdr) (d a o : BitVec 6) (s : State) : Host.Outcome State Fault Refusal :=
  storeOp (infoStB8 h d a) d a o 1 s

/-- `st.b16` (R159). -/
def execStB16 (h : Hdr) (d a o : BitVec 6) (s : State) : Host.Outcome State Fault Refusal :=
  storeOp (infoStB16 h d a) d a o 2 s

/-- `st.b32` (R159). -/
def execStB32 (h : Hdr) (d a o : BitVec 6) (s : State) : Host.Outcome State Fault Refusal :=
  storeOp (infoStB32 h d a) d a o 4 s

/-- `st.b64` (R159). -/
def execStB64 (h : Hdr) (d a o : BitVec 6) (s : State) : Host.Outcome State Fault Refusal :=
  storeOp (infoStB64 h d a) d a o 8 s

/-- `st.b128` (R159). -/
def execStB128 (h : Hdr) (d a o : BitVec 6) (s : State) : Host.Outcome State Fault Refusal :=
  storeOp (infoStB128 h d a) d a o 16 s

/-- `lds.b8` (R160). -/
def execLdsB8 (h : Hdr) (d a o : BitVec 6) (s : State) : Host.Outcome State Fault Refusal :=
  ldsOp (infoLdsB8 h d a) d a o 1 false s

/-- `lds.b8s` (R160). -/
def execLdsB8s (h : Hdr) (d a o : BitVec 6) (s : State) : Host.Outcome State Fault Refusal :=
  ldsOp (infoLdsB8s h d a) d a o 1 true s

/-- `lds.b16` (R160). -/
def execLdsB16 (h : Hdr) (d a o : BitVec 6) (s : State) : Host.Outcome State Fault Refusal :=
  ldsOp (infoLdsB16 h d a) d a o 2 false s

/-- `lds.b16s` (R160). -/
def execLdsB16s (h : Hdr) (d a o : BitVec 6) (s : State) : Host.Outcome State Fault Refusal :=
  ldsOp (infoLdsB16s h d a) d a o 2 true s

/-- `lds.b32` (R160). -/
def execLdsB32 (h : Hdr) (d a o : BitVec 6) (s : State) : Host.Outcome State Fault Refusal :=
  ldsOp (infoLdsB32 h d a) d a o 4 false s

/-- `lds.b64` (R160). -/
def execLdsB64 (h : Hdr) (d a o : BitVec 6) (s : State) : Host.Outcome State Fault Refusal :=
  ldsOp (infoLdsB64 h d a) d a o 8 false s

/-- `lds.b128` (R160). -/
def execLdsB128 (h : Hdr) (d a o : BitVec 6) (s : State) : Host.Outcome State Fault Refusal :=
  ldsOp (infoLdsB128 h d a) d a o 16 false s

/-- `sts.b8` (R160). -/
def execStsB8 (h : Hdr) (d a o : BitVec 6) (s : State) : Host.Outcome State Fault Refusal :=
  stsOp (infoStsB8 h d a) d a o 1 s

/-- `sts.b16` (R160). -/
def execStsB16 (h : Hdr) (d a o : BitVec 6) (s : State) : Host.Outcome State Fault Refusal :=
  stsOp (infoStsB16 h d a) d a o 2 s

/-- `sts.b32` (R160). -/
def execStsB32 (h : Hdr) (d a o : BitVec 6) (s : State) : Host.Outcome State Fault Refusal :=
  stsOp (infoStsB32 h d a) d a o 4 s

/-- `sts.b64` (R160). -/
def execStsB64 (h : Hdr) (d a o : BitVec 6) (s : State) : Host.Outcome State Fault Refusal :=
  stsOp (infoStsB64 h d a) d a o 8 s

/-- `sts.b128` (R160). -/
def execStsB128 (h : Hdr) (d a o : BitVec 6) (s : State) : Host.Outcome State Fault Refusal :=
  stsOp (infoStsB128 h d a) d a o 16 s

/-! ## ldp (R161) -/

/-- The element index in its 64 KiB page (R59, R161). -/
def elemOf (ea : DWord) : Nat := vaOf ea % 65536

/-- The byte of region `p` that holds one bit of element `e`, as a page offset (R59). -/
def regionOff (e p : Nat) : Nat := p * 8192 + e / 8

/-- The address of the scale slot of an element: the shadow array of page P begins at P/8 + sr.soff (R60). -/
def slotAddr (soff : DWord) (ea : DWord) : DWord :=
  BitVec.ofNat 64 (((vaOf ea / 65536 * 65536) / 8 + (soff.toNat / 8192 * 8192) + 4 * (elemOf ea / 32)) % 2 ^ 64)

/-- The place of another byte of the same page. -/
def State.shift (s : State) (g : Group) (x : Loc) (ea' ea : DWord) : Loc :=
  let pa := x.pa + ea'.toNat - ea.toNat
  { x with pa := pa, va := ea'.toNat, vpn := vaOf ea' / 4096,
           key := if x.cls = .device then s.keyOf g.tn x.key.bs pa else ⟨x.key.tn, x.key.bs, pa / 128 * 128⟩ }

/-- The checks of a plane read in a lane: the element; each region's byte; the scale slot in its place when the element
passes (R161). On a host page each 4 KiB of the page has a translation of its own (R276). -/
def State.planeCheck (s : State) (g : Group) (k : Nat) (deq : Bool) (ea : DWord) : List XRes :=
  let e := elemOf ea
  let at_ := fun p => ea - BitVec.ofNat 64 e + BitVec.ofNat 64 (regionOff e p)
  match s.xcheck g rqPlanes ea 1 with
  | .ok x =>
    (if x.cls = .host then (List.range k).map fun p => s.xcheck g rqPlanes (at_ p) 1
     else (List.range k).map fun p => .ok (s.shift g x (at_ p) ea)) ++
    (if deq && x.fm == 2 then [s.xcheck g rqLoad (slotAddr (s.tenant g.tn).soff ea) 4] else [])
  | r => [r]

/-- A plane read (R161). The word issues the accesses of the planes and of the scale slots together; those of a dequantising one
perform in one step. -/
def planeOp (i : Info) (k : BitVec 3) (d a o : BitVec 6) (deq : Bool) (s : State) : Host.Outcome State Fault Refusal :=
  let n := k.toNat + 1
  runWord i s fun P s =>
    s.memWord .ld P (fun l => s.planeCheck s.cur n deq (effAddr s.cur a o 1 l)) fun m ls s =>
      s.issueWord (.planes d.toNat n deq) (some .ld) .load m
        (ls.map fun p => (p.1, 8, [BitVec.ofNat 8 (elemOf (effAddr s.cur a o 1 p.1) % 8)]))
        (ls.flatMap fun p => p.2.mapIdx fun j x => ⟨p.1, if j = n then 9 else j, x, if j = n then 4 else 1, .load⟩)

/-- `ldp.kN` (R161). -/
def execLdp (h : Hdr) (k : BitVec 3) (d a o : BitVec 6) (s : State) : Host.Outcome State Fault Refusal :=
  planeOp (infoLdp h d a) k d a o false s

/-- `ldp.kN.f32` (R161). -/
def execLdpF32 (h : Hdr) (k : BitVec 3) (d a o : BitVec 6) (s : State) : Host.Outcome State Fault Refusal :=
  planeOp (infoLdpF32 h d a) k d a o true s

/-! ## Atomics (R162) -/

/-- The operand of a lane, read at issue (R162). -/
def atomOp (g : Group) (fn : BitVec 4) (d : Nat) (l : Nat) : ElOp :=
  let rm := bits g.fmode 0 2
  let fz := g.fmode.getLsbD 2
  match fn.toNat with
  | 10 => .atomic fn ((g.getV d l).setWidth 64) ((g.getV (d + 1) l).setWidth 64) rm fz
  | 11 | 12 => .atomic fn (g.getV2 d l) 0 rm fz
  | 13 => .atomic fn (g.getV2 d l) (g.getV2 (d + 2) l) rm fz
  | _ => .atomic fn ((g.getV d l).setWidth 64) 0 rm fz

/-- An atomic word. `upd` and `updc` return old values and raise ld; `updn` raises st. -/
def atomicOp (i : Info) (fn : BitVec 4) (crew ret : Bool) (d a o : BitVec 6) (s : State) : Host.Outcome State Fault Refusal :=
  let size := atomSize fn
  let ctr : Counter := if ret then .ld else .st
  runWord i s fun P s =>
    s.memWord ctr P (fun l => [s.xcheck s.cur rqAtomic (effAddr s.cur a o size l) size]) fun m ls s =>
      s.issueWord (if ret then .atomic d.toNat size (fn == 1) else .store) (some ctr) (if crew then .crewAtomic else .atomic) m []
        (ls.flatMap fun p => p.2.map fun x => ⟨p.1, 0, x, size, atomOp s.cur fn d.toNat p.1⟩)

/-- `upd.add` (R162). -/
def execUpdAdd (h : Hdr) (d a o : BitVec 6) (s : State) : Host.Outcome State Fault Refusal :=
  atomicOp (infoUpdAdd h d a) 0 false true d a o s

/-- `upd.fadd` (R162). -/
def execUpdFadd (h : Hdr) (d a o : BitVec 6) (s : State) : Host.Outcome State Fault Refusal :=
  atomicOp (infoUpdFadd h d a) 1 false true d a o s

/-- `upd.min` (R162). -/
def execUpdMin (h : Hdr) (d a o : BitVec 6) (s : State) : Host.Outcome State Fault Refusal :=
  atomicOp (infoUpdMin h d a) 2 false true d a o s

/-- `upd.max` (R162). -/
def execUpdMax (h : Hdr) (d a o : BitVec 6) (s : State) : Host.Outcome State Fault Refusal :=
  atomicOp (infoUpdMax h d a) 3 false true d a o s

/-- `upd.minn` (R162). -/
def execUpdMinn (h : Hdr) (d a o : BitVec 6) (s : State) : Host.Outcome State Fault Refusal :=
  atomicOp (infoUpdMinn h d a) 4 false true d a o s

/-- `upd.maxn` (R162). -/
def execUpdMaxn (h : Hdr) (d a o : BitVec 6) (s : State) : Host.Outcome State Fault Refusal :=
  atomicOp (infoUpdMaxn h d a) 5 false true d a o s

/-- `upd.and` (R162). -/
def execUpdAnd (h : Hdr) (d a o : BitVec 6) (s : State) : Host.Outcome State Fault Refusal :=
  atomicOp (infoUpdAnd h d a) 6 false true d a o s

/-- `upd.or` (R162). -/
def execUpdOr (h : Hdr) (d a o : BitVec 6) (s : State) : Host.Outcome State Fault Refusal :=
  atomicOp (infoUpdOr h d a) 7 false true d a o s

/-- `upd.xor` (R162). -/
def execUpdXor (h : Hdr) (d a o : BitVec 6) (s : State) : Host.Outcome State Fault Refusal :=
  atomicOp (infoUpdXor h d a) 8 false true d a o s

/-- `upd.swap` (R162). -/
def execUpdSwap (h : Hdr) (d a o : BitVec 6) (s : State) : Host.Outcome State Fault Refusal :=
  atomicOp (infoUpdSwap h d a) 9 false true d a o s

/-- `upd.cas` (R162). -/
def execUpdCas (h : Hdr) (d a o : BitVec 6) (s : State) : Host.Outcome State Fault Refusal :=
  atomicOp (infoUpdCas h d a) 10 false true d a o s

/-- `upd.add64` (R162). -/
def execUpdAdd64 (h : Hdr) (d a o : BitVec 6) (s : State) : Host.Outcome State Fault Refusal :=
  atomicOp (infoUpdAdd64 h d a) 11 false true d a o s

/-- `upd.swap64` (R162). -/
def execUpdSwap64 (h : Hdr) (d a o : BitVec 6) (s : State) : Host.Outcome State Fault Refusal :=
  atomicOp (infoUpdSwap64 h d a) 12 false true d a o s

/-- `upd.cas64` (R162). -/
def execUpdCas64 (h : Hdr) (d a o : BitVec 6) (s : State) : Host.Outcome State Fault Refusal :=
  atomicOp (infoUpdCas64 h d a) 13 false true d a o s

/-- `updc.add` (R162). -/
def execUpdcAdd (h : Hdr) (d a o : BitVec 6) (s : State) : Host.Outcome State Fault Refusal :=
  atomicOp (infoUpdcAdd h d a) 0 true true d a o s

/-- `updc.fadd` (R162). -/
def execUpdcFadd (h : Hdr) (d a o : BitVec 6) (s : State) : Host.Outcome State Fault Refusal :=
  atomicOp (infoUpdcFadd h d a) 1 true true d a o s

/-- `updc.min` (R162). -/
def execUpdcMin (h : Hdr) (d a o : BitVec 6) (s : State) : Host.Outcome State Fault Refusal :=
  atomicOp (infoUpdcMin h d a) 2 true true d a o s

/-- `updc.max` (R162). -/
def execUpdcMax (h : Hdr) (d a o : BitVec 6) (s : State) : Host.Outcome State Fault Refusal :=
  atomicOp (infoUpdcMax h d a) 3 true true d a o s

/-- `updc.minn` (R162). -/
def execUpdcMinn (h : Hdr) (d a o : BitVec 6) (s : State) : Host.Outcome State Fault Refusal :=
  atomicOp (infoUpdcMinn h d a) 4 true true d a o s

/-- `updc.maxn` (R162). -/
def execUpdcMaxn (h : Hdr) (d a o : BitVec 6) (s : State) : Host.Outcome State Fault Refusal :=
  atomicOp (infoUpdcMaxn h d a) 5 true true d a o s

/-- `updc.and` (R162). -/
def execUpdcAnd (h : Hdr) (d a o : BitVec 6) (s : State) : Host.Outcome State Fault Refusal :=
  atomicOp (infoUpdcAnd h d a) 6 true true d a o s

/-- `updc.or` (R162). -/
def execUpdcOr (h : Hdr) (d a o : BitVec 6) (s : State) : Host.Outcome State Fault Refusal :=
  atomicOp (infoUpdcOr h d a) 7 true true d a o s

/-- `updc.xor` (R162). -/
def execUpdcXor (h : Hdr) (d a o : BitVec 6) (s : State) : Host.Outcome State Fault Refusal :=
  atomicOp (infoUpdcXor h d a) 8 true true d a o s

/-- `updc.swap` (R162). -/
def execUpdcSwap (h : Hdr) (d a o : BitVec 6) (s : State) : Host.Outcome State Fault Refusal :=
  atomicOp (infoUpdcSwap h d a) 9 true true d a o s

/-- `updc.cas` (R162). -/
def execUpdcCas (h : Hdr) (d a o : BitVec 6) (s : State) : Host.Outcome State Fault Refusal :=
  atomicOp (infoUpdcCas h d a) 10 true true d a o s

/-- `updc.add64` (R162). -/
def execUpdcAdd64 (h : Hdr) (d a o : BitVec 6) (s : State) : Host.Outcome State Fault Refusal :=
  atomicOp (infoUpdcAdd64 h d a) 11 true true d a o s

/-- `updc.swap64` (R162). -/
def execUpdcSwap64 (h : Hdr) (d a o : BitVec 6) (s : State) : Host.Outcome State Fault Refusal :=
  atomicOp (infoUpdcSwap64 h d a) 12 true true d a o s

/-- `updc.cas64` (R162). -/
def execUpdcCas64 (h : Hdr) (d a o : BitVec 6) (s : State) : Host.Outcome State Fault Refusal :=
  atomicOp (infoUpdcCas64 h d a) 13 true true d a o s

/-- `updn.add` (R162). -/
def execUpdnAdd (h : Hdr) (d a o : BitVec 6) (s : State) : Host.Outcome State Fault Refusal :=
  atomicOp (infoUpdnAdd h d a) 0 false false d a o s

/-- `updn.fadd` (R162). -/
def execUpdnFadd (h : Hdr) (d a o : BitVec 6) (s : State) : Host.Outcome State Fault Refusal :=
  atomicOp (infoUpdnFadd h d a) 1 false false d a o s

/-- `updn.min` (R162). -/
def execUpdnMin (h : Hdr) (d a o : BitVec 6) (s : State) : Host.Outcome State Fault Refusal :=
  atomicOp (infoUpdnMin h d a) 2 false false d a o s

/-- `updn.max` (R162). -/
def execUpdnMax (h : Hdr) (d a o : BitVec 6) (s : State) : Host.Outcome State Fault Refusal :=
  atomicOp (infoUpdnMax h d a) 3 false false d a o s

/-- `updn.minn` (R162). -/
def execUpdnMinn (h : Hdr) (d a o : BitVec 6) (s : State) : Host.Outcome State Fault Refusal :=
  atomicOp (infoUpdnMinn h d a) 4 false false d a o s

/-- `updn.maxn` (R162). -/
def execUpdnMaxn (h : Hdr) (d a o : BitVec 6) (s : State) : Host.Outcome State Fault Refusal :=
  atomicOp (infoUpdnMaxn h d a) 5 false false d a o s

/-- `updn.and` (R162). -/
def execUpdnAnd (h : Hdr) (d a o : BitVec 6) (s : State) : Host.Outcome State Fault Refusal :=
  atomicOp (infoUpdnAnd h d a) 6 false false d a o s

/-- `updn.or` (R162). -/
def execUpdnOr (h : Hdr) (d a o : BitVec 6) (s : State) : Host.Outcome State Fault Refusal :=
  atomicOp (infoUpdnOr h d a) 7 false false d a o s

/-- `updn.xor` (R162). -/
def execUpdnXor (h : Hdr) (d a o : BitVec 6) (s : State) : Host.Outcome State Fault Refusal :=
  atomicOp (infoUpdnXor h d a) 8 false false d a o s

/-! ## Fences (R166) -/

/-- Whether every earlier host write of a group has drained and every earlier host read has returned. -/
def State.hostQuiet (s : State) (g : Group) : Bool :=
  g.hostQ.isEmpty && !s.flow.accs.any fun a => a.grp == g.id && a.cls == .host && a.kind != .pref

/-- Whether every earlier peer write of a group has drained and every earlier peer read and atomic has returned. -/
def State.peerQuiet (s : State) (g : Group) : Bool :=
  g.peerQ.isEmpty && !s.flow.accs.any fun a =>
    a.grp == g.id && a.kind != .pref && (match a.cls with | .peer _ => true | _ => false)

/-- A fence holds back its chain until its condition holds. -/
def fenceOp (i : Info) (ok : State → Bool) (s : State) : Host.Outcome State Fault Refusal :=
  runWord i s fun _ s => if ok s then s else s.stallWord

/-- `mem.fence.host` (R166). -/
def execMemFenceHost (h : Hdr) (s : State) : Host.Outcome State Fault Refusal :=
  fenceOp (infoMemFenceHost h) (fun s => s.hostQuiet s.cur) s

/-- `mem.fence.peer` (R166). -/
def execMemFencePeer (h : Hdr) (s : State) : Host.Outcome State Fault Refusal :=
  fenceOp (infoMemFencePeer h) (fun s => s.peerQuiet s.cur) s

/-- `mem.fence.sys` (R166). -/
def execMemFenceSys (h : Hdr) (s : State) : Host.Outcome State Fault Refusal :=
  fenceOp (infoMemFenceSys h) (fun s => s.hostQuiet s.cur && s.peerQuiet s.cur && s.cur.st == 0) s

/-! ## Prefetch (R167) -/

/-- The home lines of the 128-byte line at a place: two in a basin of 64-byte lines. -/
def State.prefParts (s : State) (g : Group) (l : Nat) (x : Loc) : List Part :=
  if x.cls = .device ∧ s.lineLen x.key = 64 then
    [⟨l, 0, x, 64, .load⟩, ⟨l, 1, { x with pa := x.pa + 64, key := s.keyOf g.tn x.key.bs (x.pa + 64) }, 64, .load⟩]
  else [⟨l, 0, x, 128, .load⟩]

/-- `mem.pref`: lanes that fail a check are dropped without a fault (R167). -/
def execMemPref (h : Hdr) (a o : BitVec 6) (s : State) : Host.Outcome State Fault Refusal :=
  runWord (infoMemPref h a) s fun P s =>
    let line := fun l => (effAddr s.cur a o 128 l) &&& ~~~127#64
    let rs := (lanesOf P).map fun l => (l, s.xcheck s.cur rqPref (line l) 128)
    if rs.any (·.2.open) then s.xstall (rs.map (·.2))
    else
      let s1 := (s.xuse s.cur (rs.map (·.2))).onCur fun g =>
        { g with dropped := g.dropped.filter fun p => !(rs.any fun r => vaOf (line r.1) / 4096 == p) }
      s1.issueWord .none none .pref P []
        (rs.flatMap fun r => match r.2 with
          | .ok x => s1.prefParts s1.cur r.1 x
          | _ => [])

end Sys2Proof.Machine
end

