-- ==== Sys2Proof/Machine/Sync.lean ====
section
/-!
DEFINITION. Monitors (R169), barriers (R172 to R175), musters (R176), stage rings (R177, R178), futures (R179, R180), and
the completion signals that make their effects observable (R256).
-/

namespace Sys2Proof.Machine

/-! ## Words that act once -/

/-- The access that a word of the group in issue would make to a place, for its order among the lanes' accesses. -/
def State.onceAcc (s : State) (P : Mask) (x : Loc) (len : Nat) : Access :=
  { id := 0, word := 0, grp := s.cur.id, core := s.cur.core, tn := s.cur.tn, seq := s.cur.seq + 1, lanes := P, kind := .load,
    cls := x.cls, key := x.key, pa := x.pa, els := [⟨lowest P, 0, x.pa, len, .load⟩], vpn := x.vpn, user := s.cur.mode == .u,
    pin := x.pin, va := x.va, hp := x.hp }

/-- Reads the pieces of one access, each with its address, place and length; `none` while a line is not open. The answer gives
the bytes, and the first cause with its address where some could not be had. -/
def State.readPieces (P : Mask) : List (DWord × Loc × Nat) → State → Option (State × List Byte × Option (Cause × DWord))
  | [], s => some (s, [], none)
  | p :: t, s =>
    let a := s.onceAcc P p.2.1 p.2.2
    ((if s.hit a then s else s.missed a).readWord s.cur p.2.1 p.2.2).bind fun r =>
      let w := if r.2.2.isSome then (r.1, r.2.1) else r.1.capWord r.1.cur a.seq p.2.1 r.2.1
      (State.readPieces P t w.1).map fun q => (q.1, w.2 ++ q.2.1, (r.2.2.map fun c => (c, p.1)) <|> q.2.2)

/-- A word that reads memory within itself: it holds back its chain until its read may perform and its lines are open, then
reads, under capture as any load, and goes on with the bytes (R180, R249, R250, R303). Poison or an error in their place is held
pending with the address, and the word has no further effect (R154; log 24). -/
def State.readOnce (s : State) (P : Mask) (ps : List (DWord × Loc × Nat)) (go : List Byte → State → State) : State :=
  if !ps.all fun p => s.mayPerform (s.onceAcc P p.2.1 p.2.2) then s.stallWord
  else match State.readPieces P ps s with
    | none => s.stallWord
    | some (s1, bs, bad) =>
      let s2 := s1.onCur fun g => { g with seq := g.seq + 1 }
      match bad with
      | some (c, ea) => s2.onCur (·.pending c ea)
      | none => go bs s2

/-! ## mon (R169) -/

/-- Arms a monitor and blocks the path past the chain: in the table of the line's slice if it has room, else held by the
path and polled (R169, R170). -/
def State.arm (s : State) (ea : DWord) (x : Loc) (c : MonCond) (v w : Word) : State :=
  let m : Monitor := { id := s.fresh, grp := s.cur.id, ea := ea, loc := x, table := x.cls == .device && s.monitorsIn x.key < 256,
                       cond := c, x := v, w := w, poll := s.dev.cycle + 4096, rearm := false,
                       met := none }
  { s.onFlow (fun f => { f with mons := f.mons ++ [m] }) with fresh := s.fresh + 1 }.blockPast (.monitor m.id)

/-- `mon`: the lowest lane's word is read; if it does not meet the condition a monitor is armed (R169). -/
def monOp (i : Info) (c : MonCond) (d : Option (BitVec 6)) (a o : BitVec 6) (s : State) : Host.Outcome State Fault Refusal :=
  runWord i s fun P s =>
    let l := lowest P
    let ea := effAddr s.cur a o 4 l
    let v := match d with | some r => s.cur.getV r.toNat l | none => 0
    s.xone [s.xcheck s.cur rqLoad ea 4] fun ls s =>
      match ls with
      | x :: _ => s.readOnce P [(ea, x, 4)] fun bs s =>
          if c ≠ .chg ∧ c.holds (wordVal bs) v then s else s.arm ea x c v (wordVal bs)
      | [] => s

/-- `mon.waitc.eq` (R169). -/
def execMonWaitcEq (h : Hdr) (d a o : BitVec 6) (s : State) : Host.Outcome State Fault Refusal :=
  monOp (infoMonWaitcEq h d a) .eq (some d) a o s

/-- `mon.waitc.ne` (R169). -/
def execMonWaitcNe (h : Hdr) (d a o : BitVec 6) (s : State) : Host.Outcome State Fault Refusal :=
  monOp (infoMonWaitcNe h d a) .ne (some d) a o s

/-- `mon.waitc.lt` (R169). -/
def execMonWaitcLt (h : Hdr) (d a o : BitVec 6) (s : State) : Host.Outcome State Fault Refusal :=
  monOp (infoMonWaitcLt h d a) .lt (some d) a o s

/-- `mon.waitc.ge` (R169). -/
def execMonWaitcGe (h : Hdr) (d a o : BitVec 6) (s : State) : Host.Outcome State Fault Refusal :=
  monOp (infoMonWaitcGe h d a) .ge (some d) a o s

/-- `mon.waitc.ltn` (R169). -/
def execMonWaitcLtn (h : Hdr) (d a o : BitVec 6) (s : State) : Host.Outcome State Fault Refusal :=
  monOp (infoMonWaitcLtn h d a) .ltn (some d) a o s

/-- `mon.waitc.gen` (R169). -/
def execMonWaitcGen (h : Hdr) (d a o : BitVec 6) (s : State) : Host.Outcome State Fault Refusal :=
  monOp (infoMonWaitcGen h d a) .gen (some d) a o s

/-- `mon.waitc.chg` (R169). -/
def execMonWaitcChg (h : Hdr) (a o : BitVec 6) (s : State) : Host.Outcome State Fault Refusal :=
  monOp (infoMonWaitcChg h a) .chg none a o s

/-! ## Completion signals (R256) -/

/-- Whether an engine word in flight is a copy word, which signals wait for (R256). -/
def Xfer.isCopy (x : Xfer) : Bool :=
  match x.kind with
  | .cpy .. | .tileIn .. | .tileOut .. | .tileZero .. | .taccSp .. | .taccMem .. | .frames .. => true
  | _ => false

/-- Whether a signal is a `fut.fput`'s. -/
def SigKind.isPut : SigKind → Bool
  | .fput _ => true
  | _ => false

/-- A completion signal of a group, which waits for the group's earlier device and scratchpad stores, atomics
and reductions, and for its earlier copy words (R256). -/
def State.signalFor (s : State) (grp : Nat) (k : SigKind) : State :=
  let sig : Signal :=
    { id := s.fresh, grp := grp, kind := k,
      accs := (s.flow.accs.filter fun a =>
        a.grp == grp && !a.isLoad && a.kind != .pref && (a.cls == .device || a.cls == .scratch)).map (·.id),
      xfers := (s.flow.xfers.filter fun x => x.grp == grp && x.isCopy).map (·.id),
      sigs := (s.flow.sigs.filter fun x => x.grp == grp && x.kind.isPut).map (·.id) }
  { s.onFlow (fun f => { f with sigs := f.sigs ++ [sig] }) with fresh := s.fresh + 1 }

/-- A completion signal of the group in issue. -/
def State.signal (s : State) (k : SigKind) : State := s.signalFor s.cur.id k

/-- Whether everything that a signal waits for is done. -/
def State.signalReady (s : State) (x : Signal) : Bool :=
  !(s.flow.accs.any fun a => x.accs.contains a.id) && !(s.flow.xfers.any fun y => x.xfers.contains y.id) &&
    !(s.flow.sigs.any fun y => x.sigs.contains y.id)

/-! ## Barriers (R172 to R175) -/

/-- Changes a barrier of a crew. -/
def State.mapBar (s : State) (crew n : Nat) (f : Barrier → Barrier) : State :=
  s.mapCrew crew fun c => { c with bars := c.bars.modify n f }

/-- A barrier of a crew. -/
def State.bar (s : State) (crew n : Nat) : Barrier := (s.crew crew).bars.getD n Barrier.invalid

/-- report(p): a group that observes a completion joins its time, and sr.uval takes 0xA1 if a copy of the phase was
cancelled (R174, R256). -/
def Group.report (g : Group) (t : Nat) (cancelled : Bool) : Group :=
  let g1 := g.join t
  if cancelled then { g1 with utrap := { g1.utrap with val := 0xA1 } } else g1

/-- complete_if_ready (R174): all arrivals are in and observable, and with a transfer member every attached copy has
landed or been cancelled (R175). -/
def State.completeBar (s : State) (crew n : Nat) : State :=
  let b := s.bar crew n
  if b.valid && b.exp != 0 && b.arr == b.exp && b.unobs == 0 && (!b.xfer || b.att == 0) then
    let s1 := s.mapBar crew n fun b =>
      { b with phase := !b.phase, arr := 0, exp := b.exp - b.drops, drops := 0, cancelled := false, t := 0, doneT := b.t,
               doneC := b.cancelled }
    let waits := fun (p : PSet) => p.cond == .barrier (BitVec.ofNat 4 n) b.phase
    s1.mapGrps fun g =>
      if g.crew == crew && g.id != 0 && g.sets.any waits then (g.wake waits).report b.t b.cancelled else g
  else s

/-- The phase that a group waits on: that of its last arrival, or the current one (R174). -/
def Barrier.phaseOf (b : Barrier) (grp : Nat) : Bool := ((b.last.find? (·.1 == grp)).map (·.2)).getD b.phase

/-- The value register of a barrier's fault: its number (R285). -/
def barVal (n : BitVec 4) : DWord := n.setWidth 64

/-- `bar.init` and `bar.init.x` (R174). -/
def barInitOp (i : Info) (k : BitVec 10) (n : BitVec 4) (x : Bool) (s : State) : Host.Outcome State Fault Refusal :=
  runWord i s fun _ s =>
    let b := s.bar s.cur.crew n.toNat
    let waiting := (s.crewGroups s.cur.crew).any fun g => g.sets.any fun p =>
      p.cond == .barrier n false || p.cond == .barrier n true
    if b.valid && (waiting || b.att > 0) then s.fault .barBusy (barVal n)
    else s.mapBar s.cur.crew n.toNat fun _ =>
      { valid := true, exp := k.toNat, xfer := x, arr := 0, phase := false, drops := 0, att := 0, cancelled := false, unobs := 0,
        t := 0, doneT := 0, doneC := false, last := [] }

/-- `bar.init` (R174). -/
def execBarInit (h : Hdr) (k : BitVec 10) (n : BitVec 4) (s : State) : Host.Outcome State Fault Refusal :=
  barInitOp (infoBarInit h) k n false s

/-- `bar.init.x` (R174). -/
def execBarInitX (h : Hdr) (k : BitVec 10) (n : BitVec 4) (s : State) : Host.Outcome State Fault Refusal :=
  barInitOp (infoBarInitX h) k n true s

/-- The arrival part of `arr`, `drop` and `arrw` (R174): counted at issue, observable through its signal (R256). -/
def State.arrive (s : State) (n : BitVec 4) (drop : Bool) (go : State → State) : State :=
  let b := s.bar s.cur.crew n.toNat
  if !b.valid then s.fault .barInvalidated (barVal n)
  else if b.exp = 0 ∨ b.arr = b.exp then s.fault .barOverarrive (barVal n)
  else
    let id := s.cur.id
    go ((s.mapBar s.cur.crew n.toNat fun b =>
      { b with arr := b.arr + 1, unobs := b.unobs + 1, drops := b.drops + (if drop then 1 else 0),
               last := (id, b.phase) :: b.last.filter (·.1 != id) }).signal (.arrive s.cur.crew n))

/-- The wait part of `wait` and `arrw` (R174). -/
def State.barWait (s : State) (n : BitVec 4) : State :=
  let b := s.bar s.cur.crew n.toNat
  if !b.valid then s.fault .barInvalidated (barVal n)
  else if b.phase = b.phaseOf s.cur.id then s.blockPast (.barrier n b.phase)
  else s.onCur (·.report b.doneT b.doneC)

/-- `bar.arr` (R174). -/
def execBarArr (h : Hdr) (n : BitVec 4) (s : State) : Host.Outcome State Fault Refusal :=
  runWord (infoBarArr h) s fun _ s => s.arrive n false id

/-- `bar.drop` (R174). -/
def execBarDrop (h : Hdr) (n : BitVec 4) (s : State) : Host.Outcome State Fault Refusal :=
  runWord (infoBarDrop h) s fun _ s => s.arrive n true id

/-- `bar.wait` (R174). -/
def execBarWait (h : Hdr) (n : BitVec 4) (s : State) : Host.Outcome State Fault Refusal :=
  runWord (infoBarWait h) s fun _ s => s.barWait n

/-- `bar.test` (R174). -/
def execBarTest (h : Hdr) (m : BitVec 3) (n : BitVec 4) (s : State) : Host.Outcome State Fault Refusal :=
  runWord (infoBarTest h m) s fun _ s =>
    let b := s.bar s.cur.crew n.toNat
    if !b.valid then s.fault .barInvalidated (barVal n)
    else
      let done := b.phase != b.phaseOf s.cur.id
      let s1 := s.onCur (·.setGAll m.toNat done)
      if done then s1.onCur (·.report b.doneT b.doneC) else s1

/-- `bar.inval`: with copies attached nothing changes; else every path blocked on the barrier faults at its word (R174). -/
def execBarInval (h : Hdr) (m : BitVec 3) (n : BitVec 4) (s : State) : Host.Outcome State Fault Refusal :=
  runWord (infoBarInval h m) s fun _ s =>
    let crew := s.cur.crew
    if (s.bar crew n.toNat).att > 0 then s.onCur (·.setGAll m.toNat false)
    else
      let fail := fun (p : PSet) =>
        if p.cond == .barrier n false || p.cond == .barrier n true then { p with cond := .fault .barInvalidated (barVal n) } else p
      let s1 := (s.onCur (·.setGAll m.toNat true)).mapBar crew n.toNat fun b => { b with valid := false }
      s1.mapGrps fun g => if g.crew == crew && g.id != 0 then { g with sets := g.sets.map fail } else g

/-- `bar.arrw` (R174). -/
def execBarArrw (h : Hdr) (n : BitVec 4) (s : State) : Host.Outcome State Fault Refusal :=
  runWord (infoBarArrw h) s fun _ s => s.arrive n false fun s => s.barWait n

/-! ## Musters (R176) -/

/-- The value register of a muster's or a ring's fault: its number (R285). -/
def numVal (n : BitVec 3) : DWord := n.setWidth 64

/-- Sets a muster's count unless it has signatures (R176). -/
def State.setMuster (s : State) (n : BitVec 3) (c : Nat) : State :=
  if ((s.crew s.cur.crew).musters.getD n.toNat Muster.unarmed).signs > 0 then s.fault .musterOversign (numVal n)
  else s.mapCrew s.cur.crew fun k => { k with musters := k.musters.set n.toNat ⟨c, 0, none⟩ }

/-- `mus.set` (R176). -/
def execMusSet (h : Hdr) (k : BitVec 11) (n : BitVec 3) (s : State) : Host.Outcome State Fault Refusal :=
  runWord (infoMusSet h) s fun _ s => s.setMuster n k.toNat

/-- `mus.clr` (R176). -/
def execMusClr (h : Hdr) (n : BitVec 3) (s : State) : Host.Outcome State Fault Refusal :=
  runWord (infoMusClr h) s fun _ s => s.setMuster n 0

/-! ## Stage rings (R177, R178) -/

/-- A ring of a crew. -/
def State.ring (s : State) (crew n : Nat) : Ring := (s.crew crew).rings.getD n Ring.invalid

/-- Changes a ring of a crew. -/
def State.mapRing (s : State) (crew n : Nat) (f : Ring → Ring) : State :=
  s.mapCrew crew fun c => { c with rings := c.rings.modify n f }

/-- Changes a stage of a ring. -/
def Ring.mapStage (r : Ring) (i : Nat) (f : Stage → Stage) : Ring := { r with stages := r.stages.modify i f }

/-- The state of a ring's stage. -/
def Ring.at_ (r : Ring) (i : Nat) : Stage := r.stages.getD i ⟨.empty, false, 0, false, 0⟩

/-- The oldest path of a crew that waits for a ring: by the age of its group, then by its own (R178, R330). -/
def State.waiter (s : State) (crew : Nat) (w : Cond → Option (BitVec 5)) : Option (Nat × PSet × BitVec 5) :=
  let all := (s.crewGroups crew).flatMap fun g => g.sets.filterMap fun p => (w p.cond).map fun k => (g.age, g.id, p, k)
  (all.find? fun x => all.all fun y => x.1 < y.1 || (x.1 == y.1 && (x.2.1 != y.2.1 || x.2.2.1.path.age ≤ y.2.2.1.path.age))).map
    fun x => (x.2.1, x.2.2.1, x.2.2.2)

/-- The register of a path blocked in `ring.acq` or `ring.take` on a ring. -/
def Cond.acqOf (q : BitVec 3) : Cond → Option (BitVec 5)
  | .acq r k => if r = q then some k else none
  | _ => none
def Cond.takeOf (q : BitVec 3) : Cond → Option (BitVec 5)
  | .take r k => if r = q then some k else none
  | _ => none

/-- A stage is acquired: held, in the held order, and the producer index moves on (R178). -/
def Ring.acquire (r : Ring) : Ring :=
  { r.mapStage r.pi fun st => { st with st := .held, t := 0, copies := 0, unobs := false } with
    held := r.held ++ [r.pi], pi := (r.pi + 1) % r.stages.length }

/-- A stage is taken (R178). -/
def Ring.takeStage (r : Ring) : Ring :=
  { r.mapStage r.ci fun st => { st with st := .taken } with taken := r.taken ++ [r.ci], ci := (r.ci + 1) % r.stages.length }

/-- Paths blocked in `acq` or `take` become ready oldest first, one for each stage made available (R178). -/
def State.serveRing (s : State) (crew : Nat) (q : BitVec 3) : Nat → State
  | 0 => s
  | fuel + 1 =>
    let r := s.ring crew q.toNat
    if !r.valid then s
    else match (if (r.at_ r.pi).st = .empty then s.waiter crew (Cond.acqOf q) else none) with
      | some (gid, p, k) =>
        State.serveRing ((s.mapRing crew q.toNat Ring.acquire).mapGrp gid fun g =>
          (g.setS k.toNat (BitVec.ofNat 32 r.pi)).wake (· == p)) crew q fuel
      | none => match (if (r.at_ r.ci).st = .full then s.waiter crew (Cond.takeOf q) else none) with
        | some (gid, p, k) =>
          State.serveRing ((s.mapRing crew q.toNat Ring.takeStage).mapGrp gid fun g =>
            ((g.join (r.at_ r.ci).t).setS k.toNat (BitVec.ofNat 32 r.ci)).wake (· == p)) crew q fuel
        | none => s

/-- A pending stage becomes full when its last attached copy has landed and its release is observable; its phase bit
inverts (R177, R178). -/
def State.settleStage (s : State) (crew : Nat) (q : BitVec 3) (i : Nat) : State :=
  let st := (s.ring crew q.toNat).at_ i
  if st.st = .pending ∧ st.copies = 0 ∧ st.unobs = false then
    (s.mapRing crew q.toNat (·.mapStage i fun st => { st with st := .full, phase := !st.phase })).serveRing crew q 16
  else s

/-- `ring.init` (R178). -/
def execRingInit (h : Hdr) (d : BitVec 4) (n : BitVec 3) (s : State) : Host.Outcome State Fault Refusal :=
  runWord (infoRingInit h) s fun _ s =>
    let crew := s.cur.crew
    let r := s.ring crew n.toNat
    let waiting := (s.crewGroups crew).any fun g => g.sets.any fun p => (p.cond.acqOf n).isSome || (p.cond.takeOf n).isSome
    if r.valid && (r.stages.any (fun st => st.st != .empty) || waiting) then s.fault .ringMisuse (numVal n)
    else s.mapRing crew n.toNat fun _ =>
      { valid := true, stages := List.replicate d.toNat ⟨.empty, false, 0, false, 0⟩, pi := 0, ci := 0, held := [], taken := [] }

/-- `ring.acq` (R178). -/
def execRingAcq (h : Hdr) (k : BitVec 5) (n : BitVec 3) (s : State) : Host.Outcome State Fault Refusal :=
  runWord (infoRingAcq h k) s fun _ s =>
    let r := s.ring s.cur.crew n.toNat
    if !r.valid then s.fault .ringMisuse (numVal n)
    else if (r.at_ r.pi).st ≠ .empty then s.blockPast (.acq n k)
    else (s.mapRing s.cur.crew n.toNat Ring.acquire).onCur (·.setS k.toNat (BitVec.ofNat 32 r.pi))

/-- `ring.rel`: the first held stage becomes pending, and full once its signal is observable (R178, R256). -/
def execRingRel (h : Hdr) (k : BitVec 5) (n : BitVec 3) (s : State) : Host.Outcome State Fault Refusal :=
  runWord (infoRingRel h k) s fun _ s =>
    let r := s.ring s.cur.crew n.toNat
    let i := (s.cur.getS k.toNat).toNat
    if !r.valid || r.held.head? != some i then s.fault .ringMisuse (numVal n)
    else (s.mapRing s.cur.crew n.toNat fun r =>
      { r.mapStage i (fun st => { st with st := .pending, unobs := true }) with held := r.held.drop 1 }).signal
        (.release s.cur.crew n i)

/-- `ring.take` (R178). -/
def execRingTake (h : Hdr) (k : BitVec 5) (n : BitVec 3) (s : State) : Host.Outcome State Fault Refusal :=
  runWord (infoRingTake h k) s fun _ s =>
    let r := s.ring s.cur.crew n.toNat
    if !r.valid then s.fault .ringMisuse (numVal n)
    else if (r.at_ r.ci).st ≠ .full then s.blockPast (.take n k)
    else (s.mapRing s.cur.crew n.toNat Ring.takeStage).onCur fun g =>
      (g.join (r.at_ r.ci).t).setS k.toNat (BitVec.ofNat 32 r.ci)

/-- `ring.free` (R178). -/
def execRingFree (h : Hdr) (k : BitVec 5) (n : BitVec 3) (s : State) : Host.Outcome State Fault Refusal :=
  runWord (infoRingFree h k) s fun _ s =>
    let r := s.ring s.cur.crew n.toNat
    let i := (s.cur.getS k.toNat).toNat
    if !r.valid || r.taken.head? != some i then s.fault .ringMisuse (numVal n)
    else (s.mapRing s.cur.crew n.toNat fun r =>
      { r.mapStage i (fun st => { st with st := .empty }) with taken := r.taken.drop 1 }).serveRing s.cur.crew n 16

/-! ## Futures (R179, R180) -/

/-- The lowest lane's slot: its address and its checks as a load or a store of 16 bytes of plain HBM;
a counter at 63 holds back the chain first. -/
def futOp (i : Info) (a o : BitVec 6) (write : Bool) (c : Option Counter) (go : Mask → DWord → Loc → State → State) (s : State) :
    Host.Outcome State Fault Refusal :=
  runWord i s fun P s =>
    let ea := effAddr s.cur a o 16 (lowest P)
    if (c.map s.cur.ctr).getD 0 ≥ 63 then s.stallChain
    else s.xone [s.xcheck s.cur (rqPlain write) ea 16] fun ls s =>
      match ls with
      | x :: _ => go P ea x s
      | [] => s

/-- `fut.finit` writes the state word as 0 (R179, R180). -/
def execFutFinit (h : Hdr) (a o : BitVec 6) (s : State) : Host.Outcome State Fault Refusal :=
  futOp (infoFutFinit h a) a o true (some .st) (fun P _ x s =>
    let y := { x with pa := x.pa + 8, va := x.va + 8, key := s.keyOf s.cur.tn x.key.bs (x.pa + 8) }
    let s1 := s.issueWord .store (some .st) .store P [] [⟨lowest P, 0, y, 8, .store (leBytes 0 8)⟩]
    s1.onFlow fun f => { f with accs := f.accs.map fun b => if b.word == s.fresh then { b with lanes := P } else b }) s

/-- The bytes of a slot as the group in issue finds them: those of its home, with the group's own earlier stores, atomics and
reductions that have not performed. A put whose signal is not yet observable has not performed (R180, R250, R256). -/
def State.slotBytes (s : State) (x : Loc) : List Byte :=
  let mine := s.flow.accs.filter fun a => a.grp == s.cur.id && !a.isLoad && a.kind != .pref && a.cls == .device && a.key == x.key
  let home : SMap 8 := SMap.setList [] x.pa (s.homeBytes x.key x.pa 16)
  ((sortOn mine (·.seq ≤ ·.seq)).foldl (fun (m : SMap 8) a => storeEls m a.els) home).getList x.pa 16

/-- Whether F of a slot as the group finds it is poison: its home's byte is, and no write of the group's own stands over it (R299). -/
def State.slotPoison (s : State) (x : Loc) : Bool :=
  s.homePoison x.key (x.pa + 8) 1 && !s.flow.accs.any fun a => a.grp == s.cur.id && a.kind == .store && a.cls == .device &&
    a.key == x.key && a.els.any fun e => decide (e.pa ≤ x.pa + 8) && decide (x.pa + 8 < e.pa + e.len)

/-- `fut.fput`: a full slot faults at issue; the put itself performs with its signal (R180, R256). It waits for nothing but a
claim on its line. Where F is poison, POISON is held pending with the slot's address, and the word has no further effect (R154, R299;
log 24). -/
def execFutFput (h : Hdr) (d a o : BitVec 6) (s : State) : Host.Outcome State Fault Refusal :=
  futOp (infoFutFput h d a) a o true (some .st) (fun P ea x s =>
    if !s.open_ x.key then s.stallWord
    else
      let s0 := s.recallNow x.key
      if s0.slotPoison x then s0.onCur (·.pending .poison ea)
      else if ((s0.slotBytes x).getD 8 0).getLsbD 0 then s.fault .futureRefill ea
      else
        let bs := leBytes (s.cur.getV2 d.toNat (lowest P)).toNat 8 ++ leBytes 1 8
        let wd := s0.fresh
        let acc : Access := { s0.onceAcc P x 16 with id := wd + 1, word := wd, kind := .store, lanes := BitVec.allOnes 32,
                                                     els := [⟨lowest P, 0, x.pa, 16, .store bs⟩] }
        let w : PendWord := { id := wd, grp := s0.cur.id, seq := s0.cur.seq + 1, kind := .store, ctr := .st, mask := P, got := [],
                              ticket := 0, away := 0, fails := 0, flags := [] }
        let s1 := ({ s0 with fresh := wd + 2 }.onFlow fun f => { f with words := f.words ++ [w] }).signal (.fput acc)
        s1.onCur fun g => { g.raise .st with seq := g.seq + 1 }) s

/-- `fut.fget` (R180). -/
def execFutFget (h : Hdr) (d a o : BitVec 6) (s : State) : Host.Outcome State Fault Refusal :=
  futOp (infoFutFget h d a) a o false none (fun P ea x s =>
    s.readOnce P [(ea, x, 16)] fun bs s =>
      if !((bs.getD 8 0).getLsbD 0) then s.fault .futureEmpty ea
      else s.onCur fun g => g.setV2 d.toNat P fun _ => BitVec.ofNat 64 (leNat (bs.take 8))) s

/-- `fut.fpoll` (R180). -/
def execFutFpoll (h : Hdr) (d : BitVec 3) (a o : BitVec 6) (s : State) : Host.Outcome State Fault Refusal :=
  futOp (infoFutFpoll h d a) a o false none (fun P ea x s =>
    s.readOnce P [(ea, x, 16)] fun bs s => s.onCur (·.setGAll d.toNat ((bs.getD 8 0).getLsbD 0))) s

/-! ## SIGNAL (R256) -/

/-- Removes a signal that has become observable. -/
def State.dropSignal (s : State) (id : Nat) : State := s.onFlow fun f => { f with sigs := f.sigs.filter (·.id != id) }

/-- The place of a signal in a recorded order: a barrier or a ring's stage of a crew, named by the crew's index in its node, or a
line (R303). -/
def State.sigPlace (s : State) : SigKind → Nat
  | .arrive c b => 2 ^ 60 + 256 * (s.crew c).idx + b.toNat
  | .release c r i => 2 ^ 61 + 256 * (s.crew c).idx + 16 * r.toNat + i
  | .fput a => a.key.line
  | .node .. => 0

/-- SIGNAL: the effect of a completion signal, which carries its group's time (R249, R256). -/
def State.takeSignal (s : State) (x : Signal) : Option State :=
  if !s.signalReady x then none
  else match s.grp? x.grp with
    | none => none
    | some g =>
      if !s.capMay g (s.sigPlace x.kind) 0 then none
      else
        let s0 := (s.dropSignal x.id).capDo g (s.sigPlace x.kind) 0
        match x.kind with
        | .arrive crew n =>
          some ((s0.mapBar crew n.toNat fun b => { b with unobs := b.unobs - 1, t := max b.t g.ltime }).completeBar crew n.toNat)
        | .release crew n i =>
          some ((s0.mapRing crew n.toNat (·.mapStage i fun st => { st with unobs := false, t := max st.t g.ltime })).settleStage
            crew n i)
        | .fput a =>
          let s1 := (s0.recallNow a.key).onFlow fun f => { f with accs := f.accs ++ [a] }
          (if (s.liveBasin a.key.tn a.key.bs).isSome then s1.performStore a else s1.baseDie a).map fun s2 =>
            s2.raiseNodes (·.sigs.contains x.id) (s2.timeOf x.grp)
        | .node nd t => some (s0.mapNode nd fun n => { n with visible := true, start := max n.start t })

/-- SIGNAL (R256). -/
def execSignal (sg : Nat) (s : State) : Host.Outcome State Fault Refusal :=
  stepWhen s ((s.flow.sigs.find? (·.id == sg)).bind s.takeSignal)

end Sys2Proof.Machine
end

