-- ==== Sys2Proof/Machine/Copy.lean ====
section
/-!
DEFINITION. Engine words in flight: claims, the range scoreboard and attachment (R175, R183 to R185, R195), LAND (R249,
R258), cancellation (R185, R328), per-lane copies (R181, R182) and basin prefetch (R168).
-/

namespace Sys2Proof.Machine

/-! ## Attachment and completion -/

/-- Whether a copy attaches to a barrier: valid and created with a transfer member (R185). -/
def State.attaches (s : State) (crew n : Nat) : Bool := let b := s.bar crew n; b.valid && b.xfer

/-- A copy attaches to its barrier and to its ring stage at issue (R175, R178, R185). -/
def State.attach (s : State) (x : Xfer) : State :=
  let s1 := match x.bar with
    | some (n, _) => s.mapBar x.crew n.toNat fun b => { b with att := b.att + 1 }
    | none => s
  match x.ring with
  | some (q, i) => s1.mapRing x.crew q.toNat (·.mapStage i fun st => { st with copies := st.copies + 1 })
  | none => s1

/-- The barrier to which a copy of the group in issue attaches. -/
def State.barOf (s : State) (n : BitVec 4) : Option (BitVec 4 × Bool) :=
  if s.attaches s.cur.crew n.toNat then some (n, (s.bar s.cur.crew n.toNat).phase) else none

/-- ISSUE with CLAIM of an engine word: it is in flight, its claims and scoreboard entries stand, it attaches, and its
counter rises (R182 to R185, R195, R249). -/
def State.launch (s : State) (x : Xfer) : State :=
  let s1 := s.onFlow fun f => { f with xfers := f.xfers ++ [x] }
  let s2 := (s1.attach x).onCur fun g => match x.ctr with
    | some c => { g.raise c with seq := g.seq + 1 }
    | none => { g with seq := g.seq + 1 }
  { s2 with fresh := s2.fresh + 1 }

/-- An engine word of the group in issue. -/
def State.xfer (s : State) (k : XKind) : Xfer :=
  { id := s.fresh, grp := s.cur.id, core := s.cur.core, crew := s.cur.crew, tn := s.cur.tn, seq := s.cur.seq + 1, kind := k,
    claims := [], sb := [], lines := 0, bar := none, ring := none, ctr := none, t := s.cur.ltime,
    user := s.cur.mode == .u, held := false, lost := [], skip := [] }

/-- Whether a core has room for an engine word's scoreboard entries and line transfers (R183, R184). A word of more than
1,024 lines issues when no other is in flight. -/
def State.roomFor (s : State) (x : Xfer) : Bool :=
  let mine := s.flow.xfers.filter (·.core == x.core)
  let sb := mine.foldl (fun n y => n + y.sb.length) 0
  let ln := mine.foldl (fun n y => n + y.lines) 0
  (x.sb.isEmpty || sb + x.sb.length ≤ 32) && (ln + x.lines ≤ 1024 || ln = 0 || x.lines = 0)

/-- Whether an engine word belongs to its tenant rather than to its crew, and so runs to completion (R228). -/
def Xfer.ofTenant (x : Xfer) : Bool :=
  match x.kind with
  | .bsnResize _ | .bsnDrop _ | .pgBsn .. | .frames .. | .bpref _ => true
  | _ => false

/-- Changes every image: those that were sealed, and those that wait in a pool. -/
def State.mapImages (s : State) (f : Image → Image) : State :=
  { s with resumed := s.resumed.map fun r => { r with image := f r.image },
           dev := { s.dev with sealed := s.dev.sealed.map fun x => { x with image := f x.image } } }

/-- A word that a saved crew had issued ends: its counter, its barrier and its place in the image follow (R175, R228, R295). -/
def Image.ended (x : Xfer) (ts : Nat) (cancelled : Bool) (im : Image) : Image :=
  if im.crew.id != x.crew then im
  else
    let bars := match x.bar with
      | some (n, _) => im.crew.bars.modify n.toNat fun b =>
          { b with att := b.att - 1, cancelled := b.cancelled || cancelled, t := max b.t ts }
      | none => im.crew.bars
    let lower := fun (g : Group) => match x.ctr with
      | some c => if g.id == x.grp then g.lower c else g
      | none => g
    { im with crew := { im.crew with bars := bars }, groups := im.groups.map lower, strokes := im.strokes.filter (·.id != x.id) }

/-- An engine word leaves the machine: claims and scoreboard entries end with it, its counter falls, its barrier and its
ring stage lose it, the barrier's phase and the stage joining `ts`, as does the time of a task word's signal that has waited for it;
lanes that waited for its flash data become ready (R153, R175, R178, R182, R256; log 98). A word of the tenant may outlive its crew's place in the machine: the image takes its end then. -/
def State.retire (s : State) (x : Xfer) (ts : Nat) (cancelled : Bool) : State :=
  let s0 := if x.ofTenant then s.mapImages (Image.ended x ts cancelled) else s
  let s1 := s0.onFlow fun f => { f with xfers := f.xfers.filter (·.id != x.id) }
  let s2 := match x.bar with
    | some (n, _) =>
      (s1.mapBar x.crew n.toNat fun b =>
        { b with att := b.att - 1, cancelled := b.cancelled || cancelled, t := max b.t ts }).completeBar x.crew n.toNat
    | none => s1
  let s3 := match x.ring with
    | some (q, i) =>
      (s2.mapRing x.crew q.toNat (·.mapStage i fun st => { st with copies := st.copies - 1, t := max st.t ts })).settleStage
        x.crew q i
    | none => s2
  let s4 := (s3.dataFor x.id).raiseNodes (·.xfers.contains x.id) ts
  match x.ctr with
  | some c => s4.complete x.grp c
  | none => s4

/-- A cancelled word lands nothing and releases its claims in one step; its barrier's phase is marked (R175, R185, R258). -/
def State.cancel (s : State) (x : Xfer) : State := s.retire x 0 true

/-! ## Places of an engine word -/

/-- The place of another byte of a translated page. -/
def State.offset (s : State) (tn : Nat) (x : Loc) (d : Nat) : Loc :=
  let pa := x.pa + d
  { x with pa := pa, va := x.va + d,
           key := match x.cls with
             | .device => s.keyOf tn x.key.bs pa
             | .scratch => { x.key with line := pa }
             | _ => { x.key with line := pa / 128 * 128 } }

/-- A byte range cut at multiples of a grain: the offset and the length of each part. -/
def cutsOf (va n grain : Nat) : List (Nat × Nat) :=
  if n = 0 then []
  else (List.range ((va + n - 1) / grain - va / grain + 1)).map fun i =>
    let lo := max va ((va / grain + i) * grain)
    (lo - va, min (va + n) ((va / grain + i + 1) * grain) - lo)

/-- The place of an address in a word's page map. -/
def State.placeIn (s : State) (tn : Nat) (map : List (Nat × Loc)) (ea : Nat) : Option Loc :=
  (map.find? (·.1 == ea / 4096)).map fun p => s.offset tn p.2 (ea % 4096)

/-- The bytes at a place, as its home, scratchpad, host, peer or flash holds them. -/
def State.fetchAt (s : State) (tn : Nat) (x : Loc) (n : Nat) : List Byte :=
  match x.cls with
  | .device => s.memBytes tn x.key.bs x.pa n
  | .scratch => s.spRead x.key.tn x.pa n
  | .host => s.dev.host.getList x.pa n
  | .peer d => (s.peerMem d).getList x.pa n
  | .flash => s.dev.flash.getList x.pa n

/-- Whether bytes at a place cannot be had: they are poison (R299), or their peer answers with an error (R154). -/
def State.badAt (s : State) (tn : Nat) (x : Loc) (n : Nat) : Bool :=
  match x.cls with
  | .device => (s.linesOf tn x.key.bs x.pa n).any fun k => s.homePoison k (max k.line x.pa) (min (x.pa + n) (k.line + s.lineLen k) - max k.line x.pa)
  | .scratch => s.spPoison x.key.tn x.pa n
  | .peer d => s.peerGone d
  | _ => false

/-- The cause that bytes which cannot be had raise (R154). -/
def Loc.errCause (x : Loc) : Cause :=
  match x.cls with
  | .host | .peer _ => .remoteError
  | _ => .poison

/-- Whether a device range is claimed by a word issued before another (R239, R249, R258). -/
def State.claimedBefore (s : State) (x : Xfer) (l : Loc) (n : Nat) : Bool :=
  l.cls == .device && s.flow.xfers.any fun y => decide (y.id < x.id) && y.claims? s l.pa n

/-- Whether an engine word cannot read or write a range yet: a word issued before it claims the range, a home entry of it waits
for RECOVER, no way is to be had for a line of it, or no route leads to its peer at present (R239, R249, R258, R259, R306). -/
def State.waitsFor (s : State) (x : Xfer) (l : Loc) (n : Nat) : Bool :=
  s.claimedBefore x l n || (match l.cls with | .peer d => !s.peerGone d && !s.linked d | _ => false) ||
    (l.cls == .device && (s.linesOf x.tn l.key.bs l.pa n).any fun k => s.entryLost k || !s.hasRoom k)

/-- Whether a range of host or peer memory has ended in a completion error of an engine word (R154). -/
def Xfer.loses (x : Xfer) (l : Loc) (n : Nat) : Bool :=
  match l.cls with
  | .host | .peer _ => x.lost.any fun u => meets l.va n (u * 128) 128
  | _ => false

/-- Whether a word cannot have bytes that it reads, or cannot place bytes that it writes (R154, R299). -/
def State.failsAt (s : State) (x : Xfer) (l : Loc) (n : Nat) : Bool := s.badAt x.tn l n || x.loses l n

/-- Returns a line held exclusively before an engine word reads or writes it (R254). -/
def State.recallAt (s : State) (tn : Nat) (l : Loc) (n : Nat) : State :=
  if l.cls = .device then (s.linesOf tn l.key.bs l.pa n).foldl State.recallNow s else s

/-! ## Landing (R249, R258) -/

/-- One piece that lands: its place and its bytes. -/
structure Piece where
  loc   : Loc
  bytes : List Byte
  deriving DecidableEq, Repr

/-- The part of a piece in one line. -/
def Piece.inLine (p : Piece) (k : HomeKey) (len : Nat) : Option El :=
  let lo := max p.loc.pa k.line
  let hi := min (p.loc.pa + p.bytes.length) (k.line + len)
  if lo < hi then some ⟨0, 0, lo, hi - lo, .store ((p.bytes.drop (lo - p.loc.pa)).take (hi - lo))⟩ else none

/-- The device lines that pieces reach. -/
def State.pieceLines (s : State) (tn : Nat) (ps : List Piece) : List HomeKey :=
  ps.foldl (fun a p => if p.loc.cls = .device then
    (s.linesOf tn p.loc.key.bs p.loc.pa p.bytes.length).foldl (fun a k => if a.contains k then a else a ++ [k]) a else a) []

/-- The timestamp of a landing: the issuer's time, above the read lease and the last write of every destination line (R249,
R251). -/
def State.landTime (s : State) (t : Nat) (ks : List HomeKey) : Nat :=
  ks.foldl (fun m k => nextWts m (s.stamps k).1 (s.stamps k).2) t

/-- One destination line takes the landed bytes and the timestamp (R234, R249); a `na` miss leaves both in memory and in
the slice's summary. -/
def State.landLine (s : State) (x : Xfer) (k : HomeKey) (els : List El) (ts : Nat) : State :=
  let a : Access := { id := 0, word := 0, grp := x.grp, core := x.core, tn := x.tn, seq := x.seq, lanes := 0, kind := .store,
                      cls := .device, key := k, pa := k.line, els := els, vpn := 0, user := x.user, pin := true, va := 0, hp := 0 }
  match s.liveBasin k.tn k.bs with
  | none =>
    let s1 := s.allocate k
    let s2 := { s1 with hbm := storeEls s1.hbm els, dev := els.foldl (fun (d : Dev) (e : El) => d.overwritten e.pa e.len) s1.dev }
    ((s2.mapHome k fun h => { h with wts := ts }).noteEls k els ts).meter x.tn 5 (elBytes els)
  | some b =>
    let s1 := if b.defn.write = 2 && !s.resident k then s else s.allocateFor k true (covers els k.line (s.lineLen k))
    (s1.putHome a (storeEls (s1.lineData k) els) ts 0).noteEls k els ts

/-- LAND: every destination line takes its bytes and one timestamp; scratchpad, host and peer bytes are written where they
stand, but for those that ended in a completion error (R154, R183, R249). The answer carries the timestamp. -/
def State.landPieces (s : State) (x : Xfer) (ps : List Piece) : State × Nat :=
  let s0 := ps.foldl (fun s p => s.recallAt x.tn p.loc p.bytes.length) s
  let ks := s0.pieceLines x.tn ps
  let ts := s0.landTime x.t ks
  let s1 := ks.foldl (fun s k =>
    s.landLine x k ((ps.filter (·.loc.cls == .device)).filterMap (·.inLine k (s.lineLen k))) ts) s0
  let s2 := ps.foldl (fun s p => match p.loc.cls with
    | .scratch => s.spWrite p.loc.key.tn p.loc.pa p.bytes
    | .host =>
      if x.loses p.loc p.bytes.length then s.mapGrp x.grp (·.pending .remoteError (BitVec.ofNat 64 p.loc.va))
      else (s.onDev fun d => { d with host := d.host.setList p.loc.pa p.bytes }).meter x.tn 6 p.bytes.length
    | .peer d =>
      if s.peerGone d || x.loses p.loc p.bytes.length then s.mapGrp x.grp (·.pending .remoteError (BitVec.ofNat 64 p.loc.va))
      else (s.setPeer d ((s.peerMem d).setList p.loc.pa p.bytes)).meter x.tn 7 p.bytes.length
    | _ => s) s1
  (s2, ts)

/-- An access counter step for each place that an engine word of mode U touches (R243). -/
def State.countPlaces (s : State) (x : Xfer) (ls : List Loc) : State :=
  if !x.user then s
  else (ls.filter fun l => !l.pin && l.cls != .scratch).foldl (fun s l => s.countAccess x.core x.tn (l.va % 2 ^ 48)) s

/-- One place for each line that a list of places names. -/
def onePerLine (ls : List Loc) : List Loc :=
  ls.foldl (fun a l => if a.any (fun m => m.cls == l.cls && m.key == l.key) then a else a ++ [l]) []

/-- The meters of remote tiers for bytes that an engine word reads; flash moves whole lines (R223, R312). -/
def State.meterReads (s : State) (x : Xfer) (ls : List (Loc × Nat)) : State :=
  (ls.foldl (fun s l => match l.1.cls with
    | .host => s.meter x.tn 6 l.2
    | .peer _ => s.meter x.tn 7 l.2
    | _ => s) s).meter x.tn 8 (128 * (onePerLine ((ls.map (·.1)).filter (·.cls == .flash))).length)

/-! ## cpy (R181, R182) -/

/-- The checks of one lane of `cpy` in their order (R182): alignment of source and destination, then the source, then the
destination. -/
def State.cpyCheck (s : State) (g : Group) (size : Nat) (srcSp dstSp : Bool) (a d : BitVec 6) (l : Nat) : List XRes :=
  let src := if srcSp then (g.getV a.toNat l).setWidth 64 else g.getV2 a.toNat l
  let dst := if dstSp then (g.getV d.toNat l).setWidth 64 else g.getV2 d.toNat l
  if src.toNat % size ≠ 0 then [.fail .copyAlign src]
  else if dst.toNat % size ≠ 0 then [.fail .copyAlign dst]
  else
    [if srcSp then s.spCheck g src.toNat size .copyAlign else s.xcheck g rqLoad src size,
     if dstSp then s.spCheck g dst.toNat size .copyAlign else s.xcheck g rqStore dst size]

/-- The line of its space in which a place stands: of 128 bytes in a scratchpad (R183). -/
def Loc.unit (l : Loc) : Cls × HomeKey :=
  (l.cls, if l.cls = .scratch then { l.key with line := l.pa / 128 * 128 } else l.key)

/-- The entry of a copy whose destination is memory: it covers no byte of a scratchpad (R184). -/
def sbNone (crew : Nat) : SbEnt := ⟨crew, 0, 0, true⟩

/-- The smallest byte range holding scratchpad elements (R184). -/
def spanOf (crew : Nat) (ls : List Loc) (size : Nat) (dest : Bool) : List SbEnt :=
  match ls with
  | [] => []
  | l :: t => [⟨crew, t.foldl (fun m x => min m x.pa) l.pa, t.foldl (fun m x => max m (x.pa + size)) (l.pa + size), dest⟩]

/-- `cpy` (R182): sources and destinations are checked at issue; the word claims its destination lines, takes its entries
of the range scoreboard, attaches to its barrier and raises cp. -/
def cpyOp (i : Info) (z : BitVec 2) (srcSp dstSp : Bool) (d a : BitVec 6) (b : BitVec 4) (s : State) :
    Host.Outcome State Fault Refusal :=
  let size := 4 * 2 ^ z.toNat
  runWord i s fun P s =>
    if s.cur.cp ≥ 63 then s.stallChain
    else s.xword [] ((lanesOf P).map fun l => (l, s.cpyCheck s.cur size srcSp dstSp a d l)) fun ls s =>
      let els := ls.filterMap fun p => match p.2 with
        | [x, y] => some (⟨p.1, x, y⟩ : CpyEl)
        | _ => none
      let dsts := els.map (·.dst)
      let lines := (els.map fun e => (e.src.unit, e.dst.unit)).dedup.length
      let x := { s.xfer (.cpy size els) with
        claims := (dsts.filter (·.cls == .device)).map (·.key) |>.dedup,
        sb := (if dstSp then spanOf s.cur.crew dsts size true else [sbNone s.cur.crew]) ++
              (if srcSp then spanOf s.cur.crew (els.map (·.src)) size false else []),
        lines := lines, bar := s.barOf b, ctr := some .cp }
      if !s.roomFor x then s.stallWord
      else
        let late := maskOf fun l => els.any fun e => e.lane == l && e.src.cls == .flash
        let s1 := s.launch x
        if late = 0 then s1 else { s1 with ctx := { s1.ctx with leave := s1.ctx.leave ++ [(late, x.id)] } }

/-- `cpy` memory to memory (R181). -/
def execCpyMm (h : Hdr) (z : BitVec 2) (d a : BitVec 6) (b : BitVec 4) (s : State) : Host.Outcome State Fault Refusal :=
  cpyOp (infoCpyMm h d a) z false false d a b s

/-- `cpy` scratchpad to memory (R181). -/
def execCpyMs (h : Hdr) (z : BitVec 2) (d a : BitVec 6) (b : BitVec 4) (s : State) : Host.Outcome State Fault Refusal :=
  cpyOp (infoCpyMs h d a) z true false d a b s

/-- `cpy` memory to scratchpad (R181). -/
def execCpySm (h : Hdr) (z : BitVec 2) (d a : BitVec 6) (b : BitVec 4) (s : State) : Host.Outcome State Fault Refusal :=
  cpyOp (infoCpySm h d a) z false true d a b s

/-- `cpy` scratchpad to scratchpad (R181). -/
def execCpySs (h : Hdr) (z : BitVec 2) (d a : BitVec 6) (b : BitVec 4) (s : State) : Host.Outcome State Fault Refusal :=
  cpyOp (infoCpySs h d a) z true true d a b s

/-- A value that an engine word has read, under capture (R303). -/
def State.remoteBytes (s : State) (x : Xfer) (l : Loc) (bs : List Byte) : State × List Byte :=
  match s.grp? x.grp with
  | some g => s.capWord g x.seq l bs
  | none => (s, bs)

/-- Landing of a `cpy`: every source is read before any destination is written, in ascending lane order (R182); a poisoned
element is not written and POISON is held pending (R154). -/
def State.landCpy (s : State) (x : Xfer) (size : Nat) (els : List CpyEl) : Option State :=
  if els.any fun e => s.waitsFor x e.src size || s.waitsFor x e.dst size then none
  else
    let s0 := els.foldl (fun s e => s.recallAt x.tn e.src size) s
    let (s1, ps) := els.foldl (fun (r : State × List Piece) e =>
      if s0.failsAt x e.src size then (r.1.mapGrp x.grp (·.pending e.src.errCause (BitVec.ofNat 64 e.src.va)), r.2)
      else
        let v := r.1.remoteBytes x e.src (s0.fetchAt x.tn e.src size)
        (v.1, r.2 ++ [⟨e.dst, v.2⟩])) (s0, [])
    let s2 := (s1.countPlaces x (onePerLine (els.map (·.src)) ++ onePerLine (els.map (·.dst)))).meterReads x
      (els.map fun e => (e.src, size))
    let r := s2.landPieces x ps
    some (r.1.retire x r.2 false)

/-! ## Completion errors (R154) -/

/-- The ranges of host and peer memory that an engine word reads or writes: address and length. -/
def Xfer.remotes (x : Xfer) : List (Nat × Nat) :=
  let far := fun (l : Loc) => match l.cls with | .host | .peer _ => true | _ => false
  let pages := fun (map : List (Nat × Loc)) => (map.filter fun p => far p.2).map fun p => (p.2.va / 4096 * 4096, 4096)
  match x.kind with
  | .cpy size els => ((els.flatMap fun e => [e.src, e.dst]).filter far).map fun l => (l.va, size)
  | .tileIn _ _ _ _ map | .tileOut _ _ _ map | .taccMem _ _ map | .taccLd _ _ map => pages map
  | _ => []

/-- A line of an engine word in flight ends in a completion error: which one is a free value (R154, log 3). What the word reads or
writes there is lost when it lands. -/
def State.loseLine (s : State) (x : Xfer) : Option State :=
  let n := Config.freeNat s.free
  (x.remotes[n % x.remotes.length]?).map fun r =>
    let u := (r.1 + n / x.remotes.length % r.2) / 128
    { s.onFlow (fun f => { f with xfers := f.xfers.map fun y => if y.id == x.id then { y with lost := u :: y.lost } else y }) with
      free := s.free + 1 }

/-- The next read of host memory that a group makes within a word, or for a monitor, ends in a completion error: the first read of a
`mon`, a reload, a record or an image (R154, R170). -/
def State.loseRead (s : State) (grp : Nat) : State :=
  s.onFlow fun f => { f with errs := if f.errs.contains grp then f.errs else grp :: f.errs }

/-- REMOTE_ERROR_COMPLETION: of an access, a queue entry, a line of an engine word, or a group's next read within a word (R154). -/
def execRemoteErrorCompletion (a : Nat) (s : State) : Host.Outcome State Fault Refusal :=
  stepWhen s (match s.flow.xfers.find? (·.id == a) with
    | some x => s.loseLine x
    | none => if s.allGroups.any fun g => g.id == a && a != 0 then some (s.loseRead a) else s.remoteError a)

/-! ## mem.bpref (R168) -/

/-- The pages of a virtual range. -/
def pagesOf (va len : Nat) : List Nat := if len = 0 then [] else (List.range ((va + len - 1) / 4096 - va / 4096 + 1)).map fun i => va / 4096 + i

/-- `mem.bpref`: the lines of the range, page by page; a page that fails a check is skipped (R168), and lines of host,
peer, flash and basin-15 pages count as done (R240). The addresses carry the tag of the start address, which is 0. -/
def execMemBpref (h : Hdr) (d : BitVec 6) (n : BitVec 4) (s : State) : Host.Outcome State Fault Refusal :=
  runWord (infoMemBpref h d) s fun _ s =>
    let va := s.cur.getS2 d.toNat
    let len := (s.cur.getS (d.toNat + 2)).toNat
    if bits va 48 16 ≠ 0 ∨ va.toNat + len > 2 ^ 48 then s.fault .align va
    else
      let pgs := pagesOf va.toNat len
      let rs := pgs.map fun p => s.xcheck s.cur rqPref (BitVec.ofNat 64 (p * 4096)) 1
      if rs.any (·.open) then s.xstall rs
      else
        let s1 := (s.xuse s.cur rs).onCur fun g => { g with dropped := g.dropped.filter (!pgs.contains ·) }
        let keys := (rs.filterMap XRes.loc?).flatMap fun x =>
          if x.cls = .device ∧ x.key.bs ≠ 15 then
            let lo := max (x.vpn * 4096) va.toNat
            let hi := min (x.vpn * 4096 + 4096) (va.toNat + len)
            (s1.linesOf s1.cur.tn x.key.bs (x.pa + (lo - x.vpn * 4096)) (hi - lo)).map fun k => (k, x.vpn)
          else []
        let x := { s1.xfer (.bpref keys) with bar := s1.barOf n }
        if len = 0 then s1 else s1.launch x

/-- BPREF_COMPLETE: the last line is in place (R168). -/
def State.bprefDone (s : State) (x : Xfer) : Option State :=
  match x.kind with
  | .bpref keys =>
    if !keys.all fun k => s.open_ k.1 then none
    else
      let s1 := keys.foldl (fun s k => if (s.home? k.1).isSome then s else s.allocate k.1) s
      some (s1.retire x x.t false)
  | _ => none

/-- An engine word in flight, for its step. -/
def onXfer (id : Nat) (f : State → Xfer → Option State) (s : State) : Host.Outcome State Fault Refusal :=
  stepWhen s ((s.flow.xfers.find? (·.id == id)).bind (f s))

/-- BPREF_COMPLETE (R168). -/
def execBprefComplete (x : Nat) (s : State) : Host.Outcome State Fault Refusal := onXfer x State.bprefDone s

end Sys2Proof.Machine
end

