-- ==== Sys2Proof/Machine/FloatOps.lean ====
section
/-!
DEFINITION. The floating words: `vf` (R133, R134), `vfc` (R135, R136), `vh` (R137), `cvt` (R57, R139) and `qnt` (R63,
R64). Each computes its lanes from exact values with one rounding and commits them through `State.floatWrite` (R56).
-/

namespace Sys2Proof.Machine

/-- A floating word that writes v(D): `f` gives the bits and the exceptions of one lane (R56). -/
def floatOp (i : Info) (d : BitVec 6) (f : Group → Nat → Nat × Flags) (s : State) : Host.Outcome State Fault Refusal :=
  runWord i s fun P s =>
    s.floatWrite P (fun l => (f s.cur l).2) false fun g => g.setV d.toNat P fun l => BitVec.ofNat 32 (f s.cur l).1

/-! ## One element -/

/-- The value with a sign given; a NaN gives the canonical NaN (R134). -/
def Fmt.withSign (f : Fmt) (a : FVal) (neg : Bool) (sig : Bool) : Nat × Flags :=
  let fl : Flags := if a.isSig || sig then fNV else 0
  match a with
  | .nan _ => (f.nan, fl)
  | .inf _ => (f.infBits neg, fl)
  | .fin _ m e => (f.exact (.fin neg m e), fl)

/-- The clamp to [+0, 1]: −0, negative values and NaN give +0 (R134). -/
def Fmt.sat01 (f : Fmt) (a : FVal) : Nat × Flags :=
  match a with
  | .nan s => (0, if s then fNV else 0)
  | .inf n => (if n then 0 else f.exact (.fin false 1 0), 0)
  | .fin n m _ => if n ∨ m = 0 then (0, 0)
    else if a.cmp (.fin false 1 0) > 0 then (f.exact (.fin false 1 0), 0) else (f.exact a, 0)

/-- a · 2^n rounded once (R134). Beyond ±600 every exponent gives the same underflow or overflow, so it is held there. -/
def Fmt.scale (f : Fmt) (rm : RM) (fz : Bool) (a : FVal) (n : Int) : Nat × Flags :=
  match a with
  | .nan s => (f.nan, if s then fNV else 0)
  | .inf neg => (f.infBits neg, 0)
  | .fin neg m e => f.roundV rm fz false neg m (e + max (-600) (min 600 n))

/-- A function of R133 on the operands of one lane: rounding mode, FZ, a, b, d as values. -/
def vfLane (f : RM → Bool → FVal → FVal → FVal → Nat × Flags) (d a : BitVec 6) (b : VSrc) (g : Group) (l : Nat) :
    Nat × Flags :=
  let fz := fzOf g.fmode
  f (rmOf g.fmode) fz (f32.read fz (g.getV a.toNat l).toNat) (f32.read fz (vval g b l).toNat)
    (f32.read fz (g.getV d.toNat l).toNat)

/-! ## vf -/

/-- `vf.fadd` (R133, R134). -/
def execVfFadd (h : Hdr) (d a : BitVec 6) (b : VSrc) (s : State) : Host.Outcome State Fault Refusal :=
  floatOp (infoVfFadd h d a b) d (vfLane (fun rm fz a b _ => f32.add rm fz a b) d a b) s

/-- `vf.fsub` (R133, R134). -/
def execVfFsub (h : Hdr) (d a : BitVec 6) (b : VSrc) (s : State) : Host.Outcome State Fault Refusal :=
  floatOp (infoVfFsub h d a b) d (vfLane (fun rm fz a b _ => f32.add rm fz a b.flip) d a b) s

/-- `vf.fmul` (R133, R134). -/
def execVfFmul (h : Hdr) (d a : BitVec 6) (b : VSrc) (s : State) : Host.Outcome State Fault Refusal :=
  floatOp (infoVfFmul h d a b) d (vfLane (fun rm fz a b _ => f32.mul rm fz a b) d a b) s

/-- `vf.ffma` (R133, R134). -/
def execVfFfma (h : Hdr) (d a : BitVec 6) (b : VSrc) (s : State) : Host.Outcome State Fault Refusal :=
  floatOp (infoVfFfma h d a b) d (vfLane (fun rm fz a b d => f32.fma rm fz a b d) d a b) s

/-- `vf.ffms` (R133, R134). -/
def execVfFfms (h : Hdr) (d a : BitVec 6) (b : VSrc) (s : State) : Host.Outcome State Fault Refusal :=
  floatOp (infoVfFfms h d a b) d (vfLane (fun rm fz a b d => f32.fma rm fz a b d.flip) d a b) s

/-- `vf.fmin` (R133, R134). -/
def execVfFmin (h : Hdr) (d a : BitVec 6) (b : VSrc) (s : State) : Host.Outcome State Fault Refusal :=
  floatOp (infoVfFmin h d a b) d (vfLane (fun _ _ a b _ => f32.minmax false a b) d a b) s

/-- `vf.fmax` (R133, R134). -/
def execVfFmax (h : Hdr) (d a : BitVec 6) (b : VSrc) (s : State) : Host.Outcome State Fault Refusal :=
  floatOp (infoVfFmax h d a b) d (vfLane (fun _ _ a b _ => f32.minmax true a b) d a b) s

/-- `vf.fabs` (R133, R134). -/
def execVfFabs (h : Hdr) (d a : BitVec 6) (s : State) : Host.Outcome State Fault Refusal :=
  floatOp (infoVfFabs h d a) d (vfLane (fun _ _ a _ _ => f32.withSign a false false) d a (.reg a)) s

/-- `vf.fneg` (R133, R134). -/
def execVfFneg (h : Hdr) (d a : BitVec 6) (s : State) : Host.Outcome State Fault Refusal :=
  floatOp (infoVfFneg h d a) d (vfLane (fun _ _ a _ _ => f32.withSign a (!a.neg) false) d a (.reg a)) s

/-- `vf.fcopys`: the sign bit of b, whatever b is (R133, R134). -/
def execVfFcopys (h : Hdr) (d a : BitVec 6) (b : VSrc) (s : State) : Host.Outcome State Fault Refusal :=
  floatOp (infoVfFcopys h d a b) d (fun g l => vfLane (fun _ _ a b' _ =>
    f32.withSign a ((vval g b l).getLsbD 31) b'.isSig) d a b g l) s

/-- `vf.ffloor` (R133, R134). -/
def execVfFfloor (h : Hdr) (d a : BitVec 6) (s : State) : Host.Outcome State Fault Refusal :=
  floatOp (infoVfFfloor h d a) d (vfLane (fun _ _ a _ _ => f32.integral .rdn a false) d a (.reg a)) s

/-- `vf.fceil` (R133, R134). -/
def execVfFceil (h : Hdr) (d a : BitVec 6) (s : State) : Host.Outcome State Fault Refusal :=
  floatOp (infoVfFceil h d a) d (vfLane (fun _ _ a _ _ => f32.integral .rup a false) d a (.reg a)) s

/-- `vf.frint` (R133, R134). -/
def execVfFrint (h : Hdr) (d a : BitVec 6) (s : State) : Host.Outcome State Fault Refusal :=
  floatOp (infoVfFrint h d a) d (vfLane (fun rm _ a _ _ => f32.integral rm a true) d a (.reg a)) s

/-- `vf.ftrunc` (R133, R134). -/
def execVfFtrunc (h : Hdr) (d a : BitVec 6) (s : State) : Host.Outcome State Fault Refusal :=
  floatOp (infoVfFtrunc h d a) d (vfLane (fun _ _ a _ _ => f32.integral .rtz a false) d a (.reg a)) s

/-- `vf.fsat` (R133, R134). -/
def execVfFsat (h : Hdr) (d a : BitVec 6) (s : State) : Host.Outcome State Fault Refusal :=
  floatOp (infoVfFsat h d a) d (vfLane (fun _ _ a _ _ => f32.sat01 a) d a (.reg a)) s

/-- `vf.fscale`: a · 2^i32(b) (R133, R134). -/
def execVfFscale (h : Hdr) (d a : BitVec 6) (b : VSrc) (s : State) : Host.Outcome State Fault Refusal :=
  floatOp (infoVfFscale h d a b) d (fun g l =>
    f32.scale (rmOf g.fmode) (fzOf g.fmode) (f32.read (fzOf g.fmode) (g.getV a.toNat l).toNat) (vval g b l).toInt) s

/-! ## vfc -/

/-- A floating compare into a guard (R135): `f` answers the condition and `quiet` says that only a signalling NaN raises
the invalid flag. -/
def fcmpOp (i : Info) (k n : BitVec 3) (a b : BitVec 6) (quiet : Bool) (f : FVal → FVal → Bool) (s : State) :
    Host.Outcome State Fault Refusal :=
  runWord i s fun P s =>
    let x := fun l => f32.read (fzOf s.cur.fmode) (s.cur.getV a.toNat l).toNat
    let y := fun l => f32.read (fzOf s.cur.fmode) (s.cur.getV b.toNat l).toNat
    s.floatWrite P (fun l => if (x l).isSig || (y l).isSig || (!quiet && ((x l).isNan || (y l).isNan)) then fNV else 0) false
      fun g => g.combineG k.toNat n.toNat P fun l => f (x l) (y l)

/-- Whether neither operand is a NaN (R135). -/
def ordered (a b : FVal) : Bool := !a.isNan && !b.isNan

/-- The class of an f32, FZ ignored (R136). -/
def fclass (x : Word) : Nat :=
  match f32.decode x.toNat with
  | .nan s => if s then 8 else 9
  | .inf n => if n then 0 else 7
  | .fin n m _ => if m = 0 then (if n then 3 else 4) else if m < 2 ^ 23 then (if n then 2 else 5) else (if n then 1 else 6)

/-- `vfc.feq` (R135). -/
def execVfcFeq (h : Hdr) (k n : BitVec 3) (a b : BitVec 6) (s : State) : Host.Outcome State Fault Refusal :=
  fcmpOp (infoVfcFeq h k n a b) k n a b true (fun a b => ordered a b && a.cmp b == 0) s

/-- `vfc.fne` (R135). -/
def execVfcFne (h : Hdr) (k n : BitVec 3) (a b : BitVec 6) (s : State) : Host.Outcome State Fault Refusal :=
  fcmpOp (infoVfcFne h k n a b) k n a b true (fun a b => !ordered a b || a.cmp b != 0) s

/-- `vfc.flt` (R135). -/
def execVfcFlt (h : Hdr) (k n : BitVec 3) (a b : BitVec 6) (s : State) : Host.Outcome State Fault Refusal :=
  fcmpOp (infoVfcFlt h k n a b) k n a b false (fun a b => ordered a b && a.cmp b < 0) s

/-- `vfc.fle` (R135). -/
def execVfcFle (h : Hdr) (k n : BitVec 3) (a b : BitVec 6) (s : State) : Host.Outcome State Fault Refusal :=
  fcmpOp (infoVfcFle h k n a b) k n a b false (fun a b => ordered a b && a.cmp b ≤ 0) s

/-- `vfc.fgt` (R135). -/
def execVfcFgt (h : Hdr) (k n : BitVec 3) (a b : BitVec 6) (s : State) : Host.Outcome State Fault Refusal :=
  fcmpOp (infoVfcFgt h k n a b) k n a b false (fun a b => ordered a b && a.cmp b > 0) s

/-- `vfc.fge` (R135). -/
def execVfcFge (h : Hdr) (k n : BitVec 3) (a b : BitVec 6) (s : State) : Host.Outcome State Fault Refusal :=
  fcmpOp (infoVfcFge h k n a b) k n a b false (fun a b => ordered a b && a.cmp b ≥ 0) s

/-- `vfc.fun` (R135). -/
def execVfcFun (h : Hdr) (k n : BitVec 3) (a b : BitVec 6) (s : State) : Host.Outcome State Fault Refusal :=
  fcmpOp (infoVfcFun h k n a b) k n a b true (fun a b => !ordered a b) s

/-- `vfc.ford` (R135). -/
def execVfcFord (h : Hdr) (k n : BitVec 3) (a b : BitVec 6) (s : State) : Host.Outcome State Fault Refusal :=
  fcmpOp (infoVfcFord h k n a b) k n a b true (fun a b => ordered a b) s

/-- `vfc.fclass` raises nothing (R135, R136). -/
def execVfcFclass (h : Hdr) (k n : BitVec 3) (a b : BitVec 6) (s : State) : Host.Outcome State Fault Refusal :=
  runWord (infoVfcFclass h k n a b) s fun P s => s.onCur fun g =>
    g.combineG k.toNat n.toNat P fun l => (g.getV b.toNat l).getLsbD (fclass (g.getV a.toNat l))

/-! ## vh -/

/-- The type of a `vh` word (R137). -/
def vhFmt (t : Bool) : Fmt := if t then bf16 else f16

/-- Both halves of a `vh` word in one lane: flags of both accumulate (R52, R137). -/
def vhLane (t : Bool) (f : Fmt → RM → Bool → FVal → FVal → FVal → Nat × Flags) (d a : BitVec 6) (b : VSrc) (g : Group)
    (l : Nat) : Nat × Flags :=
  let fz := fzOf g.fmode
  let half := fun k =>
    let rd := fun (x : Word) => (vhFmt t).read fz (bits x (16 * k) 16).toNat
    f (vhFmt t) (rmOf g.fmode) fz (rd (g.getV a.toNat l)) (rd (vval g b l)) (rd (g.getV d.toNat l))
  ((half 0).1 + 65536 * (half 1).1, (half 0).2 ||| (half 1).2)

/-- `vh.hadd` (R137). -/
def execVhHadd (h : Hdr) (t : Bool) (d a : BitVec 6) (b : VSrc) (s : State) : Host.Outcome State Fault Refusal :=
  floatOp (infoVhHadd h d a b) d (vhLane t (fun f rm fz a b _ => f.add rm fz a b) d a b) s

/-- `vh.hsub` (R137). -/
def execVhHsub (h : Hdr) (t : Bool) (d a : BitVec 6) (b : VSrc) (s : State) : Host.Outcome State Fault Refusal :=
  floatOp (infoVhHsub h d a b) d (vhLane t (fun f rm fz a b _ => f.add rm fz a b.flip) d a b) s

/-- `vh.hmul` (R137). -/
def execVhHmul (h : Hdr) (t : Bool) (d a : BitVec 6) (b : VSrc) (s : State) : Host.Outcome State Fault Refusal :=
  floatOp (infoVhHmul h d a b) d (vhLane t (fun f rm fz a b _ => f.mul rm fz a b) d a b) s

/-- `vh.hfma` (R137). -/
def execVhHfma (h : Hdr) (t : Bool) (d a : BitVec 6) (b : VSrc) (s : State) : Host.Outcome State Fault Refusal :=
  floatOp (infoVhHfma h d a b) d (vhLane t (fun f rm fz a b d => f.fma rm fz a b d) d a b) s

/-- `vh.hmin` (R137). -/
def execVhHmin (h : Hdr) (t : Bool) (d a : BitVec 6) (b : VSrc) (s : State) : Host.Outcome State Fault Refusal :=
  floatOp (infoVhHmin h d a b) d (vhLane t (fun f _ _ a b _ => f.minmax false a b) d a b) s

/-- `vh.hmax` (R137). -/
def execVhHmax (h : Hdr) (t : Bool) (d a : BitVec 6) (b : VSrc) (s : State) : Host.Outcome State Fault Refusal :=
  floatOp (infoVhHmax h d a b) d (vhLane t (fun f _ _ a b _ => f.minmax true a b) d a b) s

/-- `vh.hneg` (R137). -/
def execVhHneg (h : Hdr) (t : Bool) (d a : BitVec 6) (s : State) : Host.Outcome State Fault Refusal :=
  floatOp (infoVhHneg h d a) d (vhLane t (fun f _ _ a _ _ => f.withSign a (!a.neg) false) d a (.reg a)) s

/-- `vh.habs` (R137). -/
def execVhHabs (h : Hdr) (t : Bool) (d a : BitVec 6) (s : State) : Host.Outcome State Fault Refusal :=
  floatOp (infoVhHabs h d a) d (vhLane t (fun f _ _ a _ _ => f.withSign a false false) d a (.reg a)) s

/-! ## cvt -/

/-- Widens a value to f32 exactly (R57). -/
def widen (v : FVal) : Nat × Flags := (f32.exact v, if v.isSig then fNV else 0)

/-- Narrows an f32 value into a format (R57): saturating formats take infinities to their largest finite value, and a
NaN raises NV there. -/
def Fmt.narrow (f : Fmt) (rm : RM) (fz sat : Bool) (v : FVal) : Nat × Flags :=
  match v with
  | .nan s => (f.nan, if s || sat then fNV else 0)
  | .inf n => if sat then (f.maxBits n, fOF ||| fNX) else (f.infBits n, 0)
  | .fin n m e => f.roundV rm fz sat n m e

/-- Narrows an f32 value to e2m1: every finite value beyond ±6 becomes ±6 with OF and NX, whatever the rounding (R57). -/
def narrowE2m1 (rm : RM) (v : FVal) : Nat × Flags :=
  match v with
  | .fin n m e => if (FVal.fin false 6 0).cmp (.fin false m e) < 0 then (e2m1.maxBits n, fOF ||| fNX) else e2m1.roundV rm false true n m e
  | v => e2m1.narrow rm false true v

/-- Replaces the `w` bits of a word at bit `w`·k (R57). -/
def putPart (old : Word) (w k x : Nat) : Nat :=
  old.toNat / 2 ^ (w * (k + 1)) * 2 ^ (w * (k + 1)) + x * 2 ^ (w * k) + old.toNat % 2 ^ (w * k)

/-- The part of `w` bits of a word at bit `w`·k. -/
def getPart (x : Word) (w k : Nat) : Nat := x.toNat / 2 ^ (w * k) % 2 ^ w

/-- The f32 value of v(A) in a lane, with FZ. -/
def srcF32 (a : BitVec 6) (g : Group) (l : Nat) : FVal := f32.read (fzOf g.fmode) (g.getV a.toNat l).toNat

/-- An integer as the bits of a 32-bit word. -/
def intBits (x : Int) : Nat := (BitVec.ofInt 32 x).toNat

/-- An integer converted to f32 with one rounding (R57). -/
def fromInt (rm : RM) (x : Int) : Nat × Flags := f32.roundV rm false false (decide (x < 0)) x.natAbs 0

/-- The value of an S20 slot as f32, exact and hence with no flag; FZ flushes a subnormal result, and an invalid slot gives the
canonical NaN (R57, R61). -/
def s20ToF32 (fz : Bool) (slot : Nat) : Nat × Flags :=
  match s20Value slot with
  | none => (f32.nan, fSI)
  | some (m, e) => (f32.exact (f32.flush fz (f32.decode (f32.exact (.fin false m e)))), 0)

/-- An f32 value as an S20 slot, always toward +∞ (R57). A tiny inexact result, of exponent field 0, raises NX alone, as the row of
R57 says of an inexact result, where R55 gives such a result UF too (DESIGN CHOICE, log 105). -/
def f32ToS20 (v : FVal) : Nat × Flags :=
  match v with
  | .nan _ => (s20Invalid, fNV)
  | .inf n => if n then (s20Invalid, fNV) else (s20Invalid, fOF)
  | .fin n m e => if m = 0 then (0, 0) else if n then (s20Invalid, fNV)
    else match s20RoundUp m e with
      | some (c, nx) => (c, if nx then fNX else 0)
      | none => (s20Invalid, fOF)

/-- `cvt.f32.i32` (R57). -/
def execCvtF32I32 (h : Hdr) (d a : BitVec 6) (s : State) : Host.Outcome State Fault Refusal :=
  floatOp (infoCvtF32I32 h d a) d (fun g l => fromInt (rmOf g.fmode) (g.getV a.toNat l).toInt) s

/-- `cvt.f32.n32` (R57). -/
def execCvtF32N32 (h : Hdr) (d a : BitVec 6) (s : State) : Host.Outcome State Fault Refusal :=
  floatOp (infoCvtF32N32 h d a) d (fun g l => fromInt (rmOf g.fmode) (g.getV a.toNat l).toNat) s

/-- `cvt.i32.f32` (R57). -/
def execCvtI32F32 (h : Hdr) (d a : BitVec 6) (s : State) : Host.Outcome State Fault Refusal :=
  floatOp (infoCvtI32F32 h d a) d (fun g l => let r := toInt (rmOf g.fmode) (-2147483648) 2147483647 (srcF32 a g l); (intBits r.1, r.2)) s

/-- `cvt.n32.f32` (R57). -/
def execCvtN32F32 (h : Hdr) (d a : BitVec 6) (s : State) : Host.Outcome State Fault Refusal :=
  floatOp (infoCvtN32F32 h d a) d (fun g l => let r := toInt (rmOf g.fmode) 0 4294967295 (srcF32 a g l); (intBits r.1, r.2)) s

/-- `cvt.f32.f16` (R57). -/
def execCvtF32F16 (h : Hdr) (d a : BitVec 6) (s : State) : Host.Outcome State Fault Refusal :=
  floatOp (infoCvtF32F16 h d a) d (fun g l => widen (f16.read (fzOf g.fmode) (getPart (g.getV a.toNat l) 16 0))) s

/-- `cvt.f16.f32` (R57). -/
def execCvtF16F32 (h : Hdr) (d a : BitVec 6) (s : State) : Host.Outcome State Fault Refusal :=
  floatOp (infoCvtF16F32 h d a) d (fun g l => f16.narrow (rmOf g.fmode) (fzOf g.fmode) false (srcF32 a g l)) s

/-- `cvt.f32.bf16` (R57). -/
def execCvtF32Bf16 (h : Hdr) (d a : BitVec 6) (s : State) : Host.Outcome State Fault Refusal :=
  floatOp (infoCvtF32Bf16 h d a) d (fun g l => widen (bf16.read (fzOf g.fmode) (getPart (g.getV a.toNat l) 16 0))) s

/-- `cvt.bf16.f32` (R57). -/
def execCvtBf16F32 (h : Hdr) (d a : BitVec 6) (s : State) : Host.Outcome State Fault Refusal :=
  floatOp (infoCvtBf16F32 h d a) d (fun g l => bf16.narrow (rmOf g.fmode) (fzOf g.fmode) false (srcF32 a g l)) s

/-- `cvt.f32.e4m3` (R57). -/
def execCvtF32E4m3 (h : Hdr) (d a : BitVec 6) (b : BitVec 2) (s : State) : Host.Outcome State Fault Refusal :=
  floatOp (infoCvtF32E4m3 h d a) d (fun g l => widen (e4m3.decode (getPart (g.getV a.toNat l) 8 b.toNat))) s

/-- `cvt.e4m3.f32` (R57). -/
def execCvtE4m3F32 (h : Hdr) (d a : BitVec 6) (b : BitVec 2) (s : State) : Host.Outcome State Fault Refusal :=
  floatOp (infoCvtE4m3F32 h d a) d (fun g l => 
    let r := e4m3.narrow (rmOf g.fmode) false true (srcF32 a g l); (putPart (g.getV d.toNat l) 8 b.toNat r.1, r.2)) s

/-- `cvt.f32.e5m2` (R57). -/
def execCvtF32E5m2 (h : Hdr) (d a : BitVec 6) (b : BitVec 2) (s : State) : Host.Outcome State Fault Refusal :=
  floatOp (infoCvtF32E5m2 h d a) d (fun g l => widen (e5m2.decode (getPart (g.getV a.toNat l) 8 b.toNat))) s

/-- `cvt.e5m2.f32` (R57). -/
def execCvtE5m2F32 (h : Hdr) (d a : BitVec 6) (b : BitVec 2) (s : State) : Host.Outcome State Fault Refusal :=
  floatOp (infoCvtE5m2F32 h d a) d (fun g l => 
    let r := e5m2.narrow (rmOf g.fmode) false false (srcF32 a g l); (putPart (g.getV d.toNat l) 8 b.toNat r.1, r.2)) s

/-- `cvt.f32.e2m1` (R57). -/
def execCvtF32E2m1 (h : Hdr) (d a : BitVec 6) (b : BitVec 3) (s : State) : Host.Outcome State Fault Refusal :=
  floatOp (infoCvtF32E2m1 h d a) d (fun g l => widen (e2m1.decode (getPart (g.getV a.toNat l) 4 b.toNat))) s

/-- `cvt.e2m1.f32` (R57). -/
def execCvtE2m1F32 (h : Hdr) (d a : BitVec 6) (b : BitVec 3) (s : State) : Host.Outcome State Fault Refusal :=
  floatOp (infoCvtE2m1F32 h d a) d (fun g l => 
    let r := narrowE2m1 (rmOf g.fmode) (srcF32 a g l); (putPart (g.getV d.toNat l) 4 b.toNat r.1, r.2)) s

/-- `cvt.f32.s20` (R57). -/
def execCvtF32S20 (h : Hdr) (d a : BitVec 6) (s : State) : Host.Outcome State Fault Refusal :=
  floatOp (infoCvtF32S20 h d a) d (fun g l => s20ToF32 (fzOf g.fmode) (g.getV a.toNat l).toNat) s

/-- `cvt.s20.f32` (R57). -/
def execCvtS20F32 (h : Hdr) (d a : BitVec 6) (s : State) : Host.Outcome State Fault Refusal :=
  floatOp (infoCvtS20F32 h d a) d (fun g l => f32ToS20 (srcF32 a g l)) s

/-! ## qnt -/

/-- A magnitude as `max` takes it: a dyadic number. -/
def dyMax (x y : Nat × Int) : Nat × Int :=
  if (FVal.fin false x.1 x.2).cmp (.fin false y.1 y.2) < 0 then y else x

/-- The largest magnitude of the elements (R63). -/
def blockMax (xs : List FVal) : Nat × Int :=
  xs.foldl (fun m v => match v with | .fin _ k e => dyMax m (k, e) | _ => m) (0, 0)

/-- Whether a block holds a NaN or an infinity (R63). -/
def blockBad (xs : List FVal) : Bool := xs.any fun v => match v with | .fin _ _ _ => false | _ => true

/-- x / scale rounded to nearest even and clamped to −127…127 (R63). -/
def pi8Elem (v : FVal) (sm : Nat) (se : Int) : Int :=
  match v with
  | .fin n m e =>
    if m = 0 then 0
    else
      let (q, qe) := dyDiv m e sm se
      let k := min (roundAt .rne n q qe 0).1 127
      if n then -(k : Int) else k
  | _ => 0

/-- One block in PI8: the slot, the element of a lane's value, and the exceptions (R63). -/
def qntPi8 (xs : List FVal) : Nat × (FVal → Nat) × Flags :=
  if blockBad xs then (s20Invalid, fun _ => 0, fNV)
  else
    let (m, e) := blockMax xs
    if m = 0 then (0, fun _ => 0, 0)
    else
      let (q, qe) := dyDiv m e 127 0
      match s20RoundUp q qe with
      | some (slot, _) =>
        let (sm, se) := (s20Value slot).getD (1, 0)
        (slot, fun v => intBits (pi8Elem v sm se), 0)
      | none => (s20Invalid, fun _ => 0, fNV)

/-- One block in MXFP4: the scale byte, the element of a lane's value, and the exceptions (R64). -/
def qntE2m1 (xs : List FVal) : Nat × (FVal → Nat) × Flags :=
  if blockBad xs then (0xFF, fun _ => 0, fNV)
  else
    let (m, e) := blockMax xs
    if m = 0 then (0x7F, fun _ => 0, 0)
    else
      let x : Int := max (-127) (min 127 ((Nat.log2 m : Int) + e - 2))
      ((x + 127).toNat, fun v => match v with
        | .fin n k e' => (e2m1.roundV .rne false true n k (e' - x)).1
        | _ => 0, 0)

/-- A quantiser: every active lane receives the block's scale, and its element or 0 for padding (R63). -/
def qntOp (i : Info) (d a : BitVec 6) (f : List FVal → Nat × (FVal → Nat) × Flags) (s : State) :
    Host.Outcome State Fault Refusal :=
  runWord i s fun P s =>
    let x := fun l => f32.read (fzOf s.cur.fmode) (s.cur.getV a.toNat l).toNat
    let r := f ((lanesOf P).map x)
    s.floatWrite P (fun l => if l = lowest P then r.2.2 else 0) true fun g =>
      (g.setV d.toNat g.active fun l => BitVec.ofNat 32 (if inMask P l then r.2.1 (x l) else 0)).setV (d.toNat + 1) g.active
        fun _ => BitVec.ofNat 32 r.1

/-- `qnt.pi8` (R63). -/
def execQntPi8 (h : Hdr) (d a : BitVec 6) (s : State) : Host.Outcome State Fault Refusal :=
  qntOp (infoQntPi8 h d a) d a qntPi8 s

/-- `qnt.e2m1` (R64). -/
def execQntE2m1 (h : Hdr) (d a : BitVec 6) (s : State) : Host.Outcome State Fault Refusal :=
  qntOp (infoQntE2m1 h d a) d a qntE2m1 s

end Sys2Proof.Machine
end

