-- ==== Sys2Proof/Machine/Tile.lean ====
section
/-!
DEFINITION. Tile records and tile copies (R188 to R195): the record's fields and checks, the memory a tile touches, its
layout in scratchpad and in the engine buffers, and its landing.
-/

namespace Sys2Proof.Machine

/-! ## Records (R190) -/

/-- The words that take a tile record. -/
inductive TileWord where
  | sp | oa | wb | st | gath | scat | zero | tstSp | tstMem | tld
  deriving DecidableEq, Repr

/-- The record in s(N) to s(N+7) (R190). -/
def Group.tileRec (g : Group) (n : Nat) : TileRec :=
  let w := fun k => g.getS (n + k)
  { far := pair64 (w 0) (w 1), stride := (w 2).toNat, rows := (bits (w 3) 0 16).toNat, cols := (bits (w 3) 16 16).toNat,
    planes := (bits (w 4) 8 4).toNat, code := (bits (w 4) 0 5).toNat, near := w 5, erows := (bits (w 6) 0 16).toNat,
    ecols := (bits (w 6) 16 16).toNat, list := (bits (w 7) 16 16).toNat, core := (bits (w 7) 4 2).toNat,
    mask := (w 7).getLsbD 1, trans := (w 7).getLsbD 0,
    rsvd := bits (w 4) 12 20 != 0 || bits (w 4) 5 3 != 0 || bits (w 7) 6 10 != 0 || bits (w 7) 2 2 != 0 }

/-- The delivered rows and columns (R190). -/
def TileRec.dRows (r : TileRec) : Nat := if r.trans then r.cols else r.rows
def TileRec.dCols (r : TileRec) : Nat := if r.trans then r.rows else r.cols

/-- The existing far rows and columns (R190). -/
def TileRec.nRows (r : TileRec) : Nat := min r.rows r.erows
def TileRec.nCols (r : TileRec) : Nat := min r.cols r.ecols

/-- The origin in a buffer or an accumulator (R190, R201). -/
def TileRec.row0 (r : TileRec) : Nat := (bits r.near 0 16).toNat
def TileRec.col0 (r : TileRec) : Nat := (bits r.near 16 16).toNat

/-- The width of an element in scratchpad, in bits (R190). -/
def TileRec.width (r : TileRec) : Nat :=
  match r.code with
  | 0 | 1 | 17 => 16
  | 6 => 4
  | 18 => 32
  | _ => 8

/-- The width of an element in oa and wb (R190). -/
def TileRec.bufWidth (r : TileRec) : Nat :=
  match r.code with
  | 0 | 1 => 16
  | 6 => 4
  | 7 => r.planes
  | _ => 8

/-- The codes that a word accepts (R192, R202, R203). -/
def TileWord.codes : TileWord → List Nat
  | .sp | .gath | .zero => [0, 1, 2, 5, 6, 7, 16, 17, 18]
  | .oa | .wb => [0, 1, 2, 5, 6, 7]
  | .st | .scat => [0, 1, 2, 5, 16, 17, 18]
  | .tstSp | .tstMem => [0, 1, 2, 5, 7, 18]
  | .tld => [0, 1, 18]

def TileWord.isBuf (k : TileWord) : Bool := k == .oa || k == .wb
def TileWord.isTacc (k : TileWord) : Bool := k == .tstSp || k == .tstMem || k == .tld
def TileWord.byList (k : TileWord) : Bool := k == .gath || k == .scat
def TileWord.writesMem (k : TileWord) : Bool := k == .st || k == .scat || k == .tstMem
def TileWord.readsMem (k : TileWord) : Bool := k == .sp || k == .oa || k == .wb || k == .gath || k == .tld

/-- The first byte of a far row (R190). -/
def TileRec.rowAddr (r : TileRec) (fr : Nat) : DWord := r.far + BitVec.ofNat 64 (fr * r.stride)

/-- The far rows that the tile uses, with the delivered row of each for the words that go by an index list (R193). -/
def TileRec.farRows (r : TileRec) (idx : Option (List (BitVec 16))) : List (Nat × Nat) :=
  match idx with
  | some l => (l.zipIdx.map fun p => (p.2, p.1.toNat)).filter (·.2 < r.erows)
  | none => (List.range r.nRows).map fun i => (i, i)

/-- A run of page elements of one 64 KiB page: the page's address, the first element's index, how many, and the far column
of the first. -/
structure Seg where
  page : DWord
  e    : Nat
  n    : Nat
  fc   : Nat
  deriving DecidableEq, Repr

/-- The segments of a run that starts at page element `e` of a page (R59, R190). -/
def segsFrom (cap : Nat) : Nat → DWord → Nat → Nat → Nat → List Seg
  | 0, _, _, _, _ => []
  | f + 1, page, e, n, fc =>
    if n = 0 then []
    else
      let m := min n (cap - e)
      ⟨page, e, m, fc⟩ :: segsFrom cap f (page + 65536) 0 (n - m) (fc + m)

/-- The segments of a far row, for codes 6 and 7 (R190). -/
def TileRec.segs (r : TileRec) (fr : Nat) : List Seg :=
  let a := r.rowAddr fr
  let off := (bits a 0 16).toNat
  let page := a - BitVec.ofNat 64 off
  if r.code = 6 then segsFrom 131072 3 page (2 * off) r.nCols 0 else segsFrom 65536 3 page off r.nCols 0

/-- The address of the scale slot of page element `e`: 4 bytes for an S20, 2 for an e8m0 (R60). -/
def slotOf (soff : DWord) (code : Nat) (page : DWord) (e : Nat) : DWord :=
  BitVec.ofNat 64 ((vaOf page / 8 + soff.toNat / 8192 * 8192 + (if code = 6 then 2 else 4) * (e / 32)) % 2 ^ 64)

/-- The bytes of memory that hold the elements of a far row (R59, R190). -/
def TileRec.elRanges (r : TileRec) (fr : Nat) : List (DWord × Nat) :=
  if r.nCols = 0 then []
  else match r.code with
    | 7 => (r.segs fr).flatMap fun s => (List.range r.planes).map fun p =>
        (s.page + BitVec.ofNat 64 (p * 8192 + s.e / 8), (s.e + s.n - 1) / 8 - s.e / 8 + 1)
    | 6 => [(r.rowAddr fr, (r.nCols + 1) / 2)]
    | _ => [(r.rowAddr fr, r.nCols * (r.width / 8))]

/-- The bytes of the scale slots of a segment. -/
def slotRange (soff : DWord) (code : Nat) (s : Seg) : DWord × Nat :=
  (slotOf soff code s.page s.e, (if code = 6 then 2 else 4) * ((s.e + s.n - 1) / 32 - s.e / 32 + 1))

/-- Inserts an address, keeping the lowest of each 4 KiB page, in ascending order. -/
def insertAddr : List Nat → Nat → List Nat
  | [], x => [x]
  | y :: t, x => if x / 4096 = y / 4096 then min x y :: t else if x < y then x :: y :: t else y :: insertAddr t x

/-- The lowest byte touched in each page, ascending (R191). -/
def touched (rs : List (DWord × Nat)) : List Nat :=
  rs.foldl (fun a r => (List.range ((r.1.toNat + r.2 - 1) / 4096 - r.1.toNat / 4096 + 1)).foldl (fun a i =>
    insertAddr a (max r.1.toNat ((r.1.toNat / 4096 + i) * 4096))) a) []

/-! ## Checks (R191) -/

/-- The buffer depth of R188. -/
def depthOf (w : Nat) : Nat := 2048 / w

/-- Whether the crew has a matrix group on one of its cores. -/
def Crew.matrixOn (c : Crew) (i : Nat) : Bool := decide (i < c.width) && c.matrix.contains (c.base + i)

/-- Whether far column 0 of an existing row has an element index that is no multiple of 32 (R191). -/
def TileRec.unevenRow (r : TileRec) (idx : Option (List (BitVec 16))) : Bool :=
  r.nCols != 0 && (r.farRows idx).any fun p => (r.segs p.2).head?.any fun s => s.e % 32 != 0

/-- Check 1 (R191). -/
def State.tileBad (s : State) (k : TileWord) (r : TileRec) : Bool :=
  let c := s.crew s.cur.crew
  r.rsvd || (!k.byList && r.list != 0) || (!k.isBuf && r.core != 0) || (k == .tstSp && bits r.far 32 32 != 0) ||
    r.rows == 0 || r.cols == 0 || !k.codes.contains r.code || (r.code == 7 && (r.planes == 0 || r.planes > 8)) ||
    (r.code == 7 && k.isBuf && !([2, 4, 8].contains r.planes)) || (r.trans && (r.code == 6 || r.code == 7 || k.byList)) ||
    (k.isTacc && (r.row0 + r.dRows > 128 || r.col0 + r.dCols > 128)) ||
    (k.isBuf && (!c.matrixOn r.core || r.row0 + r.dRows > 128 || r.col0 + r.dCols > depthOf r.bufWidth)) ||
    (k.isBuf && (r.code == 6 || r.code == 7) && (r.col0 % 32 != 0 || r.unevenRow none)) ||
    (k == .tstMem && r.code == 7 && r.unevenRow none)

/-- The pitch of a scratchpad tile in bytes (R194). -/
def TileRec.pitch (r : TileRec) : Nat := 16 * ((r.dCols * r.width + 127) / 128)

/-- The 32-column segments of a delivered row. -/
def TileRec.nSegs (r : TileRec) : Nat := (r.dCols + 31) / 32

/-- The bytes of a scale or mask area (R194). -/
def TileRec.areaLen (r : TileRec) : Nat := 4 * r.dRows * r.nSegs

/-- The scratchpad range of the tile itself: that of R194 at near, or the far rows of `tacc.tst.sp` (R190, R194). -/
def TileRec.spTile (r : TileRec) (k : TileWord) : Nat × Nat :=
  if k = .tstSp then
    let far := r.far.toNat
    if r.nRows = 0 ∨ r.nCols = 0 then (far, far) else (far, far + (r.nRows - 1) * r.stride + r.nCols * (r.width / 8))
  else (r.near.toNat, r.near.toNat + r.dRows * r.pitch)

/-- The first byte after the tile, where its scale area begins: for `tacc.tst.sp`, whose tile stands in far rows, past the last of them
(R194, R202). -/
def TileRec.areaAt (r : TileRec) (k : TileWord) : Nat :=
  if k = .tstSp then r.far.toNat + r.rows * r.stride else r.near.toNat + r.dRows * r.pitch

/-- Whether a word uses a scratchpad range for its tile. -/
def TileWord.usesSp : TileWord → Bool
  | .sp | .st | .gath | .scat | .zero | .tstSp => true
  | _ => false

/-- Whether a mask area follows a scratchpad tile: `tcpy.zero` alone writes none (R194). -/
def TileRec.masked (r : TileRec) (k : TileWord) : Bool := k.usesSp && k != .zero && r.mask

/-- The end of the tile with its scale area, if it has one, and its mask area (R194). -/
def TileRec.spEnd (r : TileRec) (k : TileWord) (scales : Bool) : Nat :=
  let masks := r.masked k
  if scales || masks then
    max (r.spTile k).2 (r.areaAt k + (if scales then r.areaLen else 0) + (if masks then r.areaLen else 0))
  else (r.spTile k).2

/-- The rows of a gather or scatter whose entry of the index list is poison at issue (R193, R299). -/
def State.indexLost (s : State) (crew : Nat) (r : TileRec) : List Nat :=
  (List.range r.dRows).filter fun i => s.spPoison crew (16 * r.list + 2 * i) 2

/-- The index list of a gather or scatter, read at issue (R193); a poisoned entry names no row. -/
def State.indexList (s : State) (crew : Nat) (r : TileRec) : List (BitVec 16) :=
  (List.range r.dRows).map fun i =>
    if s.spPoison crew (16 * r.list + 2 * i) 2 then 0xFFFF
    else BitVec.ofNat 16 (leNat (s.spRead crew (16 * r.list + 2 * i) 2))

/-- POISON held pending for the group in issue when the list that its word reads is poison there (R154, R299). -/
def State.listPoison (s : State) (o n : Nat) : State :=
  match (List.range n).find? fun i => s.spPoison s.cur.crew (o + 2 * i) 2 with
  | some i => s.onCur (·.pending .poison (BitVec.ofNat 64 (o + 2 * i)))
  | none => s

/-- Check 3 (R191): a scratchpad range, taken without a scale area but for `tacc.tst.sp`, or the index list, passes the
crew's bytes; the answer is the lowest offset beyond them. -/
def State.tileSp (s : State) (k : TileWord) (r : TileRec) : Option DWord :=
  let cap := (s.crew s.cur.crew).scratch
  let lo := (r.spTile k).1
  let hi := r.spEnd k (k == .tstSp && r.code == 7)
  if k.usesSp && decide (hi > cap) then some (BitVec.ofNat 64 (max lo cap))
  else if k.byList && decide (16 * r.list + 2 * r.dRows > cap) then some (BitVec.ofNat 64 (max (16 * r.list) cap))
  else none

/-- The pages a word accepts, by its code (R190, R193, R202). -/
def TileWord.accepts (k : TileWord) (code _ fm : Nat) : Bool :=
  if code = 7 then (if k = .tstMem then fm == 2 else fm == 1 || fm == 2) else if code = 6 then fm == 3 else fm == 0

/-- The translated page of a failed or passed check, from its first byte. -/
def pageBase (ea : Nat) (x : Loc) : Nat × Loc := (ea / 4096, { x with pa := x.pa - ea % 4096, va := x.va - ea % 4096 })

/-- Whether the page that holds an element has FM 2, by a word's page map. -/
def fm2At (map : List (Nat × Loc)) (ea : DWord) : Bool := (map.find? (·.1 == ea.toNat / 4096)).any (·.2.fm == 2)

/-- The page of a segment's first byte. -/
def Seg.byte (s : Seg) (code : Nat) : DWord := s.page + BitVec.ofNat 64 (if code = 6 then s.e / 2 else s.e / 8)

/-- The scale slots that a tile uses: those of every segment on a page that has them (R190). -/
def TileRec.slotRanges (r : TileRec) (soff : DWord) (idx : Option (List (BitVec 16))) (map : List (Nat × Loc)) :
    List (DWord × Nat) :=
  if r.code = 6 ∨ r.code = 7 then
    (r.farRows idx).flatMap fun p =>
      ((r.segs p.2).filter fun sg => r.code == 6 || fm2At map (sg.byte 7)).map (slotRange soff r.code)
  else []

/-- The bytes of memory that hold a tile's elements. -/
def TileRec.elements (r : TileRec) (idx : Option (List (BitVec 16))) : List (DWord × Nat) :=
  (r.farRows idx).flatMap fun p => r.elRanges p.2

/-- The bytes of memory that a tile reaches: elements and scale slots. -/
def TileRec.memRanges (r : TileRec) (soff : DWord) (idx : Option (List (BitVec 16))) (map : List (Nat × Loc)) :
    List (DWord × Nat) := r.elements idx ++ r.slotRanges soff idx map

/-- Check 4 (R191): the memory bytes of the tile, elements and scales, in ascending address order. -/
def State.tileMem (s : State) (g : Group) (k : TileWord) (r : TileRec) (idx : Option (List (BitVec 16))) : List (Nat × XRes) :=
  let els := (touched (r.elements idx)).map fun ea =>
    (ea, s.xcheck g ⟨k.writesMem, false, false, false, k.accepts r.code⟩ (BitVec.ofNat 64 ea) 1)
  let map := els.filterMap fun e => e.2.loc?.map fun x => pageBase e.1 x
  let slots := (touched (r.slotRanges (s.tenant g.tn).soff idx map)).map fun ea =>
    (ea, s.xcheck g ⟨k.writesMem, false, false, false, fun _ _ => true⟩ (BitVec.ofNat 64 ea) 1)
  slots.foldl (fun a e => insertRes a e) els
where
  /-- Keeps the checks in ascending address order. -/
  insertRes : List (Nat × XRes) → Nat × XRes → List (Nat × XRes)
    | [], e => [e]
    | y :: t, e => if e.1 < y.1 then e :: y :: t else y :: insertRes t e

/-- Whether a scale area follows the delivered tile of `tcpy.sp` or `tcpy.gath` (R191, R194). -/
def TileRec.scaleArea (r : TileRec) (idx : Option (List (BitVec 16))) (map : List (Nat × Loc)) : Bool :=
  r.code == 6 || (r.code == 7 && (r.farRows idx).any fun p => (r.segs p.2).any fun sg => fm2At map (sg.byte 7))

/-- The line transfers of a tile, counted row by row (R183). -/
def tileLines (rs : List (DWord × Nat)) : Nat :=
  rs.foldl (fun n r => n + ((r.1.toNat + r.2 - 1) / 128 - r.1.toNat / 128 + 1)) 0

/-- The places of byte ranges by a word's page map, cut at multiples of 64 bytes: address, place and length. -/
def State.placesIn (s : State) (tn : Nat) (map : List (Nat × Loc)) (rs : List (DWord × Nat)) : List (Nat × Loc × Nat) :=
  rs.flatMap fun r => (cutsOf r.1.toNat r.2 64).filterMap fun c =>
    (s.placeIn tn map (r.1.toNat + c.1)).map fun l => (r.1.toNat + c.1, l, c.2)

/-- The device lines that byte ranges touch, by a word's page map: what it claims (R183, R195). -/
def State.claimsOf (s : State) (tn : Nat) (map : List (Nat × Loc)) (rs : List (DWord × Nat)) : List HomeKey :=
  (s.placesIn tn map rs).foldl (fun a p => if p.2.1.cls = .device ∧ !a.contains p.2.1.key then a ++ [p.2.1.key] else a) []

/-- The checks of R191 in their order; `go` receives the index list and the page map. -/
def State.tileCheck (s : State) (k : TileWord) (n : Nat) (go : Option (List (BitVec 16)) → List (Nat × Loc) → State → State) :
    State :=
  let r := s.cur.tileRec n
  let num := BitVec.ofNat 64 n
  if s.tileBad k r then s.fault .tileBounds num
  else if k != .zero && r.width ≥ 16 && (r.far.toNat % (r.width / 8) != 0 || r.stride % (r.width / 8) != 0) then
    s.fault .copyAlign num
  else match s.tileSp k r with
    | some o => s.fault .spRange o
    | none =>
      let idx := if k.byList then some (s.indexList s.cur.crew r) else none
      if k = .zero ∨ k = .tstSp then go idx [] s
      else
        let rs := s.tileMem s.cur k r idx
        s.xone (rs.map (·.2)) fun _ s =>
          let map := rs.filterMap fun e => e.2.loc?.map fun x => pageBase e.1 x
          let cap := (s.crew s.cur.crew).scratch
          let area := (k == .sp || k == .gath) && r.scaleArea idx map
          if area && r.unevenRow idx then s.fault .tileBounds num
          else if area && decide (r.spEnd k true > cap) then s.fault .spRange (BitVec.ofNat 64 (max r.near.toNat cap))
          else go idx map s

/-! ## Reading a tile from memory (R59, R190, R195) -/

/-- What a tile word has read: its page map, the tenant's shadow offset, the bytes by address, and the addresses of bytes that it
could not have (R154). -/
structure TileSrc where
  soff : DWord
  map  : List (Nat × Loc)
  mem  : SMap 8
  lost : List Nat
  deriving DecidableEq, Repr

/-- Reads byte ranges: lines held exclusively return first, host and peer bytes and first reads of pages go through capture, and
what fails is held pending at its address (R154, R254, R303). -/
def State.tileFetch (s : State) (x : Xfer) (src : TileSrc) (rs : List (DWord × Nat)) : State × TileSrc :=
  let ps := s.placesIn x.tn src.map rs
  let s0 := ps.foldl (fun s p => s.recallAt x.tn p.2.1 p.2.2) s
  ps.foldl (fun r p =>
    let bad := if s0.failsAt x p.2.1 p.2.2 then
        (List.range p.2.2).filter fun i => s0.failsAt x (s0.offset x.tn p.2.1 i) 1 else []
    let bs := s0.fetchAt x.tn p.2.1 p.2.2
    match bad with
    | [] => let v := r.1.remoteBytes x p.2.1 bs; (v.1, { r.2 with mem := r.2.mem.setList p.1 v.2 })
    | i :: _ => (r.1.mapGrp x.grp (·.pending p.2.1.errCause (BitVec.ofNat 64 (p.1 + i))),
        { r.2 with mem := r.2.mem.setList p.1 bs, lost := r.2.lost ++ bad.map (p.1 + ·) })) (s0, src)

/-- The segment of a far row that holds a far column. -/
def TileRec.segOf (r : TileRec) (fr fc : Nat) : Option (Seg × Nat) :=
  ((r.segs fr).find? fun s => decide (s.fc ≤ fc) && decide (fc < s.fc + s.n)).map fun s => (s, s.e + (fc - s.fc))

/-- The segments of a far row that hold an existing element. -/
def TileRec.liveSegs (r : TileRec) : Nat := (r.nCols + 31) / 32

/-- The bytes of an existing far element. -/
def TileRec.bytesOf (r : TileRec) (fr fc : Nat) : List DWord :=
  match r.code with
  | 7 => match r.segOf fr fc with
    | some (s, e) => (List.range r.planes).map fun p => s.page + BitVec.ofNat 64 (p * 8192 + e / 8)
    | none => []
  | 6 => [r.rowAddr fr + BitVec.ofNat 64 (fc / 2)]
  | _ => (List.range (r.width / 8)).map fun i => r.rowAddr fr + BitVec.ofNat 64 (fc * (r.width / 8) + i)

/-- The bytes of the scale slot of an existing far element's block; none on a page of FM 1 (R60, R190). -/
def TileSrc.slotBytes (src : TileSrc) (r : TileRec) (fr fc : Nat) : List DWord :=
  match r.segOf fr fc with
  | some (sg, e) =>
    if r.code = 7 ∧ !fm2At src.map (sg.byte 7) then []
    else (List.range (if r.code = 6 then 2 else 4)).map fun i => slotOf src.soff r.code sg.page e + BitVec.ofNat 64 i
  | none => []

/-- The value of bytes that have been read. -/
def TileSrc.value (src : TileSrc) (bs : List DWord) : Nat := leNat (bs.map fun ea => src.mem.get ea.toNat)

/-- Whether a byte among these could not be had. -/
def TileSrc.bad (src : TileSrc) (bs : List DWord) : Bool := bs.any fun ea => src.lost.contains ea.toNat

/-- An existing far element: its code bits, or for code 7 the truncated value t (R58, R59, R190). -/
def TileSrc.elem (src : TileSrc) (r : TileRec) (fr fc : Nat) : Int :=
  let bs := r.bytesOf fr fc
  match r.code with
  | 7 => planeInt r.planes (((r.segOf fr fc).map (·.2)).getD 0 % 8) fun p => [src.mem.get (bs.getD p 0).toNat]
  | 6 => ((src.value bs / 16 ^ (fc % 2) % 16 : Nat) : Int)
  | _ => (src.value bs : Int)

/-- The scale of an existing far element's block: 1.0 on a page of FM 1 (R60, R190). -/
def TileSrc.slot (src : TileSrc) (r : TileRec) (fr fc : Nat) : Nat :=
  match src.slotBytes r fr fc with
  | [] => 0x0007F000
  | bs => src.value bs

/-- The far element behind a delivered position, if it exists (R190, R193). -/
def TileRec.farOf (r : TileRec) (idx : Option (List (BitVec 16))) (dr dc : Nat) : Option (Nat × Nat) :=
  let p := if r.trans then (dc, dr) else match idx with
    | some l => ((l.getD dr 0xFFFF).toNat, dc)
    | none => (dr, dc)
  if p.1 < r.erows ∧ p.2 < r.ecols then some p else none

/-- The element bytes that `tcpy.wb` reads: a block whose scale is the S20 zero is not fetched (R192). -/
def TileSrc.kept (src : TileSrc) (r : TileRec) : List (DWord × Nat) :=
  (r.farRows none).flatMap fun p => (List.range r.liveSegs).flatMap fun j =>
    match r.segOf p.2 (32 * j) with
    | some (sg, e) =>
      if src.slot r p.2 (32 * j) = 0 then []
      else (List.range r.planes).map fun q =>
        (sg.page + BitVec.ofNat 64 (q * 8192 + e / 8), (min 32 (r.nCols - 32 * j) + 7) / 8)
    | none => []

/-- A tile read: the scale slots, then the elements; the access counter steps for every line, and the meters of remote tiers count
(R192, R223, R243). `elide` is for a scaled copy to wb. -/
def State.tileRead (s : State) (x : Xfer) (map : List (Nat × Loc)) (r : TileRec) (idx : Option (List (BitVec 16))) (elide : Bool) :
    State × TileSrc :=
  let sl := r.slotRanges (s.tenant x.tn).soff idx map
  let a := s.tileFetch x ⟨(s.tenant x.tn).soff, map, [], []⟩ sl
  let el := if elide then a.2.kept r else r.elements idx
  let b := a.1.tileFetch x a.2 el
  let ls := (b.1.placesIn x.tn map (sl ++ el)).map (·.2)
  ((b.1.countPlaces x (onePerLine (ls.map (·.1)))).meterReads x ls, b.2)

/-- Whether nothing holds up a word's reads or writes of byte ranges (R239, R249, R258, R259). -/
def State.tileClear (s : State) (x : Xfer) (map : List (Nat × Loc)) (rs : List (DWord × Nat)) : Bool :=
  !(s.placesIn x.tn map rs).any fun p => s.waitsFor x p.2.1 p.2.2

/-! ## The scratchpad layout (R194) -/

/-- The value of a delivered element in scratchpad, `w` bits: t · 2^(8−k) for code 7; padding is 0 (R190). -/
def TileSrc.spElem (src : TileSrc) (r : TileRec) (idx : Option (List (BitVec 16))) (dr dc : Nat) : Nat :=
  match r.farOf idx dr dc with
  | none => 0
  | some (fr, fc) =>
    let v := src.elem r fr fc
    (if r.code = 7 then (v * 2 ^ (8 - r.planes)) % 256 else v).toNat

/-- The stores of one delivered row at its pitch; a byte of which nothing could be had is not written (R154, R194). -/
def State.spRow (s : State) (crew : Nat) (src : TileSrc) (r : TileRec) (idx : Option (List (BitVec 16))) (dr : Nat) :
    List (Nat × List Byte) :=
  let w := r.width
  let o := r.near.toNat + dr * r.pitch
  let old := leNat (s.spRead crew o r.pitch)
  let bad := fun dc => decide (dc < r.dCols) && (r.farOf idx dr dc).any fun p => src.bad (r.bytesOf p.1 p.2)
  let bs := leBytes ((List.range r.dCols).foldl (fun a dc =>
    a + (if bad dc then old / 2 ^ (w * dc) % 2 ^ w else src.spElem r idx dr dc) * 2 ^ (w * dc)) 0) r.pitch
  if !(List.range r.dCols).any bad then [(o, bs)]
  else (bs.zipIdx.filter fun b => !(List.range (max 1 (8 / w))).all fun k => bad (8 * b.2 / w + k)).map fun b => (o + b.2, [b.1])

/-- The far element that gives a 32-column segment its scale: the first that exists (R194). -/
def TileRec.segHead (r : TileRec) (idx : Option (List (BitVec 16))) (dr j : Nat) : Option (Nat × Nat) :=
  (List.range 32).findSome? fun e => if 32 * j + e < r.dCols then r.farOf idx dr (32 * j + e) else none

/-- The scale slot of a 32-column segment: its block's, or the S20 zero where all is padding; none where it could not be had
(R154, R194). -/
def TileSrc.segSlot (src : TileSrc) (r : TileRec) (idx : Option (List (BitVec 16))) (dr j : Nat) : Option Nat :=
  match r.segHead idx dr j with
  | some (fr, fc) => if src.bad (src.slotBytes r fr fc) then none else some (src.slot r fr fc)
  | none => some 0

/-- The mask word of a segment: a bit is 1 where the element is padding or lies at or beyond C (R194). -/
def TileRec.maskWord (r : TileRec) (idx : Option (List (BitVec 16))) (dr j : Nat) : Nat :=
  (List.range 32).foldl (fun a e =>
    if 32 * j + e < r.dCols ∧ (r.farOf idx dr (32 * j + e)).isSome then a else a + 2 ^ e) 0

/-- The stores of an area at an offset: a word for each segment of a row (R194). -/
def TileRec.areaRow (r : TileRec) (o dr : Nat) (f : Nat → Option Nat) : List (Nat × List Byte) :=
  (List.range r.nSegs).filterMap fun j => (f j).map fun v => (o + 4 * (dr * r.nSegs + j), leBytes v 4)

/-- The scratchpad stores of a delivered tile: rows, scales, masks (R194). Rows in `skip` keep what stood there (R299). -/
def State.spTileStores (s : State) (crew : Nat) (src : TileSrc) (r : TileRec) (idx : Option (List (BitVec 16))) (skip : List Nat) :
    List (Nat × List Byte) :=
  let at_ := r.near.toNat + r.dRows * r.pitch
  let scales := r.scaleArea idx src.map
  ((List.range r.dRows).filter fun dr => !skip.contains dr).flatMap fun dr =>
    s.spRow crew src r idx dr ++
      (if scales then r.areaRow at_ dr (src.segSlot r idx dr) else []) ++
      (if r.mask then r.areaRow (at_ + if scales then r.areaLen else 0) dr fun j => some (r.maskWord idx dr j) else [])

/-! ## Engine buffers (R188) -/

/-- Writes `w` bits at a bit position of a byte store; a width below 8 lies within one byte. -/
def setBits (m : SMap 8) (bit w v : Nat) : SMap 8 :=
  if w ≥ 8 then m.setList (bit / 8) (leBytes v (w / 8))
  else
    let old := (m.get (bit / 8)).toNat
    let k := bit % 8
    m.set (bit / 8) (BitVec.ofNat 8 (old / 2 ^ (k + w) * 2 ^ (k + w) + v % 2 ^ w * 2 ^ k + old % 2 ^ k))

/-- Reads `w` bits at a bit position. -/
def getBits (m : SMap 8) (bit w : Nat) : Nat :=
  if w ≥ 8 then leNat (m.getList (bit / 8) (w / 8)) else (m.get (bit / 8)).toNat / 2 ^ (bit % 8) % 2 ^ w

/-- The byte of the oa store where oaN begins, and of the wb store where wbN begins. -/
def oaAt (n : Nat) : Nat := 40960 * n
def wbAt (n : Nat) : Nat := 65536 * n

/-- The bit of A(i, c) in the oa store (R188). -/
def oaBit (n w i c : Nat) : Nat := 8 * (oaAt n + 256 * i) + w * c

/-- The bit of B(k, n) in the wb store (R188). -/
def wbBit (b w k n : Nat) : Nat := 8 * wbAt b + w * (128 * k + n)

/-- The byte of the A scale slot of row i, block j (R188). -/
def oaSlot (n w i j : Nat) : Nat :=
  if w = 2 ∧ i ≥ 64 then oaAt (n ^^^ 1) + 32768 + 4 * ((i - 64) * 32 + j) else oaAt n + 32768 + 4 * (i * (depthOf w / 32) + j)

/-- The byte of the B scale slot of block j, column n (R188). -/
def wbSlot (b j n : Nat) : Nat := wbAt b + 32768 + 4 * (128 * j + n)

/-- Landing in oa or wb (R192): elements, then the scale slot of each block touched. In wb a block whose scale is the S20
zero is elided and reads as 0. -/
def TileSrc.toBuffer (src : TileSrc) (oa : Bool) (buf : Nat) (r : TileRec) (e : Engine) : Engine :=
  let w := r.bufWidth
  let scaled := r.code == 6 || r.code == 7
  (List.range r.dRows).foldl (fun e dr =>
    let i := r.row0 + dr
    (List.range r.nSegs).foldl (fun e sg =>
      let slot := if scaled then src.segSlot r none dr sg else some 0
      let elide := !oa && r.code == 7 && slot == some 0
      let e1 := (List.range (min 32 (r.dCols - 32 * sg))).foldl (fun (e : Engine) q =>
        let dc := 32 * sg + q
        let c := r.col0 + dc
        let v := match r.farOf none dr dc with
          | some (fr, fc) =>
            if elide then some 0
            else if src.bad (r.bytesOf fr fc) then none
            else some (src.elem r fr fc % 2 ^ w).toNat
          | none => some 0
        match v with
        | some v =>
          if oa then { e with oa := setBits e.oa (oaBit buf w i c) w v } else { e with wb := setBits e.wb (wbBit buf w c i) w v }
        | none => e) e
      match (if scaled then slot else none) with
      | some v =>
        let j := r.col0 / 32 + sg
        if oa then { e1 with oa := e1.oa.setList (oaSlot buf w i j) (leBytes v 4) }
        else { e1 with wb := e1.wb.setList (wbSlot buf j i) (leBytes v 4) }
      | none => e1) e) e

/-- Whether a tile writes every element of a buffer. -/
def TileRec.fills (r : TileRec) : Bool :=
  r.row0 == 0 && r.col0 == 0 && r.dRows == 128 && r.dCols == depthOf r.bufWidth

/-- Poison of a buffer ends when a tile fills it (log 14). -/
def Engine.filled (e : Engine) (oa : Bool) (buf : Nat) (r : TileRec) : Engine :=
  if r.fills then { e with poisoned := e.poisoned.filter (· != (if oa then buf else 4 + buf)) } else e

/-! ## The order of use of engine buffers (R189) -/

/-- Whether an engine word may act: every earlier-issued word that it has to wait for has completed (R189). A stopped stroke
keeps its place (R291). -/
def State.engineTurn (s : State) (x : Xfer) : Bool := !s.flow.xfers.any (s.engineBehind x)

/-! ## tcpy (R192) -/

/-- The ring stage a ring form attaches to; `none` faults (R178). -/
def State.ringStage (s : State) (q : BitVec 3) : Option Nat :=
  let r := s.ring s.cur.crew q.toNat
  if r.valid then r.held.head? else none

/-- The scoreboard entry of a word's scratchpad range: a destination, or a source for `st` and `scat` (R195). -/
def TileRec.sbOf (r : TileRec) (k : TileWord) (crew : Nat) (scales : Bool) : List SbEnt :=
  match k with
  | .sp | .gath | .zero | .tstSp => [⟨crew, (r.spTile k).1, r.spEnd k scales, true⟩]
  | .st | .scat => [⟨crew, (r.spTile k).1, r.spEnd k scales, false⟩]
  | _ => []

/-- Sets the content tag of a buffer (R189, R192). -/
def setTag (l : List (Nat × BufTag)) (b : Nat) (t : BufTag) : List (Nat × BufTag) := (b, t) :: l.filter (·.1 != b)

/-- A tile copy at issue: the checks of R191, the ring of R178, then the claims, the scoreboard entry, the attachment, the
tag and the counter (R192, R195). -/
def tcpyOp (i : Info) (k : TileWord) (ring : Bool) (q : BitVec 3) (b : Option (BitVec 4)) (n : BitVec 5) (buf : Nat)
    (s : State) : Host.Outcome State Fault Refusal :=
  runWord i s fun _ s =>
    if s.cur.tl ≥ 63 then s.stallChain
    else s.tileCheck k n.toNat fun idx map s =>
      let r := s.cur.tileRec n.toNat
      if ring && (s.ringStage q).isNone then s.fault .ringMisuse (numVal q)
      else
        let kind : XKind := match k with
          | .sp | .gath => .tileIn 0 0 r (idx.getD []) map
          | .oa => .tileIn 1 buf r [] map
          | .wb => .tileIn 2 buf r [] map
          | .st => .tileOut r [] false map
          | .scat => .tileOut r (idx.getD []) true map
          | _ => .tileZero r
        let rs := if k = .zero then [] else r.memRanges (s.tenant s.cur.tn).soff idx map
        let x := { s.xfer kind with
          skip := if k.byList then s.indexLost s.cur.crew r else [],
          claims := if k.writesMem then s.claimsOf s.cur.tn map rs else [],
          sb := r.sbOf k s.cur.crew ((k == .sp || k == .gath) && r.scaleArea idx map), lines := tileLines rs,
          bar := b.bind s.barOf, ring := if ring then (s.ringStage q).map fun i => (q, i) else none, ctr := some .tl }
        if !s.roomFor x then s.stallWord
        else
          let s1 := (s.launch x).listPoison (16 * r.list) (if k.byList then r.dRows else 0)
          let tag : BufTag := ⟨r.code, r.planes, r.code == 6 || r.code == 7⟩
          match s1.engineCore x with
          | some c => s1.mapCore c fun e =>
              if k = .oa then { e with eng := { e.eng with oaTag := setTag e.eng.oaTag buf tag } }
              else { e with eng := { e.eng with wbTag := setTag e.eng.wbTag buf tag } }
          | none => s1

/-- `tcpy.sp` (R192). -/
def execTcpySp (h : Hdr) (r : Bool) (q : BitVec 3) (b : BitVec 4) (n : BitVec 5) (s : State) : Host.Outcome State Fault Refusal :=
  tcpyOp (infoTcpySp h n) .sp r q (some b) n 0 s

/-- `tcpy.oa` (R192). -/
def execTcpyOa (h : Hdr) (r : Bool) (q : BitVec 3) (b : BitVec 4) (n : BitVec 5) (x : BitVec 2) (s : State) :
    Host.Outcome State Fault Refusal :=
  tcpyOp (infoTcpyOa h n) .oa r q (some b) n x.toNat s

/-- `tcpy.wb` (R192). -/
def execTcpyWb (h : Hdr) (r : Bool) (q : BitVec 3) (b : BitVec 4) (n : BitVec 5) (x : BitVec 2) (s : State) :
    Host.Outcome State Fault Refusal :=
  tcpyOp (infoTcpyWb h n) .wb r q (some b) n x.toNat s

/-- `tcpy.st` (R193). -/
def execTcpySt (h : Hdr) (r : Bool) (q : BitVec 3) (b : BitVec 4) (n : BitVec 5) (s : State) : Host.Outcome State Fault Refusal :=
  tcpyOp (infoTcpySt h n) .st r q (some b) n 0 s

/-- `tcpy.gath` (R193). -/
def execTcpyGath (h : Hdr) (r : Bool) (q : BitVec 3) (b : BitVec 4) (n : BitVec 5) (s : State) : Host.Outcome State Fault Refusal :=
  tcpyOp (infoTcpyGath h n) .gath r q (some b) n 0 s

/-- `tcpy.scat` (R193). -/
def execTcpyScat (h : Hdr) (r : Bool) (q : BitVec 3) (b : BitVec 4) (n : BitVec 5) (s : State) : Host.Outcome State Fault Refusal :=
  tcpyOp (infoTcpyScat h n) .scat r q (some b) n 0 s

/-- `tcpy.zero` (R192). -/
def execTcpyZero (h : Hdr) (r : Bool) (q : BitVec 3) (n : BitVec 5) (s : State) : Host.Outcome State Fault Refusal :=
  tcpyOp (infoTcpyZero h n) .zero r q none n 0 s

/-! ## Landing of tile copies (R192 to R195) -/

/-- The existing far elements of a tile that leaves scratchpad, with the scratchpad offset of each, by ascending delivered row
(R193). -/
def TileRec.outEls (r : TileRec) (idx : Option (List (BitVec 16))) : List (Nat × DWord) :=
  let b := r.width / 8
  (r.farRows idx).flatMap fun p => (List.range r.nCols).map fun fc =>
    let at_ := if r.trans then (fc, p.1) else (p.1, fc)
    (r.near.toNat + at_.1 * r.pitch + at_.2 * b, r.rowAddr p.2 + BitVec.ofNat 64 (fc * b))

/-- The pieces of a tile that leaves scratchpad; a poisoned element is not written (R154, R193). -/
def State.outPieces (s : State) (x : Xfer) (r : TileRec) (idx : Option (List (BitVec 16))) (map : List (Nat × Loc)) : List Piece :=
  let b := r.width / 8
  (r.outEls idx).filterMap fun p =>
    if s.spPoison x.crew p.1 b then none else (s.placeIn x.tn map p.2.toNat).map fun l => ⟨l, s.spRead x.crew p.1 b⟩

/-- LAND of an engine word with claims or scratchpad destinations (R182, R192, R193, R249). -/
def State.landTile (s : State) (x : Xfer) : Option State :=
  match x.kind with
  | .tileIn d b r idx map =>
    let ix := if idx.isEmpty then none else some idx
    if !s.engineTurn x || !s.tileClear x map (r.memRanges (s.tenant x.tn).soff ix map) then none
    else
      let q := s.tileRead x map r ix (d == 2 && r.code == 7)
      let s2 := match q.1.engineCore x with
        | some c => q.1.mapCore c fun k => { k with eng := (q.2.toBuffer (d == 1) b r k.eng).filled (d == 1) b r }
        | none => (q.1.spTileStores x.crew q.2 r ix x.skip).foldl (fun (s : State) (p : Nat × List Byte) => s.spWrite x.crew p.1 p.2) q.1
      some (s2.retire x x.t false)
  | .tileOut r idx scat map =>
    let ix := if scat then some idx else none
    if !s.tileClear x map (r.elements ix) then none
    else
      let s1 := match (r.outEls ix).find? fun p => s.spPoison x.crew p.1 (r.width / 8) with
        | some p => s.mapGrp x.grp (·.pending .poison (BitVec.ofNat 64 p.1))
        | none => s
      let ps := s1.outPieces x r ix map
      let l := (s1.countPlaces x (onePerLine (ps.map (·.loc)))).landPieces x ps
      some (l.1.retire x l.2 false)
  | .tileZero r => some ((s.spWrite x.crew r.near.toNat (List.replicate (r.dRows * r.pitch) 0)).retire x x.t false)
  | _ => none

end Sys2Proof.Machine
end

