-- ==== Sys2Proof/Machine/Matrix.lean ====
section
/-!
DEFINITION. Strokes (R197 to R200, R65), accumulator words (R201 to R203), and the landing of copies (R249).
-/

namespace Sys2Proof.Machine

/-! ## Accumulators -/

/-- Word of ta[i][n] in the ta store (R188). -/
def taWord (t i n : Nat) : Nat := 16384 * t + 128 * i + n

/-- An accumulator element as a value. -/
def Engine.acc (e : Engine) (t i n : Nat) : FVal := f32.decode (e.ta.get (taWord t i n)).toNat

/-- Changes a core's engine. -/
def State.mapEng (s : State) (core : Nat) (f : Engine → Engine) : State := s.mapCore core fun c => { c with eng := f c.eng }

/-- Writes accumulator elements of a rectangle. -/
def Engine.setAcc (e : Engine) (t row0 col0 rows cols : Nat) (f : Nat → Nat → Option Word) : Engine :=
  { e with ta := (List.range rows).foldl (fun m r => (List.range cols).foldl (fun m c =>
      match f r c with
      | some v => m.set (taWord t (row0 + r) (col0 + c)) v
      | none => m) m) e.ta }

/-! ## tacc at issue (R201, R203) -/

/-- An accumulator word of the group in issue raises tl (R195). -/
def taccWord (i : Info) (go : State → State) (s : State) : Host.Outcome State Fault Refusal :=
  runWord i s fun _ s => if s.cur.tl ≥ 63 then s.stallChain else go s

/-- `tacc.tzero` (R201). -/
def execTaccTzero (h : Hdr) (t : BitVec 2) (s : State) : Host.Outcome State Fault Refusal :=
  taccWord (infoTaccTzero h) (fun s => s.launch { s.xfer (.taccZero t.toNat) with ctr := some .tl }) s

/-- `tacc.tst` and `tacc.tld` (R201 to R203). -/
def taccTile (i : Info) (k : TileWord) (b : BitVec 4) (n : BitVec 5) (t : BitVec 2) (s : State) : Host.Outcome State Fault Refusal :=
  taccWord i (fun s => s.tileCheck k n.toNat fun _ map s =>
    let r := s.cur.tileRec n.toNat
    let kind : XKind := match k with
      | .tstSp => .taccSp t.toNat r
      | .tstMem => .taccMem t.toNat r map
      | _ => .taccLd t.toNat r map
    let rs := if k = .tstSp then [] else r.memRanges (s.tenant s.cur.tn).soff none map
    let x := { s.xfer kind with
      claims := if k = .tstMem then s.claimsOf s.cur.tn map rs else [], sb := r.sbOf k s.cur.crew (r.code == 7),
      lines := tileLines rs, bar := s.barOf b, ctr := some .tl }
    if s.roomFor x then s.launch x else s.stallWord) s

/-- `tacc.tst.sp` (R202). -/
def execTaccTstSp (h : Hdr) (b : BitVec 4) (n : BitVec 5) (t : BitVec 2) (s : State) : Host.Outcome State Fault Refusal :=
  taccTile (infoTaccTstSp h n) .tstSp b n t s

/-- `tacc.tst.mem` (R202). -/
def execTaccTstMem (h : Hdr) (b : BitVec 4) (n : BitVec 5) (t : BitVec 2) (s : State) : Host.Outcome State Fault Refusal :=
  taccTile (infoTaccTstMem h n) .tstMem b n t s

/-- `tacc.tld` (R203). -/
def execTaccTld (h : Hdr) (b : BitVec 4) (n : BitVec 5) (t : BitVec 2) (s : State) : Host.Outcome State Fault Refusal :=
  taccTile (infoTaccTld h n) .tld b n t s

/-- The fault of a list of 128 factors at a scratchpad offset (R203). -/
def State.factorFault (s : State) (o : Nat) : Option (Cause × DWord) :=
  if o % 4 ≠ 0 then some (.copyAlign, BitVec.ofNat 64 o)
  else if o + 512 > (s.crew s.cur.crew).scratch then some (.spRange, BitVec.ofNat 64 o)
  else none

/-- `tacc.tscale` and `tacc.tbias`: their factor lists are source ranges (R195, R203). -/
def taccFactors (i : Info) (offs : Group → List Nat) (k : List Nat → XKind) (s : State) : Host.Outcome State Fault Refusal :=
  taccWord i (fun s =>
    let os := offs s.cur
    match os.findSome? s.factorFault with
    | some (c, v) => s.fault c v
    | none =>
      let x := { s.xfer (k os) with sb := os.map fun o => ⟨s.cur.crew, o, o + 512, false⟩, ctr := some .tl }
      if s.roomFor x then s.launch x else s.stallWord) s

/-- `tacc.tscale` by column or by row (R203). -/
def execTaccTscale (h : Hdr) (row : Bool) (k : BitVec 5) (t : BitVec 2) (s : State) : Host.Outcome State Fault Refusal :=
  taccFactors (infoTaccTscale h k) (fun g => [(g.getS k.toNat).toNat]) (fun os => .taccScale t.toNat row (os.headD 0)) s

/-- `tacc.tbias` (R203). -/
def execTaccTbias (h : Hdr) (k : BitVec 5) (t : BitVec 2) (s : State) : Host.Outcome State Fault Refusal :=
  taccFactors (infoTaccTbias h k) (fun g => [(g.getS k.toNat).toNat, (g.getS (k.toNat + 1)).toNat])
    (fun os => .taccBias t.toNat (os.headD 0) (os.getD 1 0)) s

/-! ## What accumulator words do (R202, R203) -/

/-- An accumulator element converted to a code, without flags (R202). -/
def tstConv (code : Nat) (v : FVal) : Nat :=
  match code with
  | 0 => (bf16.narrow .rne false false v).1
  | 1 => (f16.narrow .rne false false v).1
  | 2 => (e4m3.narrow .rne false true v).1
  | 5 => match v with
    | .fin n m e => (e5m2.roundV .rne false true n m e).1
    | v => (e5m2.narrow .rne false false v).1
  | _ => f32.exact v

/-- The accumulator element of a far element (R202). -/
def TileRec.accOf (r : TileRec) (e : Engine) (t fr fc : Nat) : FVal :=
  let p := if r.trans then (fc, fr) else (fr, fc)
  e.acc t (r.row0 + p.1) (r.col0 + p.2)

/-- One 32-column segment of a far row quantised as R63 with FZ = 0: its slot and its elements' bytes. -/
def TileRec.quant (r : TileRec) (e : Engine) (t fr j : Nat) : Nat × List Nat :=
  let xs := (List.range (min 32 (r.nCols - 32 * j))).map fun q => r.accOf e t fr (32 * j + q)
  let b := qntPi8 xs
  (b.1, xs.map fun v => b.2.1 v % 256)

/-- The scratchpad stores of `tacc.tst.sp`: the existing far elements, for code 7 the scale area, and the mask area (R194,
R202). -/
def TileRec.spStores (r : TileRec) (e : Engine) (t : Nat) : List (Nat × List Byte) :=
  let far := r.far.toNat
  let at_ := r.areaAt .tstSp
  let elements := (List.range r.nRows).flatMap fun fr =>
    if r.code = 7 then (List.range r.liveSegs).map fun j => (far + fr * r.stride + 32 * j, (r.quant e t fr j).2.map (BitVec.ofNat 8))
    else (List.range r.nCols).map fun fc =>
      (far + fr * r.stride + fc * (r.width / 8), leBytes (tstConv r.code (r.accOf e t fr fc)) (r.width / 8))
  elements ++ (List.range r.dRows).flatMap fun dr =>
    (if r.code = 7 then r.areaRow at_ dr fun j => some (if dr < r.nRows ∧ 32 * j < r.nCols then (r.quant e t dr j).1 else 0) else []) ++
    (if r.mask then r.areaRow (at_ + if r.code = 7 then r.areaLen else 0) dr fun j => some (r.maskWord none dr j) else [])

/-- One region's bytes of a quantised segment: bit `q` is plane bit `7-p` of element `q`; bits of elements that do not exist
keep what memory holds (R59, R202). -/
def planeBytes (old : List Byte) (qs : List Nat) (p : Nat) : List Byte :=
  old.zipIdx.map fun b => BitVec.ofNat 8 ((List.range 8).foldl (fun a k =>
    a + (if 8 * b.2 + k < qs.length then (qs.getD (8 * b.2 + k) 0) / 2 ^ (7 - p) % 2 else b.1.toNat / 2 ^ k % 2) * 2 ^ k) 0)

/-- The memory pieces of `tacc.tst.mem` (R202). A quantised element has eight planes and the record of code 7 names 1 to 8; the
manual does not say how many of them reach memory, and the model writes as many plane regions as the record names, the highest
planes, and leaves the others as they are (DESIGN CHOICE, log 87). -/
def State.memStores (s : State) (x : Xfer) (r : TileRec) (map : List (Nat × Loc)) (e : Engine) (t : Nat) : List Piece :=
  let put := fun (ea : DWord) (bs : List Byte) => (s.placeIn x.tn map ea.toNat).map fun l => (⟨l, bs⟩ : Piece)
  if r.code = 7 then
    (List.range r.nRows).flatMap fun fr => (List.range r.liveSegs).flatMap fun j =>
      match r.segOf fr (32 * j) with
      | none => []
      | some (sg, i) =>
        let q := r.quant e t fr j
        let n := (q.2.length + 7) / 8
        ((List.range r.planes).filterMap fun p =>
          let ea := sg.page + BitVec.ofNat 64 (p * 8192 + i / 8)
          let old := ((s.placeIn x.tn map ea.toNat).map fun l => s.fetchAt x.tn l n).getD []
          put ea (planeBytes old q.2 p)) ++
        (put (slotOf (s.tenant x.tn).soff 7 sg.page i) (leBytes q.1 4)).toList
  else
    (List.range r.nRows).flatMap fun fr => (List.range r.nCols).filterMap fun fc =>
      put (r.rowAddr fr + BitVec.ofNat 64 (fc * (r.width / 8))) (leBytes (tstConv r.code (r.accOf e t fr fc)) (r.width / 8))

/-- A far element of `tacc.tld` widened exactly to f32 (R203). -/
def tldConv (code : Nat) (v : Nat) : Word :=
  BitVec.ofNat 32 (f32.exact ((if code = 0 then bf16 else if code = 1 then f16 else f32).decode v))

/-- A factor of a scratchpad list, if it can be had (R154, R203). -/
def State.factor (s : State) (crew o i : Nat) : Option FVal :=
  if s.spPoison crew (o + 4 * i) 4 then none else some (f32.decode (leNat (s.spRead crew (o + 4 * i) 4)))

/-- POISON held pending for the group of a word at the first poisoned factor of its lists, by its scratchpad offset (R154,
R299). -/
def State.pendFactor (s : State) (x : Xfer) (os : List Nat) : State :=
  match (os.flatMap fun o => (List.range 128).map fun i => o + 4 * i).find? fun a => s.spPoison x.crew a 4 with
  | some a => s.mapGrp x.grp (·.pending .poison (BitVec.ofNat 64 a))
  | none => s

/-- An accumulator that holds poison raises POISON when a word reads it (R299). -/
def State.taPoison (s : State) (x : Xfer) (t : Nat) : Bool := (s.core x.core).eng.poisoned.contains (8 + t)

/-- POISON held pending for the group of a word that met a poisoned accumulator, which has no address: the value is free
(R154, R299; log 3). -/
def State.pendPoison (s : State) (x : Xfer) : State :=
  { s.mapGrp x.grp (·.pending .poison (Config.freeBits 64 s.free)) with free := s.free + 1 }

/-- An accumulator word acts in its turn (R189, R195, R201 to R203). -/
def State.taccAct (s : State) (x : Xfer) : Option State :=
  if !s.engineTurn x then none
  else
    let e := (s.core x.core).eng
    let clean := fun (e : Engine) (t : Nat) => { e with poisoned := e.poisoned.filter (· != 8 + t) }
    match x.kind with
    | .taccZero t =>
      let s1 := s.mapEng x.core fun e => clean { e with ta := e.ta.clear (16384 * t) (16384 * (t + 1)) } t
      some (s1.retire x x.t false)
    | .taccLd t r map =>
      if !s.tileClear x map (r.elements none) then none
      else
        let q := s.tileRead x map r none false
        let s2 := q.1.mapEng x.core fun e => e.setAcc t r.row0 r.col0 r.dRows r.dCols fun dr dc =>
          match r.farOf none dr dc with
          | none => some 0
          | some (fr, fc) => if q.2.bad (r.bytesOf fr fc) then none else some (tldConv r.code (q.2.elem r fr fc).toNat)
        some (s2.retire x x.t false)
    | .taccScale t row o =>
      if s.taPoison x t then some ((s.pendPoison x).retire x x.t false)
      else
        let s1 := (s.pendFactor x [o]).mapEng x.core fun e => e.setAcc t 0 0 128 128 fun i n =>
          (s.factor x.crew o (if row then i else n)).map fun v => BitVec.ofNat 32 (f32.mul .rne false (e.acc t i n) v).1
        some (s1.retire x x.t false)
    | .taccBias t u wv =>
      if s.taPoison x t then some ((s.pendPoison x).retire x x.t false)
      else
        let s1 := (s.pendFactor x [u, wv]).mapEng x.core fun e => e.setAcc t 0 0 128 128 fun i n =>
          (s.factor x.crew u i).bind fun a => (s.factor x.crew wv n).map fun b =>
            BitVec.ofNat 32 (f32.fma .rne false a b (e.acc t i n)).1
        some (s1.retire x x.t false)
    | .taccSp t r =>
      if s.taPoison x t then some ((s.pendPoison x).retire x x.t false)
      else some (((r.spStores e t).foldl (fun s p => s.spWrite x.crew p.1 p.2) s).retire x x.t false)
    | .taccMem t r map =>
      let rs := r.memRanges (s.tenant x.tn).soff none map
      if !s.tileClear x map rs then none
      else if s.taPoison x t then some ((s.pendPoison x).retire x x.t false)
      else
        let s0 := (s.placesIn x.tn map rs).foldl (fun (s : State) p => s.recallAt x.tn p.2.1 p.2.2) s
        let ps := s0.memStores x r map e t
        let l := (s0.countPlaces x (onePerLine (ps.map (·.loc)))).landPieces x ps
        some (l.1.retire x l.2 false)
    | _ => none

/-- TACC_COMPLETE: `tacc.tzero`, `tacc.tld`, `tacc.tscale` or `tacc.tbias` completes (R195). -/
def execTaccComplete (x : Nat) (s : State) : Host.Outcome State Fault Refusal :=
  onXfer x (fun s x => match x.kind with
    | .taccZero _ | .taccLd .. | .taccScale .. | .taccBias .. => s.taccAct x
    | _ => none) s

/-- LAND: every destination of a claimed engine word lands in one step (R249, R258). -/
def execLand (x : Nat) (s : State) : Host.Outcome State Fault Refusal :=
  onXfer x (fun s x => match x.kind with
    | .cpy size els => s.landCpy x size els
    | .tileIn .. | .tileOut .. | .tileZero _ => s.landTile x
    | .taccSp .. | .taccMem .. => s.taccAct x
    | _ => none) s

/-! ## Strokes (R65, R198, R199) -/

/-- The content tags that an EF needs: code and planes of A and of B (R198). -/
def efTags (ef : Nat) : (Nat × Nat) × (Nat × Nat) :=
  match ef with
  | 0 => ((0, 0), (0, 0))
  | 1 => ((1, 0), (1, 0))
  | 2 => ((2, 0), (2, 0))
  | 3 => ((2, 0), (5, 0))
  | 4 => ((5, 0), (2, 0))
  | 5 => ((5, 0), (5, 0))
  | 6 => ((6, 0), (6, 0))
  | 7 => ((7, 8), (7, 8))
  | 8 => ((7, 4), (7, 4))
  | 9 => ((7, 2), (7, 2))
  | _ => ((7, 8), (7, 4))

/-- Whether a buffer's tag is the one needed; the planes count for PI8 alone (R190, R198). -/
def tagIs (l : List (Nat × BufTag)) (b : Nat) (want : Nat × Nat) : Bool :=
  match l.find? (·.1 == b) with
  | some p => p.2.code == want.1 && (want.1 != 7 || p.2.planes == want.2)
  | none => false

/-- The width of an operand in its buffer (R188). -/
def tagWidth (t : Nat × Nat) : Nat :=
  match t.1 with
  | 0 | 1 => 16
  | 6 => 4
  | 7 => t.2
  | _ => 8

/-- The value of an operand element: for PI8 at k planes t · 2^(8−k) (R58, R65). -/
def operand (t : Nat × Nat) (v : Nat) : FVal :=
  match t.1 with
  | 0 => bf16.decode v
  | 1 => f16.decode v
  | 2 => e4m3.decode v
  | 5 => e5m2.decode v
  | 6 => e2m1.decode v
  | _ => if v ≥ 2 ^ (t.2 - 1) then .fin true (2 ^ t.2 - v) (8 - t.2 : Nat) else .fin false v (8 - t.2 : Nat)

/-- An exact product, with the special cases of R65. -/
def exactMul (a b : FVal) : FVal :=
  match a, b with
  | .nan _, _ | _, .nan _ => .nan false
  | .inf n, .inf m => .inf (n != m)
  | .inf n, .fin m k _ => if k = 0 then .nan false else .inf (n != m)
  | .fin m k _, .inf n => if k = 0 then .nan false else .inf (n != m)
  | .fin n k e, .fin m j f => .fin (n != m) (k * j) (e + f)

/-- An exact sum, with the special cases of R65. -/
def exactAdd (a b : FVal) : FVal :=
  match a, b with
  | .nan _, _ | _, .nan _ => .nan false
  | .inf n, .inf m => if n = m then .inf n else .nan false
  | .inf n, _ | _, .inf n => .inf n
  | .fin n k e, .fin m j f => let r := dySum n k e m j f; .fin r.1 r.2.1 r.2.2

/-- A block scale; an invalid block is NaN (R62, R65). -/
def scaleVal (code slot : Nat) : FVal :=
  match (if code = 6 then e8m0Value slot else s20Value slot) with
  | some (m, e) => .fin false m e
  | none => .nan false

/-- acc + term with one rounding, subnormals kept; NaN stays (R65). -/
def accAdd (acc : Word) (term : FVal) : Word :=
  let r := f32.add .rne false (f32.decode acc.toNat) term
  BitVec.ofNat 32 r.1

/-- One output element of a stroke: R65 over row `a` of oa(OA) and column `n` of wb(WB) (R188). -/
def Engine.strokeElem (e : Engine) (f : Signed) (a n : Nat) (acc : Word) : Word :=
  let ef := f.ef.toNat
  let (ta, tb) := efTags ef
  let wa := tagWidth ta
  let wb := tagWidth tb
  let k := min (depthOf wa) (depthOf wb)
  let scaled := ef ≥ 6
  (List.range (k / 32)).foldl (fun acc j =>
    let dot := (List.range 32).foldl (fun d i =>
      let c := 32 * j + i
      exactAdd d (exactMul (operand ta (getBits e.oa (oaBit f.oa.toNat wa a c) wa))
        (operand tb (getBits e.wb (wbBit f.wb.toNat wb c n) wb)))) (FVal.fin false 0 0)
    let term := if scaled then
        exactMul (exactMul dot (scaleVal ta.1 (leNat (e.oa.getList (oaSlot f.oa.toNat wa a j) 4))))
          (scaleVal tb.1 (leNat (e.wb.getList (wbSlot f.wb.toNat j n) 4)))
      else dot
    accAdd acc term) acc

/-- One stroke row: `i` reads A row `a` and adds to row `d` of the accumulator (R199). -/
def Engine.strokeRow (e : Engine) (f : Signed) (a d : Nat) (fresh : Bool) : Engine :=
  e.setAcc f.ta.toNat d 0 1 128 fun _ n =>
    some (e.strokeElem f a n (if fresh then 0 else e.ta.get (taWord f.ta.toNat d n)))

/-- The A row and the accumulator row of stroke row `i`; `none` where an entry is 0xFFFF (R199). -/
def Signed.rowsOf (f : Signed) (i : Nat) : Option (Nat × Nat) :=
  if !f.gath then some (i, i)
  else
    let a := (f.alist.getD i 0xFFFF).toNat
    let d := (f.clist.getD i 0xFFFF).toNat
    if a = 0xFFFF ∨ d = 0xFFFF then none else some (a, d)

/-- Under `mmagz` every row of the C list is +0 before the stroke's first contribution (R199). -/
def Engine.zeroRows (e : Engine) (f : Signed) : Engine :=
  f.clist.foldl (fun (e : Engine) d =>
    if d = 0xFFFF then e else { e with ta := e.ta.clear (taWord f.ta.toNat d.toNat 0) (taWord f.ta.toNat d.toNat 128) }) e

/-- Step `k` of a stroke: rows 4k to 4k + 3 in full (R199). -/
def Engine.strokeStep (e : Engine) (f : Signed) (k : Nat) : Engine :=
  let e0 := if k = 0 ∧ f.zero ∧ f.gath then e.zeroRows f else e
  (List.range 4).foldl (fun e q => match f.rowsOf (4 * k + q) with
    | some (a, d) => e.strokeRow f a d (f.zero && !f.gath)
    | none => e) e0

/-- Whether a buffer that a stroke reads holds poison (R299). -/
def State.strokePoison (s : State) (core : Nat) (f : Signed) : Bool :=
  let p := (s.core core).eng.poisoned
  p.contains f.oa.toNat || p.contains (4 + f.wb.toNat) || (f.ef == 9 && p.contains (f.oa.toNat ^^^ 1))

/-- The meter of a stroke's format class (R12, R223). -/
def efMeter (ef : Nat) : Nat := if ef ≤ 1 then 1 else if ef = 6 ∨ ef = 8 then 3 else if ef = 9 then 4 else 2

/-- The last step of a stroke: tl falls in every signing group, and its arrival is made for the first signer; an arrival
that faults is held pending for that group (R199). -/
def State.strokeDone (s : State) (x : Xfer) (f : Signed) : State :=
  let s1 := s.onFlow fun fl => { fl with xfers := fl.xfers.filter (·.id != x.id) }
  let s2 := f.grps.foldl (fun s g => s.complete g .tl) (s1.meter x.tn (efMeter f.ef.toNat) 1)
  match f.bar with
  | none => s2
  | some n =>
    let b := s2.bar x.crew n.toNat
    if !b.valid then s2.mapGrp x.grp (·.pending .barInvalidated (barVal n))
    else if b.exp = 0 ∨ b.arr = b.exp then s2.mapGrp x.grp (·.pending .barOverarrive (barVal n))
    else
      let s3 := s2.mapBar x.crew n.toNat fun b =>
        { b with arr := b.arr + 1, unobs := b.unobs + 1, last := (x.grp, b.phase) :: b.last.filter (·.1 != x.grp) }
      s3.signalFor x.grp (.arrive x.crew n)

/-- STROKE_STEP: four rows; the last step completes the stroke (R199). A stopped stroke takes no step (R291). -/
def State.strokeAct (s : State) (x : Xfer) : Option State :=
  match x.kind with
  | .stroke k =>
    if k.stop || !s.engineTurn x then none
    else
      let bad := s.strokePoison x.core k.f
      let s1 := s.mapEng x.core fun e =>
        let e1 := e.strokeStep k.f k.step
        if bad && !e1.poisoned.contains (8 + k.f.ta.toNat) then { e1 with poisoned := (8 + k.f.ta.toNat) :: e1.poisoned } else e1
      if k.step ≥ 31 then some (s1.strokeDone x k.f)
      else some (s1.onFlow fun fl => { fl with xfers := fl.xfers.map fun y =>
        if y.id == x.id then { y with kind := .stroke { k with step := k.step + 1 } } else y })
  | _ => none

/-- STROKE_STEP (R199). -/
def execStrokeStep (x : Nat) (s : State) : Host.Outcome State Fault Refusal := onXfer x State.strokeAct s

/-! ## mma at issue (R197, R198) -/

/-- A list of `mmag`: 128 entries of 16 bits (R200). A poisoned entry names no row, and the word receives POISON (R154,
R299). -/
def State.strokeList (s : State) (o : Nat) : List (BitVec 16) :=
  (List.range 128).map fun i =>
    if s.spPoison s.cur.crew (o + 2 * i) 2 then 0xFFFF else BitVec.ofNat 16 (leNat (s.spRead s.cur.crew (o + 2 * i) 2))

/-- The fault of a list (R200). -/
def State.listFault (s : State) (o : Nat) : Option (Cause × DWord) :=
  if o + 256 > (s.crew s.cur.crew).scratch then some (.spRange, BitVec.ofNat 64 o)
  else if (s.strokeList o).any fun x => x.toNat > 127 && x != 0xFFFF then some (.tileBounds, BitVec.ofNat 64 o)
  else none

/-- Whether two signatures fix the same stroke (R198). -/
def Signed.same (a b : Signed) : Bool :=
  a.zero == b.zero && a.gath == b.gath && a.ta == b.ta && a.oa == b.oa && a.wb == b.wb && a.bb == b.bb && a.ef == b.ef &&
    a.lists == b.lists

/-- A stroke issues on the engine of its first signature's core, in that group's name (R198). -/
def State.issueStroke (s : State) (f : Signed) : State :=
  let first := f.grps.headD 0
  let t := s.timeOf first
  let x : Xfer := { s.xfer (.stroke ⟨f, 0, false⟩) with grp := first, core := f.core, t := t }
  { s.onFlow (fun fl => { fl with xfers := fl.xfers ++ [x] }) with fresh := s.fresh + 1 }

/-- `mma` and its forms: the lists, the tags of the buffers that the stroke reads, the muster, the stroke (R176, R198, R200).
`sign` selects the muster, `arr` the barrier. Each `mmag` of a muster reads its lists at its issue (R200); where the scratchpad changes
between two signatures the manual does not say whose reading the stroke uses, and the model keeps the first signer's (DESIGN CHOICE,
log 107). R198 lists the fields in which the signatures of a muster must agree, and FN[2], the
arrival, is not among them; the model takes it from the first signature (DESIGN CHOICE, log 88). -/
def mmaOp (i : Info) (zero sign arr : Bool) (t o w : BitVec 2) (m : BitVec 3) (b : BitVec 4) (e : BitVec 5)
    (lists : Option Word) (s : State) : Host.Outcome State Fault Refusal :=
  runWord i s fun P s =>
    let offs := match lists with
      | some l => [16 * (bits l 0 16).toNat, 16 * (bits l 16 16).toNat]
      | none => []
    let mu := (s.crew s.cur.crew).musters.getD m.toNat Muster.unarmed
    let core := match (if sign then mu.signed else none) with
      | some f => f.core
      | none => s.cur.core
    let eng := (s.core core).eng
    let want := efTags e.toNat
    if s.cur.tl ≥ 63 then s.stallChain
    else match offs.findSome? s.listFault with
    | some (c, v) => s.fault c v
    | none =>
      if !(tagIs eng.oaTag o.toNat want.1 && tagIs eng.wbTag w.toNat want.2) then
        s.fault .mmaFormat (s.ctx.word.setWidth 64)
      else
        let f : Signed :=
          { zero := zero, gath := lists.isSome, ta := t, oa := o, wb := w, bar := if arr then some b else none, bb := b, ef := e,
            lists := lists.getD 0, alist := if lists.isSome then s.strokeList (offs.getD 0 0) else [],
            clist := if lists.isSome then s.strokeList (offs.getD 1 0) else [], core := s.cur.core, grps := [s.cur.id] }
        let raise := fun (s : State) => (offs.foldl (fun s o => s.listPoison o 128) s).onCur fun g => { g.raise .tl with seq := g.seq + 1 }
        if !sign then raise (s.issueStroke f)
        else
          let n := (lanesOf P).length
          let bad := match mu.signed with
            | some g => !g.same f
            | none => false
          if mu.count = 0 || mu.signs + n > mu.count || bad then s.fault .musterOversign (numVal m)
          else
            let g := match mu.signed with
              | some g => { g with grps := g.grps ++ [s.cur.id] }
              | none => f
            let put := fun (s : State) (k : Muster) => s.mapCrew s.cur.crew fun c => { c with musters := c.musters.set m.toNat k }
            if mu.signs + n = mu.count then put (raise (s.issueStroke g)) ⟨mu.count, 0, none⟩
            else put (raise s) ⟨mu.count, mu.signs + n, some g⟩

/-- `mma` (R199). -/
def execMma (h : Hdr) (x y : Bool) (t o w : BitVec 2) (m : BitVec 3) (b : BitVec 4) (e : BitVec 5) (s : State) :
    Host.Outcome State Fault Refusal :=
  mmaOp (infoMma h e) false y x t o w m b e none s

/-- `mmaz` (R199). -/
def execMmaz (h : Hdr) (x y : Bool) (t o w : BitVec 2) (m : BitVec 3) (b : BitVec 4) (e : BitVec 5) (s : State) :
    Host.Outcome State Fault Refusal :=
  mmaOp (infoMmaz h e) true y x t o w m b e none s

/-- `mmag` (R199). -/
def execMmag (h : Hdr) (x y : Bool) (t o w : BitVec 2) (m : BitVec 3) (b : BitVec 4) (e : BitVec 5) (lists : Word) (s : State) :
    Host.Outcome State Fault Refusal :=
  mmaOp (infoMmag h e) false y x t o w m b e (some lists) s

/-- `mmagz` (R199). -/
def execMmagz (h : Hdr) (x y : Bool) (t o w : BitVec 2) (m : BitVec 3) (b : BitVec 4) (e : BitVec 5) (lists : Word) (s : State) :
    Host.Outcome State Fault Refusal :=
  mmaOp (infoMmagz h e) true y x t o w m b e (some lists) s

end Sys2Proof.Machine
end

