-- ==== Sys2Proof/Machine/Task.lean ====
section
/-!
DEFINITION. Nodes and arenas: launch records (R27, R104, R204, R302), `task` (R204), `arena` (R205 to R208), the death of
an arena (R207, R327 to R329), and the retirement of a node (R30, R43, R204).
-/

namespace Sys2Proof.Machine

/-! ## Launch records -/

/-- A field of a record in memory (R1). -/
def fld (bs : List Byte) (off n : Nat) : Nat := leNat ((bs.drop off).take n)

/-- The launch record in 64 bytes, with the 64 bytes of its capture extension (R104, R302). -/
def LaunchRec.ofBytes (bs ext : List Byte) : LaunchRec :=
  { entry := BitVec.ofNat 64 (fld bs 0 8), arg := BitVec.ofNat 64 (fld bs 8 8), gx := fld bs 0x10 2, gy := fld bs 0x12 2,
    gz := fld bs 0x14 2, width := fld bs 0x16 1, prio := fld bs 0x17 1, nCopy := fld bs 0x18 1, nMat := fld bs 0x19 1,
    nVec := fld bs 0x1A 1, bCopy := fld bs 0x1C 1, bMat := fld bs 0x1D 1, bVec := fld bs 0x1E 1, scratch := fld bs 0x20 4,
    arena := fld bs 0x24 4, future := BitVec.ofNat 64 (fld bs 0x28 8), basin := fld bs 0x30 1,
    flags := BitVec.ofNat 8 (fld bs 0x31 1),
    rsvd := fld bs 0x1B 1 != 0 || fld bs 0x1F 1 != 0 || fld bs 0x32 14 != 0 || fld bs 0x31 1 / 2 != 0,
    capBuf := fld ext 0 8, capLen := fld ext 8 8, capMode := fld ext 0x18 1, capRsvd := fld ext 0x1A 38 != 0 }

/-- Whether the record asks for capture or replay (R302). -/
def LaunchRec.capture (r : LaunchRec) : Bool := r.flags.getLsbD 0

/-- A register budget is one of four unless its role has no group (R27). -/
def budgetOk (n b : Nat) : Bool := n == 0 || b == 16 || b == 32 || b == 48 || b == 64

/-- The limits of R27, and the refusals of R204 and R302 that the record itself shows. -/
def LaunchRec.ok (r : LaunchRec) : Bool :=
  let n := r.nCopy + r.nMat + r.nVec
  (r.width == 1 || r.width == 2 || r.width == 4) && decide (1 ≤ n) && decide (n ≤ 32 * r.width) &&
    budgetOk r.nCopy r.bCopy && budgetOk r.nMat r.bMat && budgetOk r.nVec r.bVec &&
    decide (r.scratch ≤ 262144 * r.width) && r.scratch % 4096 == 0 && decide (1 ≤ r.gx) && decide (1 ≤ r.gy) &&
    decide (1 ≤ r.gz) && decide (r.prio ≤ 3) && decide (r.basin ≤ 15) && !r.rsvd &&
    (!r.capture || (r.capBuf % 64 == 0 && decide (r.capMode ≤ 1) && !r.capRsvd && decide (r.capBuf + r.capLen ≤ 2 ^ 48)))

/-- The crews of the grid (R26). -/
def LaunchRec.total (r : LaunchRec) : Nat := r.gx * r.gy * r.gz

/-! ## Reserving an arena (R206) -/

/-- The next generation: one after the counter, past 0 and past every live generation. -/
def nextGen (live : List (BitVec 16)) (c : BitVec 16) : Nat → BitVec 16
  | 0 => c
  | fuel + 1 => if c + 1 = 0 ∨ live.contains (c + 1) then nextGen live (c + 1) fuel else c + 1

/-- The lowest free range of a size in the arena window: at the window's base or behind another arena. -/
def Tenant.freeRange (t : Tenant) (size : Nat) : Option Nat :=
  let base := t.awbase.toNat
  let starts := base :: t.arenas.map fun a => a.base + a.len
  let fits := fun b => decide (base ≤ b) && decide (b + size ≤ base + t.awsize.toNat) &&
    t.arenas.all fun a => !meets b size a.base a.len
  let ok := starts.filter fits
  ok.find? fun b => ok.all fun c => b ≤ c

/-- The lowest free slot of the arena table. -/
def Tenant.freeSlot (t : Tenant) : Option Nat := (List.range 4096).find? fun k => t.arenas.all (·.slot != k)

/-- Reserves an arena for a node; nothing when it is refused (R206). -/
def Tenant.reserve (t : Tenant) (size node : Nat) : Option (Tenant × Arena) :=
  if size = 0 then none
  else
    let len := (size + 65535) / 65536 * 65536
    t.freeSlot.bind fun k => (t.freeRange len).map fun b =>
      let a : Arena := { slot := k, gen := nextGen (t.arenas.map (·.gen)) t.genCtr 65536, base := b, len := len, owner := node,
                         frames := [], dying := none }
      ({ t with arenas := t.arenas ++ [a], genCtr := a.gen }, a)

/-! ## task (R204) -/

/-- A store that a word makes within itself, once it may perform and its line is open; `none` while it has to wait. -/
def State.storeOnce (s : State) (P : Mask) (x : Loc) (bs : List Byte) : Option State :=
  let a : Access := { s.onceAcc P x bs.length with kind := .store, els := [⟨lowest P, 0, x.pa, bs.length, .store bs⟩] }
  if !s.mayPerform a then none
  else
    let s1 := s.recallNow x.key
    (if (s1.liveBasin x.key.tn x.key.bs).isSome then s1.performStore a else s1.baseDie a).map fun s =>
      s.onCur fun g => { g with seq := g.seq + 1 }

/-- The nodes in the pool of a die (R320). -/
def State.poolNodes (s : State) (tn die : Nat) : List Nat :=
  ((s.pool.filter fun e => e.tn == tn && e.die == die).map (·.node)).dedup

/-- How many nodes a pool holds (R320). -/
def State.poolCount (s : State) (tn die : Nat) : Nat := (s.poolNodes tn die).length

/-- The capture state of a new node: an empty record, or what the buffer's capture recorded (R302, R303). -/
def State.newCapture (s : State) (tn : Nat) (r : LaunchRec) : Option Capture :=
  if !r.capture then none
  else
    let old := s.dev.captures.find? fun c => c.1 == tn && c.2.1 == r.capBuf
    if r.capMode = 1 then
      some { replay := true, log := (old.map (·.2.2.2)).getD [], used := (old.map (·.2.2.1)).getD 0, status := 0, pages := [] }
    else some { replay := false, log := [], used := 0, status := 0, pages := [] }

/-- Enters a node into the task pool of a die (R204, R320). -/
def State.enterNode (s : State) (nd : Node) (die : Nat) : State :=
  { s with nodes := s.nodes ++ [nd],
           pool := s.pool ++ [{ tn := nd.tn, die := die, node := nd.id, lo := 0, hi := nd.total, enter := s.fresh,
                                since := s.dev.cycle, first := false }],
           fresh := s.fresh + 1 }

/-- The node that a `task` word creates (R29, R43, R204, R247). -/
def State.newNode (s : State) (depth : Nat) (va : DWord) (r : LaunchRec) (slot ext : Option Loc) (buf : List Loc) : Node :=
  { id := s.fresh, tn := s.cur.tn, depth := depth, recVa := va, lr := r, arena := none, start := s.cur.ltime,
    utvec := s.cur.utvec, total := r.total, exited := 0, visible := false, fill := 0, tmax := 0, slot := slot, ext := ext,
    buf := buf, cap := s.newCapture s.cur.tn r }

/-- The end of a `task` word: the arena, the future's reset, s(E), the node (R204). -/
def State.taskFinish (s : State) (P : Mask) (depth : Nat) (e : Nat) (va : DWord) (r : LaunchRec) (slot ext : Option Loc)
    (buf : List Loc) : State :=
  let nd := s.newNode depth va r slot ext buf
  let arena := s.tn.reserve r.arena nd.id
  if r.arena ≠ 0 ∧ arena.isNone then s.fault .arenaRefused va
  else
    let done := match slot with
      | some x => s.storeOnce P { x with pa := x.pa + 8, va := x.va + 8, key := s.keyOf s.cur.tn x.key.bs (x.pa + 8) } (leBytes 0 8)
      | none => some s
    match done with
    | none => s.stallWord
    | some s1 =>
      let s2 := match r.arena, arena with
        | 0, _ => s1
        | _, some (t, _) => s1.mapTenant s1.cur.tn fun u => { u with arenas := t.arenas, genCtr := t.genCtr }
        | _, none => s1
      let nd : Node := { nd with id := s2.fresh, arena := if r.arena = 0 then none else arena.map (·.2.slot) }
      let own := fun (a : Arena) => if nd.arena = some a.slot then { a with owner := nd.id } else a
      let s3 := s2.mapTenant s2.cur.tn fun u => { u with arenas := u.arenas.map own }
      let s4 := State.enterNode { s3 with fresh := s3.fresh + 1 } nd (dieOf s.cur.core)
      (s4.signal (.node nd.id s.cur.ltime)).onCur (·.setS2 e r.future)

/-- An answer that has to be walked, whose waiter takes a fault of its own in the place of a posted cause. -/
def XRes.refusing (c : Cause) (v : DWord) : XRes → XRes
  | .walk w => .walk { w with refused := some (c, v) }
  | r => r

/-- The pages of a capture buffer have to be plain HBM and mapped, an empty buffer's own page among them: a page that fails its checks,
or that the walker does not find, refuses the record (R103, R302). -/
def State.capChecks (s : State) (va : DWord) (r : LaunchRec) : List XRes :=
  if r.capture then
    (pagesOf r.capBuf (max 1 r.capLen)).map fun p =>
      (s.xcheck s.cur (rqPlain (r.capMode == 0)) (BitVec.ofNat 64 (p * 4096)) 1).refusing .spawnFootprint va
  else []

/-- The record has been read: its own checks, then those of its future (R204). -/
def State.taskRecord (s : State) (P : Mask) (depth : Nat) (e : Nat) (va : DWord) (r : LaunchRec) (ext : Option Loc) : State :=
  if !r.ok then s.fault .spawnFootprint va
  else
    let cs := s.capChecks va r
    if cs.any (·.open) then s.xstall cs
    else if cs.any (fun c => c.loc?.isNone) then (s.xuse s.cur cs).fault .spawnFootprint va
    else
      let buf := cs.filterMap XRes.loc?
      if r.future = 0 then s.taskFinish P depth e va r none ext buf
      else s.xone [s.xcheck s.cur (rqPlain true) r.future 16] fun ls s => s.taskFinish P depth e va r ls.head? ext buf

/-- A record is read as a load of 64 bytes from a page of plain format (R204). -/
def rqRecord : XReq := ⟨false, false, false, false, fun _ fm => fm == 0⟩

/-- Whether the record at a place asks for capture, which makes the load that reads it one of 128 bytes (R302); `none` while the
line is not open. -/
def State.asksCapture (s : State) (P : Mask) (x : Loc) : Option Bool :=
  (State.readPieces P [(0, x, 64)] s).map fun r => r.2.2.isNone && (LaunchRec.ofBytes r.2.1 []).capture

/-- `task.spawn` and `task.launch` (R204): the pool's room (R320), the depth, the record with its extension, the checks. -/
def taskOp (i : Info) (spawn : Bool) (e k : BitVec 5) (s : State) : Host.Outcome State Fault Refusal :=
  runWord i s fun P s =>
    let va := s.cur.getS2 k.toNat
    let depth := if spawn then s.curNode.depth + 1 else 0
    if s.poolCount s.cur.tn (dieOf s.cur.core) ≥ 1024 then s.stallWord
    else if depth > 8 then s.fault .spawnDepth va
    else s.xone [s.xcheck s.cur rqRecord va 64] fun ls s =>
      match ls with
      | x :: _ => match s.asksCapture P x with
        | none => s.stallWord
        | some false => s.readOnce P [(va, x, 64)] fun bs s => s.taskRecord P depth e.toNat va (LaunchRec.ofBytes bs []) none
        | some true => s.xone [s.xcheck s.cur rqRecord (va + 64) 64] fun ls s =>
          match ls with
          | y :: _ => s.readOnce P [(va, x, 64), (va + 64, y, 64)] fun bs s =>
              s.taskRecord P depth e.toNat va (LaunchRec.ofBytes bs (bs.drop 64)) (some y)
          | [] => s
      | [] => s

/-- `task.spawn` (R204). -/
def execTaskSpawn (h : Hdr) (e k : BitVec 5) (s : State) : Host.Outcome State Fault Refusal :=
  taskOp (infoTaskSpawn h e k) true e k s

/-- `task.launch` (R204). -/
def execTaskLaunch (h : Hdr) (e k : BitVec 5) (s : State) : Host.Outcome State Fault Refusal :=
  taskOp (infoTaskLaunch h e k) false e k s

/-! ## Translations dropped (R222, R272) -/

/-- The walk entries of a tenant for a range of addresses become stale, and what waits on them misses again: at once, where R272 does
not say whether it waits until `tsys.wqdone` or `tsys.fault.post` names the entry (DESIGN CHOICE, log 108). -/
def State.staleWalks (s : State) (tn lo hi : Nat) : State :=
  let mine := (s.tenant tn).quads
  let stale := fun (w : Walk) => if lo < (w.vpn + 1) * 4096 ∧ w.vpn * 4096 < hi then { w with stale := true, grps := [] } else w
  { s with cores := s.cores.map fun c => if mine.contains (c.num / 4) then { c with wq := c.wq.map stale } else c }

/-- Whether a cached translation of a tenant meets a range of addresses. -/
def Xent.meetsVa (x : Xent) (tn lo hi : Nat) : Bool := x.tn == tn && meets x.va (pageSize x.level) lo (hi - lo)

/-- Drops every cached translation of a tenant that meets a range of addresses, pinned STC entries only with `pins`; walk entries for
it become stale (R222, R267, R272). -/
def State.dropXlat (s : State) (tn lo hi : Nat) (pins : Bool) : State :=
  let keep := fun (x : Xent) => !x.meetsVa tn lo hi
  let s1 := (s.staleWalks tn lo hi).mapTenant tn fun t => { t with stc := t.stc.filter fun x => keep x || (!pins && x.pin) }
  let mine := (s.tenant tn).quads
  { s1 with cores := s1.cores.map fun c => if mine.contains (c.num / 4) then { c with tc := c.tc.filter keep } else c }

/-! ## What in flight uses a range of addresses -/

/-- The address ranges through which an engine word reads (false) and writes (true) memory. -/
def Xfer.spans (x : Xfer) : List (Nat × Nat × Bool) :=
  match x.kind with
  | .cpy size els => els.flatMap fun e =>
      (if e.src.cls = .scratch then [] else [(e.src.va, size, false)]) ++
      (if e.dst.cls = .scratch then [] else [(e.dst.va, size, true)])
  | .tileIn _ _ _ _ map => map.map fun p => (p.1 * 4096, 4096, false)
  | .tileOut _ _ _ map => map.map fun p => (p.1 * 4096, 4096, true)
  | .taccMem _ _ map => map.map fun p => (p.1 * 4096, 4096, true)
  | .taccLd _ _ map => map.map fun p => (p.1 * 4096, 4096, false)
  | .bpref keys => (keys.map (·.2)).dedup.map fun v => (v * 4096, 4096, false)
  | _ => []

/-- The accesses, queued writes and put signals of a tenant whose tagged address satisfies a predicate. A physical access
stands at 2^64 plus its address. -/
def State.accsThrough (s : State) (tn : Nat) (p : Nat → Bool) : List Nat :=
  (s.flow.accs.filter fun a => a.tn == tn && a.cls != .scratch && decide (a.va < 2 ^ 64) && p a.va).map (·.id) ++
    (s.flow.sigs.filterMap fun x => match x.kind with | .fput a => if a.tn == tn && p a.va then some a.id else none | _ => none) ++
    s.allGroups.flatMap fun g =>
      if g.tn == tn then ((g.hostQ ++ g.peerQ.map (·.2)).filter fun q => p q.ea).map (·.id) else []

/-- The engine words of a tenant that use an address satisfying a predicate. One that a stopped stroke holds back takes the
translations of the time at which its crew resumes. -/
def State.xfersThrough (s : State) (tn : Nat) (p : Nat → Nat → Bool) : List Nat :=
  (s.flow.xfers.filter fun x => x.tn == tn && !x.held && x.spans.any fun e => p e.1 e.2.1).map (·.id)

/-- The engine words of a tenant's saved crews: of those that wait in a pool, and of images that can still be unsealed (R227,
R298). -/
def State.imageWords (s : State) (tn : Nat) : List Xfer :=
  let open_ := s.dev.sealed.filter fun x => (s.tenant x.tn).saves.any fun e => e.isOf x.recVa x.image.crew && e.count == x.count && !e.live
  ((s.resumed.map (·.image)) ++ open_.map (·.image)).flatMap fun im => im.strokes.filter (·.tn == tn)

/-- Whether none of the listed accesses and engine words is in flight any more. -/
def State.gone (s : State) (accs xfers : List Nat) : Bool :=
  !s.flow.accs.any (fun a => accs.contains a.id) &&
    !s.flow.sigs.any (fun x => match x.kind with | .fput a => accs.contains a.id | _ => false) &&
    !s.allGroups.any (fun g => (g.hostQ ++ g.peerQ.map (·.2)).any fun q => accs.contains q.id) &&
    !s.flow.xfers.any fun x => xfers.contains x.id

/-! ## Lines of frames -/

/-- Drops the lines of frames from every basin and L1 of a tenant, dirty lines written out if `keep`. -/
def State.dropLines (s : State) (tn : Nat) (frames : List Nat) (keep : Bool) : State :=
  let ks := (s.flow.homes.filter fun h => h.key.tn == tn && h.key.bs != 15 && frames.contains (h.key.line / 4096)).map (·.key)
  (ks.foldl (fun s k => s.evict k keep) s).dropCopies fun x =>
    x.key.tn == tn && !x.flash && frames.contains (x.pa / 4096)

/-! ## The death of an arena (R207, R328) -/

/-- Whether a tagged address lies in an arena under its generation. -/
def Arena.holds (a : Arena) (ea : Nat) : Bool :=
  decide (a.base ≤ ea % 2 ^ 48) && decide (ea % 2 ^ 48 < a.base + a.len) && ea / 2 ^ 48 == a.gen.toNat

/-- Whether a range of tagged addresses meets an arena under its generation. -/
def Arena.meetsEa (a : Arena) (ea n : Nat) : Bool := meets (ea % 2 ^ 48) n a.base a.len && ea / 2 ^ 48 == a.gen.toNat

/-- Whether an engine word writes an arena. -/
def Arena.writtenBy (a : Arena) (x : Xfer) : Bool := x.spans.any fun e => e.2.2 && a.meetsEa e.1 e.2.1

/-- A saved crew's copies into an arena are cancelled at its death point (R295, R329). -/
def Image.cutArena (tn : Nat) (a : Arena) (im : Image) : Image :=
  (im.strokes.filter fun x => x.tn == tn && a.writtenBy x).foldl (fun im x => im.ended x 0 true) im

/-- The death point: copies into the arena are cancelled, those of saved crews too, monitors on it released with their paths
faulting, walk entries of its range are stale, its node owns it no more; what else was issued before is waited for (R272,
R328). -/
def State.killArena (s : State) (tn : Nat) (a : Arena) : State :=
  let cut := s.flow.xfers.filter fun x => x.tn == tn && a.writtenBy x
  let s1 := ((cut.foldl State.cancel s).mapImages (Image.cutArena tn a)).staleWalks tn a.base (a.base + a.len)
  let dead := s1.flow.mons.filter fun m => m.loc.key.tn == tn && a.holds m.ea.toNat
  let s2 := dead.foldl (fun s m => s.mapGrp m.grp fun g => { g with sets := g.sets.map (·.failMon m.id .arenaDead m.ea) }) s1
  let s3 := s2.onFlow fun f => { f with mons := f.mons.filter fun m => !dead.contains m }
  let reads := (s3.flow.xfers ++ s3.imageWords tn).filter fun x => x.tn == tn && x.spans.any fun e => a.meetsEa e.1 e.2.1
  let wait := (s3.accsThrough tn a.holds, reads.map (·.id))
  (s3.mapNode a.owner fun n => { n with arena := none }).mapTenant tn fun t =>
    { t with arenas := t.arenas.map fun b => if b.slot == a.slot then { b with dying := some wait } else b }

/-- A group that waits in `arena.end` for an arena goes on (R207). -/
def Group.unhold (tn slot : Nat) (g : Group) : Group :=
  if g.tn == tn && g.hold == some (.arena slot) then { g with hold := none } else g

/-- ARENA_DEATH: the death takes effect once everything issued before it has performed, what a saved crew has kept back too
(R207, R328). -/
def State.arenaDead (s : State) (tn slot : Nat) : Option State :=
  ((s.tenant tn).arenas.find? (·.slot == slot)).bind fun a => a.dying.bind fun w =>
    if s.lostIn tn a.frames || !s.gone w.1 w.2 || (s.imageWords tn).any (fun x => w.2.contains x.id) then none
    else
      let s1 := (s.dropLines tn a.frames false).dropXlat tn a.base (a.base + a.len) true
      let s2 := s1.mapTenant tn fun t =>
        { t with arenas := t.arenas.filter (·.slot != slot), used := t.used.filter (!a.frames.contains ·),
                 free := t.free ++ a.frames.filter t.used.contains,
                 leaves := t.leaves.map fun x => if meets x.va (pageSize x.level) a.base a.len then { x with live := false } else x }
      some ((s2.mapGrps (Group.unhold tn slot)).mapImages fun im => { im with groups := im.groups.map (Group.unhold tn slot) })

/-- ARENA_DEATH (R328). -/
def execArenaDeath (tn slot : Nat) (s : State) : Host.Outcome State Fault Refusal := stepWhen s (s.arenaDead tn slot)

/-! ## arena (R205 to R208) -/

/-- The tagged pointer to an arena's base (R206). -/
def Arena.pointer (a : Arena) : DWord := a.gen ++ BitVec.ofNat 48 a.base

/-- `arena.new` (R206). -/
def execArenaNew (h : Hdr) (e k : BitVec 5) (s : State) : Host.Outcome State Fault Refusal :=
  runWord (infoArenaNew h e k) s fun _ s =>
    let nd := s.curNode
    if nd.id = 0 ∨ nd.arena.isSome then s.faultFree .arenaRefused
    else match s.tn.reserve (s.cur.getS k.toNat).toNat nd.id with
      | none => s.faultFree .arenaRefused
      | some (t, a) =>
        ((s.mapTenant s.cur.tn fun u => { u with arenas := t.arenas, genCtr := t.genCtr }).mapNode nd.id fun n =>
          { n with arena := some a.slot }).onCur fun g => (g.setS2 e.toNat a.pointer).setS (e.toNat + 2) a.handle

/-- `arena.end`: it completes when the death has taken effect (R207, R328). -/
def execArenaEnd (h : Hdr) (k : BitVec 5) (s : State) : Host.Outcome State Fault Refusal :=
  runWord (infoArenaEnd h k) s fun _ s =>
    match s.arenaOf s.cur.tn s.curNode.arena with
    | none => s.faultFree .arenaRefused
    | some a =>
      if a.handle ≠ s.cur.getS k.toNat then s.faultFree .arenaRefused
      else (s.killArena s.cur.tn a).onCur fun g => { g with hold := some (.arena a.slot) }

/-- `arena.chk` (R208). -/
def execArenaChk (h : Hdr) (m : BitVec 3) (k : BitVec 5) (s : State) : Host.Outcome State Fault Refusal :=
  runWord (infoArenaChk h m k) s fun _ s =>
    let p := s.cur.getS2 k.toNat
    s.onCur (·.setGAll m.toNat (s.tn.inWindow (vaOf p) && tagOf p != 0 &&
      (match s.tn.arenaAt (vaOf p) with | some a => a.gen == tagOf p | none => false)))

/-! ## The retirement of a node (R30, R204) -/

/-- An engine word of no group, for what the device itself lands. -/
def Xfer.own (tn t : Nat) : Xfer :=
  { id := 0, grp := 0, core := 0, crew := 0, tn := tn, seq := 0, kind := .bpref [], claims := [], sb := [], lines := 0,
    bar := none, ring := none, ctr := none, t := t, user := false, held := false, lost := [], skip := [] }

/-- An installed leaf as a translation. -/
def Installed.xent (x : Installed) (tn : Nat) : Xent :=
  { tn := tn, va := x.va, level := x.level, leaf := x.leaf, user := false, pin := false, die := x.die, host := none, stamp := 0 }

/-- The leaves of a tenant as last installed that still place pages. -/
def Tenant.installed (t : Tenant) : List Xent := (t.leaves.filter (·.live)).map (·.xent t.id)

/-- Every translation of a tenant that the device holds: cached ones first, then leaves as last installed. -/
def State.translations (s : State) (tn : Nat) : List Xent :=
  (s.cores.flatMap fun c => c.tc.filter (·.tn == tn)) ++ (s.tenant tn).stc ++ (s.tenant tn).installed

/-- The translations of a tenant's address that the device knows. -/
def State.known (s : State) (tn va : Nat) : List Xent := (s.translations tn).filter (·.covers tn va)

/-- The place of an address now: through a translation that the device knows, else as it was found. -/
def State.placeNow (s : State) (tn : Nat) (ea : Nat) (old : Loc) : Loc :=
  let va := ea % 2 ^ 48
  match (s.known tn va).head? with
  | some x => if leafTY x.leaf = 0 then { old with pa := x.place va, key := s.keyOf tn (leafBS x.leaf) (x.place va), va := ea } else old
  | none => { old with key := s.keyOf tn old.key.bs old.pa }

/-- The bytes of a capture in the pages of its buffer; what they are is a free value (log 7). -/
def State.capPieces (s : State) (nd : Node) (used : Nat) : List Piece :=
  let lo := nd.lr.capBuf
  (nd.buf.map fun l => s.placeNow nd.tn l.va l).filterMap fun l =>
    let from_ := max lo l.va
    let till := min (lo + used) (l.va + 4096)
    if from_ < till then
      some ⟨s.offset nd.tn l (from_ - l.va), (List.range (till - from_)).map fun i => Config.freeBits 8 (s.free + (from_ - lo) + i)⟩
    else none

/-- Whether a tagged address of the arena window names no live arena: nothing is written there (R152, R328; DEDUCED, log 109). -/
def State.deadTag (s : State) (tn ea : Nat) : Bool :=
  let t := s.tenant tn
  t.inWindow (ea % 2 ^ 48) && (match t.arenaAt (ea % 2 ^ 48) with | some a => a.gen.toNat != ea / 2 ^ 48 | none => true)

/-- What the retirement of a node under capture writes: the bytes used, the status, and the record itself in the buffer (R302, R303). -/
def State.capWrites (s : State) (nd : Node) : List Piece :=
  match nd.cap, nd.ext with
  | some c, some x =>
    let at_ := fun (o : Nat) => s.placeNow nd.tn (nd.recVa.toNat + o) { x with pa := x.pa + (o - 64), va := x.va + (o - 64) }
    let ps : List Piece := [⟨at_ 0x50, leBytes c.used 8⟩, ⟨at_ 0x59, leBytes c.status 1⟩]
    ps ++ (if c.replay then [] else s.capPieces nd c.used)
  | _, _ => []

/-- The write of a retiring node's completion future: F = 1 and value 0, or a failure's cause (R204, R300). -/
def State.fillWrites (s : State) (nd : Node) : List Piece :=
  match nd.slot with
  | some x => [⟨s.placeNow nd.tn nd.lr.future.toNat x, leBytes nd.fill.toNat 8 ++ leBytes 1 8⟩]
  | none => []

/-- What a retiring node's capture leaves with the device: what a replay from the same buffer returns (R303). -/
def State.capKeep (s : State) (nd : Node) : State :=
  match nd.cap, nd.ext with
  | some c, some _ =>
    if c.replay then s
    else
      let rest := s.dev.captures.filter fun e => !(e.1 == nd.tn && e.2.1 == nd.lr.capBuf)
      { s with free := s.free + c.used }.onDev fun d => { d with captures := (nd.tn, nd.lr.capBuf, c.used, c.log) :: rest }
  | _, _ => s

/-- NODE_RETIRE: all crews have exited and their words have landed; the arena dies first, then the future fills with value 0 or a
failure's cause, once no word claims a line that the retirement writes (R204, R256, R258, R259, R300, R328). A slot or a buffer in an
arena that is dead by then is not written. A halted tenant's node never fills its future (R282). -/
def State.nodeRetire (s : State) (id : Nat) : Option State :=
  (s.nodes.find? (·.id == id)).bind fun nd =>
    let t := s.tenant nd.tn
    if nd.exited ≠ nd.total ∨ t.life ≠ .live ∨ s.crews.any (·.node == id) then none
    else match s.arenaOf nd.tn nd.arena with
      | some a => some (s.killArena nd.tn a)
      | none =>
        if t.arenas.any (·.owner == id) then none
        else
          let alive := fun (p : Piece) => !s.deadTag nd.tn p.loc.va
          let cap := (s.capWrites nd).filter alive
          let fill := (s.fillWrites nd).filter alive
          if !(s.pieceLines nd.tn (cap ++ fill)).all s.open_ then none
          else
            let s1 := ((s.landPieces (Xfer.own nd.tn nd.tmax) cap).1).capKeep nd
            let s2 := (s1.landPieces (Xfer.own nd.tn nd.tmax) fill).1
            some { s2 with nodes := s2.nodes.filter (·.id != id) }

/-- NODE_RETIRE (R204). -/
def execNodeRetire (nd : Nat) (s : State) : Host.Outcome State Fault Refusal := stepWhen s (s.nodeRetire nd)

end Sys2Proof.Machine
end

