-- ==== Sys2Proof/Machine/Basin.lean ====
section
/-!
DEFINITION. The basin words (R209 to R214) and the steps that complete them, and the reading of table entries, which the device
does for `tsys.ptld` and for a partition's image alone (R262).
-/

namespace Sys2Proof.Machine

/-! ## Tables (R262, R263) -/

/-- The table entry at an index of a table: its 64 bits in HBM. -/
def State.entryAt (s : State) (table i : Nat) : DWord := BitVec.ofNat 64 (leNat (s.hbm.getList (table + 8 * i) 8))

/-- The lowest VA bit and the number of VA bits that index a level, 4 to 0 (R262). -/
def levelBits (level : Nat) : Nat × Nat :=
  match level with
  | 4 => (39, 9)
  | 3 => (30, 9)
  | 2 => (21, 9)
  | 1 => (16, 5)
  | _ => (12, 4)

/-- The size of the table below a level (R263). -/
def tableSize (level : Nat) : Nat := if level ≥ 3 then 4096 else if level = 2 then 256 else 128

/-- The leaf that a walk of the tables finds, with its level. -/
def State.walkFrom (s : State) (table va : Nat) : Nat → Option (DWord × Nat)
  | 0 => none
  | fuel + 1 =>
    let (lo, n) := levelBits fuel
    let e := s.entryAt table (va / 2 ^ lo % 2 ^ n)
    if !leafV e then none
    else if leafK e then (if fuel = 4 then none else some (e, fuel))
    else s.walkFrom ((bits e 12 40).toNat * tableSize fuel) va fuel

/-- The leaf of an address of a tenant. -/
def State.walkLeaf (s : State) (tn va : Nat) : Option (DWord × Nat) := s.walkFrom (s.tenant tn).ptroot.toNat va 5

/-- The HBM frames that the leaves the device has installed give to a range of pages: the only ones through which a line of the
range can have come into a basin (DESIGN CHOICE, log 40). -/
def State.framesOf (s : State) (tn lo hi : Nat) : List Nat :=
  ((pagesOf lo (hi - lo)).flatMap fun p =>
    (s.known tn (p * 4096)).filterMap fun x => if leafTY x.leaf = 0 then some (x.place (p * 4096) / 4096) else none).dedup

/-! ## Definition records (R107) -/

/-- The record in 32 bytes. -/
def basinRecOf (bs : List Byte) : BasinRec :=
  { id := fld bs 0 1, line := fld bs 1 1, ways := fld bs 2 1, write := fld bs 3 1, repl := fld bs 4 1, die := fld bs 5 1,
    count := fld bs 6 1, mask := BitVec.ofNat 64 (fld bs 8 8), rsvd := fld bs 7 1 != 0 || fld bs 16 16 != 0 }

/-- The tenant's bank share on a die (R22). -/
def Tenant.shareOn (t : Tenant) (die : Nat) : BitVec 64 := ((t.banks.find? (·.1 == die)).map (·.2)).getD 0

/-- Whether a record names a bank outside the tenant's share (R210, R211). -/
def Tenant.outside (t : Tenant) (r : BasinRec) : Bool := r.mask &&& ~~~(t.shareOn r.die) != 0

/-- Whether the bank count of a record is the number of its mask bits, and not 0. -/
def countOk (r : BasinRec) : Bool := r.count == (banksOf r.mask).length && r.count != 0

/-- Whether a record names a bank that belongs to a basin of the tenant other than `id`. -/
def Tenant.taken (t : Tenant) (r : BasinRec) (id : Nat) : Bool :=
  t.basins.any fun b => b.defn.id != id && b.defn.die == r.die && (b.defn.mask ||| b.old.getD 0) &&& r.mask != 0

/-- The fields of a record lie within R107. -/
def fieldsOk (r : BasinRec) : Bool :=
  decide (r.line ≤ 2) && (r.ways == 4 || r.ways == 8 || r.ways == 16) && decide (r.write ≤ 3) && decide (r.repl ≤ 2) &&
    decide (r.die ≤ 7)

/-- The checks of `bsn.def` (R210). -/
def Tenant.defCheck (t : Tenant) (r : BasinRec) : Option Cause :=
  if t.outside r then some .bankShare
  else if r.id ≥ 15 || (t.basin? r.id).isSome || !fieldsOk r || !countOk r || r.rsvd || t.taken r r.id then
    some .basinRecord
  else none

/-- The largest timestamps among the slices and the lines of a basin. -/
def State.basinStamps (s : State) (tn bs : Nat) : Nat × Nat :=
  let hs := s.flow.homes.filter fun h => h.key.tn == tn && h.key.bs == bs
  let ps := s.flow.sums.filter fun p => p.tn == tn && p.bs == bs
  (ps.foldl (fun m p => max m p.wts) (hs.foldl (fun m h => max m h.wts) 0),
   ps.foldl (fun m p => max m p.rts) (hs.foldl (fun m h => max m h.rts) 0))

/-- The slices of a bank set take timestamps no lower than any that the basin has held (R211). -/
def State.raiseAll (s : State) (tn bs die : Nat) (mask : BitVec 64) : State :=
  let (w, r) := s.basinStamps tn bs
  (banksOf mask).foldl (fun s b => s.raiseSum tn bs (die * 64 + b) w r) s

/-- Defines a basin, empty (R210). -/
def State.defBasin (s : State) (tn : Nat) (r : BasinRec) : State :=
  (s.raiseAll tn r.id r.die r.mask).mapTenant tn fun t =>
    { t with basins := t.basins ++ [{ defn := r, old := none, drop := false, lost := false }] }

/-- A word that reads a definition record: a load of 32 bytes (R209). -/
def recordOp (i : Info) (k : BitVec 5) (go : DWord → BasinRec → State → State) (s : State) : Host.Outcome State Fault Refusal :=
  runWord i s fun P s =>
    let va := s.cur.getS2 k.toNat
    s.xone [s.xcheck s.cur rqLoad va 32] fun ls s =>
      match ls with
      | x :: _ => s.readOnce P [(va, x, 32)] fun bs s => go va (basinRecOf bs) s
      | [] => s

/-- `bsn.def` (R210). -/
def execBsnDef (h : Hdr) (k : BitVec 5) (s : State) : Host.Outcome State Fault Refusal :=
  recordOp (infoBsnDef h k) k (fun va r s =>
    match s.tn.defCheck r with
    | some c => s.fault c va
    | none => s.defBasin s.cur.tn r) s

/-! ## Resizing (R211) -/

/-- Whether a resize of a basin is in progress. -/
def Basin.busy (b : Basin) : Bool := b.old.isSome || b.drop

/-- The checks of `bsn.resize`, in their order (R211). -/
def Tenant.resizeCheck (t : Tenant) (r : BasinRec) : Option Cause :=
  match if r.id ≥ 15 then none else t.basin? r.id with
  | none => some .basinUndefined
  | some b =>
    if b.busy then some .basinBusy
    else if t.outside r then some .bankShare
    else if r.line ≠ b.defn.line || r.ways ≠ b.defn.ways || r.write ≠ b.defn.write || r.repl ≠ b.defn.repl ||
        r.die ≠ b.defn.die || !countOk r || r.rsvd || t.taken r r.id then some .basinRecord
    else none

/-- Changes a basin of a tenant. -/
def State.mapBasin (s : State) (tn bs : Nat) (f : Basin → Basin) : State :=
  s.mapTenant tn fun t => { t with basins := t.basins.map fun b => if b.defn.id == bs then f b else b }

/-- Monitors on the lines of a basin that no longer find room in their slice's table are held by their paths (R170). -/
def State.fitTables (s : State) (tn bs : Nat) : State :=
  (s.flow.mons.filter fun m => m.table && m.loc.key.tn == tn && m.loc.key.bs == bs).foldl (fun s m =>
    if s.monitorsIn m.loc.key ≤ 256 then s
    else s.onFlow fun f => { f with mons := f.mons.map fun x =>
      if x.id == m.id then { x with table := false, poll := s.dev.cycle + 4096 } else x }) s

/-- A basin is placed over a new bank set: every resident line whose bank changes stands in its old place until it moves
(R211, R236). -/
def State.replace (s : State) (tn bs : Nat) (mask : BitVec 64) (count : Nat) : State :=
  match (s.tenant tn).basin? bs with
  | none => s
  | some b =>
    let s1 := s.raiseAll tn bs b.defn.die mask
    let s2 := s1.mapBasin tn bs fun b =>
      { b with defn := { b.defn with mask := mask, count := count }, old := some (b.old.getD b.defn.mask) }
    let len := lineSize b.defn.line
    let moves := fun (h : Home) => h.key.tn == tn && h.key.bs == bs && !h.old &&
      bankUnder b.defn.mask len h.key.line != bankUnder mask len h.key.line
    (s2.onFlow fun f => { f with homes := f.homes.map fun h => if moves h then { h with old := true } else h }).fitTables tn bs

/-- Whether a basin has come to no bank: it stays so until `bsn.drop` (R236). -/
def State.bankless? (s : State) (tn bs : Nat) : Bool := ((s.tenant tn).basin? bs).any (·.defn.mask == 0)

/-- `bsn.resize` (R211). A basin that has lost its last bank is served as under basin 15 until `bsn.drop` (R236): its resize passes the
checks and completes, and gives it no bank (DESIGN CHOICE, log 57). -/
def execBsnResize (h : Hdr) (n : BitVec 4) (k : BitVec 5) (s : State) : Host.Outcome State Fault Refusal :=
  recordOp (infoBsnResize h k) k (fun va r s =>
    match s.tn.resizeCheck r with
    | some c => s.fault c va
    | none =>
      let s1 := if s.bankless? s.cur.tn r.id then s else s.replace s.cur.tn r.id r.mask r.count
      s1.launch { s1.xfer (.bsnResize r.id) with bar := s1.barOf n }) s

/-- A line in its old place moves: clean, it is dropped; dirty, it goes to its new place if that has room, else to memory
(R211). A line whose basin has meanwhile come to no bank goes to memory. -/
def State.moveLine (s : State) (h : Home) : State :=
  match s.liveBasin h.key.tn h.key.bs with
  | none => s.evict h.key true
  | some b =>
    let others := (s.setLines h.key b (b.bankOf false h.key.line)).filter (·.key != h.key)
    let room := decide (others.length < b.defn.ways)
    if (h.dirty || h.owner.isSome) && room then s.mapHome h.key fun h => { h with old := false } else s.evict h.key true

/-- Whether a basin has a line left to move. -/
def State.moving (s : State) (tn bs : Nat) : Bool := s.flow.homes.any fun h => h.key.tn == tn && h.key.bs == bs && h.old

/-- The resize of a basin completes when no line is left in its old place: the released banks pass out of it (R211). -/
def State.resizeDone (s : State) (tn bs : Nat) : State :=
  if s.moving tn bs then s
  else
    let s1 := s.mapBasin tn bs fun b => { b with old := none }
    match s1.flow.xfers.find? fun x => x.tn == tn && x.kind == .bsnResize bs with
    | some x => s1.retire x x.t false
    | none => s1

/-- RESIZE_LINE_MOVE: one line of a basin in resize moves, once its entry is sound; with none left the resize completes (R211, R259). -/
def State.resizeMove (s : State) (k : HomeKey) : Option State :=
  ((s.tenant k.tn).basin? k.bs).bind fun b =>
    if (b.old.isNone && b.defn.mask != 0) || s.entryLost k then none
    else match s.home? k with
      | some h => if h.old then some ((s.moveLine h).resizeDone k.tn k.bs) else some (s.resizeDone k.tn k.bs)
      | none => some (s.resizeDone k.tn k.bs)

/-- RESIZE_LINE_MOVE (R211). -/
def execResizeLineMove (k : HomeKey) (s : State) : Host.Outcome State Fault Refusal := stepWhen s (s.resizeMove k)

/-! ## Dropping (R212) -/

/-- `bsn.drop` (R212). -/
def execBsnDrop (h : Hdr) (n : BitVec 4) (k : BitVec 5) (s : State) : Host.Outcome State Fault Refusal :=
  runWord (infoBsnDrop h k) s fun _ s =>
    let id := (bits (s.cur.getS k.toNat) 0 4).toNat
    match if id = 15 then none else s.tn.basin? id with
    | none => s.faultFree .basinUndefined
    | some b =>
      if b.busy then s.faultFree .basinBusy
      else
        let s1 := s.mapBasin s.cur.tn id fun b => { b with drop := true }
        s1.launch { s1.xfer (.bsnDrop id) with bar := s1.barOf n }

/-- Every line of a basin leaves it, dirty lines to memory. -/
def State.emptyBasin (s : State) (tn bs : Nat) : State :=
  (((s.flow.homes.filter fun h => h.key.tn == tn && h.key.bs == bs).map (·.key)).foldl (fun s k => s.evict k true) s).dropCopies
    fun x => x.key.tn == tn && x.key.bs == bs

/-- Monitors on the lines of a basin fall back to polling (R170, R212). -/
def State.unhook (s : State) (tn bs : Nat) : State :=
  let fall := fun (m : Monitor) =>
    if m.table && m.loc.key.tn == tn && m.loc.key.bs == bs then { m with table := false, poll := s.dev.cycle + 4096 } else m
  s.onFlow fun f => { f with mons := f.mons.map fall }

/-- BSN_DROP_COMPLETE: once nothing in flight goes through the basin and no entry of it waits for RECOVER, its dirty lines are written back, its lines dropped and
its banks released (R212). -/
def State.dropDone (s : State) (x : Xfer) : Option State :=
  match x.kind with
  | .bsnDrop id =>
    let mine := fun (k : HomeKey) => k.tn == x.tn && k.bs == id
    let brings := fun (y : Xfer) => match y.kind with
      | .bpref keys => keys.any fun k => mine k.1
      | _ => false
    if s.lostInBasin x.tn id || s.flow.accs.any (fun a => mine a.key) || s.flow.xfers.any (fun y => y.claims.any mine || brings y) then none
    else
      let s1 := (s.emptyBasin x.tn id).unhook x.tn id
      some ((s1.mapTenant x.tn fun t => { t with basins := t.basins.filter (·.defn.id != id) }).retire x x.t false)
  | _ => none

/-- BSN_DROP_COMPLETE (R212). -/
def execBsnDropComplete (x : Nat) (s : State) : Host.Outcome State Fault Refusal := onXfer x State.dropDone s

/-! ## bsn.stat (R213) -/

/-- The first register of `bsn.stat`. -/
def Basin.stat (b : Basin) : Word :=
  BitVec.ofNat 32 ((banksOf b.defn.mask).length * 128 + b.defn.die * 16 + (if b.lost then 8 else 0) + (if b.drop then 4 else 0) +
    (if b.old.isSome then 2 else 0) + 1)

/-- `bsn.stat` (R213). -/
def execBsnStat (h : Hdr) (e k : BitVec 5) (s : State) : Host.Outcome State Fault Refusal :=
  runWord (infoBsnStat h e k) s fun _ s =>
    let id := (bits (s.cur.getS k.toNat) 0 4).toNat
    let (st, m) := match if id = 15 then none else s.tn.basin? id with
      | some b => (b.stat, b.defn.mask)
      | none => (0, 0)
    s.onCur fun g => ((g.setS e.toNat st).setS (e.toNat + 1) (lo32 m)).setS (e.toNat + 2) (hi32 m)

/-! ## pg.bsn (R214) -/

/-- The leaves of a range as installed, and its pinned STC entries, take a new basin id, which software has already written into the
tables (R214). -/
def Tenant.retarget (t : Tenant) (lo hi bs : Nat) : Tenant :=
  let set := fun (x : DWord) => (x &&& ~~~(0xF#64 <<< 54)) ||| (BitVec.ofNat 64 bs <<< 54)
  { t with
    stc := t.stc.map fun x =>
      if x.pin && leafTY x.leaf == 0 && meets x.va (pageSize x.level) lo (hi - lo) then { x with leaf := set x.leaf } else x
    leaves := t.leaves.map fun x =>
      if leafTY x.leaf == 0 && decide (lo ≤ x.va) && decide (x.va + pageSize x.level ≤ hi) then { x with leaf := set x.leaf }
      else x }

/-- `pg.bsn` (R214): the range's translations are dropped; a pinned STC entry, which `tsys.inv.va`, `tsys.inv.all` and teardown alone
remove, stays and takes the new basin id (R231, R267; DEDUCED, log 89). Until the word completes, accesses to the range are held at
issue. -/
def execPgBsn (h : Hdr) (n : BitVec 4) (id : BitVec 4) (k : BitVec 5) (s : State) : Host.Outcome State Fault Refusal :=
  runWord (infoPgBsn h k) s fun _ s =>
    let va := s.cur.getS2 k.toNat
    let len := (s.cur.getS (k.toNat + 2)).toNat
    if va.toNat % 4096 ≠ 0 ∨ len % 4096 ≠ 0 ∨ bits va 48 16 ≠ 0 ∨ va.toNat + len > 2 ^ 48 then s.fault .align va
    else if id ≠ 15 ∧ (s.tn.basin? id.toNat).isNone then s.fault .basinUndefined va
    else
      let lo := va.toNat
      let fs := s.framesOf s.cur.tn lo (lo + len)
      let s1 := (s.dropXlat s.cur.tn lo (lo + len) false).mapTenant s.cur.tn (·.retarget lo (lo + len) id.toNat)
      s1.launch { s1.xfer (.pgBsn lo (lo + len) id.toNat fs) with bar := s1.barOf n }

/-- A monitor on a moved line is armed at its new home, in the table there if it has room (R170, R214). The word is read there, so
that a write which its last reload has not seen still satisfies it; chg compares with the value at arming. -/
def State.rehome (s : State) (tn bs : Nat) (frames : List Nat) : State :=
  let mine := s.flow.mons.filter fun m => m.loc.cls == .device && m.loc.key.tn == tn && frames.contains (m.loc.pa / 4096)
  mine.foldl (fun s m =>
    let k := s.keyOf tn bs m.loc.pa
    if m.loc.key = k then s
    else
      let s := s.recallNow k
      let w := wordVal (s.homeBytes k m.loc.pa 4)
      let sees := if m.cond = .chg then w != m.w else m.cond.holds w m.x
      let met := if m.met.isNone && sees && !s.homePoison k m.loc.pa 4 then some (s.stamps k).1 else m.met
      let m' : Monitor := { m with loc := { m.loc with key := k }, table := met.isNone && decide (s.monitorsIn k < 256), met := met,
                                   poll := s.dev.cycle + 4096 }
      s.onFlow fun f => { f with mons := f.mons.map fun x => if x.id == m.id then m' else x }) s

/-- The largest timestamps that lines of some frames can have outside one basin: of their homes, and of the summary pairs of the other
slices (R233). -/
def State.movedStamps (s : State) (tn bs : Nat) (frames : List Nat) : Nat × Nat :=
  let hs := s.flow.homes.filter fun h => h.key.tn == tn && h.key.bs != bs && frames.contains (h.key.line / 4096)
  let ps := s.flow.sums.filter fun p => p.tn == tn && p.bs != bs
  (ps.foldl (fun m p => max m p.wts) (hs.foldl (fun m h => max m h.wts) 0),
   ps.foldl (fun m p => max m p.rts) (hs.foldl (fun m h => max m h.rts) 0))

/-- The lines of frames that come to a basin, or with 15 to their base die, take timestamps no lower than those that they had: a
later store takes a wts above every read that has performed (R233, R251). -/
def State.raiseMoved (s : State) (tn bs : Nat) (frames : List Nat) (w r : Nat) : State :=
  let up := fun (h : Home) => if h.key.tn == tn && h.key.bs == bs && frames.contains (h.key.line / 4096) then
    { h with wts := max h.wts w, rts := max h.rts r } else h
  let s1 := s.onFlow fun f => { f with homes := f.homes.map up }
  match s.liveBasin tn bs with
  | some b => (banksOf b.defn.mask).foldl (fun s i => s.raiseSum tn bs (b.defn.die * 64 + i) w r) s1
  | none => s1.raiseSum tn 15 0 w r

/-- PG_BSN_COMPLETE: once no access issued before it is in flight and no entry of the range's lines waits for RECOVER, the lines of
the range leave every basin but the new one, and go on there from the timestamps that they had (R214, R251, R259). -/
def State.pgDone (s : State) (x : Xfer) : Option State :=
  match x.kind with
  | .pgBsn lo hi bs fs =>
    let inRange := fun ea n => meets (ea % 2 ^ 48) n lo (hi - lo)
    if s.lostIn x.tn fs || !s.gone (s.accsThrough x.tn fun ea => inRange ea 1) (s.xfersThrough x.tn inRange) then none
    else
      let others := (s.flow.homes.filter fun h =>
        h.key.tn == x.tn && h.key.bs != 15 && h.key.bs != bs && fs.contains (h.key.line / 4096)).map (·.key)
      let s1 := (others.foldl (fun s k => s.evict k true) s).dropCopies fun y =>
        y.key.tn == x.tn && y.key.bs != bs && !y.flash && fs.contains (y.pa / 4096)
      let dst := if (s.liveBasin x.tn bs).isSome then bs else 15
      let (w, r) := s.movedStamps x.tn dst fs
      some (((s1.raiseMoved x.tn dst fs w r).rehome x.tn bs fs).retire x x.t false)
  | _ => none

/-- PG_BSN_COMPLETE (R214). -/
def execPgBsnComplete (x : Nat) (s : State) : Host.Outcome State Fault Refusal := onXfer x State.pgDone s

end Sys2Proof.Machine
end

