-- ==== Sys2Proof/Machine/Control.lean ====
section
/-!
DEFINITION. The words that steer lanes: `sys` (R120, R121), `bra` (R122), `ctl` (R123 to R126) and `wait` (R158), over
the shared operations of a branch (R36, R119) and of filing lanes for reform (R40).
-/

namespace Sys2Proof.Machine

/-! ## Redirection -/

/-- Inserts a PC into an ascending list without repeats. -/
def insertPc : List DWord → DWord → List DWord
  | [], x => [x]
  | y :: t, x => if x = y then y :: t else if x.toNat < y.toNat then x :: y :: t else y :: insertPc t x

/-- The PCs that the lanes of a mask reach, ascending. -/
def pcsOf (m : Mask) (t : Nat → DWord) : List DWord := (lanesOf m).foldl (fun a l => insertPc a (t l)) []

/-- The lowest guard-true lane whose target fails the check of R70. -/
def badTarget (P : Mask) (t : Nat → DWord) : Option Nat := (lanesOf P).find? fun l => !pcOk (t l)

/-- The PC at which lanes continue as the current path, by the hint (R36): 0 none, 1 lk, 2 ulk, 3 unf. -/
def keepPc (hint : Nat) (P act : Mask) (t : Nat → DWord) (next : DWord) : DWord :=
  let low := (pcsOf act fun l => if inMask P l then t l else next).headD next
  let taken := (pcsOf P t).headD next
  if hint = 1 then taken
  else if hint = 2 then (if act &&& ~~~P = 0 then taken else next)
  else low

/-- The active lanes go to their targets, those outside P to the next packet; the other sides of a split are deferred in
ascending order of PC, each younger than every set before it (R36, R119). Under hint unf a split faults. -/
def State.split (s : State) (P : Mask) (t : Nat → DWord) (hint : Nat) : State :=
  let next := nextPkt s.ctx.pc
  let goto := fun l => if inMask P l then t l else next
  let act := s.cur.active
  let pcs := pcsOf act goto
  if hint = 3 ∧ pcs.length > 1 then s.fault .uniformViolation (s.ctx.word.setWidth 64)
  else
    let keep := keepPc hint P act t next
    let part := fun pc => maskOf fun l => inMask act l && goto l == pc
    (s.onCur fun g =>
      let g1 := (pcs.filter (· ≠ keep)).foldl (fun g pc =>
        let (age, g') := g.newAge
        { g' with sets := addSet g'.sets (Path.deferred { g.path with mask := part pc, pc := pc, age := age, rot := 0 }) }) g
      { g1 with path := { g.path with mask := part keep, pc := keep } }).stopChain

/-- A redirecting word: a bad target of a guard-true lane faults with the target as value and moves no lane; otherwise
`link` writes and the lanes go (R70, R123). -/
def State.redirect (s : State) (P : Mask) (t : Nat → DWord) (hint : Nat) (link : Group → Group) : State :=
  match badTarget P t with
  | some l => s.fault .align (t l)
  | none => (s.onCur link).split P t hint

/-! ## sys -/

/-- `sys.nop` (R120). -/
def execSysNop (h : Hdr) (s : State) : Host.Outcome State Fault Refusal := runWord (infoSysNop h) s fun _ s => s

/-- Lanes end: they leave the path for good (R30). -/
def Group.endLanes (g : Group) (P : Mask) : Group :=
  { g with ended := g.ended ||| P, path := { g.path with mask := g.path.mask &&& ~~~P } }

/-- `sys.exit` ends the lanes of P (R30, R120). -/
def execSysExit (h : Hdr) (s : State) : Host.Outcome State Fault Refusal :=
  runWord (infoSysExit h) s fun P s => s.onCur (·.endLanes P)

/-- `sys.yield`: the path becomes the youngest deferred set, past its chain, and the group skips the next cycle (R38). -/
def execSysYield (h : Hdr) (s : State) : Host.Outcome State Fault Refusal :=
  runWord (infoSysYield h) s fun _ s =>
    (s.onCur fun g =>
      let g' := Group.rotate { g with path := { g.path with pc := s.ctx.next } }
      { g' with notTill := s.dev.cycle + 2 }).stopChain

/-- `sys.trap` saves the PC past its chain (R120). -/
def execSysTrap (h : Hdr) (p : BitVec 8) (s : State) : Host.Outcome State Fault Refusal :=
  runWord (infoSysTrap h) s fun _ s => s.deliver .userTrap (p.setWidth 64) s.ctx.next

/-- A return to a saved PC: a target that fails the check of R70 faults with nothing changed (R120, R121). The check takes place as the
word executes, as R33, R77 and R120 have it, and not among the issue checks, where R121 lists it: a word whose every lane is guarded
off takes no ALIGN (DESIGN CHOICE, log 106). -/
def State.trapReturn (s : State) (t : Tag) (target : DWord) : State :=
  if pcOk target then (s.onCur (·.leave t target)).stopChain else s.fault .align target

/-- `sys.uret` (R120). -/
def execSysUret (h : Hdr) (s : State) : Host.Outcome State Fault Refusal :=
  runWord (infoSysUret h) s fun _ s => s.trapReturn ⟨.u, s.cur.depth - 1⟩ s.cur.utrap.epc

/-- `sys.tret`: from T1 to U, from T2 to T1 (R120). -/
def execSysTret (h : Hdr) (s : State) : Host.Outcome State Fault Refusal :=
  runWord (infoSysTret h) s fun _ s =>
    if s.cur.mode = .t2 then s.trapReturn ⟨.t1, s.cur.depth⟩ s.cur.t2trap.epc
    else s.trapReturn ⟨.u, s.cur.depth⟩ s.cur.t1trap.epc

/-- `sys.brk` saves its own PC (R120). -/
def execSysBrk (h : Hdr) (p : BitVec 14) (s : State) : Host.Outcome State Fault Refusal :=
  runWord (infoSysBrk h) s fun _ s => s.fault .breakpoint (p.setWidth 64)

/-- `sys.halt`: the tenant halt state with cause TENANT_HALT and reason P, bit 13 clear (R120, R281). -/
def execSysHalt (h : Hdr) (p : BitVec 13) (s : State) : Host.Outcome State Fault Refusal :=
  runWord (infoSysHalt h) s fun _ s =>
    (s.haltTenant s.cur.tn .tenantHalt (p.setWidth 16) s.cur.core s.ctx.pc).stopChain

/-! ## bra -/

/-- The target of a `bra` (R122). -/
def braTarget (pc : DWord) (o : BitVec 20) : DWord := pktOf pc + 12 * sext64 o

/-- `bra` (R122). -/
def execBra (h : Hdr) (o : BitVec 20) (s : State) : Host.Outcome State Fault Refusal :=
  runBranch (infoBra h) s fun P s => s.redirect P (fun _ => braTarget s.ctx.pc o) 0 id

/-- `bra.lk` (R122). -/
def execBraLk (h : Hdr) (o : BitVec 20) (s : State) : Host.Outcome State Fault Refusal :=
  runBranch (infoBraLk h) s fun P s => s.redirect P (fun _ => braTarget s.ctx.pc o) 1 id

/-- `bra.ulk` (R122). -/
def execBraUlk (h : Hdr) (o : BitVec 20) (s : State) : Host.Outcome State Fault Refusal :=
  runBranch (infoBraUlk h) s fun P s => s.redirect P (fun _ => braTarget s.ctx.pc o) 2 id

/-- `bra.unf` (R122). -/
def execBraUnf (h : Hdr) (o : BitVec 20) (s : State) : Host.Outcome State Fault Refusal :=
  runBranch (infoBraUnf h) s fun P s => s.redirect P (fun _ => braTarget s.ctx.pc o) 3 id

/-! ## ctl -/

/-- `ctl.jump` with its hint (R123). -/
def execCtlJump (h : Hdr) (a : BitVec 6) (hint : BitVec 2) (s : State) : Host.Outcome State Fault Refusal :=
  runBranch (infoCtlJump h a) s fun P s => s.redirect P (fun l => s.cur.getV2 a.toNat l) hint.toNat id

/-- `ctl.call` reads its target before it writes the link (R123). -/
def execCtlCall (h : Hdr) (d a : BitVec 6) (s : State) : Host.Outcome State Fault Refusal :=
  runBranch (infoCtlCall h d a) s fun P s =>
    s.redirect P (fun l => s.cur.getV2 a.toNat l) 0 fun g => g.setV2 d.toNat P fun _ => nextPkt s.ctx.pc

/-- `ctl.calli` (R123). -/
def execCtlCalli (h : Hdr) (d : BitVec 6) (off : Word) (s : State) : Host.Outcome State Fault Refusal :=
  runBranch (infoCtlCalli h d) s fun P s =>
    s.redirect P (fun _ => pktOf s.ctx.pc + 12 * sext64 off) 0 fun g => g.setV2 d.toNat P fun _ => nextPkt s.ctx.pc

/-- `ctl.ret` (R123). -/
def execCtlRet (h : Hdr) (a : BitVec 6) (s : State) : Host.Outcome State Fault Refusal :=
  runBranch (infoCtlRet h a) s fun P s => s.redirect P (fun l => s.cur.getV2 a.toNat l) 0 id

/-- Whether every instruction word after word `i` of a packet is `sys.nop`; a literal is not checked (R69, R124). -/
def restNop (pkt : List Word) (i : Nat) : Bool :=
  match pkt with
  | [w0, w1, w2] =>
    let (_, r1, r2) := packetRoles w0 w1 w2
    let nop := fun (w : Word) => w &&& 0x0FFFFFFF == 0
    (i ≥ 1 || r1 == .literal || nop w1) && (i ≥ 2 || r2 == .literal || nop w2)
  | _ => true

/-- `ctl.rep` (R124): the active lanes go to the repeated packet, or past it for a count of 0. -/
def execCtlRep (h : Hdr) (a : SSrc) (s : State) : Host.Outcome State Fault Refusal :=
  runWord (infoCtlRep h a) s fun _ s =>
    let n := (sval s.cur a).toNat
    let rp := nextPkt s.ctx.pc
    if !restNop s.ctx.pkt (idxOf s.ctx.pc) || s.cur.path.rep.isSome then s.fault .repNest (s.ctx.word.setWidth 64)
    else
      (s.onCur fun g =>
        if n = 0 then { g with path := { g.path with pc := rp + 12 } }
        else { g with path := { g.path with pc := rp, rep := some ⟨rp, n⟩ } }).stopChain

/-! ## Reform (R40) -/

/-- Adds one lane to a bin: the scalars and the number come from the lowest-numbered group that contributed, the time is the
largest (R41). The manual does not say at which moment a contributing group that lives on gives them: the model takes both as each
lane is filed, not at the draw (DESIGN CHOICE, log 91). -/
def Bin.add (b : Bin) (g : Group) (f : Filed) : Bin :=
  let lower := decide (g.num < b.num)
  { b with filed := b.filed ++ [f], num := min g.num b.num, s := if lower then g.s else b.s, t := max b.t g.ltime }

/-- The bin that takes a lane (R40): that of its key, an empty one, or the one whose first filing is oldest. `none` when
that bin is full and has to be drawn first. -/
def fileLane (bins : List Bin) (now : Nat) (g : Group) (f : Filed) : Option (List Bin) :=
  match bins.findIdx? (·.key == f.pc) with
  | some i => if ((bins[i]?.map (·.filed.length)).getD 32) < 32 then some (bins.modify i (·.add g f)) else none
  | none =>
    if bins.length < 16 then some (bins ++ [⟨f.pc, now, [f], g.num, g.s, g.ltime⟩])
    else
      let old := bins.foldl (fun m b => min m b.first) now
      match bins.findIdx? (·.first == old) with
      | some i => if ((bins[i]?.map (·.filed.length)).getD 32) < 32 then some (bins.modify i (·.add g f)) else none
      | none => none

/-- What lane `l` carries into its bin: its PC past the reform, its vector registers and its guards (R40). -/
def Group.filedLane (g : Group) (l : Nat) (pc : DWord) : Filed :=
  { pc := pc, v := (List.range g.budget).foldl (fun m n => m.set n (g.getV n l)) [],
    g := BitVec.ofNat 8 ((List.range 8).foldl (fun a n => if inMask (g.getG n) l then a + 2 ^ n else a) 0) }

/-- Files lanes in ascending order, as many as the bins take: the bins and the mask filed. -/
def fileLanes (g : Group) (now : Nat) (pc : DWord) : List Nat → List Bin → Mask → List Bin × Mask
  | [], bins, m => (bins, m)
  | l :: t, bins, m =>
    match fileLane bins now g (g.filedLane l pc) with
    | some b => fileLanes g now pc t b (m ||| BitVec.twoPow 32 l)
    | none => fileLanes g now pc t bins m

/-- `ctl.reform` (R40, R126): it blocks until the group's counters are 0; then the lanes of P are filed, those for which
a full bin has to be drawn first issue the word again, and the other active lanes continue at the next packet. -/
def execCtlReform (h : Hdr) (s : State) : Host.Outcome State Fault Refusal :=
  runWord (infoCtlReform h) s fun P s =>
    let g := s.cur
    if g.ld + g.st + g.cp + g.tl ≠ 0 then s.blockAt .reform
    else
      let next := nextPkt s.ctx.pc
      let (bins, done) := fileLanes g s.dev.cycle next (lanesOf P) (s.crew g.crew).bins 0
      let s1 := s.mapCrew g.crew fun c => { c with bins := bins }
      let s2 := if P &&& ~~~done = 0 then s1 else s1.blockLanes (P &&& ~~~done) .reform false []
      (s2.onCur fun g => { g.endLanes done with path := { (g.endLanes done).path with pc := next } }).stopChain

/-! ## wait -/

/-- `wait` blocks past its chain until the four counters are within their limits (R158). -/
def execWait (h : Hdr) (l st p t : BitVec 5) (s : State) : Host.Outcome State Fault Refusal :=
  runWord (infoWait h) s fun _ s => if s.waitOk s.cur l st p t then s else s.blockPast (.counters l st p t)

end Sys2Proof.Machine
end

