-- ==== Sys2Proof/Machine/Tsys.lean ====
section
/-!
DEFINITION. The tenant-mode words (R215 to R224): invalidation, the walk queue (R270 to R273), physical loads, frames (R274),
frame work, meters, the end of a save, and the thrash detector (R244, R245).
-/

namespace Sys2Proof.Machine

/-! ## Invalidation (R222) -/

/-- Whether an access may use a translation that an invalidation of a range drops: it lies in the range, or elsewhere in a page of
which a translation is dropped. -/
def State.usesDropped (s : State) (tn lo hi : Nat) : Nat → Nat → Bool :=
  let gone := (s.translations tn).filter (·.meetsVa tn lo hi)
  fun va n => meets va n lo (hi - lo) || gone.any fun x => meets va n x.va (pageSize x.level)

/-- The group's next chain waits until every access that used a dropped translation has performed (R222). -/
def State.invHold (s : State) (lo hi : Nat) : State :=
  let tn := s.cur.tn
  let used := s.usesDropped tn lo hi
  let accs := s.accsThrough tn fun ea => used (ea % 2 ^ 48) 1
  let xfers := s.xfersThrough tn fun ea n => used (ea % 2 ^ 48) n
  (s.dropXlat tn lo hi true).onCur fun g => { g with hold := some (.inv accs xfers) }

/-- `tsys.inv.va` (R222). -/
def execTsysInvVa (h : Hdr) (k : BitVec 5) (s : State) : Host.Outcome State Fault Refusal :=
  runWord (infoTsysInvVa h k) s fun _ s =>
    let va := s.cur.getS2 k.toNat
    let len := (s.cur.getS (k.toNat + 2)).toNat
    if va.toNat + len > 2 ^ 48 ∨ bits va 48 16 ≠ 0 then s.fault .align va else s.invHold va.toNat (va.toNat + len)

/-- `tsys.inv.all` (R222). -/
def execTsysInvAll (h : Hdr) (s : State) : Host.Outcome State Fault Refusal :=
  runWord (infoTsysInvAll h) s fun _ s => s.invHold 0 (2 ^ 48)

/-! ## The walk queue -/

/-- v(D+3) of a walk entry (R216). -/
def Walk.flags (w : Walk) : Word :=
  BitVec.ofNat 32 ((if w.write then 1 else 0) + (if w.fetch then 2 else 0) + (if w.user then 4 else 0) +
    (if w.arena then 8 else 0) + w.basin % 16 * 16)

/-- Gives a walk entry to a lane (R216). -/
def Group.giveWalk (g : Group) (d l : Nat) (w : Walk) : Group :=
  (((g.putV d l (BitVec.ofNat 32 (w.vpn % 2 ^ 20 * 4096))).putV (d + 1) l (BitVec.ofNat 32 (w.vpn / 2 ^ 20))).putV (d + 2) l
    w.token).putV (d + 3) l w.flags

/-- `tsys.wqpop`: an event first (R289); else the oldest unserved entries, one to a lane; else it blocks (R216). -/
def execTsysWqpop (h : Hdr) (m : BitVec 3) (d : BitVec 6) (s : State) : Host.Outcome State Fault Refusal :=
  runWord (infoTsysWqpop h m d) s fun P s =>
    match s.eventFor s.cur.core s.cur.tn with
    | some e =>
      let s1 := s.mapTenant s.cur.tn fun t => { t with events := t.events.erase e }
      s1.onCur fun g =>
        { g.setG m.toNat P 0 with t1trap := { g.t1trap with cause := 1#1 ++ e.1.code, val := e.2 } }
    | none =>
      let ws := ((s.core s.cur.core).wq.filter (!·.served)).take (lanesOf P).length
      if ws.isEmpty then s.blockAt .walk
      else
        let pairs := (lanesOf P).zip ws
        let s1 := s.mapCore s.cur.core fun c =>
          { c with wq := c.wq.map fun w => if ws.contains w then { w with served := true } else w }
        s1.onCur fun g => (pairs.foldl (fun g p => g.giveWalk d.toNat p.1 p.2) g).setG m.toNat P
          (maskOf fun l => pairs.any (·.1 == l))

/-- The entry in service that a token names on the issuing core. -/
def State.inService (s : State) (token : Word) : Option Walk :=
  (s.core s.cur.core).wq.find? fun w => w.served && w.token == token

/-- An entry leaves the queue: what waited for it issues again (R152). -/
def State.endWalk (s : State) (w : Walk) : State := s.mapCore s.cur.core fun c => { c with wq := c.wq.erase w }

/-- A cause posted to a group that waits: it is held pending with the address at which the group waits (R218, R288). A fetch, whose
chain cannot pass its checks, takes it at once when the group comes to its packet again; the lanes of a prefetch are dropped (R72,
R167, R168); a launch record is refused (R103). -/
def Group.post (g : Group) (vpn : Nat) (c : Cause) (r : Waiter) : Group :=
  match r.refused, r.ea with
  | some e, _ => g.pending e.1 e.2
  | none, none => { g with dropped := vpn :: g.dropped }
  | none, some ea => if r.fetch then { g with charge := g.charge <|> some (c, ea) } else g.pending c ea

/-- Posts a cause to every group waiting on an entry (R218, R273). -/
def State.postWalk (s : State) (w : Walk) (c : Cause) : State :=
  (s.endWalk w).mapGrps fun g => match w.grps.find? (·.grp == g.id) with
    | some r => g.post w.vpn c r
    | none => g

/-! ## The thrash detector (R245) -/

/-- A period of the detector in cycles: 1 ms is 1,250,000 (R9). -/
def msCycles (ms : Nat) : Nat := ms * 1250000

/-- The detector's entry for a page on a die. -/
def Tenant.thrashOf (t : Tenant) (die vpn : Nat) : Option Thrash := t.pages.find? fun p => p.die == die && p.vpn == vpn

/-- Whether a page is throttled at a time. -/
def Thrash.throttled (p : Thrash) (now : Nat) : Bool := decide (now < p.till)

/-- What a leaf names for a page, for the detector: frame, TY and peer device. -/
def leafPlace (x : DWord) (level va vpn : Nat) : Nat := (leafBase x level + (vpn * 4096 - va)) / 4096 + leafTY x * 2 ^ 40

/-- What the leaf as last installed on a die names for a page (R245). -/
def Tenant.lastPlace (t : Tenant) (die vpn : Nat) : Option Nat :=
  (t.leaves.find? fun x => x.die == die && decide (x.va ≤ vpn * 4096) && decide (vpn * 4096 < x.va + pageSize x.level)).map fun x =>
    leafPlace x.leaf x.level x.va vpn

/-- A leaf is installed on a die: it is the last one for its pages there. -/
def Tenant.noteLeaf (t : Tenant) (x : Installed) : Tenant :=
  { t with leaves := x :: t.leaves.filter fun y => !(y.die == x.die && decide (x.va ≤ y.va) &&
      decide (y.va + pageSize y.level ≤ x.va + pageSize x.level)) }

/-- Whether the detector throttles a page at a time: with N = 0 it is disabled (R244). -/
def Tenant.throttles (t : Tenant) (p : Thrash) (now : Nat) : Bool := bits t.thrash 0 8 != 0 && p.throttled now

/-- The detector's entry after an install: an install that names another place than the last one on the die is a migration; it
counts, and past N the page is throttled. With 4,096 pages held, the least recently migrated gives way (R244, R245). -/
def Tenant.noteInstall (t : Tenant) (die vpn place now stamp : Nat) : Tenant :=
  let n := (bits t.thrash 0 8).toNat
  let window := msCycles (bits t.thrash 8 12).toNat
  let period := msCycles (bits t.thrash 20 12).toNat
  if n = 0 || !(t.lastPlace die vpn).any (· != place) then t
  else match t.thrashOf die vpn with
    | none =>
      let p : Thrash := { vpn := vpn, frame := place, die := die, count := 1, start := now, till := 0, stamp := stamp }
      let room := if t.pages.length < 4096 then t.pages
        else match t.pages.find? fun q => t.pages.all fun r => q.stamp ≤ r.stamp with | some q => t.pages.erase q | none => t.pages
      { t with pages := p :: room }
    | some p =>
        let late := decide (p.start + window ≤ now)
        let count := if late then 1 else p.count + 1
        let q := { p with frame := place, count := count, start := if late then now else p.start,
                          till := if n < count then now + period else p.till, stamp := stamp }
        { t with pages := t.pages.map fun r => if r == p then q else r }

/-- THRASH_THROTTLE_END: the throttle of a page ends at its time (R245). -/
def State.throttleEnd (s : State) (tn vpn : Nat) : State :=
  s.mapTenant tn fun t => { t with pages := t.pages.map fun p =>
    if p.vpn == vpn && p.till != 0 && decide (p.till ≤ s.dev.cycle) then { p with till := 0 } else p }

/-- THRASH_THROTTLE_END (R245). -/
def execThrashThrottleEnd (tn page : Nat) (s : State) : Host.Outcome State Fault Refusal := .next (s.throttleEnd tn page)

/-! ## wqdone and fault.post -/

/-- A leaf that makes the waiting accesses fault with PT_FRAME (R217). -/
def badLeaf (leaf : DWord) (level : Nat) : Bool :=
  !leafK leaf || leafRsvd leaf || (decide (1 ≤ leafFM leaf) && decide (leafFM leaf ≤ 3) && level != 1)

/-- The frames of a leaf, if it maps HBM. -/
def leafFrames (leaf : DWord) (level : Nat) : List Nat :=
  if leafTY leaf = 0 then (List.range (pageSize level / 4096)).map fun i => leafBase leaf level / 4096 + i else []

/-- A frame of a leaf with AR = 1 inside a live arena's range is enrolled with the arena (R206). -/
def Tenant.enrol (t : Tenant) (va len : Nat) (leaf : DWord) (level : Nat) : Tenant :=
  if !leafAR leaf || !t.inWindow va then t
  else { t with arenas := t.arenas.map fun a =>
    if a.dying.isNone && decide (a.base ≤ va) && decide (va + len ≤ a.base + a.len) then
      { a with frames := (a.frames ++ leafFrames leaf level).dedup } else a }

/-- A leaf is installed for an entry: in the STC of the core's die and in the core's TC for the mode of each waiting group
(R217, R267, R245). A completion of a host page that the core has stored under an earlier leaf goes. -/
def State.install (s : State) (w : Walk) (leaf : DWord) (level : Nat) (tp : Bool) : State :=
  let core := s.cur.core
  let tn := s.cur.tn
  let va := w.vpn * 4096 / pageSize level * pageSize level
  let leaf' := (leaf &&& ~~~0x200#64) ||| (if tp then 0x200#64 else 0)
  let t := s.tenant tn
  let x : Xent := { tn := tn, va := va, level := level, leaf := leaf', user := false, pin := leafPIN leaf && t.inCistern va,
                    die := dieOf core, host := none, stamp := 0 }
  let modes := ((s.allGroups.filter fun g => w.waits g.id).map fun g => g.mode == .u).dedup
  let old := fun (y : Xent) => y.tn == tn && y.host.isSome && decide (va ≤ y.va) && decide (y.va < va + pageSize level)
  let s0 := (s.endWalk w).mapCore core fun c => { c with tc := c.tc.filter (!old ·) }
  let s1 := modes.foldl (fun s u => s.tcPut core { x with user := u }) (s0.stcPut tn x)
  s1.mapTenant tn fun t => (t.enrol va (pageSize level) leaf level).noteLeaf ⟨va, level, leaf', dieOf core, true⟩

/-- `wqdone` in one lane (R217, R245, R272): a token not in service is ignored, a stale one installs nothing. -/
def State.wqdoneLane (s : State) (d l : Nat) : State :=
  match s.inService (s.cur.getV (d + 2) l) with
  | none => s
  | some w =>
    let leaf := s.cur.getV2 d l
    let level := (bits (s.cur.getV (d + 3) l) 0 2).toNat
    let die := dieOf s.cur.core
    let vpn := w.vpn * 4096 / pageSize level * pageSize level / 4096
    if w.stale then s.endWalk w
    else if !leafV leaf then s.postWalk w .notPresent
    else if badLeaf leaf level then s.postWalk w .ptFrame
    else
      let place := leafPlace leaf level (vpn * 4096) vpn
      let held := match s.tn.thrashOf die vpn with
        | some p => s.tn.throttles p s.dev.cycle && p.frame != place
        | none => false
      if held then s.postWalk w .thrashHold
      else
        let s1 := s.mapTenant s.cur.tn fun t => t.noteInstall die vpn place s.dev.cycle s.fresh
        let s2 := { s1 with fresh := s1.fresh + 1 }
        let tp := (s2.tn.thrashOf die vpn).any (s2.tn.throttles · s.dev.cycle)
        s2.install w leaf level tp

/-- `tsys.wqdone` (R217). -/
def execTsysWqdone (h : Hdr) (d : BitVec 6) (s : State) : Host.Outcome State Fault Refusal :=
  runWord (infoTsysWqdone h d) s fun P s => (lanesOf P).foldl (fun s l => s.wqdoneLane d.toNat l) s

/-- `fault.post` in one lane (R218). -/
def State.postLane (s : State) (d l : Nat) : State :=
  match s.inService (s.cur.getV (d + 2) l), Cause.posted (bits (s.cur.getV (d + 3) l) 0 8) with
  | some w, some c => if w.stale then s.endWalk w else s.postWalk w c
  | _, _ => s

/-- `tsys.fault.post`: a cause that no walker may post faults the word, and nothing is posted (R218). -/
def execTsysFaultPost (h : Hdr) (d : BitVec 6) (s : State) : Host.Outcome State Fault Refusal :=
  runWord (infoTsysFaultPost h d) s fun P s =>
    if (lanesOf P).any fun l => (Cause.posted (bits (s.cur.getV (d.toNat + 3) l) 0 8)).isNone then
      s.fault .priv (s.ctx.word.setWidth 64)
    else (lanesOf P).foldl (fun s l => s.postLane d.toNat l) s

/-! ## Physical loads (R219) -/

/-- The lowest lane whose address satisfies a predicate. -/
def badLane (P : Mask) (bad : Nat → Bool) : Option Nat := (lanesOf P).find? bad

/-- `tsys.ptld` (R219): it reads HBM through the base die, as basin 15. -/
def execTsysPtld (h : Hdr) (a d : BitVec 6) (s : State) : Host.Outcome State Fault Refusal :=
  runWord (infoTsysPtld h a d) s fun P s =>
    let pa := fun l => s.cur.getV2 a.toNat l
    let odd := fun l => (pa l).toNat % 8 != 0
    let alien := fun l => !s.tn.hasFrame ((pa l).toNat / 4096)
    if s.cur.ld ≥ 63 then s.stallChain
    else match badLane P fun l => odd l || alien l with
      | some l => s.fault (if odd l then .align else .ptFrame) (pa l)
      | none =>
        s.issueWord (.load d.toNat 8 false) (some .ld) .load P [] ((lanesOf P).map fun l =>
          let p := (pa l).toNat
          ⟨l, 0, ⟨.device, ⟨s.cur.tn, 15, p / 128 * 128⟩, p, 0, 0, false, true, 2 ^ 64 + p, 0⟩, 8, .load⟩)

/-! ## Frames (R220, R274) -/

/-- The frames of a die: 96 GiB of 4 KiB frames from the die's first (R14). -/
def dieBase (die : Nat) : Nat := die * 2 ^ 25
def dieFrames : Nat := 25165824

/-- The order in which dies are tried from a die (R220, R325). -/
def dieOrder (d : Nat) : List Nat := [0, 1, 7, 2, 6, 3, 5, 4].map fun i => (d + i) % 8

/-- Number `i` of the naturals that an ascending list leaves out. -/
def nthFree : List Nat → Nat → Nat
  | [], i => i
  | x :: t, i => if x ≤ i then nthFree t (i + 1) else i

/-- The frames that are not in the firmware pool: held by a tenant, or not yet zeroed (R23, R310, R311). -/
def State.heldFrames (s : State) : List Nat := s.tenants.flatMap fun t => t.used ++ t.free

/-- A frame, or an aligned group of 16, of the firmware pool on a die; which one is the device's choice (`pick`). -/
def State.poolFrame (s : State) (n die pick : Nat) : Option Nat :=
  let held := sortOn ((s.heldFrames.filter fun f => f / 2 ^ 25 == die).map fun f => (f - dieBase die) / n).dedup (· ≤ ·)
  let count := dieFrames / n - held.length
  if count = 0 then none else some (dieBase die + nthFree held (pick % count) * n)

/-- A frame, or an aligned group, of a free list on a die; which one is the device's choice (`pick`). -/
def listFrame (free : List Nat) (n die pick : Nat) : Option Nat :=
  let cs := free.filter fun f => f / 2 ^ 25 == die && f % n == 0 && (List.range n).all fun i => free.contains (f + i)
  cs[pick % cs.length]?

/-- Takes a frame or a group: from the free list if any die has one there, else from the pool within the allotment
(R220, R274). -/
def State.takeFrame (s : State) (n : Nat) : Option Nat :=
  let t := s.tn
  let ds := dieOrder (dieOf s.cur.core)
  let pick := Config.freeNat s.free
  match ds.findSome? fun d => listFrame t.free n d pick with
  | some f => some f
  | none =>
    if t.used.length + t.free.length + n ≤ t.allot then ds.findSome? fun d => s.poolFrame n d pick else none

/-- The frames of a group. -/
def groupFrames (f n : Nat) : List Nat := (List.range n).map (f + ·)

/-- The frames per unit of a size bit (R215). -/
def frameCount (z : Bool) : Nat := if z then 16 else 1

/-- `tsys.frm.take` (R220). -/
def execTsysFrmTake (h : Hdr) (z : Bool) (m : BitVec 3) (d : BitVec 6) (s : State) : Host.Outcome State Fault Refusal :=
  runWord (infoTsysFrmTake h m d) s fun P s =>
    let n := frameCount z
    let (s1, failed) := (lanesOf P).foldl (fun (r : State × Bool) l =>
      let s := r.1
      match s.takeFrame n with
      | some f =>
        let fs := groupFrames f n
        let s2 := s.mapTenant s.cur.tn fun t => { t with used := t.used ++ fs, free := t.free.filter (!fs.contains ·) }
        ({ s2 with free := s.free + 1 }.onCur fun g =>
          ((g.putV d.toNat l (BitVec.ofNat 32 (f * 4096))).putV (d.toNat + 1) l (BitVec.ofNat 32 (f * 4096 / 2 ^ 32))).setG m.toNat
            (BitVec.twoPow 32 l) (BitVec.allOnes 32), r.2)
      | none => (s.onCur (·.setG m.toNat (BitVec.twoPow 32 l) 0), true)) (s, false)
    s1.mapTenant s1.cur.tn fun t => { t with tstat := if failed then Cause.allotmentExhausted.code else 0 }

/-- Whether an address names whole frames of the tenant, aligned to the size (R220, R221). -/
def Tenant.ownsGroup (t : Tenant) (pa n : Nat) : Bool :=
  pa % (4096 * n) == 0 && (List.range n).all fun i => t.hasFrame (pa / 4096 + i)

/-- `tsys.frm.give` (R220); a frame that stands on the free list already stays there. -/
def execTsysFrmGive (h : Hdr) (z : Bool) (a : BitVec 6) (s : State) : Host.Outcome State Fault Refusal :=
  runWord (infoTsysFrmGive h a) s fun P s =>
    let n := frameCount z
    let pa := fun l => s.cur.getV2 a.toNat l
    match badLane P fun l => !s.tn.ownsGroup (pa l).toNat n with
    | some l => s.fault .ptFrame (pa l)
    | none =>
      (lanesOf P).foldl (fun s l =>
        let fs := groupFrames ((pa l).toNat / 4096) n
        s.mapTenant s.cur.tn fun t =>
          { t with used := t.used.filter (!fs.contains ·), free := t.free ++ fs.filter t.used.contains }) s

/-! ## Frame work (R221) -/

/-- Issues the work on whole frames: it claims its destinations and raises st (R221). -/
def State.frameWork (s : State) (copy : Bool) (fs : List (Nat × Nat)) : State :=
  if s.cur.st ≥ 63 then s.stallChain else s.launch { s.xfer (.frames copy fs) with ctr := some .st }

/-- `tsys.mzero` (R221). -/
def execTsysMzero (h : Hdr) (z : Bool) (a : BitVec 6) (s : State) : Host.Outcome State Fault Refusal :=
  runWord (infoTsysMzero h a) s fun P s =>
    let n := frameCount z
    let pa := fun l => s.cur.getV2 a.toNat l
    match badLane P fun l => !s.tn.ownsGroup (pa l).toNat n with
    | some l => s.fault .ptFrame (pa l)
    | none => s.frameWork false ((lanesOf P).flatMap fun l => (groupFrames ((pa l).toNat / 4096) n).map fun f => (f, f))

/-- `tsys.mcopy` (R221): in each lane the destination in v(D) is checked first, then the source in v(A). -/
def execTsysMcopy (h : Hdr) (z : Bool) (a d : BitVec 6) (s : State) : Host.Outcome State Fault Refusal :=
  runWord (infoTsysMcopy h a d) s fun P s =>
    let n := frameCount z
    let src := fun l => s.cur.getV2 a.toNat l
    let dst := fun l => s.cur.getV2 d.toNat l
    let bad := fun (x : DWord) => !s.tn.ownsGroup x.toNat n
    match badLane P fun l => bad (dst l) || bad (src l) with
    | some l => s.fault .ptFrame (if bad (dst l) then dst l else src l)
    | none => s.frameWork true ((lanesOf P).flatMap fun l =>
        (groupFrames ((dst l).toNat / 4096) n).zip (groupFrames ((src l).toNat / 4096) n))

/-- The homes of a frame's lines: its base-die lines and those of every basin of the tenant. -/
def State.frameHomes (s : State) (tn f : Nat) : List HomeKey :=
  let bs := ((s.tenant tn).basins.filter (·.defn.mask != 0)).map (·.defn.id)
  (15 :: bs).flatMap fun b => s.linesOf tn b (f * 4096) 4096

/-- One frame takes its bytes: zeros, or those that HBM holds for the source, poison included. -/
def State.frameBytes (s : State) (copy : Bool) (dst src : Nat) : State :=
  let lo := dst * 4096
  let bytes := if copy then (s.hbm.range (src * 4096) (src * 4096 + 4096)).map fun e => (e.1 - src * 4096 + lo, e.2) else []
  let bad := if copy then (s.dev.poison.filterMap fun p => match p with
    | .hbm u => if src * 4096 ≤ u ∧ u < src * 4096 + 4096 then some (Place.hbm (u - src * 4096 + lo)) else none
    | _ => none) else []
  { s with hbm := s.hbm.copyRange bytes lo (lo + 4096),
           dev := bad.foldl Dev.addPoison (s.dev.overwritten lo 4096) }

/-- FRAME_WORK_COMPLETE: the destinations' lines are invalid in every basin, the bytes stand in HBM under one timestamp above
every read lease, and the word lands; until then it waits for every word issued before it that claims a frame of it, and for lines
whose entry waits for RECOVER (R221, R239, R258, R259). The HBM bytes of its reads and writes are metered (R25, R223; log 35). -/
def State.frameDone (s : State) (x : Xfer) : Option State :=
  match x.kind with
  | .frames copy fs =>
    let frames := fs.flatMap fun f => if copy then [f.1, f.2] else [f.1]
    if s.lostIn x.tn frames || s.flow.xfers.any (fun y => decide (y.id < x.id) && frames.any fun f => y.claims? s (f * 4096) 4096) then
      none
    else
      let ks := (fs.map (·.1)).dedup.flatMap fun f => s.frameHomes x.tn f
      let ts := s.landTime x.t ks
      let s1 := s.dropLines x.tn (fs.map (·.1)) false
      let s2 := fs.foldl (fun s f => s.frameBytes copy f.1 f.2) s1
      let s3 := ks.foldl (fun s k =>
        match s.liveBasin k.tn k.bs with
        | some b => s.raiseSum k.tn k.bs (b.bankOf false k.line) ts 0
        | none => (s.allocate k).mapHome k fun h => { h with wts := ts }) s2
      let s4 := ks.foldl (fun s k => s.noteWrite k k.line (s.lineLen k) ts) s3
      some ((s4.meter x.tn 5 (fs.length * if copy then 8192 else 4096)).retire x ts false)
  | _ => none

/-- FRAME_WORK_COMPLETE (R221). -/
def execFrameWorkComplete (x : Nat) (s : State) : Host.Outcome State Fault Refusal := onXfer x State.frameDone s

/-! ## Meters (R223) -/

/-- `tsys.meter.rd` (R223). -/
def execTsysMeterRd (h : Hdr) (e k : BitVec 5) (s : State) : Host.Outcome State Fault Refusal :=
  runWord (infoTsysMeterRd h e k) s fun _ s =>
    let i := (s.cur.getS k.toNat).toNat
    s.onCur fun g => g.setS2 e.toNat (if i < 12 then BitVec.ofNat 64 (s.tn.meterOf i) else 0)

end Sys2Proof.Machine
end

