-- ==== Sys2Proof/Machine/Work.lean ====
section
/-!
DEFINITION. From pools to slots: the order in which pools offer crews (R321), eligibility and placement (R28, R29, R323,
R324), resumption (R227), stealing (R325), swapping (R334), bins drawn into groups (R41), and the end of groups and crews
(R30, R300).
-/

namespace Sys2Proof.Machine

/-! ## What a pool offers (R321) -/

/-- A crew that a pool offers: a resumed one, or the next of a node. -/
inductive Offer where
  | back (r : Resumed)
  | fresh (e : PoolEnt)
  deriving DecidableEq, Repr

/-- Whether a node's crews may be placed: its creation is observable and its arena, if it has one, live (R256, R323). -/
def State.nodeReady (s : State) (id : Nat) : Bool :=
  let n := s.node id
  n.visible && (match n.arena with
    | some k => (s.arenaOf n.tn (some k)).any (·.dying.isNone)
    | none => true)

/-- What a pool offers, in order: resumed crews by the age of their save, then nodes by priority and time of entry, and the crews of
one node in index order. A resumed crew waits until its former slots are freed. -/
def State.offers (s : State) (tn die : Nat) : List Offer :=
  let back := sortOn (s.resumed.filter fun r => r.tn == tn && r.die == die && s.crews.all (·.id != r.image.crew.id))
    fun a b => a.saved ≤ b.saved
  let prio := fun (e : PoolEnt) => (s.node e.node).lr.prio
  let new := sortOn (s.pool.filter fun e => e.tn == tn && e.die == die && s.nodeReady e.node)
    fun a b => prio a > prio b || (prio a == prio b && (decide (a.enter < b.enter) || (a.enter == b.enter && decide (a.lo ≤ b.lo))))
  back.map .back ++ new.map .fresh

/-! ## The footprint of a crew -/

/-- What a crew asks of its cores: its width, its scratchpad bytes, and the number and role of each group. -/
structure Need where
  width   : Nat
  scratch : Nat
  groups  : List (Nat × Role)
  engines : List Nat
  deriving DecidableEq, Repr

/-- The groups of a new crew: copy, then matrix, then vector (R28). -/
def LaunchRec.roles (r : LaunchRec) : List Role :=
  List.replicate r.nCopy .copy ++ List.replicate r.nMat .matrix ++ List.replicate r.nVec .vector

/-- The footprint of an offer. -/
def State.need (s : State) : Offer → Need
  | .back r =>
    let c := r.image.crew
    ⟨c.width, c.scratch, r.image.groups.map fun g => (g.num, g.role), c.matrix.map (· - c.base)⟩
  | .fresh e =>
    let r := (s.node e.node).lr
    let gs := r.roles.mapIdx fun i x => (i, x)
    ⟨r.width, r.scratch, gs, (List.range r.width).filter fun k => gs.any fun g => g.2 == .matrix && g.1 % r.width == k⟩

/-- The groups that hold a slot of a core. -/
def State.slotsOn (s : State) (core : Nat) : List Group := s.allGroups.filter fun g => g.core == core && g.slot && g.id != 0

/-- The 4 KiB units of a core's scratchpad that no crew's window holds (R229). -/
def State.freeUnits (s : State) (core : Nat) : List Nat :=
  let used := s.crews.flatMap fun c => if c.base ≤ core ∧ core < c.base + c.width then c.units.getD (core - c.base) [] else []
  (List.range 64).filter (!used.contains ·)

/-- The units of a window on core `i` of a set: ⌈(U − i) / w⌉ (R229, R323). -/
def Need.unitsOn (n : Need) (i : Nat) : Nat := (n.scratch / 4096 + n.width - 1 - i) / n.width

/-- Whether one core of a set can take its part of a crew (R323); a group that has been swapped out and is ready goes back to
its core first (R334). -/
def State.coreTakes (s : State) (n : Need) (base i : Nat) : Bool :=
  let core := base + i
  let mine := n.groups.filter fun g => g.1 % n.width == i
  let held := (s.slotsOn core).filter fun g => g.role != .service
  decide (held.length + mine.length ≤ 63) && decide (n.unitsOn i ≤ (s.freeUnits core).length) &&
    (!n.engines.contains i || (s.core core).owner.isNone) &&
    !(s.allGroups.any fun g => g.core == core && !g.slot && g.live != 0 && g.unblocked)

/-- The aligned core sets of a tenant's quads on a die, the lowest first (R28, R323); a retired quad takes no crew (R301). -/
def State.sets (s : State) (tn die w : Nat) : List Nat :=
  let qs := sortOn ((s.tenant tn).quads.filter fun q => q / 11 == die && !s.dev.deadQ.contains q) (· ≤ ·)
  qs.flatMap fun q => ((List.range 4).filter (· % w == 0)).map (4 * q + ·)

/-- The core set that takes a crew: of the eligible ones the lowest (R323). -/
def State.findSet (s : State) (tn die : Nat) (n : Need) : Option Nat :=
  (s.sets tn die n.width).find? fun b => (List.range n.width).all fun i => s.coreTakes n b i

/-- The node of an offer, and the index of its crew. -/
def State.offered (s : State) : Offer → Node × Nat
  | .back r => (s.node r.image.crew.node, r.image.crew.idx)
  | .fresh e => (s.node e.node, e.lo)

/-- Whether a recorded placement or steal of a node has something to act on: its crew, or a crew in the pool, waits (R303). -/
def State.decidable_ (s : State) (nd : Nat) : CapEvent → Bool
  | .place c _ => s.pool.any (fun e => e.node == nd && decide (e.lo ≤ c) && decide (c < e.hi)) ||
      s.resumed.any fun r => r.image.crew.node == nd && r.image.crew.idx == c
  | .steal d _ => s.pool.any (fun e => e.node == nd && e.die == d) || s.resumed.any fun r => r.image.crew.node == nd && r.die == d
  | _ => false

/-- The next placement or steal that a node under replay is to make, of those that can be made (R303). -/
def State.nextDecision (s : State) (n : Node) : Option CapEvent :=
  n.cap.bind fun c => if c.replay then c.log.find? (s.decidable_ n.id) else none

/-- A placement or steal has been made: it is recorded, or taken off what is left to replay (R303). -/
def State.decided (s : State) (nd : Nat) (e : CapEvent) : State :=
  match (s.node nd).cap with
  | some k =>
    if k.replay then s.mapNode nd fun n => { n with cap := some { k with log := k.log.erase e } } else s.record nd e
  | none => s

/-- The set on which an offer is placed now: under replay the recorded one, for the recorded crew (R303). -/
def State.placeFor (s : State) (tn die : Nat) (o : Offer) : Option Nat :=
  let n := s.need o
  let (nd, idx) := s.offered o
  match s.nextDecision nd with
  | some (.place c b) =>
    if c = idx ∧ (s.sets tn die n.width).contains b ∧ (List.range n.width).all (fun i => s.coreTakes n b i) then some b else none
  | some _ => none
  | none => s.findSet tn die n

/-! ## Placement (R324) -/

/-- The register budget of a role (R31). -/
def LaunchRec.budgetOf (r : LaunchRec) : Role → Nat
  | .copy => r.bCopy
  | .matrix => r.bMat
  | _ => r.bVec

/-- A group at its entry (R29). -/
def Node.startGroup (n : Node) (c : Crew) (id age num ridx : Nat) (role : Role) : Group :=
  let budget := n.lr.budgetOf role
  let sregs : List (Nat × Word) :=
    [(1, BitVec.ofNat 32 c.x), (2, BitVec.ofNat 32 c.y), (3, BitVec.ofNat 32 c.z), (4, lo32 n.lr.arg), (5, hi32 n.lr.arg),
     (6, BitVec.ofNat 32 ridx)]
  { Group.blank with
    id := id, tn := n.tn, crew := c.id, num := num, core := c.base + num % c.width, slot := true, role := role, budget := budget,
    lanes := BitVec.allOnes 32, s := sregs.foldl (fun (m : SMap 32) p => m.set p.1 p.2) [],
    path := { Path.blank with mask := BitVec.allOnes 32, pc := n.lr.entry }, ages := 1, ltime := n.start, utvec := n.utvec,
    age := age }

/-- The window of a crew: on each core of its set the lowest free units. -/
def State.windowAt (s : State) (n : Need) (base : Nat) : List (List Nat) :=
  (List.range n.width).map fun i => (s.freeUnits (base + i)).take (n.unitsOn i)

/-- A crew takes the engine buffers of its matrix cores; their tags become none (R189). -/
def State.ownEngines (s : State) (crew : Nat) (cores : List Nat) : State :=
  cores.foldl (fun s c => s.mapCore c fun k =>
    { k with owner := some crew, eng := { k.eng with oaTag := [], wbTag := [] } }) s

/-- The next crew of a node is placed on a core set, with every group at its entry, in one step (R29, R321, R324). -/
def State.placeNew (s : State) (e : PoolEnt) (base : Nat) : State :=
  let n := s.node e.node
  let need := s.need (.fresh e)
  let i := e.lo
  let roles := n.lr.roles
  let mats := need.engines.map (base + ·)
  let c : Crew :=
    { Crew.blank with id := s.fresh, tn := n.tn, node := n.id, service := false, idx := i, x := i % n.lr.gx,
                      y := i / n.lr.gx % n.lr.gy, z := i / (n.lr.gx * n.lr.gy), base := base, width := need.width,
                      scratch := need.scratch, units := s.windowAt need base, matrix := mats }
  let gs := roles.mapIdx fun k r =>
    n.startGroup c (s.fresh + 1 + k) (s.fresh + 1 + k) k ((roles.take k).countP (· == r)) r
  let pool := if e.lo + 1 < e.hi then s.pool.map fun p => if p == e then { p with lo := p.lo + 1, first := false } else p
    else s.pool.erase e
  (State.ownEngines { s with crews := s.crews ++ [c], groups := s.groups ++ gs, pool := pool,
                             fresh := s.fresh + 1 + roles.length } c.id mats).decided n.id (.place i base)

/-- A core number of an image, moved to the new set. -/
def moveCore (old new core : Nat) : Nat := new + (core - old)

/-- The signed fields of a stroke on a new core set. -/
def Signed.moveTo (f : Signed) (old new : Nat) : Signed := { f with core := moveCore old new f.core }

/-- The pages of an engine word as they are translated now (R222). -/
def State.remap (s : State) (tn : Nat) (map : List (Nat × Loc)) : List (Nat × Loc) :=
  map.map fun p => (p.1, s.placeNow tn p.2.va p.2)

/-- An engine word of an image on a new core set, through the present translations. -/
def State.backXfer (s : State) (x : Xfer) (old new : Nat) : Xfer :=
  let k : XKind := match x.kind with
    | .stroke k => .stroke { k with f := k.f.moveTo old new, stop := false }
    | .tileIn d b r idx map => .tileIn d b r idx (s.remap x.tn map)
    | .taccMem t r map => .taccMem t r (s.remap x.tn map)
    | .taccLd t r map => .taccLd t r (s.remap x.tn map)
    | k => k
  { x with core := moveCore old new x.core, held := false, kind := k }

/-- A crew's musters on a new core set. -/
def Muster.moveTo (m : Muster) (old new : Nat) : Muster := { m with signed := m.signed.map (·.moveTo old new) }

/-- A resumed crew is placed: everything its image holds is back in place, its groups and free vector slots with new ages in the
order of their numbers, its monitors armed again at their next reload, its strokes going on (R171, R200, R227, R291, R330). What
its words of the tenant completed in the meantime now shows: its barriers complete and its paths become ready (R228). A crew that
the hardware sealed is unsealed here, which marks its save counter live (R294, R298). Under capture the placement is recorded (R303). -/
def State.placeBack (s : State) (r : Resumed) (base : Nat) : State :=
  let im := r.image
  let old := im.crew.base
  let need := s.need (.back r)
  let mats := im.crew.matrix.map (moveCore old base)
  let mons := im.mons.map fun m => { m with table := false, rearm := true, poll := s.dev.cycle }
  let nums := im.groups.map (·.num) ++ im.crew.freeNums.map (·.1)
  let age := fun (num : Nat) => s.fresh + nums.countP fun n => decide (n < num)
  let c := { im.crew with base := base, units := s.windowAt need base, matrix := mats, life := .running, mons := [],
                          musters := im.crew.musters.map (·.moveTo old base),
                          freeNums := im.crew.freeNums.map fun f => (f.1, moveCore old base f.2.1, age f.1) }
  let gs := im.groups.map fun g =>
    { g with core := moveCore old base g.core, slot := true, stopped := false, age := age g.num, since := s.dev.cycle,
             notTill := 0 }
  let s1 := State.ownEngines { s with crews := s.crews ++ [c], groups := s.groups ++ gs, resumed := s.resumed.erase r,
                                      fresh := s.fresh + nums.length } c.id mats
  let s2 := im.engines.foldl (fun s e => s.mapCore (base + e.1) fun k => { k with eng := e.2 }) s1
  let s3 := im.window.foldl (fun s e => s.spWrite c.id e.1 [e.2])
    ((List.range (im.crew.scratch / 4096)).foldl (fun s i =>
      let p := c.spByte (i * 4096)
      s.mapCore p.1 fun k => { k with sp := k.sp.clear p.2 (p.2 + 4096) }) s2)
  let back := im.strokes.map fun x => s3.backXfer x old base
  let s4 := s3.onFlow fun f =>
    { f with xfers := back ++ f.xfers, sigs := im.sigs ++ f.sigs, words := im.words ++ f.words, mons := f.mons ++ mons }
  let s5 := (((List.range 16).foldl (fun s n => s.completeBar c.id n) s4).settle).decided c.node (.place c.idx base)
  if im.forced then
    let va := (s.node c.node).recVa
    s5.mapTenant r.tn fun t =>
      { t with saves := t.saves.map fun e => if e.isOf va c then { e with live := true } else e }
  else s5

/-- Whether an offer has waited 1 ms as the first of its pool and has not been placed since (R321). -/
def Offer.flagged : Offer → Bool
  | .back r => r.first
  | .fresh e => e.first

/-- The offers that may be placed: one that has waited its time as the first alone, wherever it stands by now, since every quad of
the pool could hold it (R321). -/
def State.candidates (s : State) (tn die : Nat) : List Offer :=
  match (s.offers tn die).find? Offer.flagged with
  | some o => [o]
  | none => s.offers tn die

/-- The offer that a pool places next, with its core set. -/
def State.nextPlace (s : State) (tn die : Nat) : Option (Offer × Nat) :=
  if (s.tenant tn).life ≠ .live then none
  else (s.candidates tn die).findSome? fun o => (s.placeFor tn die o).map fun b => (o, b)

/-- PLACEMENT: one crew is placed (R323, R324). -/
def State.placeOne (s : State) (tn die : Nat) : Option State :=
  (s.nextPlace tn die).map fun p => match p.1 with
    | .back r => s.placeBack r p.2
    | .fresh e => s.placeNew e p.2

/-- PLACEMENT (R323). -/
def execPlacement (tn die : Nat) (s : State) : Host.Outcome State Fault Refusal := stepWhen s (s.placeOne tn die)

/-- The cycles of 1 ms (R9). -/
def oneMs : Nat := 1250000

/-- POOL_AGE_LIMIT: the first-offered crew has waited 1 ms; from now it goes first, unless another such crew still waits (R321). -/
def State.ageLimit (s : State) (tn die : Nat) : Option State :=
  if (s.offers tn die).any Offer.flagged then none
  else match s.offers tn die with
  | .back r :: _ =>
    if decide (r.since + oneMs ≤ s.dev.cycle) then
      some { s with resumed := s.resumed.map fun q => if q == r then { q with first := true } else q }
    else none
  | .fresh e :: _ =>
    if decide (e.since + oneMs ≤ s.dev.cycle) then
      some { s with pool := s.pool.map fun q => if q == e then { q with first := true } else q }
    else none
  | [] => none

/-- POOL_AGE_LIMIT (R321). -/
def execPoolAgeLimit (tn die : Nat) (s : State) : Host.Outcome State Fault Refusal := stepWhen s (s.ageLimit tn die)

/-! ## Stealing (R325) -/

/-- Half of a node's unplaced crews, rounded up, leave one pool for another. -/
def State.stealHalf (s : State) (e : PoolEnt) (die : Nat) : State :=
  let mid := e.lo + (e.hi - e.lo) / 2
  let rest := if e.lo < mid then s.pool.map fun p => if p == e then { p with hi := mid } else p else s.pool.erase e
  State.decided { s with pool := rest ++ [{ e with die := die, lo := mid, first := false }] } e.node (.steal e.die die)

/-- A resumed crew leaves one pool for another. -/
def State.stealBack (s : State) (r : Resumed) (die : Nat) : State :=
  State.decided { s with resumed := s.resumed.map fun q => if q == r then { q with die := die, first := false } else q }
    r.image.crew.node (.steal r.die die)

/-- Whether a pool has room for crews of a node: it holds at most 1,024 nodes (R320). -/
def State.poolRoom (s : State) (tn die node : Nat) : Bool :=
  (s.poolNodes tn die).contains node || decide (s.poolCount tn die < 1024)

/-- A steal from one die: its first-offered resumed crew, or half of its first-offered node, if a core set here takes it and the
pool has room for the node; under replay only the recorded one (R303, R320, R325). -/
def State.stealFrom (s : State) (tn die from_ : Nat) : Option State :=
  (s.offers tn from_).head?.bind fun o =>
    if (s.findSet tn die (s.need o)).isNone || (s.nextDecision (s.offered o).1).any (· != .steal from_ die) then none
    else match o with
      | .back r => some (s.stealBack r die)
      | .fresh e => if s.poolRoom tn die e.node then some (s.stealHalf e die) else none

/-- STEAL: a die whose pool holds no placeable crew steals from the tenant's other dies, in their order (R325). -/
def State.steal (s : State) (tn die : Nat) : Option State :=
  let t := s.tenant tn
  let has := fun (d : Nat) => t.quads.any (· / 11 == d)
  if t.life ≠ .live ∨ !has die ∨ (s.nextPlace tn die).isSome then none
  else (((dieOrder die).drop 1).filter has).findSome? fun d => s.stealFrom tn die d

/-- STEAL (R325). -/
def execSteal (tn die : Nat) (s : State) : Host.Outcome State Fault Refusal := stepWhen s (s.steal tn die)

/-! ## Swapping (R334) -/

/-- SWAP_OUT: a group blocked for 65,536 cycles gives up its slot when a crew could then be placed. -/
def State.swapOut (s : State) (id : Nat) : Option State :=
  (s.grp? id).bind fun g =>
    let s1 := s.mapGrp id fun g => { g with slot := false }
    let die := dieOf g.core
    if g.slot && !g.unblocked && g.live != 0 && decide (g.since + 65536 ≤ s.dev.cycle) &&
        (s.nextPlace g.tn die).isNone && (s1.nextPlace g.tn die).isSome then some s1
    else none

/-- SWAP_OUT (R334). -/
def execSwapOut (grp : Nat) (s : State) : Host.Outcome State Fault Refusal := stepWhen s (s.swapOut grp)

/-- SWAP_IN: a group whose blocked set has become ready returns to a free slot of its core; those of a halted tenant stay where
they are (R282). -/
def State.swapIn (s : State) (id : Nat) : Option State :=
  (s.grp? id).bind fun g =>
    if !g.slot && g.live != 0 && (s.tenant g.tn).life == .live && g.unblocked && decide ((s.slotsOn g.core).length < 64) then
      some (s.mapGrp id fun g => { g with slot := true })
    else none

/-- SWAP_IN (R334). -/
def execSwapIn (grp : Nat) (s : State) : Host.Outcome State Fault Refusal := stepWhen s (s.swapIn grp)

/-! ## Reform bins (R41) -/

/-- The registers of a drawn group from its filed lanes. -/
def drawV (fs : List Filed) (budget : Nat) : SMap 32 :=
  fs.zipIdx.foldl (fun m f => (List.range budget).foldl (fun (m : SMap 32) n => m.set (32 * n + f.2) (f.1.v.get n)) m) []

/-- The guards of a drawn group. -/
def drawG (fs : List Filed) : SMap 32 :=
  (List.range 8).foldl (fun (m : SMap 32) n => m.set n (maskOf fun l => ((fs[l]?.map (fun (f : Filed) => f.g)).getD 0).getLsbD n)) []

/-- A group drawn from a bin into a freed slot of the crew (R41): the PC of lane 0 is current, other PCs are deferred. -/
def State.drawGroup (s : State) (c : Crew) (b : Bin) (num core age : Nat) : Group :=
  let n := s.node c.node
  let count := b.filed.length
  let pcOf := fun l => (b.filed[l]?.map (·.pc)).getD 0
  let all := maskOf fun l => decide (l < count)
  let first := pcOf 0
  let part := fun pc => maskOf fun l => decide (l < count) && pcOf l == pc
  let g : Group := { Group.blank with
    id := s.fresh, tn := n.tn, crew := c.id, num := num, core := core, slot := true, role := .vector, budget := n.lr.bVec,
    lanes := BitVec.allOnes 32, ended := ~~~all, v := drawV b.filed n.lr.bVec, s := b.s, g := drawG b.filed,
    path := { Path.blank with mask := part first, pc := first }, ages := 1, ltime := b.t, utvec := n.utvec, age := age,
    since := s.dev.cycle, notTill := s.dev.cycle + 32 }
  ((pcsOf all pcOf).filter (· ≠ first)).foldl (fun g pc =>
    let (a, g') := g.newAge
    { g' with sets := addSet g'.sets (Path.deferred { g.path with mask := part pc, pc := pc, age := a }) }) g

/-- BIN_DRAW: a bin that holds 32 lanes, or that is 256 cycles old, becomes a group on the lowest-numbered core of the crew
that has a freed slot (R41). -/
def State.binDraw (s : State) (crew bin : Nat) : Option State :=
  (s.crews.find? (·.id == crew)).bind fun c => c.bins[bin]?.bind fun b =>
    if c.life ≠ .running ∨ (s.tenant c.tn).life ≠ .live ∨
        !(decide (b.filed.length ≥ 32) || decide (b.first + 256 ≤ s.dev.cycle)) then none
    else
      let open_ := c.freeNums.filter fun f => decide ((s.slotsOn f.2.1).length < 64)
      (open_.find? fun f => open_.all fun e => f.2.1 ≤ e.2.1).map fun f =>
        let g := s.drawGroup c b f.1 f.2.1 f.2.2
        let s1 := s.mapCrew crew fun c => { c with bins := c.bins.eraseIdx bin, freeNums := c.freeNums.erase f }
        let s2 := { s1 with groups := s1.groups ++ [g], fresh := s1.fresh + 1 }
        s2.mapGrps fun h => h.wake fun p => h.crew == crew && p.cond == .reform && h.ld + h.st + h.cp + h.tl == 0

/-- BIN_DRAW (R41). -/
def execBinDraw (crew bin : Nat) (s : State) : Host.Outcome State Fault Refusal := stepWhen s (s.binDraw crew bin)

/-! ## The end of groups and crews (R30) -/

/-- Whether a group's last lane has ended while it still holds its slot. A halted tenant keeps its slots (R282). -/
def State.slotOver (s : State) (g : Group) : Bool :=
  g.id != 0 && g.role != .service && g.slot && g.live == 0 && (s.tenant g.tn).life == .live

/-- The slot of an ended group is freed at once; a crew keeps the number of its vector slot for reform (R30, R41). -/
def State.endGroup (s : State) (g : Group) : State :=
  let s1 := s.mapGrp g.id fun g => { g with slot := false }
  if g.role = .vector then s1.mapCrew g.crew fun c => { c with freeNums := c.freeNums ++ [(g.num, g.core, g.age)] } else s1

/-- Whether nothing of an ended group is outstanding. -/
def State.groupDone (s : State) (g : Group) : Bool :=
  g.id != 0 && g.role != .service && !g.slot && g.live == 0 && (s.tenant g.tn).life != .halted && (s.tenant g.tn).life != .inspected &&
    g.ld + g.st + g.cp + g.tl == 0 && g.hostQ.isEmpty && g.peerQ.isEmpty && g.csrw.isNone &&
    !s.flow.sigs.any (·.grp == g.id) && !s.flow.accs.any fun a => a.grp == g.id && a.kind != .pref

/-- An ended group is forgotten; its node keeps its time (R256). -/
def State.dropGroup (s : State) (g : Group) : State :=
  let s1 := s.mapNode (s.crew g.crew).node fun n => { n with tmax := max n.tmax g.ltime }
  { s1 with groups := s1.groups.filter (·.id != g.id), cur := if s1.cur.id == g.id then Group.blank else s1.cur,
            flow := { s1.flow with accs := s1.flow.accs.filter (·.grp != g.id) } }

/-- A crew leaves its cores: its slots, window, engine buffers and synchronisation state are free (R30, R224, R300). -/
def State.leaveCores (s : State) (crew : Nat) : State :=
  let gone := fun (g : Group) => g.crew == crew
  { s with crews := s.crews.filter (·.id != crew), groups := s.groups.filter (!gone ·),
           cur := if gone s.cur then Group.blank else s.cur,
           cores := s.cores.map fun k =>
             { k with owner := if k.owner = some crew then none else k.owner, saveQ := k.saveQ.filter (· != crew),
                      wq := k.wq.map fun w => { w with grps := w.grps.filter fun i => !(s.grp? i.grp).any gone } } }

/-- Whether a place is in a crew's scratchpad window. -/
def Place.inWindow (crew : Nat) : Place → Bool
  | .scratch c _ => c == crew
  | _ => false

/-- Whether all groups of a crew have ended and no bin holds a lane of it (R30, R41). -/
def State.crewOver (s : State) (c : Crew) : Bool :=
  !c.service && c.life == .running && (s.tenant c.tn).life == .live && c.bins.isEmpty && (s.crewGroups c.id).all (·.live == 0)

/-- A crew exits: its node counts it, and its save counter is freed (R30, R298). -/
def State.crewExit (s : State) (c : Crew) : State :=
  let va := (s.node c.node).recVa
  ((s.mapCrew c.id fun c => { c with life := .exited }).mapNode c.node fun n => { n with exited := n.exited + 1 }).mapTenant c.tn
    fun t => { t with saves := t.saves.filter fun e => !e.isOf va c }

/-- Whether no word of an exited crew is in flight: until then the words still use its window and its engine buffers, and no other
crew gets them (DEDUCED, log 84). -/
def State.crewDone (s : State) (c : Crew) : Bool :=
  c.life == .exited && (s.crewGroups c.id).isEmpty && !s.flow.xfers.any fun x => x.crew == c.id && !x.ofTenant

/-- A crew gives up its cores, and its window holds no poison any more (R30, R299). -/
def State.crewLeave (s : State) (c : Crew) : State :=
  (s.leaveCores c.id).onDev fun d => { d with poison := d.poison.filter (!Place.inWindow c.id ·) }

/-- Ended groups free their slots, crews whose groups have all ended exit, and what nothing of is in flight any more is forgotten
(R30). -/
def State.reap (s : State) : State :=
  let s1 := (s.allGroups.filter s.slotOver).foldl State.endGroup s
  let s2 := (s1.allGroups.filter s1.groupDone).foldl State.dropGroup s1
  let s3 := (s2.crews.filter s2.crewOver).foldl State.crewExit s2
  (s3.crews.filter s3.crewDone).foldl State.crewLeave s3

/-! ## A crew torn from its cores (R224, R294, R300) -/

/-- Whether an engine word is a `tacc.tzero`, `tacc.tscale` or `tacc.tbias`, which complete when their crew stops (R228). -/
def Xfer.completes (x : Xfer) : Bool :=
  match x.kind with
  | .taccZero _ | .taccScale .. | .taccBias .. => true
  | _ => false

/-- The engine words of a crew that leaves its cores end, in issue order: those that complete do so, the others are cancelled
(R228). -/
def State.endWords (s : State) (xs : List Xfer) : State :=
  xs.foldl (fun s x => (if x.completes then s.taccAct x else none).getD (s.cancel x)) s

/-- Whether an access outlives the lanes that issued it: a store, an atomic or a reduction to memory (R186, R228). A window is free with
its crew, and loads return to nobody. -/
def Access.outlives (a : Access) : Bool := !a.isLoad && a.kind != .pref && a.cls != .scratch

/-- Whether a signal outlives them: that of a put or a created node; a crew's barriers and rings are gone with it (R256, R300). -/
def SigKind.outlives : SigKind → Bool
  | .fput _ | .node .. => true
  | .arrive .. | .release .. => false

/-- Whether something that outlives its lanes belongs to a word: an access, a queued atomic, a put. -/
def State.wordStays (s : State) (w : PendWord) : Bool :=
  s.flow.accs.any (·.word == w.id) || s.allGroups.any (fun g => g.peerQ.any (·.2.word == w.id)) ||
    s.flow.sigs.any fun x => match x.kind with | .fput a => a.word == w.id | _ => false

/-- What a group whose lanes have ended still has in flight: its counters as its words raise them. -/
def State.recount (s : State) (g : Group) : Group :=
  let words := fun (c : Counter) => s.flow.words.countP fun w => w.grp == g.id && w.ctr == c
  let xfers := fun (c : Counter) => s.flow.xfers.countP fun x => x.grp == g.id && x.ctr == some c
  { g with ld := words .ld, st := words .st + xfers .st, cp := xfers .cp, tl := xfers .tl }

/-- A group that has lost its lanes: it issues nothing more and holds no slot. -/
def Group.shed (g : Group) : Group :=
  { g with ended := g.lanes, path := { g.path with mask := 0 }, sets := [], csrw := none, hold := none, charge := none, slot := false }

/-- The groups of a crew lose their lanes. The crew's engine words end, and its loads, scratchpad accesses, monitors and the signals of
its own barriers and rings are gone; its stores, atomics and queued writes still perform, each at its place in its lane's order and at
its group's time, and its puts and the nodes that it has created become observable when they have (R186, R228, R249, R250, R256;
DEDUCED, log 97). -/
def State.shedCrew (s : State) (crew : Nat) : State :=
  let gs := s.crewGroups crew
  let mine := fun (id : Nat) => gs.any (·.id == id)
  let s1 := s.endWords (s.flow.xfers.filter fun x => x.crew == crew && !x.ofTenant && !x.held)
  let s2 := s1.onFlow fun f =>
    { f with accs := f.accs.filter fun a => !mine a.grp || a.outlives,
             sigs := f.sigs.filter fun x => !mine x.grp || x.kind.outlives,
             mons := f.mons.filter (!mine ·.grp), xfers := f.xfers.filter fun x => !(x.crew == crew && x.held) }
  let still := fun (w : PendWord) => if mine w.grp then { w with away := 0, ticket := 0 } else w
  let s3 := s2.onFlow fun f => { f with words := (f.words.filter fun w => !mine w.grp || s2.wordStays w).map still }
  let s4 := s3.mapGrps fun g => if mine g.id then s3.recount g.shed else g
  { s4 with cores := s4.cores.map fun k => { k with wq := k.wq.map fun w => { w with grps := w.grps.filter (!mine ·.grp) } } }

/-- A crew loses its cores: its slots, window, engine buffers and synchronisation state are free at once (R224, R300). It is forgotten
when what outlives its lanes has performed. -/
def State.cutLoose (s : State) (crew : Nat) : State :=
  let s1 := (s.shedCrew crew).mapCrew crew fun c =>
    { c with life := .exited, units := [], matrix := [], bins := [], mons := [], freeNums := [] }
  { s1 with cores := s1.cores.map fun k =>
      { k with owner := if k.owner = some crew then none else k.owner, saveQ := k.saveQ.filter (· != crew) } }

/-- Whether an engine word of a crew is in flight that its end cancels. -/
def State.hasWords (s : State) (crew : Nat) : Bool := s.flow.xfers.any fun x => x.crew == crew && !x.ofTenant

/-- A crew that fails: every group of it ends at once, its storage is free, its node counts it and fills its future with the
cause (R300). One that has exited fails only with the words of it that are cut off. -/
def State.failCrew (s : State) (id : Nat) (c : Cause) : State :=
  match s.crews.find? fun k => k.id == id && !k.service with
  | none => s
  | some k =>
    let gone := k.life == .exited
    let s1 := if gone && !s.hasWords id then s else s.mapNode k.node fun n => { n with fill := c.code }
    (if gone then s1 else s1.crewExit k).cutLoose id

end Sys2Proof.Machine
end

