-- ==== Sys2Proof/Machine/Save.lean ====
section
/-!
DEFINITION. Pre-emption and images: stopping crews (R228, R291, R335), the save handler (R292, R293, R224), the restart of
service groups (R269), the deadline (R294), sealing and unsealing (R225 to R227, R296 to R298), and crew failure (R300).
-/

namespace Sys2Proof.Machine

/-! ## Stopping crews (R291) -/

/-- The core whose service group saves a crew: that of the crew's group 0 (R292), the base of its core set (R28). -/
def Crew.saveCore (c : Crew) : Nat := c.base

/-- The load words that only wait for lanes to issue them again let their counter fall, and the lanes owe nothing any more: a
stopped crew's lanes issue them after it has resumed (R153, R297). -/
def State.forgive (s : State) (crew : Nat) : State :=
  let stubs := s.flow.words.filter fun w => w.away != 0 && w.kind == .none && (s.grp? w.grp).any (·.crew == crew)
  let s1 := stubs.foldl (fun s w => (s.onFlow fun f => { f with words := f.words.filter (·.id != w.id) }).complete w.grp w.ctr) s
  let clear := fun (w : PendWord) => if (s.grp? w.grp).any (·.crew == crew) then { w with away := 0, ticket := 0 } else w
  let s2 := s1.onFlow fun f => { f with words := f.words.map clear }
  s2.mapGrps fun g =>
    if g.crew != crew then g
    else { g with path := { g.path with owed := [] }, sets := g.sets.map fun p => { p with path := { p.path with owed := [] } } }

/-- A group is taken into issue. -/
def State.select (s : State) (id : Nat) : State :=
  if s.cur.id = id then s
  else match s.groups.find? (·.id == id) with
    | some g => { s with cur := g, groups := (if s.cur.id = 0 then [] else [s.cur]) ++ s.groups.filter (·.id != id) }
    | none => s

/-- The fault with which the current path of the group in issue is charged is delivered (R171, R174). -/
def State.takeCharge (s : State) : State :=
  match s.cur.charge with
  | some (c, v) => { s.onCur (fun g => { g with charge := none }) with ctx := { Ctx.blank with pc := s.cur.path.pc } }.fault c v
  | none => s

/-- Before its crew stops, a group takes the fault that its next path is charged with (R295). -/
def State.chargeFirst (s : State) (id : Nat) : State := ((s.select id).onCur Group.next).takeCharge

/-- A crew stops: a charged fault is delivered first; it issues no further chain, its strokes stop at their steps, its monitors
are released, and it queues for the save handler of its core (R171, R228, R291, R292, R295). -/
def State.stopCrew (s : State) (id : Nat) : State :=
  let s := ((s.crewGroups id).map (·.id)).foldl State.chargeFirst s
  match s.crews.find? fun c => c.id == id && !c.service && c.life == .running with
  | none => s
  | some c =>
    let held := s.heldWords (·.crew == id)
    let mine := fun (m : Monitor) => (s.grp? m.grp).any (·.crew == id)
    let mons := (s.flow.mons.filter mine).map fun m => { m with met := none }
    let s1 := (s.forgive id).onFlow fun f => { f with xfers := f.xfers.map (Xfer.hold held), mons := f.mons.filter (!mine ·) }
    let s2 := s1.mapGrps fun g => if g.crew == id then { g with stopped := true } else g
    (s2.mapCrew id fun c => { c with life := .stopping, mons := c.mons ++ mons }).mapCore c.saveCore fun k =>
      { k with saveQ := k.saveQ ++ [id] }

/-- The running crews of a tenant. -/
def State.running (s : State) (tn : Nat) : List Nat :=
  (s.crews.filter fun c => c.tn == tn && !c.service && c.life == .running).map (·.id)

/-- The crews that a request names: an empty list names every crew of the partition (R308). -/
def State.named (s : State) (tn : Nat) (crews : List Nat) : List Nat := if crews.isEmpty then s.running tn else crews

/-- TIME_QUANTUM: firmware pre-empts whole crews (R335). -/
def execTimeQuantum (tn : Nat) (crews : List Nat) (s : State) : Host.Outcome State Fault Refusal :=
  .next (if (s.tenant tn).life = .live then
    ((s.named tn crews).filter (s.running tn).contains).foldl State.stopCrew s else s)

/-! ## The mailbox (R308) -/

/-- An answer of PF0's management mailbox. -/
def State.answer (s : State) (cmd res : String) : State := s.emit (.answer cmd res)

/-- Whether a partition is being torn down: commands that name it are answered BUSY (R308). -/
def State.leaving (s : State) (tn : Nat) : Bool := (s.tenants.find? (·.id == tn)).any fun t => t.life == .ending || t.life == .stopping

/-- PREEMPT (R291, R308). -/
def State.preempt (s : State) (tn : Nat) (crews : List Nat) : State :=
  let named := s.named tn crews
  if s.leaving tn then s.answer "PREEMPT" "BUSY"
  else if (s.tenant tn).life ≠ .live ∨ named.isEmpty ∨ !named.all (s.running tn).contains then s.answer "PREEMPT" "NOT_RUNNING"
  else (named.foldl State.stopCrew s).answer "PREEMPT" "DONE"

/-- PREEMPT (R308). -/
def execPreempt (tn : Nat) (crews : List Nat) (s : State) : Host.Outcome State Fault Refusal := .next (s.preempt tn crews)

/-! ## Service groups (R269) -/

/-- The service group of a tenant on a core. -/
def State.serviceOn (s : State) (core : Nat) : Option Group :=
  s.allGroups.find? fun g => g.id != 0 && g.core == core && g.role == .service

/-- Whether the word at which a group waits is over (R187, R207, R222). -/
def State.holdOver (s : State) : Option Hold → Bool
  | none => true
  | some (.arena _) => false
  | some (.inv accs xfers) => s.gone accs xfers

/-- Whether every word that a group has issued has completed, the one at which it waits too (R269). -/
def State.quiet (s : State) (g : Group) : Bool :=
  s.holdOver g.hold && g.ld + g.st + g.cp + g.tl == 0 && g.hostQ.isEmpty && g.peerQ.isEmpty && !s.flow.sigs.any (·.grp == g.id) &&
    !s.flow.accs.any (fun a => a.grp == g.id && a.kind != .pref) && !s.flow.words.any (·.grp == g.id) &&
    !s.flow.xfers.any (·.grp == g.id)

/-- A service group at a start: every register 0, its logical time kept (R269). A handler that ended without `tsys.psave.done`
is still saving its crew (R294). -/
def Group.restartAt (g : Group) (pc : DWord) (age now : Nat) : Group :=
  { Group.blank with
    id := g.id, tn := g.tn, crew := g.crew, num := g.num, core := g.core, slot := true, role := .service, budget := 64,
    mode := .t1, lanes := BitVec.allOnes 32, path := { Path.blank with mask := BitVec.allOnes 32, pc := pc, tag := ⟨.t1, 0⟩ },
    ages := 1, ltime := g.ltime, due := g.due, pend := g.pend, age := age, seq := g.seq, since := now, saving := g.saving,
    deadAt := g.deadAt }

/-- A service group starts: its barriers, musters and rings are invalid or unarmed (R32, R269), it waits for no walk entry
any more, and a write to a control register that it left takes effect first (R148). -/
def State.startService (s : State) (g : Group) (pc : DWord) : State :=
  let s0 := s.csrCommit g.id
  let s1 := s0.mapGrp g.id fun g => g.restartAt pc s0.fresh s0.dev.cycle
  let s2 := s1.mapCrew g.crew fun c => { c with bars := Crew.blank.bars, musters := Crew.blank.musters, rings := Crew.blank.rings }
  let s3 := s2.mapCore g.core fun k => { k with wq := k.wq.map fun w => { w with grps := w.grps.filter (·.grp != g.id) } }
  { s3.onFlow fun f => { f with mons := f.mons.filter (·.grp != g.id) } with fresh := s3.fresh + 1 }

/-- SERVICE_RESTART: 1,024 cycles after its lanes have ended, and once its words have completed, a service group starts again
at sr.tvec + 0x200; walk entries in service stay so (R269). -/
def State.serviceRestart (s : State) (id : Nat) : Option State :=
  (s.grp? id).bind fun g => g.restart.bind fun till =>
    if till ≤ s.dev.cycle && s.quiet g && (s.tenant g.tn).life == .live then
      some (s.startService g ((s.tenant g.tn).tvec + 0x200)) else none

/-- SERVICE_RESTART (R269). -/
def execServiceRestart (grp : Nat) (s : State) : Host.Outcome State Fault Refusal := stepWhen s (s.serviceRestart grp)

/-- All lanes of a group end. -/
def Group.endAll (g : Group) : Group := { g with ended := g.lanes, path := { g.path with mask := 0 }, sets := [] }

/-- A save handler is over: its lanes end, and its service group restarts under R269 (R224, R294). -/
def State.endHandler (s : State) (id : Nat) : State :=
  s.mapGrp id fun g => { g.endAll with saving := none, restart := some (s.dev.cycle + 1024) }

/-! ## The save handler (R292) -/

/-- Walk entries in service become unserved again (R292). -/
def Core.unserve (k : Core) : Core := { k with wq := k.wq.map fun w => { w with served := false } }

/-- The save deadline in cycles: sr.deadline counts microseconds of 1,250 cycles (R9, R290). -/
def Tenant.deadlineCycles (t : Tenant) : Nat := t.deadline * 1250

/-- SAVE_HANDLER_ENTRY: the first stopped crew of a core's queue is saved by the core's service group, restarted at sr.tvec in
T1 with the crew's indices and the cause 0xC0 PREEMPT (R292). -/
def State.saveEntry (s : State) (id : Nat) : Option State :=
  (s.crews.find? fun c => c.id == id && c.life == .stopping).bind fun c =>
    (s.serviceOn c.saveCore).bind fun g =>
      let t := s.tenant c.tn
      if (s.core c.saveCore).saveQ.head? ≠ some id || g.saving.isSome || !s.quiet g || t.life != .live then none
      else
        let regs : List (Nat × Word) := [(1, BitVec.ofNat 32 c.x), (2, BitVec.ofNat 32 c.y), (3, BitVec.ofNat 32 c.z)]
        let s1 := (s.startService g t.tvec).mapGrp g.id fun g =>
          { g with s := regs.foldl (fun (m : SMap 32) p => m.set p.1 p.2) [], saving := some id,
                   deadAt := s.dev.cycle + t.deadlineCycles,
                   t1trap := trapRegs .preempt (t.tvec + 0x200) (s.node c.node).recVa }
        some ((s1.mapCore c.saveCore Core.unserve).mapCrew id fun c => { c with life := .saving })

/-- SAVE_HANDLER_ENTRY (R292). -/
def execSaveHandlerEntry (crew : Nat) (s : State) : Host.Outcome State Fault Refusal := stepWhen s (s.saveEntry crew)

/-- `tsys.psave.done`: the handler's lanes end, and the saved crew's slots, scratchpad and engine buffers are free (R224,
R293). -/
def execTsysPsaveDone (h : Hdr) (s : State) : Host.Outcome State Fault Refusal :=
  runWord (infoTsysPsaveDone h) s fun _ s =>
    match s.cur.saving with
    | none => s.fault .priv (s.ctx.word.setWidth 64)
    | some k => ((s.endHandler s.cur.id).cutLoose k).stopChain

/-! ## What an image holds (R297) -/

/-- The scratchpad window of a crew, by the crew's offsets. -/
def State.windowOf (s : State) (c : Crew) : SMap 8 :=
  (List.range (c.scratch / 4096)).foldl (fun m i =>
    let p := c.spByte (i * 4096)
    ((s.core p.1).sp.range p.2 (p.2 + 4096)).foldl (fun (m : SMap 8) e => m.set (i * 4096 + (e.1 - p.2)) e.2) m) []

/-- What the image of a crew holds: everything of it that is not outstanding; its ended groups hold nothing (R297). -/
def State.imageOf (s : State) (c : Crew) (forced : Bool) : Image :=
  { crew := { c with mons := [] }, groups := sortOn ((s.crewGroups c.id).filter (·.live != 0)) (fun a b => a.num ≤ b.num), window := s.windowOf c,
    engines := c.matrix.map fun k => (k - c.base, (s.core k).eng),
    strokes := s.flow.xfers.filter fun x => x.crew == c.id && x.held,
    sigs := s.flow.sigs.filter fun x => (s.crewGroups c.id).any (·.id == x.grp),
    words := s.flow.words.filter fun w => (s.crewGroups c.id).any (·.id == w.grp), mons := c.mons, forced := forced }

/-- The image length (R297); G counts every group the crew was placed with, ended or not (DEDUCED, log 8). -/
def State.imageLen (s : State) (c : Crew) : Nat :=
  let r := (s.node c.node).lr
  64 + r.roles.foldl (fun n x => n + 1024 + 128 * r.budgetOf x) 0 + 4096 + c.scratch + 689152 * c.matrix.length + 16

/-- Whether an engine word is a `mem.bpref`. -/
def Xfer.isPref (x : Xfer) : Bool :=
  match x.kind with
  | .bpref _ => true
  | _ => false

/-- Whether a signal waits for an engine word that a stopped stroke holds back (R256, R291). -/
def State.sigHeld (s : State) (x : Signal) : Bool := s.flow.xfers.any fun y => y.held && x.xfers.contains y.id

/-- Whether a word is a put that waits so. -/
def State.putHeld (s : State) (w : PendWord) : Bool :=
  s.flow.sigs.any fun x => s.sigHeld x && (match x.kind with | .fput a => a.word == w.id | _ => false)

/-- Whether no word of a crew is outstanding, but for what a stopped stroke holds back (R291, R293): engine words, and the signals of
barriers and rings behind them, which the image holds. The words that R228 gives to the tenant are not the crew's; a `mem.bpref` is
(log 92). -/
def State.crewQuiet (s : State) (crew : Nat) : Bool :=
  !(s.flow.xfers.any fun x => x.crew == crew && !x.held && (!x.ofTenant || x.isPref)) &&
  (s.crewGroups crew).all fun g =>
    g.ld == s.heldFor g .ld && g.st == s.heldFor g .st && g.cp == s.heldFor g .cp && g.tl == s.heldFor g .tl &&
      g.hostQ.isEmpty && g.peerQ.isEmpty && !s.flow.words.any (·.grp == g.id) &&
      !(s.flow.sigs.any fun x => x.grp == g.id && (x.kind.outlives || !s.sigHeld x)) &&
      !s.flow.accs.any fun a => a.grp == g.id && a.kind != .pref

/-! ## Save counters (R298) -/

/-- The save counter of a crew. -/
def Tenant.saveOf (t : Tenant) (recVa : DWord) (c : Crew) : Option SaveCtr := t.saves.find? (·.isOf recVa c)

/-- The count of a crew's save counter, 0 without one (R298). -/
def Tenant.saveCount (t : Tenant) (recVa : DWord) (c : Crew) : Nat := ((t.saveOf recVa c).map (·.count)).getD 0

/-- A seal of a crew: its counter rises and its entry is not live; the first seal makes the entry (R298). -/
def Tenant.countSave (t : Tenant) (recVa : DWord) (c : Crew) : Tenant :=
  match t.saveOf recVa c with
  | some e => { t with saves := t.saves.map fun x => if x == e then { e with count := e.count + 1, live := false } else x }
  | none => { t with saves := t.saves ++ [⟨recVa, c.x, c.y, c.z, 1, false⟩] }

/-- Whether the table has no entry for a crew and no room for one (R293, R298). -/
def Tenant.savesFull (t : Tenant) (recVa : DWord) (c : Crew) : Bool :=
  (t.saveOf recVa c).isNone && decide (t.saves.length ≥ 4096)

/-! ## The bytes of an image (R296) -/

/-- The GCM IV of a seal: a constant of the device and the seal's own number, so that no two seals have the same (R296; log 5). -/
def State.sealIv (s : State) : BitVec 96 := Config.ivBase + BitVec.ofNat 96 s.fresh

/-- The header (R296). -/
def State.imageHeader (s : State) (c : Crew) (count : Nat) (forced : Bool) : List Byte :=
  [0x43, 0x49, 0x4D, 0x47] ++ leBytes 1 2 ++ leBytes (if forced then 1 else 0) 2 ++ leBytes count 8 ++
    leBytes (s.node c.node).recVa.toNat 8 ++ leBytes (c.x % 65536 + c.y % 65536 * 2 ^ 16 + c.z % 65536 * 2 ^ 32) 8 ++
    leBytes (s.tenant c.tn).tid.toNat 4 ++ leBytes (s.imageLen c) 4 ++ leBytes (s.node c.node).lr.roles.length 2 ++
    leBytes c.width 1 ++ leBytes c.matrix.length 1 ++ leBytes c.scratch 4 ++
    leBytes s.sealIv.toNat 12 ++ leBytes 0 4

/-- The image in memory: the header, then the body under the tenant's sealing key and the IV, and the tag, which depends on the
header too (R226, R296; log 5). -/
def State.imageBytes (s : State) (c : Crew) (count : Nat) (forced : Bool) : List Byte :=
  let head := s.imageHeader c count forced
  let key := Config.sealKey ((s.tenant c.tn).keys.getD 0)
  head ++ (List.range (s.imageLen c - 64)).map (Config.cipher (List Byte × Image) key s.sealIv (head, s.imageOf c forced))

/-! ## seal.seal (R226, R293) -/

/-- The request of the seal engine's stores and loads (R225). -/
def rqSeal (write : Bool) : XReq := ⟨write, false, true, false, fun _ _ => true⟩

/-- The pages of an image at an address, each checked where the image first touches it. -/
def State.sealPages (s : State) (va : DWord) (len : Nat) (write : Bool) : List XRes :=
  (pagesOf va.toNat (max len 1)).map fun p => s.xcheck s.cur (rqSeal write) (BitVec.ofNat 64 (max (p * 4096) va.toNat)) 1

/-- The outcome of a `seal.seal` that writes nothing (R293). -/
def Group.sealNot (g : Group) (P : Mask) (k m : Nat) (x : Word) : Group := (g.setS (k + 2) x).setG m P 0

/-- Bytes as they stand from an address over translated pages. -/
def piecesOf (va : Nat) (bs : List Byte) (ls : List Loc) : List Piece :=
  ls.map fun l =>
    let off := l.va % 2 ^ 48 - va % 2 ^ 48
    ⟨l, (bs.drop off).take (4096 - l.va % 4096)⟩

/-- The image is written and the counter rises (R226). -/
def State.sealWrite (s : State) (P : Mask) (c : Crew) (va : DWord) (k m : Nat) (ls : List Loc) : State :=
  let t := s.tenant c.tn
  let recVa := (s.node c.node).recVa
  let count := t.saveCount recVa c + 1
  let bs := s.imageBytes c count false
  let kept : Sealed := { tn := c.tn, stamp := s.fresh, bytes := bs, count := count, recVa := recVa, image := s.imageOf c false }
  let s1 := (s.landPieces (Xfer.own c.tn s.cur.ltime) (piecesOf va.toNat bs ls)).1
  let s2 := (s1.mapTenant c.tn (·.countSave recVa c)).onDev fun d => { d with sealed := kept :: d.sealed }
  { s2 with fresh := s2.fresh + 1 }.onCur fun g =>
    { (g.setS (k + 2) (BitVec.ofNat 32 bs.length)).setG m P (BitVec.allOnes 32) with seq := g.seq + 1 }

/-- Whether the handler's earlier accesses let the seal engine act on the pages now, and no line is claimed (R249, R250). -/
def State.sealMay (s : State) (P : Mask) (write : Bool) (ls : List Loc) (len : Nat) : Bool :=
  ls.all fun l =>
    s.mayPerform { s.onceAcc P l 1 with kind := if write then .store else .load } &&
      (l.cls != .device || (s.linesOf s.cur.tn l.key.bs l.pa (min len (4096 - l.va % 4096))).all s.open_)

/-- `seal.seal` (R226, R293): outside a save handler PRIV; it stalls until the crew has nothing outstanding; then the first of
the table's outcomes. A page without translation makes a walk entry and the word completes; one that waits for the host
stalls the word. -/
def execSeal (h : Hdr) (m : BitVec 3) (k : BitVec 5) (s : State) : Host.Outcome State Fault Refusal :=
  runWord (infoSeal h m k) s fun P s =>
    match s.cur.saving with
    | none => s.fault .priv (s.ctx.word.setWidth 64)
    | some id =>
      let c := s.crew id
      let va := s.cur.getS2 k.toNat
      let len := s.imageLen c
      let recVa := (s.node c.node).recVa
      let not := fun (x : Word) => Group.sealNot (P := P) (k := k.toNat) (m := m.toNat) (x := x)
      if !s.crewQuiet id then s.stallWord
      else if (s.cur.getS (k.toNat + 2)).toNat < len then s.onCur (not (BitVec.ofNat 32 len))
      else if s.tn.savesFull recVa c then s.onCur (not 0xFFFFFFFF)
      else
        let rs := s.sealPages va len true
        let walks := rs.filter fun r => match r with | .walk .. => true | _ => false
        if !walks.isEmpty then ((s.xfill s.cur rs).xask s.cur walks).onCur (not 0)
        else if rs.any (·.open) then s.xstall rs
        else match verdict rs with
          | .fault c a => (s.xuse s.cur rs).fault c a
          | _ => match rs.findSome? XRes.priOf with
            | some q => (s.xuse s.cur rs).blockAt (.pri q.1 q.2)
            | none =>
            let ls := rs.filterMap XRes.loc?
            if !s.sealMay P true ls len then s.stallWord else (s.xuse s.cur rs).sealWrite P c va k.toNat m.toNat ls

/-! ## seal.unseal (R227) -/

/-- The bytes of a page of an image, read as loads in pieces of 64 bytes, and the cause if some cannot be had (R154); nothing while
a line is not open. -/
def State.sealRead (s : State) (l : Loc) (n : Nat) : Option (State × List Byte × Option Cause) :=
  (cutsOf l.va n 64).foldl (fun r c => r.bind fun (s, bs, bad) =>
    (s.readWord s.cur (s.offset s.cur.tn l c.1) c.2).map fun x => (x.1, bs ++ x.2.1, bad <|> x.2.2)) (some (s, [], none))

/-- Reads all pages of an image. -/
def State.sealReadAll (s : State) (va len : Nat) (ls : List Loc) : Option (State × List Byte × Option Cause) :=
  ls.foldl (fun r l => r.bind fun (s, bs, bad) =>
    (s.sealRead l (min (4096 - l.va % 4096) (va % 2 ^ 48 + len - l.va % 2 ^ 48))).map fun x => (x.1, bs ++ x.2.1, bad <|> x.2.2))
    (some (s, [], none))

/-- The image that bytes are: sealed by this tenant, unaltered in every byte (R227). -/
def State.sealedAs (s : State) (tn : Nat) (bs : List Byte) : Option Sealed :=
  s.dev.sealed.find? fun x => x.tn == tn && decide (x.bytes.length ≤ bs.length) && bs.take x.bytes.length == x.bytes

/-- A crew returns to its die's task pool, its save counter live (R227, R298). -/
def State.unsealed (s : State) (x : Sealed) : State :=
  let r : Resumed := { tn := x.tn, die := dieOf x.image.crew.base, saved := x.stamp, since := s.dev.cycle, first := false, bytes := x.bytes,
                       image := x.image }
  let mark := fun (e : SaveCtr) => if e.isOf x.recVa x.image.crew then { e with live := true } else e
  { s with resumed := s.resumed ++ [r] }.mapTenant x.tn fun t => { t with saves := t.saves.map mark }

/-- `seal.unseal`: the tag, then the counter (R227, R298). -/
def execUnseal (h : Hdr) (k : BitVec 5) (s : State) : Host.Outcome State Fault Refusal :=
  runWord (infoUnseal h k) s fun P s =>
    let va := s.cur.getS2 k.toNat
    let len := (s.cur.getS (k.toNat + 2)).toNat
    s.xone (s.sealPages va len false) fun ls s =>
      if !s.sealMay P false ls len then s.stallWord
      else match s.sealReadAll va.toNat len ls with
        | none => s.stallWord
        | some (s1, bs, bad) =>
          let s2 := s1.onCur fun g => { g with seq := g.seq + 1 }
          match bad with
          | some c => s2.onCur (·.pending c va)
          | none => match s2.sealedAs s2.cur.tn bs with
            | none => s2.fault .sealTag va
            | some x => match s2.tn.saveOf x.recVa x.image.crew with
              | some e => if e.count = x.count ∧ !e.live then s2.unsealed x else s2.fault .sealStale va
              | none => s2.fault .sealStale va

/-! ## The deadline (R294) -/

/-- Whether a stopped crew's accesses have performed, so that its state can be taken. -/
def State.drained (s : State) (crew : Nat) : Bool :=
  (s.crewGroups crew).all fun g =>
    g.hostQ.isEmpty && g.peerQ.isEmpty && !(s.flow.words.any fun w => w.grp == g.id && !s.putHeld w) &&
      !s.flow.accs.any fun a => a.grp == g.id && a.kind != .pref

/-- The engine words of a crew end, its copies that have not landed cancelled, and its signals are then observable (R186, R228). -/
def State.settleCrew (s : State) (crew : Nat) : State :=
  let s1 := s.endWords (s.flow.xfers.filter fun x => x.crew == crew && !x.ofTenant && !x.held)
  (s1.flow.sigs.filter fun x => (s1.crewGroups crew).any (·.id == x.grp)).foldl (fun s x => (s.takeSignal x).getD s) s1

/-- SAVE_DEADLINE: the handler's lanes end; the hardware seals the crew and returns it to its pool; the event and a usage
record tell of it (R294, R312). -/
def State.saveDeadline (s : State) (id : Nat) : Option State :=
  (s.crews.find? fun c => c.id == id && c.life == .saving).bind fun c =>
    (s.serviceOn c.saveCore).bind fun g =>
      if g.saving ≠ some id || decide (s.dev.cycle < g.deadAt) || !s.drained id || (s.tenant c.tn).life != .live then none
      else
        let va := (s.node c.node).recVa
        let count := fun (t : Tenant) => if t.savesFull va c then t else t.countSave va c
        let s1 := ((s.settleCrew id).endHandler g.id).mapTenant c.tn count
        let k := s1.crew id
        let r : Resumed := { tn := c.tn, die := dieOf c.base, saved := s1.fresh, since := s.dev.cycle, first := false,
                             bytes := s1.imageBytes k ((s1.tenant c.tn).saveCount va c) true, image := s1.imageOf k true }
        let s2 := { s1 with resumed := s1.resumed ++ [r], fresh := s1.fresh + 1 }
        let s3 := (s2.event c.tn .saveDeadline va).leaveCores id
        let im := r.image
        let s4 := s3.onFlow fun f =>
          { f with xfers := f.xfers.filter fun x => !(x.crew == id && x.held), sigs := f.sigs.filter (!im.sigs.contains ·),
                   words := f.words.filter (!im.words.contains ·) }
        some (s4.addRecord c.tn 2 Cause.saveDeadline.code 0 0 va)

/-- SAVE_DEADLINE (R294). -/
def execSaveDeadline (crew : Nat) (s : State) : Host.Outcome State Fault Refusal := stepWhen s (s.saveDeadline crew)

/-! ## Crew failure (R300) -/

/-- A crew failure ends a save of the crew that is in progress; nothing is sealed (R295). -/
def State.crewEnds (s : State) (id : Nat) (c : Cause) : State :=
  let hs := (s.allGroups.filter fun g => g.saving == some id).map (·.id)
  (hs.foldl State.endHandler s).failCrew id c

/-- A crew failure, with its event, which carries the launch record's VA (R300). -/
def State.crewFails (s : State) (id : Nat) : State :=
  match s.crews.find? fun k => k.id == id && !k.service with
  | none => s
  | some k => (s.crewEnds id .rasUncorrected).event k.tn .rasUncorrected (s.node k.node).recVa

/-- CREW_FAILURE (R300). -/
def execCrewFailure (crew : Nat) (s : State) : Host.Outcome State Fault Refusal := .next (s.crewFails crew)

end Sys2Proof.Machine
end

