-- ==== Sys2Proof/Machine/Chain.lean ====
section
/-!
DEFINITION. The issue of a chain (R330 to R332): which groups are ready, fetching a packet (R72), its chain (R71, R73), the
issue checks (R33, R74 to R78), pending causes (R288), the words in packet order (R77), and what follows the chain (R34,
R38). `ex` is the meaning of an instruction.
-/

namespace Sys2Proof.Machine

/-! ## The words of a packet (R71) -/

/-- The role of word `i` of a packet. -/
def roleAt (pkt : List Word) (i : Nat) : WordRole :=
  let r := packetRoles (pkt.getD 0 0) (pkt.getD 1 0) (pkt.getD 2 0)
  if i = 0 then r.1 else if i = 1 then r.2.1 else r.2.2

/-- The word after word `i`, its literal if it takes one. -/
def litAt (pkt : List Word) (i : Nat) : Word := pkt.getD (i + 1) 0

/-- The index of the next instruction word; 3 and more is past the packet. -/
def nextIdx (pkt : List Word) (i : Nat) : Nat := if takesLiteral (pkt.getD i 0) then i + 2 else i + 1

/-- The instruction at word `i` (R88). -/
noncomputable def instrAt (pkt : List Word) (i : Nat) : Option Instr := decodeWord (pkt.getD i 0) (litAt pkt i)

/-- The chain bit of word `i` (R68). -/
def chainBit (pkt : List Word) (i : Nat) : Bool := flag (pkt.getD i 0) 31

/-- The PC past word `i` and its literal (R73). The manual says that PC bits [63:48] are zero and not what follows the last packet
below 2^48 (R70): the sum carries into bit 48, and the next fetch checks the address that it gives (DESIGN CHOICE, log 90). -/
def pcPast (base : DWord) (pkt : List Word) (i : Nat) : DWord :=
  if nextIdx pkt i ≥ 3 then base + 12 else base + BitVec.ofNat 64 (nextIdx pkt i)

/-! ## The checks of a chain (R74, R76, R78) -/

/-- What the earlier words of a chain take: pipes, vector registers read, registers written. -/
structure Fit where
  pipes : List Pipe
  vr    : List Nat
  vw    : List Nat
  sw    : List Nat
  gw    : List Nat
  deriving DecidableEq, Repr

/-- Nothing taken, but for the pipes that are busy. -/
def Fit.start (busy : List Pipe) : Fit := ⟨busy, [], [], [], []⟩

/-- The first free pipe of a word (R78). -/
def Fit.pipe (f : Fit) (i : Info) : Option Pipe := i.pipes.find? (!f.pipes.contains ·)

/-- Whether a word reads or writes a register that an earlier word of the chain writes (R76). -/
def Fit.conflict (f : Fit) (i : Info) : Bool :=
  (i.vr ++ i.vw).any f.vw.contains || (i.sr ++ i.sw).any f.sw.contains || (i.guard :: i.gr ++ i.gw).any f.gw.contains

/-- The chain with one more word. -/
def Fit.add (f : Fit) (i : Info) : Fit :=
  { pipes := f.pipes ++ (f.pipe i).toList, vr := (f.vr ++ i.vr).dedup, vw := f.vw ++ i.vw, sw := f.sw ++ i.sw.filter (· ≠ 0),
    gw := f.gw ++ i.gw.filter (· ≠ 0) }

/-- The distinct vector registers read from each bank: v(n) lies in bank n mod 4 (R78). -/
def bankReads (vr : List Nat) : List (Nat × Nat) := (List.range 4).map fun b => (b, vr.dedup.countP (· % 4 == b))

/-- Whether word `j` of a packet makes its chain illegal (R74). `first` tells that it is the chain's first word. -/
def packetBad (pkt : List Word) (j : Nat) (first : Bool) (f : Fit) (i : Info) : Bool :=
  let c := chainBit pkt j
  roleAt pkt j == .missingLiteral || (c && decide (nextIdx pkt j ≥ 3)) || (c && i.ending) || (f.pipe i).isNone || f.conflict i ||
    ((c || !first) && (bankReads (f.add i).vr).any fun b => decide (b.2 > 2))

/-- What the issue checks of a chain come to: its words and what it takes, or the first failing word with its cause. -/
inductive Checked where
  | good (ws : List (Nat × Instr)) (f : Fit)
  | bad (j : Nat) (c : Cause)

/-- The state in which word `j` of a packet is issued. -/
def State.atWord (s : State) (base : DWord) (pkt : List Word) (j : Nat) (next : DWord) : State :=
  { s with ctx := { Ctx.blank with pc := base + BitVec.ofNat 64 j, next := next, word := pkt.getD j 0, pkt := pkt } }

/-- The issue checks over the words of a chain in packet order, each through the list of R33 (R77). -/
noncomputable def State.checkChain (s : State) (base : DWord) (pkt : List Word) :
    Nat → Nat → Bool → Fit → List (Nat × Instr) → Checked
  | 0, _, _, f, ws => .good ws f
  | fuel + 1, j, first, f, ws =>
    match instrAt pkt j with
    | none => .bad j .illegalEnc
    | some w => match info w with
      | none => .bad j .illegalEnc
      | some i =>
        if packetBad pkt j first f i then .bad j .illegalPacket
        else match issueFault i (s.atWord base pkt j 0) with
          | some c => .bad j c
          | none =>
            if chainBit pkt j then s.checkChain base pkt fuel (nextIdx pkt j) false (f.add i) (ws ++ [(j, w)])
            else .good (ws ++ [(j, w)]) (f.add i)

/-! ## Ready groups (R330, R331) -/

/-- Whether a group is ready in this cycle (R331). -/
def State.groupReady (s : State) (g : Group) : Bool :=
  g.id != 0 && g.slot && g.path.mask != 0 && s.holdOver g.hold && decide (g.notTill ≤ s.dev.cycle) && !g.stopped &&
    (s.tenant g.tn).life == .live && !(s.core g.core).wq.any fun w => !w.stale && w.waits g.id

/-- The ready groups of a core, the oldest first (R330). -/
def State.readyOn (s : State) (core : Nat) : List Group :=
  sortOn (s.allGroups.filter fun g => g.core == core && s.groupReady g) fun a b => a.age ≤ b.age

/-! ## Fetch (R72) -/

/-- The request of an instruction fetch (R152, R264). -/
def rqFetch : XReq := ⟨false, true, false, false, fun _ _ => true⟩

/-- The addresses at which a packet's pages are translated: one, or two when it spans two pages. -/
def fetchPages (base : DWord) : List DWord :=
  let last := base + 8
  if base.toNat / 4096 = last.toNat / 4096 then [base] else [base, BitVec.ofNat 64 (last.toNat / 4096 * 4096)]

/-- The place of a packet's word in its translated pages. -/
def State.fetchPlace (s : State) (ls : List Loc) (ea : DWord) : Option Loc :=
  (ls.find? fun l => l.va / 4096 == ea.toNat / 4096).map fun l => s.offset s.cur.tn l (ea.toNat - l.va)

/-- Fetching the packet at the current PC: each page is translated and checked on its own, before any word issues. The bytes
are those that the code's home holds, once its line is open (R239, R259). Poison faults at its address (R299). -/
def State.fetch (s : State) (go : List Word → State → State) : State :=
  let base := pktOf s.cur.path.pc
  let s0 := { s with ctx := { Ctx.blank with pc := s.cur.path.pc } }
  s0.xone ((fetchPages base).map fun a => s.xcheck s.cur rqFetch a 4) fun ls s =>
    let ps := [base, base + 4, base + 8].map fun a => (a, s.fetchPlace ls a)
    let s1 := ps.foldl (fun s p => match p.2 with | some l => s.recallAt s.cur.tn l 4 | none => s) s
    if ps.any fun p => p.2.any fun l => l.cls == .device && !s1.open_ l.key then s1.stallWord
    else match ps.find? fun p => p.2.any fun l => s1.badAt s1.cur.tn l 4 with
    | some p => s1.fault ((p.2.map Loc.errCause).getD .poison) p.1
    | none => go (ps.map fun p => match p.2 with | some l => wordVal (s1.fetchAt s1.cur.tn l 4) | none => 0) s1

/-! ## What a group's turn comes to -/

/-- The turn of the group in issue before its chain: it is over (a fault delivered, a translation awaited), an issue check
has failed at a word, or its chain may issue. -/
inductive Ready where
  | over (s : State)
  | bad (s : State) (j : Nat) (c : Cause) (w : Word)
  | chain (s : State) (ws : List (Nat × Instr)) (f : Fit) (pkt : List Word)

/-- A pending write to a control register takes effect, and ready sets at the PC join the path (R37, R148). -/
def State.begin_ (s : State) : State :=
  let s1 := (s.csrCommit s.cur.id).onCur fun g => { g with hold := none }
  s1.onCur Group.joinSets

/-- The packet that a fetch leaves in the context. -/
def State.fetched (s : State) : State := s.fetch fun pkt s => { s with ctx := { s.ctx with pkt := pkt } }

/-- The chain at the current PC, checked (R33, R71, R74). A path that comes back charged with a fault takes it first. -/
noncomputable def State.ready (s : State) : Ready :=
  let s1 := s.begin_
  if s1.cur.charge.isSome then .over s1.takeCharge
  else
    let s2 := s1.fetched
    if s2.ctx.stop then .over s2
    else
      let pkt := s2.ctx.pkt
      let j := idxOf s2.cur.path.pc
      if roleAt pkt j = .literal then .bad s2 j .illegalPacket (pkt.getD j 0)
      else match s2.checkChain (pktOf s2.cur.path.pc) pkt 3 j true (Fit.start []) [] with
        | .good ws f => .chain s2 ws f pkt
        | .bad j c => .bad s2 j c (pkt.getD j 0)

/-- A failed issue check faults, with the charged word as value; the saved PC names it (R33, R77, R285). -/
def State.badWord (s : State) (j : Nat) (c : Cause) (w : Word) : State :=
  { s with ctx := { Ctx.blank with pc := pktOf s.cur.path.pc + BitVec.ofNat 64 j } }.fault c (w.setWidth 64)

/-- The lowest pending code of a group (R288). -/
def Group.lowestPend (g : Group) : Option (Cause × DWord) := g.pend.find? fun e => g.pend.all fun f => e.1.code.toNat ≤ f.1.code.toNat

/-- The lowest pending cause is delivered to the current path instead of its chain (R288). -/
def State.deliverPend (s : State) (e : Cause × DWord) : State :=
  (s.onCur fun g => { g with pend := g.pend.erase e }).deliver e.1 e.2 s.cur.path.pc

/-! ## After a chain -/

/-- A set of lanes that cannot be split: a path that waits for one stage of a ring takes it once (R178). -/
def PSet.whole (p : PSet) : Bool :=
  match p.cond with
  | .acq .. | .take .. => true
  | _ => false

/-- Lanes whose flash data is awaited leave their path past the chain (R153): from the current path, or from the sets into which the
chain has split or blocked it, whose condition they then keep beside the data. -/
def Group.leaveLanes (g : Group) (m : Mask) (wd : Nat) (back : DWord) : Group :=
  let keep := fun (p : Path) => { p with mask := p.mask &&& ~~~m }
  let part := fun (p : Path) (a : Nat) => { p with mask := p.mask &&& m, age := a }
  let wait := fun (p : PSet) => { p with data := p.data ++ [wd] }
  let mine := g.sets.filter fun p => p.path.mask &&& m != 0
  let g1 := if g.path.mask &&& m = 0 then g
    else { g with ages := g.ages + 1, path := keep g.path,
                  sets := insertSet g.sets ⟨part g.path g.ages, .deferred, [wd], back, g.path.rep⟩ }
  mine.foldl (fun g p =>
    let others := g.sets.filter (· ≠ p)
    if p.whole || p.path.mask &&& ~~~m = 0 then { g with sets := insertSet others (wait p) }
    else { g with ages := g.ages + 1,
                  sets := insertSet (insertSet others { p with path := keep p.path }) (wait { p with path := part p.path g.ages }) }) g1

/-- A path that has issued 1,024 chains becomes the youngest deferred set (R38). -/
def Group.rotateDue (g : Group) : Group := if g.path.rot ≥ 1024 then g.rotate else g

/-- The end of a group's turn: its lanes go past the chain, awaited lanes leave, the rotation count rises, and the group
takes its next path (R34, R38, R153). -/
def State.finish (s : State) (age : Nat) : State :=
  let s1 := s.onCur fun g => if s.ctx.moved then g else { g with path := g.path.advance s.ctx.pc s.ctx.next }
  let s2 := s1.onCur fun g => s.ctx.leave.foldl (fun g p => g.leaveLanes p.1 p.2 s.ctx.pc) g
  s2.onCur fun g =>
    (if g.path.mask ≠ 0 ∧ g.path.age = age then Group.rotateDue { g with path := { g.path with rot := g.path.rot + 1 } } else g).next

/-- The turn is over without a chain: the group tries again in the next cycle. -/
def State.noIssue (s : State) : State :=
  s.onCur fun g => Group.next { g with notTill := max g.notTill (s.dev.cycle + 1) }

/-! ## The words of a chain (R77) -/

/-- The words of a chain act in packet order until one stops it. The answer is the state after them, and the index of a
word that did not issue. -/
def runWords (ex : Instr → State → Host.Outcome State Fault Refusal) (base : DWord) (pkt : List Word) (past : DWord) :
    List (Nat × Instr) → State → Host.Outcome State Fault Refusal
  | [], s => .next s
  | (j, i) :: t, s =>
    let lv := s.ctx.leave
    match ex i { (s.atWord base pkt j past) with ctx := { (s.atWord base pkt j past).ctx with leave := lv } } with
    | .next s' => if s'.ctx.stop then .next s' else runWords ex base pkt past t s'
    | r => r

/-- The number of a pipe. -/
def Pipe.num : Pipe → Nat
  | .v0 => 0 | .v1 => 1 | .m => 2 | .c => 3 | .x => 4 | .s => 5

/-- The pipes of a core that are taken in this cycle. -/
def Core.busy (k : Core) : List Pipe := [Pipe.v0, .v1, .m, .c, .x, .s].filter fun p => k.pipes.contains p.num

/-- The facts of a chain's words. -/
def infosOf (ws : List (Nat × Instr)) : List Info := ws.filterMap fun w => info w.2

/-- The read ports that bank reads take in one cycle: a bank has two; a single word that needs more reads the rest in a further
cycle (R78). -/
def portsOf (rs : List (Nat × Nat)) : List (Nat × Nat) := rs.map fun r => (r.1, min r.2 2)

/-- The pipes that a chain takes on a core, and whether each word finds one and the bank reads fit (R332). The first chain of a cycle
shares the ports with what is held into it alone: a single word is never refused for its own reads (R78). -/
def Core.fits (k : Core) (is : List Info) : Option (List Pipe × List (Nat × Nat)) :=
  let f := is.foldl Fit.add (Fit.start k.busy)
  let got := f.pipes.drop k.busy.length
  let rs := bankReads f.vr
  let ports := (if k.picks = 0 then portsOf rs else rs).all fun r =>
    decide (r.2 + (k.reads.foldl (fun n x => if x.1 = r.1 then n + x.2 else n) 0) ≤ 2)
  if got.length = is.length && ports then some (got, rs) else none

/-- Whether a single word reads more than two registers of a bank: it holds its pipe for a further cycle (R78). -/
def holdsPipe (is : List Info) : Bool := is.length == 1 && (bankReads (is.flatMap (·.vr))).any fun r => decide (r.2 > 2)

/-- A chain has issued: its core's pipes and ports are taken, and its group issues no other in this cycle. A word that holds its pipe
for a further cycle holds the ports that it uses then as well (R78, R332). -/
def State.picked (s : State) (g : Group) (got : List Pipe) (rs : List (Nat × Nat)) (further : Bool) : State :=
  let s1 := s.mapCore g.core fun k =>
    { k with picks := k.picks + 1, pickAge := g.age, pipes := k.pipes ++ got.map Pipe.num, reads := k.reads ++ rs,
             heldPipes := if further then k.heldPipes ++ got.map Pipe.num else k.heldPipes,
             heldReads := if further then k.heldReads ++ portsOf (rs.map fun r => (r.1, r.2 - 2)) else k.heldReads }
  let till := s.dev.cycle + (if further then 2 else 1)
  (s1.mapGrp g.id fun h => { h with notTill := max h.notTill till }).meter g.tn 0 32

/-- The words of a chain before the one at index `j`. -/
def wordsBefore (ws : List (Nat × Instr)) (j : Nat) : List (Nat × Instr) := ws.filter fun w => w.1 < j

/-- A chain whose word at `pc` did not issue on the state `s'`. The chain does not issue at all when that word cannot issue
on the state before the chain, or when it holds back the whole chain; otherwise the words before it have issued as a chain of their own,
which the core has picked (R332), and the path's PC names it. -/
def stalledChain (ex : Instr → State → Host.Outcome State Fault Refusal) (base : DWord) (pkt : List Word) (past : DWord)
    (ws : List (Nat × Instr)) (s s' : State) (age : Nat) : Host.Outcome State Fault Refusal :=
  let j := idxOf s'.ctx.pc
  match ws.find? (·.1 == j) with
  | none => .next s.noIssue
  | some w =>
    match ex w.2 (s.atWord base pkt j past) with
    | .next s1 =>
      if s1.ctx.stalled || s'.ctx.whole then .next (if s1.ctx.stalled then s1.noIssue else s.noIssue)
      else
        let head := wordsBefore ws j
        match runWords ex base pkt (base + BitVec.ofNat 64 j) head { s.settleOwed with ctx := Ctx.blank } with
        | .next s2 =>
          let s3 := ({ s2 with ctx := { s2.ctx with next := base + BitVec.ofNat 64 j } }.finish age).noIssue
          .next (match (s.core s.cur.core).fits (infosOf head) with
            | some (got, rs) => s3.picked s.cur got rs (holdsPipe (infosOf head))
            | none => s3)
        | r => r
    | r => r

/-- The chain of the group in issue issues: its words act, then its lanes go past it. -/
def issueChain (ex : Instr → State → Host.Outcome State Fault Refusal) (s : State) (ws : List (Nat × Instr)) (pkt : List Word)
    (got : List Pipe) (rs : List (Nat × Nat)) : Host.Outcome State Fault Refusal :=
  let g := s.cur
  let base := pktOf g.path.pc
  let past := pcPast base pkt ((ws.getLast?.map (·.1)).getD 0)
  match runWords ex base pkt past ws { s.settleOwed with ctx := Ctx.blank } with
  | .next s' =>
    if s'.ctx.stalled then stalledChain ex base pkt past ws s s' g.path.age
    else .next ((s'.finish g.path.age).picked g got rs (holdsPipe (infosOf ws)))
  | r => r

/-- The first of the ready groups that can act takes its turn: a fault, a pending cause, or a chain that fits the core's free
pipes and ports (R288, R332). -/
noncomputable def issueFrom (ex : Instr → State → Host.Outcome State Fault Refusal) (core : Nat) :
    List Group → State → Host.Outcome State Fault Refusal
  | [], s => .next s
  | g :: t, s =>
    match (s.select g.id).ready with
    | .over s1 => .next s1.noIssue
    | .bad s1 j c w => .next (s1.badWord j c w).noIssue
    | .chain s1 ws _ pkt =>
      match s1.cur.lowestPend with
      | some e => .next (s1.deliverPend e).noIssue
      | none => match (s.core core).fits (infosOf ws) with
        | some (got, rs) => issueChain ex s1 ws pkt got rs
        | none => issueFrom ex core t s

/-- The groups that may still be picked in this cycle: at most two chains, the second from a group younger than the first
(R332), and none while firmware stalls issue (R314). -/
def State.pickable (s : State) (core : Nat) : List Group :=
  let k := s.core core
  if k.picks ≥ 2 || s.dev.stall then [] else (s.readyOn core).filter fun g => k.picks = 0 || decide (k.pickAge < g.age)

/-- The issue of one chain on a core. -/
noncomputable def State.issue (ex : Instr → State → Host.Outcome State Fault Refusal) (core : Nat) (s : State) :
    Host.Outcome State Fault Refusal := issueFrom ex core (s.pickable core) s

/-! ## The steps of issue as events of their own -/

/-- The turn of the oldest group that may be picked on a core. -/
noncomputable def State.firstReady (s : State) (core : Nat) : Option Ready :=
  (s.pickable core).head?.map fun g => (s.select g.id).ready

/-- INSTRUCTION_FETCH: the packet at the PC of a core's oldest ready group is fetched: each page is translated and checked for
execution, and a fault is delivered or a walk entry made before any word issues (R72). -/
def execInstructionFetch (core : Nat) (s : State) : Host.Outcome State Fault Refusal :=
  .next (match (s.pickable core).head? with
    | some g =>
      let s1 := (s.select g.id).begin_.fetched
      if s1.ctx.stop then s1.noIssue else s1
    | none => s)

/-- A failed issue check of one cause at the first group's chain. -/
noncomputable def State.issueCheck (s : State) (core : Nat) (c : Cause) : State :=
  match s.firstReady core with
  | some (.bad s1 j d w) => if d = c then (s1.badWord j c w).noIssue else s
  | _ => s

/-- ILLEGAL_ENC (R88). -/
noncomputable def execIllegalEnc (core : Nat) (s : State) : Host.Outcome State Fault Refusal := .next (s.issueCheck core .illegalEnc)

/-- ILLEGAL_PACKET (R71, R74). -/
noncomputable def execIllegalPacket (core : Nat) (s : State) : Host.Outcome State Fault Refusal :=
  .next (s.issueCheck core .illegalPacket)

/-- PENDING_CAUSE_DELIVERY: at a ready boundary whose chain passes its checks the lowest pending cause is delivered (R288). -/
noncomputable def execPendingCauseDelivery (core : Nat) (s : State) : Host.Outcome State Fault Refusal :=
  .next (match s.firstReady core with
    | some (.chain s1 _ _ _) => (match s1.cur.lowestPend with
      | some e => (s1.deliverPend e).noIssue
      | none => s)
    | _ => s)

/-- ROTATION (R38). -/
def execRotation (grp : Nat) (s : State) : Host.Outcome State Fault Refusal := .next (s.mapGrp grp Group.rotateDue)

end Sys2Proof.Machine
end

