-- ==== Sys2Proof/Machine/Host.lean ====
section
/-!
DEFINITION. The host side of the module: ATS and PRI (R276, R280, R304), the life of a partition (R308 to R311), usage records
(R312, R313), the host window (R305), peers (R306, R307), power and limits (R314, R315, R317) and attestation (R318).
-/

namespace Sys2Proof.Machine

/-! ## ATS and PRI (R276, R280) -/

/-- The partition of a virtual function, which is enabled while the partition exists (R304). -/
def State.vf? (s : State) (vf : Nat) : Option Tenant := s.tenants.find? fun t => t.vf == vf && t.life != .ending

/-- The ATS or PRI request with an internal number. -/
def State.req? (s : State) (id : Nat) : Option HostReq := s.flow.reqs.find? (·.id == id)

/-- Changes a request. -/
def State.mapReq (s : State) (id : Nat) (f : HostReq → HostReq) : State :=
  s.onFlow fun fl => { fl with reqs := fl.reqs.map fun r => if r.id == id then f r else r }

/-- Ends a request. -/
def State.endReq (s : State) (id : Nat) : State := s.onFlow fun fl => { fl with reqs := fl.reqs.filter (·.id != id) }

/-- Sends a page request; with 512 of the VF outstanding, or as many as the host allots to it, it waits for a response (R304). -/
def State.priAsk (s : State) (r : HostReq) : State :=
  if s.flow.reqs.countP (fun q => q.tn == r.tn && q.pri) < min 512 (Config.priAllocation (s.tenant r.tn).vf) then
    (s.mapReq r.id fun r => { r with pri := true, late := false }).emit (.priRequest r.tn r.page r.write)
  else s.mapReq r.id fun r => { r with late := true }

/-- A leaf of one 4 KiB page of a host range (R276). -/
def hostLeaf (leaf : DWord) (page : Nat) : DWord := (leaf &&& ~~~(0xFFFFFFFFFF#64 <<< 12)) ||| (BitVec.ofNat 64 page <<< 12)

/-- A completion is stored in the core's TC, marked host, for the requested 4 KiB page only, under the leaf that maps the page now;
with none that does it is dropped (R231, R276). -/
def State.hostPut (s : State) (r : HostReq) (hpa : Nat) (w : Bool) : State :=
  let va := r.vpn * 4096
  match (s.tcFind r.core r.tn r.user va <|> s.stcFind r.core r.tn va).filter fun x => leafTY x.leaf == 1 && x.place va / 4096 == r.page with
  | some x => s.tcPut r.core { x with va := va, level := 0, leaf := hostLeaf x.leaf r.page, user := r.user,
                                      host := some (hpa / 4096 * 4096, w) }
  | none => s

/-- ATS_COMPLETION: a grant of what was asked is stored; a refusal, or a grant without the write that is needed, sends a page
request (R276). An answer that a host invalidation has overtaken is asked for again (R280). -/
def State.atsDone (s : State) (id : Nat) (ans : AtsAnswer) : State :=
  match s.req? id with
  | none => s
  | some r =>
    if r.pri || r.late then s
    else if r.again then (s.mapReq id fun r => { r with again := false }).emit (.atsRequest r.tn r.page r.write)
    else match ans with
      | .granted hpa w => if w || !r.write then (s.endReq id).hostPut r hpa w else s.priAsk r
      | .refused => s.priAsk r

/-- ATS_COMPLETION (R276). -/
def execAtsCompletion (rq : Nat) (ans : AtsAnswer) (s : State) : Host.Outcome State Fault Refusal := .next (s.atsDone rq ans)

/-- Whether a condition is the wait for a page request. -/
def Cond.waitsPri (rq : Nat) : Cond → Bool
  | .pri q _ => q == rq
  | _ => false

/-- Lanes whose page request is refused fault with ATS_DENIED at their word (R153, R276). -/
def PSet.denied (rq : Nat) (p : PSet) : PSet :=
  match p.cond with
  | .pri q ea => if q = rq then { p with cond := .fault .atsDenied ea } else p
  | _ => p

/-- What a page response does to the lanes of a group that wait for it (R153, R276). -/
def Group.priAnswer (rq : Nat) (ok : Bool) (g : Group) : Group :=
  if ok then g.wake fun p => p.cond.waitsPri rq else { g with sets := g.sets.map (·.denied rq) }

/-- PRI_RESPONSE: success repeats the ATS request, and the waiting lanes issue their word again; any other response makes them fault
with ATS_DENIED, those that an image holds too once they are back (R153, R227, R276). A request that waited for a slot is sent
(R304). -/
def State.priDone (s : State) (id : Nat) (ok : Bool) : State :=
  match s.req? id with
  | none => s
  | some r =>
    if !r.pri then s
    else
      let s0 := if ok then (s.mapReq id fun r => { r with pri := false, again := false }).emit (.atsRequest r.tn r.page r.write)
        else s.endReq id
      let s1 := (s0.mapGrps (Group.priAnswer id ok)).mapImages fun im => { im with groups := im.groups.map (Group.priAnswer id ok) }
      match s1.flow.reqs.find? fun q => q.tn == r.tn && q.late with
      | some q => s1.priAsk q
      | none => s1

/-- PRI_RESPONSE (R276). -/
def execPriResponse (rq : Nat) (ok : Bool) (s : State) : Host.Outcome State Fault Refusal := .next (s.priDone rq ok)

/-- Whether a translation maps a page of a range of host pages. -/
def Xent.hostIn (x : Xent) (tn page count : Nat) : Bool :=
  x.tn == tn && leafTY x.leaf == 1 && meets (leafBase x.leaf x.level / 4096) (pageSize x.level / 4096) page count

/-- The pages of a tenant's VA that translations give to a range of host pages: cached ones, and leaves as last installed (R280). -/
def State.hostVpns (s : State) (tn page count : Nat) : List Nat :=
  let of := fun (x : Xent) =>
    let base := leafBase x.leaf x.level / 4096
    let lo := max page base
    (List.range (min (page + count) (base + pageSize x.level / 4096) - lo)).map fun i => x.va / 4096 + (lo - base) + i
  (((s.translations tn).filter (·.hostIn tn page count)).flatMap of).dedup

/-- The host pages that an engine word reads or writes. -/
def Xfer.hostPages (x : Xfer) : List Nat :=
  let of := fun (ls : List Loc) => (ls.filter (·.cls == .host)).map (·.hp)
  match x.kind with
  | .cpy _ els => of (els.flatMap fun e => [e.src, e.dst])
  | .tileIn _ _ _ _ map | .tileOut _ _ _ map | .taccMem _ _ map | .taccLd _ _ map => of (map.map (·.2))
  | _ => []

/-- ATS_INVALIDATION: the TC entries of host leaves for the range are dropped on every core, walk entries for the pages become stale,
and the completion waits for the reads and writes that used the entries, those of saved crews too (R280). With 32 requests of the VF
outstanding the link holds it back (R304). -/
def State.atsInvalidate (s : State) (vf page count : Nat) : Option State :=
  (s.vf? vf).bind fun t =>
    if s.flow.invs.countP (·.tn == t.id) ≥ 32 then none
    else
      let vpns := s.hostVpns t.id page count
      let hit := fun (hp : Nat) => decide (page ≤ hp) && decide (hp < page + count)
      let accs := (s.flow.accs.filter fun a => a.tn == t.id && a.cls == .host && hit a.hp).map (·.id) ++
        (s.allGroups.filter (·.tn == t.id)).flatMap fun g => (g.hostQ.filter fun q => hit q.hp).map (·.id)
      let xfers := ((s.flow.xfers ++ s.imageWords t.id).filter fun x => x.tn == t.id && x.hostPages.any hit).map (·.id)
      let stale := fun (w : Walk) => if vpns.contains w.vpn then { w with stale := true, grps := [] } else w
      let mine := fun (c : Core) => t.quads.contains (c.num / 4)
      let cores := s.cores.map fun c =>
        if mine c then { c with tc := c.tc.filter (!·.hostIn t.id page count), wq := c.wq.map stale } else c
      let meet := fun (r : HostReq) => if r.tn == t.id && !r.pri && hit r.page then { r with again := true } else r
      let s1 := { s with cores := cores, fresh := s.fresh + 1 }
      some (s1.onFlow fun f =>
        { f with reqs := f.reqs.map meet, invs := f.invs ++ [⟨s.fresh, t.id, vpns, accs, xfers⟩] })

/-- ATS_INVALIDATION (R280). -/
def execAtsInvalidation (vf page count : Nat) (s : State) : Host.Outcome State Fault Refusal :=
  stepWhen s (s.atsInvalidate vf page count)

/-- INVALIDATION_COMPLETION: sent once what used the dropped entries is done (R280). -/
def State.invDone (s : State) (id : Nat) : Option State :=
  (s.flow.invs.find? (·.id == id)).bind fun v =>
    if s.gone v.accs v.xfers && !(s.imageWords v.tn).any (fun x => v.xfers.contains x.id) then
      some ((s.onFlow fun f => { f with invs := f.invs.filter (·.id != id) }).emit (.invalidated id))
    else none

/-- INVALIDATION_COMPLETION (R280). -/
def execInvalidationCompletion (iv : Nat) (s : State) : Host.Outcome State Fault Refusal := stepWhen s (s.invDone iv)

/-! ## Usage records (R312, R313) -/

/-- The first 32 bytes of a signature block (R313). -/
def sigHead (tid : BitVec 32) (first count : Nat) : List Byte :=
  [0x55, 0x53, 0x47, 0x53] ++ leBytes tid.toNat 4 ++ leBytes first 8 ++ leBytes count 4 ++ leBytes 0 12

/-- Bytes go into the host's circular buffer of usage records, one after another (R312). -/
def Dev.ringPut (d : Dev) (bs : List Byte) : Dev :=
  { d with recWr := d.recWr + bs.length,
           host := bs.zipIdx.foldl (fun (m : Memory) b => m.set (d.recBase + (d.recWr + b.2) % d.recSize) b.1) d.host }

/-- The 17,120 bytes of a signature block (R313). -/
def sigBlock (head sig : List Byte) : List Byte := head ++ (List.range 17088).map fun i => sig.getD i 0

/-- Signs the batch whose last record is `last`, the hash of which the tenant holds; the block goes to the host's buffer (R312,
R313). -/
def State.signBatch (s : State) (tn last : Nat) : State :=
  let t := s.tenant tn
  let first := last / 64 * 64
  let head := sigHead t.tid first (last + 1 - first)
  let sig := Config.sign (head ++ leBytes t.hash.toNat 32)
  ((s.mapTenant tn fun t => { t with signed := last + 1 }).onDev (·.ringPut (sigBlock head sig))).emit
    (.signature tn first (last + 1 - first) sig)

/-- The bytes that the oldest held record adds to the host's buffer: its own, and the signature block that closes its batch (R313). -/
def UsageRec.bytes (r : UsageRec) : Nat := 256 + if r.seq % 64 = 63 ∨ r.kind = 3 then 17120 else 0

/-- Whether the host's buffer has room (R312). -/
def Dev.ringRoom (d : Dev) (n : Nat) : Bool := decide (d.recWr - d.recRd + n ≤ d.recSize)

/-- The oldest held record is chained and written to the host's buffer; after a batch's last record, and after a final one, its
signature block follows (R312, R313). -/
def State.writeRecord (s : State) (tn : Nat) : State :=
  let t := s.tenant tn
  match t.held with
  | [] => s
  | r :: rest =>
    let body := r.body t.tid t.hash
    let h := Config.sha256 body
    let s1 := ((s.mapTenant tn fun t => { t with held := rest, hash := h }).onDev (·.ringPut (body ++ leBytes h.toNat 32))).emit
      (.record tn { r with hash := h })
    if r.seq % 64 = 63 ∨ r.kind = 3 then s1.signBatch tn r.seq else s1

/-- The held records of a partition are written in their order while the host's buffer has room (R312). -/
def State.writeHeld (s : State) (tn : Nat) : State :=
  (s.tenant tn).held.foldl (fun s _ => match (s.tenant tn).held.head? with
    | some r => if s.dev.ringRoom r.bytes then s.writeRecord tn else s
    | none => s) s

/-- A partition whose storage has all returned, and whose records are written, is gone (R311). -/
def State.sweep (s : State) : State :=
  { s with tenants := s.tenants.filter fun t =>
      !(t.life == .ending && t.quads.isEmpty && t.banks.isEmpty && t.used.isEmpty && t.free.isEmpty && t.held.isEmpty) }

/-- Every partition's records that wait are written as far as the buffer has room. -/
def State.writeAll (s : State) : State := ((s.tenants.map (·.id)).foldl State.writeHeld s).sweep

/-- RECORD_RELEASE: the host has taken what its buffer holds, and the held records of a partition are written (R312). -/
def execRecordRelease (tn : Nat) (s : State) : Host.Outcome State Fault Refusal :=
  .next ((s.onDev fun d => { d with recRd := d.recWr }).writeHeld tn).sweep

/-- The record interval in cycles; it counts milliseconds (R9, R309). -/
def Tenant.intervalCycles (t : Tenant) : Nat := t.interval * 1250000

/-- The energy that firmware attributes to a partition at the end of an interval: what its activity model gives, as far as the module's
measured energy covers it with all that has been attributed before (R312). -/
def State.attribute (s : State) (tn : Nat) : State :=
  let total := s.dev.measured + Config.measured s.free
  let n := min (Config.energy s.free) (total - s.dev.attributed)
  (State.meter { s with free := s.free + 1 } tn 11 n).onDev fun d => { d with measured := total, attributed := d.attributed + n }

/-- USAGE_INTERVAL: at the end of a record interval firmware adds the interval's energy and makes an interval record (R312). -/
def State.usageInterval (s : State) (tn : Nat) : Option State :=
  (s.tenants.find? fun t => t.id == tn && t.life != .ending && t.life != .stopping).bind fun t =>
    if s.dev.cycle < t.nextRec then none
    else some (((s.attribute tn).addRecord tn 0 0 0 0 0).mapTenant tn fun t => { t with nextRec := t.nextRec + t.intervalCycles })

/-- USAGE_INTERVAL (R312). -/
def execUsageInterval (tn : Nat) (s : State) : Host.Outcome State Fault Refusal := stepWhen s (s.usageInterval tn)

/-! ## CREATE: the description (R309) -/

/-- The dies of a set of quads (R10). -/
def diesOf (qs : List Nat) : List Nat := (qs.map (· / 11)).dedup

/-- The 4 KiB blocks of the 32 TB flash tier (R16, R278). -/
def flashBlocks : Nat := 32 * 10 ^ 12 / 4096

/-- Whether every field of a description lies in its range (R309). -/
def partFieldsOk (d : PartDesc) : Bool :=
  let dies := diesOf d.quads
  let weight := fun w => decide (1 ≤ w) && decide (w ≤ 255)
  let inCis := fun a => decide (d.cisBase ≤ a) && decide (a < d.cisBase + d.cisSize)
  !d.quads.isEmpty && decide d.quads.Nodup && d.quads.all (· < 88) &&
    decide (d.banks.map (·.1)).Nodup && d.banks.all (fun b => dies.contains b.1) && dies.all (fun x => d.banks.any (·.1 == x)) &&
    decide (d.minFrames.map (·.1)).Nodup && d.minFrames.all (fun m => decide (m.1 < 8)) &&
    decide (d.minFrames.foldl (fun n m => n + m.2) 0 ≤ d.allot) && decide (d.allot < 2 ^ 32) &&
    weight d.wHbm && weight d.wCopy && weight d.wWalk &&
    d.cisBase % 65536 == 0 && d.cisSize % 65536 == 0 && decide (0 < d.cisSize) && decide (d.cisSize < 2 ^ 32) &&
    decide (d.cisBase + d.cisSize ≤ 2 ^ 48) &&
    decide (16 ≤ d.winBits) && decide (d.winBits ≤ 36) && decide (d.winBase + 2 ^ d.winBits ≤ 2 ^ 48) &&
    decide (10 ≤ d.deadline) && decide (d.deadline ≤ 500) &&
    decide (100 ≤ d.interval) && decide (d.interval ≤ 60000) && d.interval % 100 == 0 &&
    decide (4096 * d.imgPages.length ≤ 2 ^ 29) && d.flash.all (fun b => decide (b < flashBlocks)) &&
    bits d.thrash 8 12 != 0 && bits d.thrash 20 12 != 0 && d.ptroot % 4096 == 0 && decide (d.ptroot < 2 ^ 40) &&
    d.tvec % 4 == 0 && inCis d.tvec && inCis (d.tvec + 0x100) && inCis (d.tvec + 0x200) &&
    d.awBase % 65536 == 0 && d.awSize % 65536 == 0 && decide (d.awSize < 2 ^ 32) && decide (d.awBase + d.awSize ≤ 2 ^ 48) &&
    (d.awSize == 0 || !meets d.awBase d.awSize d.cisBase d.cisSize) && decide (d.pasid < 2 ^ 20) &&
    d.basin0.any (fun r => r.id == 0 && dies.contains r.die)

/-- Whether a quad can be given to a partition: enabled, and in none (R21, R301). -/
def State.quadFree (s : State) (q : Nat) : Bool := !s.dev.deadQ.contains q && s.tenants.all (!·.quads.contains q)

/-- Whether the banks of a mask can be given to a partition (R21, R236). -/
def State.banksFree (s : State) (die : Nat) (mask : BitVec 64) : Bool :=
  s.tenants.all (fun t => t.shareOn die &&& mask == 0) &&
    (banksOf mask).all fun b => !s.dev.deadB.contains (die * 64 + b)

/-- Whether a frame exists (R14). -/
def frameExists (f : Nat) : Bool := decide (f / 2 ^ 25 < 8) && decide (f % 2 ^ 25 < dieFrames)

/-- Whether the description's frames are the stated number on each die, all from the pool's zeroed frames (R310). -/
def State.framesOk (s : State) (d : PartDesc) : Bool :=
  let held := s.heldFrames
  decide d.frames.Nodup && d.frames.all (fun f => frameExists f && !held.contains f) &&
    (List.range 8).all fun die =>
      d.frames.countP (· / 2 ^ 25 == die) == ((d.minFrames.find? (·.1 == die)).map (·.2)).getD 0

/-- The lowest of the 88 VF numbers that no partition uses; a partition's VF is free again once its teardown has ended the VF's use
(R304, R311). -/
def State.freeVf (s : State) : Option Nat :=
  ((List.range 88).map (· + 1)).find? fun v => s.tenants.all fun t => t.vf != v || t.life == .ending

/-- The lowest key slot that no partition's sealing key stands in; with all sixteen taken, a free value (R290, R310; log 93). -/
def State.freeSlot (s : State) : BitVec 4 :=
  match (List.range 16).find? fun k => s.tenants.all fun t => t.keys.isNone || t.keyslot.toNat != k with
  | some k => BitVec.ofNat 4 k
  | none => Config.freeBits 4 s.free

/-! ## CREATE: the page-table image (R262, R263, R266, R310) -/

/-- The entries of a table that some byte other than zero stands in, by index. -/
def State.entriesOf (s : State) (table size : Nat) : List (Nat × DWord) :=
  let is := ((s.hbm.range table (table + size)).map fun e => (e.1 - table) / 8).dedup
  is.map fun i => (i, s.entryAt table i)

/-- A table entry with a reserved bit set (R263). -/
def entryRsvd (e : DWord) : Bool := bits e 2 10 != 0 || bits e 52 12 != 0

/-- Whether every entry reachable from a table is well formed and every frame is the partition's (R310). An entry with V = 0 leads
nowhere and is passed over, whatever its other bits, of which R263 does not say whether they make it malformed (DESIGN CHOICE, log
110). -/
def State.tablesOk (s : State) (own : Nat → Bool) (table : Nat) : Nat → Bool
  | 0 => true
  | level + 1 =>
    own (table / 4096) && (s.entriesOf table (tableSize (level + 1))).all fun x =>
      let e := x.2
      if !leafV e then true
      else if leafK e then level != 4 && (leafTY e != 0 || (leafFrames e level).all own)
      else level != 0 && !entryRsvd e && s.tablesOk own ((bits e 12 40).toNat * tableSize level) level

/-- The leaves below a table: the first address, the leaf and the level of each. -/
def State.leavesFrom (s : State) (table va : Nat) : Nat → List (Nat × DWord × Nat)
  | 0 => []
  | level + 1 =>
    (s.entriesOf table (tableSize (level + 1))).flatMap fun x =>
      let e := x.2
      let at_ := va + x.1 * 2 ^ (levelBits level).1
      if !leafV e then []
      else if leafK e then (if level = 4 then [] else [(at_, e, level)])
      else s.leavesFrom ((bits e 12 40).toNat * tableSize level) at_ level

/-- The frames in which a table and those below it stand. -/
def State.tableFrames (s : State) (table : Nat) : Nat → List Nat
  | 0 => []
  | level + 1 =>
    table / 4096 :: (s.entriesOf table (tableSize (level + 1))).flatMap fun x =>
      if leafV x.2 && !leafK x.2 then s.tableFrames ((bits x.2 12 40).toNat * tableSize level) level else []

/-- Whether a leaf may map the cistern, or with `user` the host window (R266, R305). R266 lists no reserved bit of the leaf: one that is
set does not refuse it (DESIGN CHOICE, log 111). -/
def leafPinned (own : Nat → Bool) (user : Bool) (e : DWord) (level : Nat) : Bool :=
  leafPIN e && (user || !leafU e) && leafTY e == 0 && leafFM e == 0 && (leafBS e == 0 || leafBS e == 15) && (leafFrames e level).all own

/-- The leaves of a list that meet a range. -/
def leavesIn (ls : List (Nat × DWord × Nat)) (lo n : Nat) : List (Nat × DWord × Nat) :=
  ls.filter fun l => meets l.1 (pageSize l.2.2) lo n

/-- The bytes of a range that leaves of a list map. -/
def mappedIn (ls : List (Nat × DWord × Nat)) (lo n : Nat) : Nat :=
  (leavesIn ls lo n).foldl (fun a l => a + (min (lo + n) (l.1 + pageSize l.2.2) - max lo l.1)) 0

/-- Whether every page of a range is mapped by a leaf of R266. -/
def windowOk (own : Nat → Bool) (user : Bool) (ls : List (Nat × DWord × Nat)) (lo n : Nat) : Bool :=
  mappedIn ls lo n == n && (leavesIn ls lo n).all fun l => leafPinned own user l.2.1 l.2.2

/-- The pinned STC entries of a partition on a die (R267, R305). -/
def pinsOf (tn die : Nat) (ls : List (Nat × DWord × Nat)) : List Xent :=
  ls.map fun l => { tn := tn, va := l.1, level := l.2.2, leaf := l.2.1 &&& ~~~0x200#64, user := false, pin := true, die := die,
                    host := none, stamp := 0 }

/-! ## CREATE: the dispatch record (R204, R310, R319) -/

/-- The place of an address that mode U may read, or with `write` write, as the tables map it: in a plain page outside the arena
window that the tenant may use (R264, R276 to R278, R310). The host's answer for a host page, its place or with 0 a refusal, is a free
value, the same for the addresses of one page (log 112). -/
def State.userPlace (s : State) (tn va : Nat) (write : Bool) : Option Loc :=
  let t := s.tenant tn
  if va ≥ 2 ^ 48 ∨ t.inWindow va then none
  else (s.walkLeaf tn va).bind fun l =>
    let e := l.1
    let ty := leafTY e
    let pa := leafBase e l.2 + va % pageSize l.2
    let bs := leafBS e
    let loc := fun (cls : Cls) (key : HomeKey) (p : Nat) (page : Nat) =>
      some (⟨cls, key, p, va / 4096, 0, leafMS e && ty == 0, leafPIN e, va, page⟩ : Loc)
    let far := fun (p : Nat) => (⟨tn, 15, p / 128 * 128⟩ : HomeKey)
    if !(leafU e && (!write || (leafW e && ty != 3)) && leafFM e == 0 && (ty == 0 || t.tperm.getLsbD (ty - 1)) &&
        (bs == 15 || (t.basin? bs).isSome)) then none
    else match ty with
      | 0 => if t.hasFrame (pa / 4096) then loc .device (s.keyOf tn bs pa) pa 0 else none
      | 1 =>
        let answer := Config.freeNat (s.free + va / 4096 % 2)
        let p := answer * 4096 + pa % 4096
        if answer = 0 then none else loc .host (far p) p (pa / 4096)
      | 2 => loc (.peer (pa / 2 ^ 44)) (far pa) pa 0
      | _ => if t.flash.contains (pa / 4096) then loc .flash (far pa) pa 0 else none

/-- The place of what has to be plain HBM: a future slot, or a page of a capture buffer (R204, R302). -/
def State.userHbm (s : State) (tn va : Nat) (write : Bool) : Option Loc := (s.userPlace tn va write).filter (·.cls == .device)

/-- The 64 bytes at an address as mode U reads them, with their place, when they can be had (R154, R310). -/
def State.userRead (s : State) (tn va : Nat) : Option (Loc × List Byte) :=
  ((s.userPlace tn va false).filter fun l => !s.badAt tn l 64).map fun l => (l, s.fetchAt tn l 64)

/-- The launch record of an address, with its capture extension, when the record can be launched (R27, R204, R302). -/
def State.dispatchRec (s : State) (tn va : Nat) : Option (LaunchRec × Option Loc) :=
  if va % 64 ≠ 0 then none
  else (s.userRead tn va).bind fun l =>
    let r0 := LaunchRec.ofBytes l.2 []
    let full := if !r0.capture then some (r0, none)
      else (s.userRead tn (va + 64)).map fun x => (LaunchRec.ofBytes l.2 x.2, some x.1)
    full.bind fun p =>
      let r := p.1
      let capOk := !r.capture || (pagesOf r.capBuf (max 1 r.capLen)).all fun q => (s.userHbm tn (q * 4096) (r.capMode == 0)).isSome
      let futOk := r.future == 0 || (r.future.toNat % 16 == 0 && (s.userHbm tn r.future.toNat true).isSome)
      let arenaOk := r.arena == 0 || ((s.tenant tn).reserve r.arena 0).isSome
      if r.ok && capOk && futOk && arenaOk then some p else none

/-- Firmware launches the dispatch crew: a root node, from logical time 0, in the pool of the die of the lowest quad (R247,
R310, R319). -/
def State.launchDispatch (s : State) (tn va : Nat) (r : LaunchRec) (ext : Option Loc) : State :=
  let slot := if r.future = 0 then none else s.userHbm tn r.future.toNat true
  let s1 := match slot with
    | some x => (s.landPieces (Xfer.own tn 0) [⟨s.offset tn x 8, leBytes 0 8⟩]).1
    | none => s
  let id := s1.fresh
  let got := if r.arena = 0 then none else (s1.tenant tn).reserve r.arena id
  let s2 := match got with
    | some (t, _) => s1.mapTenant tn fun u => { u with arenas := t.arenas, genCtr := t.genCtr }
    | none => s1
  let nd : Node := { id := id, tn := tn, depth := 0, recVa := BitVec.ofNat 64 va, lr := r, arena := got.map (·.2.slot), start := 0,
                     utvec := 0, total := r.total, exited := 0, visible := true, fill := 0, tmax := 0, slot := slot, ext := ext,
                     buf := if r.capture then (pagesOf r.capBuf (max 1 r.capLen)).filterMap fun q => s2.userHbm tn (q * 4096) false
                            else [],
                     cap := s2.newCapture tn r }
  let low := (s2.tenant tn).quads.foldl min 87
  State.enterNode { s2 with fresh := id + 1, free := s2.free + 2 } nd (low / 11)

/-! ## CREATE: service groups (R269) -/

/-- A core's service group starts at sr.tvec + 0x200 in T1, with every register 0. -/
def State.addService (s : State) (tn core : Nat) : State :=
  let c : Crew := { Crew.blank with id := s.fresh, tn := tn, base := core }
  let g : Group :=
    { Group.blank with
      id := s.fresh + 1, tn := tn, crew := s.fresh, core := core, slot := true, role := .service, mode := .t1,
      lanes := BitVec.allOnes 32,
      path := { Path.blank with mask := BitVec.allOnes 32, pc := (s.tenant tn).tvec + 0x200, tag := ⟨.t1, 0⟩ }, ages := 1,
      age := s.fresh + 1, since := s.dev.cycle }
  { s with crews := s.crews ++ [c], groups := s.groups ++ [g], fresh := s.fresh + 2 }.mapCore core id

/-- The cores of a quad (R10). -/
def coresOf (q : Nat) : List Nat := (List.range 4).map (4 * q + ·)

/-! ## CREATE (R310) -/

/-- The partition as steps 1 to 3 of R310 reserve it, with its keys programmed. R309 lists no tenant id: it comes from the description,
and the model does not ask whether another partition carries it (DESIGN CHOICE, log 80). -/
def State.reserved (s : State) (d : PartDesc) (vf : Nat) (digest : BitVec 256) : Tenant :=
  { Tenant.blank with
    id := s.fresh, tid := d.tenant, vf := vf, life := .live, quads := sortOn d.quads (· ≤ ·), banks := d.banks, wHbm := d.wHbm,
    wCopy := d.wCopy, wWalk := d.wWalk, ptroot := BitVec.ofNat 64 d.ptroot, cistern := BitVec.ofNat 64 d.cisBase,
    cisterns := BitVec.ofNat 32 d.cisSize, awbase := BitVec.ofNat 64 d.awBase, awsize := BitVec.ofNat 32 d.awSize,
    allot := d.allot, used := d.frames, tperm := d.tperm, thrash := d.thrash, keyslot := s.freeSlot, keys := some d.keys,
    deadline := d.deadline, tvec := BitVec.ofNat 64 d.tvec, winBase := d.winBase, winBits := d.winBits, flashGBs := d.flashGBs,
    flash := d.flash, interval := d.interval, nextRec := s.dev.cycle + d.interval * 1250000, lastRec := s.nanos, hash := digest,
    pasid := d.pasid }

/-- Copies the page-table image from host memory into the partition's frames, page by page (R310). -/
def State.copyImage (s : State) (d : PartDesc) : State :=
  d.imgPages.zipIdx.foldl (fun s p =>
    let src := d.imgAt + 4096 * p.2
    let lo := p.1 * 4096
    let bytes := (s.dev.host.range src (src + 4096)).map fun e => (e.1 - src + lo, e.2)
    { s with hbm := s.hbm.copyRange bytes lo (lo + 4096), dev := s.dev.overwritten lo 4096 }) s

/-- Steps 4 to 6 of R310 on the state with the partition reserved: the image, the cistern and the window, basin 0, the dispatch
record, the service groups and the creation record; or the name of the refusal. -/
def State.buildPart (s : State) (tn : Nat) (d : PartDesc) : Except String State :=
  let s1 := s.copyImage d
  let own := d.frames.contains
  let ls := s1.leavesFrom d.ptroot 0 5
  let cis := leavesIn ls d.cisBase d.cisSize
  let win := leavesIn ls d.winBase (2 ^ d.winBits)
  let pins := (cis ++ win).dedup
  let t := s.tenant tn
  if !d.imgPages.all own || !decide d.imgPages.Nodup || !s1.tablesOk own d.ptroot 5 then .error "BAD_IMAGE"
  else if !windowOk own false ls d.cisBase d.cisSize || !windowOk own true ls d.winBase (2 ^ d.winBits) ||
      !(diesOf d.quads).all (fun die => decide (4 * pins.length ≤ t.stcShare die)) then .error "BAD_CISTERN"
  else
    let mapped := (s1.tableFrames d.ptroot 5 ++ ls.flatMap fun l => leafFrames l.2.1 l.2.2).dedup
    let s2 := s1.mapTenant tn fun t =>
      { t with used := d.frames.filter mapped.contains, free := d.frames.filter (!mapped.contains ·),
               stc := (diesOf d.quads).flatMap fun die => pinsOf tn die pins,
               leaves := (diesOf d.quads).flatMap fun die => (pinsOf tn die pins).map fun x => ⟨x.va, x.level, x.leaf, die, true⟩ }
    match d.basin0 with
    | none => .error "BAD_RECORD"
    | some r =>
      if ((s2.tenant tn).defCheck r).isSome then .error "BAD_RECORD"
      else
        let s3 := s2.defBasin tn r
        match s3.dispatchRec tn d.dispatch with
        | none => .error "BAD_RECORD"
        | some (lr, ext) =>
          let s4 := ((sortOn d.quads (· ≤ ·)).flatMap coresOf).foldl (fun (s : State) c => s.addService tn c) s3
          .ok ((s4.launchDispatch tn d.dispatch lr ext).addRecord tn 4 0 0 0 0)

/-- The mesh stop of a quad, on the 8 × 8 grid of its die's banks; a spare that has taken its number may stand at another (R235,
R301). -/
def State.stopOf (s : State) (q : Nat) : Nat × Nat :=
  let p := Config.meshStop q (s.dev.health.moved.count q)
  (p.1 % 8, p.2 % 8)

/-- The mesh stops of a description's quads, each in a byte for its row and one for its column, and the die of each bank mask are
written back into the description before the answer (R235, R309; log 81). -/
def State.writeBack (s : State) (d : PartDesc) : State :=
  let stops := (d.quads.map s.stopOf).flatMap fun p => leBytes p.1 1 ++ leBytes p.2 1
  s.onDev fun v => { v with host := (v.host.setList d.backQuad stops).setList d.backBank (d.banks.flatMap fun b => leBytes b.1 1) }

/-- CREATE: the new partition with READY, or the name of a refusal, which leaves nothing behind (R309, R310). The creation record's
chain starts from the description as answered (R313), and the IDE stream of the VF is keyed anew (R304, R310). -/
def State.create (s : State) (d : PartDesc) : Except String State :=
  if !partFieldsOk d then .error "BAD_RECORD"
  else if !d.quads.all s.quadFree then .error "NO_QUADS"
  else if !d.banks.all (fun b => s.banksFree b.1 b.2) then .error "NO_BANKS"
  else match s.freeVf with
  | none => .error "NO_QUADS"
  | some vf =>
    if !s.framesOk d then .error "NO_FRAMES"
    else
      let t := s.reserved d vf (Config.sha256 ((s.writeBack d).dev.host.getList d.at_ d.len))
      let s1 := { s with tenants := s.tenants ++ [t], fresh := s.fresh + 1, free := s.free + 1 }
      match (s1.onDev fun v => { v with insecure := v.insecure.filter (· != vf) }).buildPart t.id d with
      | .error e => .error e
      | .ok s2 => .ok ((s2.writeBack d).emit (.ready t.id (d.quads.map s.stopOf)))

/-- CREATE (R310): without firmware no partition can be created (R317). -/
def execCreate (d : PartDesc) (s : State) : Host.Outcome State Fault Refusal :=
  .next (if s.dev.firmware.isNone then s
    else match s.create d with
      | .ok s1 => s1
      | .error e => s.answer "CREATE" e)

/-! ## TEARDOWN (R311) -/

/-- A service group is gone: what outlives its lanes still performs, as that of a crew that has exited. -/
def State.dropService (s : State) (g : Group) : State :=
  ((s.cutLoose g.crew).mapGrp g.id fun g => { g with role := .vector, saving := none, restart := none }).mapCrew g.crew fun c =>
    { c with service := false }

/-- Step 1: issue stops, words already issued complete or are cancelled, and nothing else of the partition's work is left; what runs to
completion, the words of the tenant, stores and queued writes, goes on (R186, R228, R311). -/
def State.stopPart (s : State) (tn : Nat) : State :=
  let mine := fun (c : Core) => (s.tenant tn).quads.contains (c.num / 4)
  let s1 := ((s.crews.filter fun c => c.tn == tn && !c.service).map (·.id)).foldl State.cutLoose s
  let s2 := (s1.allGroups.filter fun g => g.tn == tn && g.role == .service).foldl State.dropService s1
  { s2 with
    nodes := s2.nodes.filter (·.tn != tn), pool := s2.pool.filter (·.tn != tn), resumed := s2.resumed.filter (·.tn != tn),
    dev := { s2.dev with sealed := s2.dev.sealed.filter (·.tn != tn) },
    cores := s2.cores.map fun c => if mine c then { c with wq := [], saveQ := [], owner := none } else c }.mapTenant tn
    fun t => { t with life := .stopping }

/-- Whether a partition being torn down has nothing in flight any more, and the VF no invalidation outstanding (R311). -/
def State.stopped (s : State) (tn : Nat) : Bool :=
  !s.flow.invs.any (·.tn == tn) && !s.flow.accs.any (·.tn == tn) && !s.flow.xfers.any (·.tn == tn) && !s.crews.any (·.tn == tn) &&
    s.allGroups.all (·.tn != tn)

/-- Whether poison is in a line of a tenant's basin. -/
def placeOf (tn : Nat) : Place → Bool
  | .basin k => k.tn == tn
  | .homeEntry k => k.tn == tn
  | _ => false

/-- Steps 2 and 3: every translation and line is dropped, the grants and the VF's ATS use end, and the final record is made; the keys
are destroyed (R311). -/
def State.endPart (s : State) (tn : Nat) : State :=
  let s1 := s.onFlow fun f =>
    { f with homes := f.homes.filter (·.key.tn != tn), sums := f.sums.filter (·.tn != tn), wbs := f.wbs.filter (·.key.tn != tn),
             reqs := f.reqs.filter (·.tn != tn) }
  let clean := fun (c : Core) => { c with tc := c.tc.filter (·.tn != tn), l1 := c.l1.filter (·.key.tn != tn) }
  let s2 := { s1 with cores := s1.cores.map clean }
  let s3 := s2.onDev fun d =>
    { d with grants := d.grants.filter (·.tn != tn), leaving := d.leaving.filter (·.tn != tn),
             captures := d.captures.filter (·.1 != tn),
             poison := d.poison.filter (!placeOf tn ·) }
  (s3.addRecord tn 3 0 0 0 0).mapTenant tn fun t =>
    { t with life := .ending, stc := [], arenas := [], basins := [], saves := [], events := [], pages := [], leaves := [],
             keys := none, banks := t.banks.filter (·.2 != 0) }

/-- TEARDOWN, in any state of the partition; between its steps it waits for what runs to completion and for the VF's outstanding
invalidations (R311). -/
def State.teardown (s : State) (tn : Nat) : State :=
  match s.tenants.find? (·.id == tn) with
  | none => s
  | some t =>
    if t.life = .ending then s
    else
      let s1 := if t.life = .stopping then s else (s.stopPart tn).reap
      if !s1.stopped tn then s1 else (s1.endPart tn).answer "TEARDOWN" "DONE"

/-- TEARDOWN (R311). -/
def execTeardown (tn : Nat) (s : State) : Host.Outcome State Fault Refusal := .next (s.teardown tn)

/-- The partition that is on its way back to firmware. -/
def State.ending? (s : State) (tn : Nat) : Option Tenant := s.tenants.find? fun t => t.id == tn && t.life == .ending

/-- QUAD_RETURN: the register slots, scratchpads and engine buffers of a quad are zeroed, and firmware has it back (R23, R311). -/
def State.quadReturn (s : State) (tn q : Nat) : Option State :=
  (s.ending? tn).bind fun t =>
    if !t.quads.contains q then none
    else
      let clean := fun (c : Core) =>
        if c.num / 4 == q then { Core.empty c.num with resetAt := c.resetAt, token := c.token } else c
      some (({ s with cores := s.cores.map clean }.mapTenant tn fun t => { t with quads := t.quads.erase q }).sweep)

/-- QUAD_RETURN (R311). -/
def execQuadReturn (tn quad : Nat) (s : State) : Host.Outcome State Fault Refusal := stepWhen s (s.quadReturn tn quad)

/-- BANK_RETURN: a bank of the share has been zeroed, and firmware has it back (R23, R311). -/
def State.bankReturn (s : State) (tn bank : Nat) : Option State :=
  (s.ending? tn).bind fun t =>
    if !(t.shareOn (bank / 64)).getLsbD (bank % 64) then none
    else
      let cut := fun (b : Nat × BitVec 64) => if b.1 == bank / 64 then (b.1, b.2 &&& ~~~BitVec.twoPow 64 (bank % 64)) else b
      some ((s.mapTenant tn fun t => { t with banks := (t.banks.map cut).filter (·.2 != 0) }).sweep)

/-- BANK_RETURN (R311). -/
def execBankReturn (tn bank : Nat) (s : State) : Host.Outcome State Fault Refusal := stepWhen s (s.bankReturn tn bank)

/-- FRAME_RETURN: a frame has been zeroed, and stands in the pool's zeroed frames (R23, R311). -/
def State.frameReturn (s : State) (tn f : Nat) : Option State :=
  (s.ending? tn).bind fun t =>
    if !t.hasFrame f then none
    else
      let s1 := { s with hbm := s.hbm.clear (f * 4096) (f * 4096 + 4096), dev := s.dev.overwritten (f * 4096) 4096 }
      some ((s1.mapTenant tn fun t => { t with used := t.used.erase f, free := t.free.erase f }).sweep)

/-- FRAME_RETURN (R311). -/
def execFrameReturn (tn frame : Nat) (s : State) : Host.Outcome State Fault Refusal := stepWhen s (s.frameReturn tn frame)

/-! ## HALT, INSPECT, GRANT, REVOKE, SETCAP (R281, R283, R307, R308, R314) -/

/-- Whether a partition is mid-teardown: its commands but TEARDOWN are answered BUSY (R308). -/
def State.busy (s : State) (tn : Nat) : Bool := s.tenants.any fun t => t.id == tn && (t.life == .ending || t.life == .stopping)

/-- HALT: a firmware halt sets bit 13 of the reason (R281). -/
def State.fwHalt (s : State) (tn : Nat) (code : BitVec 13) : State :=
  if s.busy tn then s.answer "HALT" "BUSY"
  else
    let s1 := if (s.tenant tn).life = .live then s.haltTenant tn .tenantHalt (0x2000 + code.setWidth 16) 0 0 else s
    s1.answer "HALT" "DONE"

/-- HALT (R281). -/
def execHalt (tn : Nat) (code : BitVec 13) (s : State) : Host.Outcome State Fault Refusal := .next (s.fwHalt tn code)

/-- INSPECT: allowed only in the halt state; no group issues during it (R283). -/
def State.inspect (s : State) (tn : Nat) : State :=
  if s.busy tn then s.answer "INSPECT" "BUSY"
  else if (s.tenant tn).life = .halted ∨ (s.tenant tn).life = .inspected then
    ((s.mapTenant tn fun t => { t with life := .inspected }).emit (.inspected tn)).answer "INSPECT" "DONE"
  else s.answer "INSPECT" "NOT_HALTED"

/-- INSPECT (R283). -/
def execInspect (tn : Nat) (s : State) : Host.Outcome State Fault Refusal := .next (s.inspect tn)

/-- A sound grant: a source device of the domain, and frames of a target partition (R307). -/
def State.grantOk (s : State) (g : Grant) : Bool :=
  s.dev.domain.contains g.srcDev && s.tenants.any (·.id == g.tn) && g.frames.all (s.tenant g.tn).hasFrame

/-- GRANT (R307). -/
def execGrant (gr : Grant) (s : State) : Host.Outcome State Fault Refusal :=
  .next (if s.busy gr.tn then s.answer "GRANT" "BUSY"
    else if s.grantOk gr then (s.onDev fun d => { d with grants := d.grants ++ [gr] }).answer "GRANT" "DONE"
    else s.answer "GRANT" "BAD_RECORD")

/-- REVOKE: the grant serves no further request; the answer follows its completion (R307). -/
def execRevoke (gr : Grant) (s : State) : Host.Outcome State Fault Refusal :=
  .next (if s.busy gr.tn then s.answer "REVOKE" "BUSY"
    else if s.dev.grants.contains gr then
      s.onDev fun d => { d with grants := d.grants.erase gr, leaving := d.leaving ++ [gr] }
    else s.answer "REVOKE" "BAD_RECORD")

/-- GRANT_WITHDRAWN: every request served under the grant has performed, since each performs in one step (R307). -/
def execGrantWithdrawn (gr : Grant) (s : State) : Host.Outcome State Fault Refusal :=
  .next (if s.dev.leaving.contains gr then
      (s.onDev fun d => { d with leaving := d.leaving.erase gr }).answer "REVOKE" "DONE"
    else s)

/-- SETCAP: a module power cap from 1,500 to 3,200 W (R314). -/
def execSetcap (watts : Nat) (s : State) : Host.Outcome State Fault Refusal :=
  .next (if 1500 ≤ watts ∧ watts ≤ 3200 then (s.onDev fun d => { d with cap := watts }).answer "SETCAP" "DONE"
    else s.answer "SETCAP" "BAD_RECORD")

/-! ## Arriving host and peer accesses (R249, R305, R307) -/

/-- A write of an outside agent to one line performs as PERFORM-STORE with t = 0 (R249). -/
def State.agentLine (s : State) (tn : Nat) (l : Loc) (bs : List Byte) (k : HomeKey) : State :=
  let s1 := s.recallNow k
  let st := s1.stamps k
  let ts := nextWts 0 st.1 st.2
  match Piece.inLine ⟨l, bs⟩ k (s1.lineLen k) with
  | some e => s1.landLine (Xfer.own tn 0) k [e] ts
  | none => s1

/-- Bytes of an outside agent's write, line by line in ascending order. -/
def State.agentWrite (s : State) (tn : Nat) (l : Loc) (bs : List Byte) : State :=
  (s.linesOf tn l.key.bs l.pa bs.length).foldl (fun s k => s.agentLine tn l bs k) s

/-- Whether the lines of a place can be reached now: none is claimed (R249). -/
def State.agentMay (s : State) (tn : Nat) (l : Loc) (n : Nat) : Bool := (s.linesOf tn l.key.bs l.pa n).all s.open_

/-- The HBM place of an address in the host window, through an STC entry of the tenant (R305). -/
def State.winPlace (s : State) (t : Tenant) (va : Nat) : Option Loc :=
  (t.stc.find? fun x => x.covers t.id va).bind fun x =>
    let pa := x.place va
    if leafTY x.leaf = 0 ∧ t.hasFrame (pa / 4096) then
      some ⟨.device, s.keyOf t.id (leafBS x.leaf) pa, pa, va / 4096, leafFM x.leaf, leafMS x.leaf, true, va, 0⟩
    else none

/-- An outside access to the window that finds no leaf is counted (R305). -/
def State.winError (s : State) : State := s.onDev fun d => { d with health := { d.health with winErrors := d.health.winErrors + 1 } }

/-- HOST_WINDOW_READ: it returns the home's data and grants no lease; an offset without a leaf completes as an Unsupported
Request (R249, R305). -/
def State.winRead (s : State) (vf off len : Nat) : Option State :=
  (s.vf? vf).bind fun t =>
    let va := t.winBase + off
    let parts := (cutsOf va len 4096).map fun c => (s.winPlace t (va + c.1), c.2)
    if off + len > 2 ^ t.winBits || parts.any (·.1.isNone) then some (s.winError.emit (.unsupported vf))
    else
      let ps := parts.filterMap fun p => p.1.map fun l => (l, p.2)
      if !ps.all fun p => s.agentMay t.id p.1 p.2 then none
      else
        let s1 := ps.foldl (fun s p => s.recallAt t.id p.1 p.2) s
        if ps.any fun p => s1.badAt t.id p.1 p.2 then some (s1.emit (.poisoned vf))
        else some (s1.emit (.readData vf (ps.flatMap fun p => s1.fetchAt t.id p.1 p.2)))

/-- HOST_WINDOW_READ (R305). -/
def execHostWindowRead (vf off len : Nat) (s : State) : Host.Outcome State Fault Refusal := stepWhen s (s.winRead vf off len)

/-- HOST_WINDOW_WRITE: one write per 128-byte line, in ascending order; an offset without a leaf drops it (R249, R305). -/
def State.winWrite (s : State) (vf off : Nat) (data : List Byte) : Option State :=
  (s.vf? vf).bind fun t =>
    let va := t.winBase + off
    let parts := (cutsOf va data.length 128).map fun c => (s.winPlace t (va + c.1), (data.drop c.1).take c.2)
    if off + data.length > 2 ^ t.winBits then some s.winError
    else if !parts.all (fun p => match p.1 with | some l => s.agentMay t.id l p.2.length | none => true) then none
    else
      let s1 := parts.foldl (fun s p => match p.1 with | some l => s.agentWrite t.id l p.2 | none => s) s
      some (if parts.any (·.1.isNone) then s1.winError else s1)

/-- HOST_WINDOW_WRITE (R305). -/
def execHostWindowWrite (vf off : Nat) (data : List Byte) (s : State) : Host.Outcome State Fault Refusal :=
  stepWhen s (s.winWrite vf off data)

/-- The basin through whose page a frame of a tenant is mapped, as a translation that the device knows names it; a frame that none
maps has no line in a basin, and is served as basin 15 (R307; DESIGN CHOICE, log 50). -/
def State.frameBs (s : State) (tn f : Nat) : Nat :=
  let has := fun (x : Xent) => x.tn == tn && leafTY x.leaf == 0 && decide (leafBase x.leaf x.level / 4096 ≤ f) &&
    decide (f < leafBase x.leaf x.level / 4096 + pageSize x.level / 4096)
  match (s.translations tn).find? has with
  | some x => leafBS x.leaf
  | none => 15

/-- The bytes that a peer request names. -/
def peerLen : PeerOp → Nat
  | .read n => n
  | .write d => d.length
  | .atomic fn .. => atomSize fn

/-- Whether a peer request changes memory. -/
def peerWrites : PeerOp → Bool
  | .read _ => false
  | _ => true

/-- Whether a grant of the table covers a request (R307). -/
def State.granted (s : State) (r : PeerReq) : Bool :=
  s.tenants.any (fun t => t.id == r.tn && t.life != .ending && t.life != .stopping) &&
    s.dev.grants.any fun g => g.srcDev == r.srcDev && g.srcPart == r.srcPart && g.tn == r.tn && (g.write || !peerWrites r.op) &&
      (pagesOf r.pa (peerLen r.op)).all fun f => g.frames.contains f && (s.tenant r.tn).hasFrame f

/-- PEER_REQUEST: under a grant it performs through the frame's page and basin; without one the source is answered with an error
(R249, R307). -/
def State.servePeer (s : State) (r : PeerReq) : Option State :=
  if !s.granted r then some (s.emit (.peerError r.srcDev))
  else
    let bs := s.frameBs r.tn (r.pa / 4096)
    let l : Loc := ⟨.device, s.keyOf r.tn bs r.pa, r.pa, 0, 0, false, true, 0, 0⟩
    let n := peerLen r.op
    if !s.agentMay r.tn l n then none
    else
      let s1 := s.recallAt r.tn l n
      let bad := s1.badAt r.tn l n
      match r.op with
      | .read _ => some (s1.emit (if bad then .peerError r.srcDev else .peerData r.srcDev (s1.fetchAt r.tn l n)))
      | .write d => some ((s1.agentWrite r.tn l d).emit (.peerData r.srcDev []))
      | .atomic fn a b rm fz =>
        if bad then some (s1.emit (.peerError r.srcDev))
        else
          let old := s1.fetchAt r.tn l n
          let v := atomFn fn rm fz (BitVec.ofNat 64 (leNat old)) a b
          some ((s1.agentWrite r.tn l (leBytes v.1.toNat n)).emit (.peerData r.srcDev (atomOld fn old)))

/-- PEER_REQUEST (R307). -/
def execPeerRequest (rq : PeerReq) (s : State) : Host.Outcome State Fault Refusal := stepWhen s (s.servePeer rq)

/-! ## Links (R304, R306) -/

/-- MPL_LINK_FAIL: the port carries no traffic any more; its queues go on, in their order, over another port that leads to the same
peer, or stand still without one (R306). -/
def execMplLinkFail (port : Nat) (s : State) : Host.Outcome State Fault Refusal :=
  .next (s.onDev fun d => { d with ports := d.ports.filter (· != port), routes := d.routes.filter (·.1 != port) })

/-- PEER_ROUTE_TIMEOUT: when no route to a peer remains, it is reached no more, and what is outstanding there completes with
REMOTE_ERROR (R154, R306). -/
def State.routeLost (s : State) (peer : Nat) : State :=
  if s.linked peer then s
  else
    let s1 := s.onDev fun d => { d with refused := if d.refused.contains peer then d.refused else peer :: d.refused }
    let ids := (s1.flow.accs.filter fun a => a.cls == .peer peer && a.isLoad).map (·.id) ++
      s1.allGroups.flatMap fun g => (g.peerQ.filter (·.1 == peer)).map (·.2.id)
    ids.foldl (fun s i => (s.remoteError i).getD s) s1

/-- PEER_ROUTE_TIMEOUT (R306). -/
def execPeerRouteTimeout (peer : Nat) (s : State) : Host.Outcome State Fault Refusal := .next (s.routeLost peer)

/-- LOST_FLIT_RETRY: a lost flit goes over its link again; the link's order and the memory of the peer are as before (R306). -/
def execLostFlitRetry (_port : Nat) (s : State) : Host.Outcome State Fault Refusal :=
  .next (s.onDev fun d => { d with health := { d.health with flits := d.health.flits + 1 } })

/-- IDE_INTEGRITY_FAIL: the packet is dropped, its stream is insecure, and the health record counts it (R304). -/
def execIdeIntegrityFail (fn : Nat) (s : State) : Host.Outcome State Fault Refusal :=
  .next (s.onDev fun d =>
    { d with insecure := if d.insecure.contains fn then d.insecure else fn :: d.insecure,
             health := { d.health with ideErrors := d.health.ideErrors + 1 } })

/-! ## Power, limits and boot (R314, R315, R317) -/

/-- Whether the boot ROM takes a firmware image: its key's hash is the fused one, its signature verifies, its version is not
below the fused counter (R317). -/
def bootOk (i : FwImage) : Bool :=
  Config.sha256 i.key == Config.fusedKey && Config.verify i.key i.bytes i.signature && decide (Config.antiRollback ≤ i.version)

/-- Firmware forms the load-store domain and takes the buffer of usage records that PF0 has set (R306, R312): device numbers from 0 to
63, and for each port the member that it leads to. -/
def Dev.setUp (d : Dev) (u : Setup) : Dev :=
  let members := u.members.filter (· < 64)
  { d with self := u.self, domain := members, routes := u.routes.filter fun r => d.ports.contains r.1 && members.contains r.2,
           recBase := u.recBase, recSize := u.recSize }

/-- The module at power-on: as at reset, but for what it does not hold itself or does not lose with its power: the memory of the host
and of the peers, and flash. The agenda and the model's own counters go on (log 52). -/
def State.atPowerOn (s : State) : State :=
  { State.reset with
    agenda := s.agenda, fresh := s.fresh, free := s.free,
    dev := { Dev.reset with host := s.dev.host, flash := s.dev.flash, peers := s.dev.peers } }

/-- POWER_ON: the boot ROM starts the module with a sound image, from its state at power-on; a refused image leaves it off
(R317). A module that runs already is not powered on. -/
def State.boot (s : State) (i : FwImage) (u : Setup) : State :=
  if s.dev.power ∧ s.dev.firmware.isSome then s
  else if bootOk i then s.atPowerOn.onDev fun d => { d with firmware := some (Config.sha256 i.bytes, i.version) }.setUp u
  else s.atPowerOn.onDev fun d => { d with power := false }

/-- POWER_ON (R317). -/
def execPowerOn (b : Boot) (s : State) : Host.Outcome State Fault Refusal := .next (s.boot b.image b.setup)

/-- All held records of a partition are written, whatever room the host's buffer has, and its open batch is signed (R315). -/
def State.flushRecords (s : State) (tn : Nat) : State :=
  let s1 := (List.range (s.tenant tn).held.length).foldl (fun s _ => s.writeRecord tn) s
  let t := s1.tenant tn
  if t.signed < t.seq then s1.signBatch tn (t.seq - 1) else s1

/-- EMERGENCY_HALT: on input out of range for 1 ms, or a die junction beyond 115 °C, every partition enters the halt state with reason 0x2001, the
records are written and signed, and the module powers off (R315). -/
def State.emergency (s : State) : State :=
  let live := (s.tenants.filter (·.life == .live)).map (·.id)
  let s1 := live.foldl (fun s tn => s.haltTenant tn .tenantHalt 0x2001 0 0) s
  ((s1.tenants.map (·.id)).foldl State.flushRecords s1).onDev fun d => { d with power := false }

/-- EMERGENCY_HALT (R315). -/
def execEmergencyHalt (why : Limit) (s : State) : Host.Outcome State Fault Refusal :=
  .next (match why with
    | .input | .junction115 => s.emergency
    | .coolant | .junction105 => s)

/-- THERMAL_THROTTLE: from now on firmware inserts issue stalls on every core in equal proportion, and every partition's records for the
interval set THROTTLED, until the reading is within its limit again (R314, R315). -/
def execThermalThrottle (why : Limit) (s : State) : Host.Outcome State Fault Refusal :=
  .next (match why with
    | .coolant | .junction105 =>
      let ts := s.tenants.map fun (t : Tenant) => { t with throttled := true }
      let add := fun (l : List Limit) => if l.contains why then l else why :: l
      { s with tenants := ts }.onDev fun d => { d with health := { d.health with throttle := add d.health.throttle } }
    | .input | .junction115 => s)

/-! ## Limits in every cycle (R314, R315) -/

/-- What the module's sensors read in a cycle: each its nominal value with what `Config.sensor` adds; 54 V and 1.5 l/min are R315's
(log 94). -/
def readingsAt (cycle : Nat) : Readings :=
  let read := fun (which nominal : Nat) => (nominal + Config.sensor which cycle : Int).toNat
  { input := read 0 54000, inlet := read 1 0, flow := read 2 1500, watts := read 3 0,
    junction := (List.range 8).map fun die => read (4 + die) 0 }

/-- Whether the readings are within a limit (R315): the input in millivolts within 5% of 54 V, the coolant in °C and ml/min, the
junctions in °C. -/
def Readings.within (r : Readings) : Limit → Bool
  | .coolant => decide (r.inlet ≤ 45) && decide (1500 ≤ r.flow)
  | .junction105 => r.junction.all fun t => decide (t ≤ 105)
  | .junction115 => r.junction.all fun t => decide (t ≤ 115)
  | .input => decide (51300 ≤ r.input) && decide (r.input ≤ 56700)

/-- Whether firmware limits the module: its power is over the cap, or a limit of R315 is passed (R314). -/
def Dev.limits (d : Dev) : Bool := decide (d.cap < d.health.readings.watts) || !d.health.throttle.isEmpty

/-- The health record with the readings of a cycle: a limit that they are within is passed no more, and the input's time out of its
range goes on or ends (R315). -/
def Health.read (h : Health) (r : Readings) : Health :=
  { h with readings := r, throttle := h.throttle.filter (!r.within ·), outFor := if r.within .input then 0 else h.outFor + 1 }

/-- The limits of R315 at which firmware acts now: those that throttle the module and are not yet known to be passed, and those that
halt it. -/
def Dev.passed (d : Dev) : List Limit × List Limit :=
  let h := d.health
  ([Limit.coolant, .junction105].filter fun l => !h.readings.within l && !h.throttle.contains l,
    (if h.outFor ≥ oneMs then [Limit.input] else []) ++ if h.readings.within .junction115 then [] else [Limit.junction115])

/-- The readings and the limit of one cycle: where firmware limits the module, it stalls the issue of every core in the cycles that it
chooses, and every partition's records of the interval tell of it (R314). -/
def State.limitCycle (s : State) : State :=
  let r := readingsAt s.dev.cycle
  let s1 := s.onDev fun d => { d with health := d.health.read r }
  let s2 := s1.onDev fun d => { d with stall := d.limits && Config.stalls d.cycle }
  { s2 with tenants := s2.tenants.map fun t => { t with throttled := t.throttled || s2.dev.limits } }

/-! ## What PF0 reads (R316, R317) -/

/-- The health record, in the order of R316, each number in 8 bytes: spare quads and banks of each die, retired cores and banks, the mesh
stop of every enabled quad, the advisory, the counts, and the readings. The manual gives no layout (log 4). -/
def State.healthBytes (s : State) : List Byte :=
  let h := s.dev.health
  let num := fun (n : Nat) => leBytes n 8
  let list := fun (l : List Nat) => num l.length ++ l.flatMap num
  let quads := (List.range 88).filter (!s.dev.deadQ.contains ·)
  list h.spareQuads ++ list h.spareBanks ++ list h.deadCores ++ list h.deadBanks ++
    list (quads.flatMap fun q => [q, (s.stopOf q).1, (s.stopOf q).2]) ++ num (if h.advisory then 1 else 0) ++
    num h.corrected ++ num h.uncorrected ++ num h.ideErrors ++ num h.winErrors ++ num h.flits ++ num h.repeats ++
    num h.readings.input ++ num h.readings.inlet ++ num h.readings.flow ++ num h.readings.watts ++ list h.readings.junction

/-- What PF0 can read of the module: the health record, and Zorloth's certificate for the device identity key. -/
inductive Pf0Item where
  | health
  | certificate
  deriving DecidableEq, Repr

/-- A read of PF0 (R316, R317). -/
def State.pf0Read (s : State) : Pf0Item → List Byte
  | .health => s.healthBytes
  | .certificate => Config.certificate

/-! ## Attestation (R318) -/

/-- ATTESTATION: the answer to a nonce, on PF0 (function 0) or a VF, signed under the device identity key, with the digest of the health
record as PF0 reads it; for a VF it holds the creation record's hash. -/
def State.attest (s : State) (fn : Nat) (nonce : BitVec 256) : State :=
  match s.dev.firmware with
  | none => s
  | some (fw, ver) =>
    let health := Config.sha256 (s.pf0Read .health)
    let creation := if fn = 0 then none else (s.vf? fn).map (·.creation)
    let body := leBytes nonce.toNat 32 ++ leBytes fw.toNat 32 ++ leBytes ver 8 ++ leBytes Config.antiRollback 8 ++
      leBytes health.toNat 32 ++ (match creation with | some c => leBytes c.toNat 32 | none => [])
    if fn ≠ 0 ∧ creation.isNone then s
    else s.emit (.attested fn nonce fw ver Config.antiRollback health creation (Config.sign body))

/-- ATTESTATION (R318). -/
def execAttestation (fn : Nat) (nonce : BitVec 256) (s : State) : Host.Outcome State Fault Refusal := .next (s.attest fn nonce)

end Sys2Proof.Machine
end

