-- ==== Sys2Proof/Machine/Ras.lean ====
section
/-!
DEFINITION. Hardware errors (R299, R300), the retirement of cores (R301) and of banks (R236).
-/

namespace Sys2Proof.Machine

/-! ## Errors (R299) -/

/-- Changes the health record. -/
def State.onHealth (s : State) (f : Health → Health) : State := s.onDev fun d => { d with health := f d.health }

/-- CORRECTED_ERROR: data or an entry is corrected, and the health record counts 0xE0 (R299). -/
def execCorrectedError (_at_ : Place) (s : State) : Host.Outcome State Fault Refusal :=
  .next (s.onHealth fun h => { h with corrected := h.corrected + 1 })

/-- An engine buffer becomes poison. -/
def Engine.spoil (e : Engine) (buf : Nat) : Engine := if e.poisoned.contains buf then e else { e with poisoned := buf :: e.poisoned }

/-- A service group loses its lanes, keeps its slot, and starts again at a cycle, once what outlives its lanes has completed (R269). -/
def State.loseService (s : State) (g : Group) (at_ : Nat) : State :=
  (s.shedCrew g.crew).mapGrp g.id fun g => { g with slot := true, restart := some at_ }

/-- A service group that fails starts again under R269; nothing of a crew or node is there to fail. -/
def State.failService (s : State) (g : Group) : State :=
  (s.loseService g (s.dev.cycle + 1024)).event g.tn .rasUncorrected 0

/-- A group's register file, synchronisation or path state is lost: its crew fails (R299, R300). -/
def State.failGroup (s : State) (id : Nat) : State :=
  match s.grp? id with
  | some g => if g.role = .service then s.failService g else s.crewFails g.crew
  | none => s

/-! ## Core retirement (R301) -/

/-- The service group of a core of a quad that a spare replaces: it has lost everything, and starts as at creation, but for its
logical time (R247, R269). -/
def State.renewService (s : State) (core : Nat) : State :=
  match s.serviceOn core with
  | some g => (s.loseService g s.dev.cycle).mapGrp g.id fun g => { g with pend := [], saving := none }
  | none => s

/-- The service groups of a quad's cores are gone. -/
def State.dropServices (s : State) (q : Nat) : State :=
  (s.allGroups.filter fun g => g.id != 0 && g.role == .service && g.core / 4 == q).foldl State.dropService s

/-- What stands in the cores of a quad is lost; lines that they hold exclusively return to their homes first. -/
def State.resetQuad (s : State) (q : Nat) : State :=
  let own := (s.flow.homes.filter fun h => h.owner.any (· / 4 == q)).map (·.key)
  let s1 := own.foldl State.recallNow s
  let clean := fun (c : Core) => if c.num / 4 == q then { Core.empty c.num with resetAt := s.dev.cycle, token := c.token } else c
  { s1 with cores := s1.cores.map clean }

/-- REPLACE_ADVISORY: the health record shows it, and every tenant with a quad on the die has the event (R301). -/
def State.advise (s : State) (die : Nat) : State :=
  let v := Config.freeBits 64 s.free
  let ts := (s.tenants.filter fun t => t.quads.any (· / 11 == die)).map (·.id)
  (ts.foldl (fun (s : State) t => s.event t .replaceAdvisory v) { s with free := s.free + 1 }).onHealth fun h => { h with advisory := true }

/-- CORE_RETIRE: the crews on the core's quad end as in a crew failure; a spare quad of the die takes the quad's number, or the
quad is never placed again (R301). -/
def State.retireCore (s : State) (core : Nat) : State :=
  let q := core / 4
  let die := q / 11
  if s.dev.deadQ.contains q then s
  else
    let crews := (s.crews.filter fun c => !c.service && c.base / 4 == q).map (·.id)
    let s1 := crews.foldl (fun s c => s.crewEnds c .coreRetired) s
    let s2 := (s1.resetQuad q).onHealth fun h => { h with deadCores := core :: h.deadCores }
    let s3 := ((s2.tenants.filter (·.quads.contains q)).map (·.id)).foldl
      (fun (s : State) t => s.event t .coreRetired (BitVec.ofNat 64 core)) s2
    let spares : Nat := s3.dev.health.spareQuads.getD die 0
    if 0 < spares then
      let s4 := s3.onHealth fun h => { h with spareQuads := h.spareQuads.set die (spares - 1), moved := q :: h.moved }
      (coresOf q).foldl State.renewService s4
    else ((s3.dropServices q).onDev fun d => { d with deadQ := q :: d.deadQ }).advise die

/-- CORE_RETIRE (R301). -/
def execCoreRetire (core : Nat) (s : State) : Host.Outcome State Fault Refusal := .next (s.retireCore core)

/-! ## Uncorrectable errors (R299) -/

/-- UNCORRECTED_ERROR: data becomes poison; a lost home entry waits for RECOVER; a group's lost state fails its crew; failing
core logic retires its core. -/
def State.uncorrected (s : State) (p : Place) : State :=
  let s1 := s.onHealth fun h => { h with uncorrected := h.uncorrected + 1 }
  let poison := fun (q : Place) => s1.onDev (·.addPoison q)
  match p with
  | .hbm pa => poison (.hbm (pa / 32 * 32))
  | .basin k => if s1.resident k then poison (.basin k) else s1
  | .l1 core pa =>
    match (s1.core core).l1.find? fun x => decide (x.pa ≤ pa) && decide (pa < x.pa + s1.chunkLen x.key) with
    | some x => poison (.l1 core x.pa)
    | none => s1
  | .scratch crew off => if s1.crews.any (fun c => c.id == crew && decide (off < c.scratch)) then poison (.scratch crew off) else s1
  | .engine core buf => if buf < 12 then s1.mapCore core fun c => { c with eng := c.eng.spoil buf } else s1
  | .homeEntry k => if (s1.home? k).isSome then poison (.homeEntry k) else s1
  | .group grp => s1.failGroup grp
  | .coreLogic core => s1.retireCore core

/-- UNCORRECTED_ERROR (R299). -/
def execUncorrectedError (at_ : Place) (s : State) : Host.Outcome State Fault Refusal := .next (s.uncorrected at_)

/-! ## Bank retirement (R236) -/

/-- The homes that stand in a bank. -/
def State.homesIn (s : State) (bank : Nat) : List HomeKey :=
  (s.flow.homes.filter fun h => match s.liveBasin h.key.tn h.key.bs with
    | some b => h.key.bs != 15 && b.bankOf h.old h.key.line == bank
    | none => false).map (·.key)

/-- A lost entry is rebuilt at once (R259). -/
def State.sound (s : State) (k : HomeKey) : State := (s.recover k).getD s

/-- One line of a failing bank: clean, it is dropped; dirty, it is copied and so stays, or goes to memory as poison if it cannot be
read (R236). -/
def State.saveLine (s : State) (k : HomeKey) : State :=
  let s1 := (s.sound k).recallNow k
  match s1.home? k with
  | some h => if !h.dirty then s1.evict k false else if s1.dev.poison.contains (.basin k) then s1.evict k true else s1
  | none => s1

/-- Monitors in the table of a failing bank are armed again at their line's home with their next reload (R170, R236). -/
def State.rearmIn (s : State) (bank : Nat) : State :=
  let inBank := fun (m : Monitor) => match s.liveBasin m.loc.key.tn m.loc.key.bs with
    | some b => b.bankOf false m.loc.key.line == bank
    | none => false
  let turn := fun (m : Monitor) =>
    if m.table && m.met.isNone && inBank m then { m with table := false, rearm := true, poll := s.dev.cycle } else m
  s.onFlow fun f => { f with mons := f.mons.map turn }

/-- A bank mask without a bank of its die. -/
def maskWithout (m : BitVec 64) (bank : Nat) : BitVec 64 := m &&& ~~~BitVec.twoPow 64 (bank % 64)

/-- The base-die lines of a tenant's pages in a basin take timestamps no lower than any that the basin has held: those that have none
yet through the summary of basin 15 (R233, R236). -/
def State.floorBase (s : State) (tn bs : Nat) : State :=
  let (w, r) := s.basinStamps tn bs
  let named := fun (f : Nat) => (s.translations tn).any fun x =>
    x.tn == tn && leafTY x.leaf == 0 && leafBS x.leaf == bs && decide (leafBase x.leaf x.level / 4096 ≤ f) &&
      decide (f < leafBase x.leaf x.level / 4096 + pageSize x.level / 4096)
  let up := fun (h : Home) => if h.key.tn == tn && h.key.bs == 15 && named (h.key.line / 4096) then
    { h with wts := max h.wts w, rts := max h.rts r } else h
  (s.raiseSum tn 15 0 w r).onFlow fun f => { f with homes := f.homes.map up }

/-- A prefetch in flight without the lines of a basin, which counts them as done (R240). -/
def Xfer.without (tn bs : Nat) (x : Xfer) : Xfer :=
  match x.kind with
  | .bpref keys => { x with kind := .bpref (keys.filter fun k => !(k.1.tn == tn && k.1.bs == bs)) }
  | _ => x

/-- A basin without any bank stays defined; its pages are served as under basin 15, the accesses under way too (R236). -/
def State.bankless (s : State) (tn bs : Nat) : State :=
  let all := (s.flow.homes.filter fun h => h.key.tn == tn && h.key.bs == bs).map (·.key)
  let s1 := ((all.foldl State.sound s).emptyBasin tn bs).floorBase tn bs
  let s2 := s1.mapBasin tn bs fun b => { b with defn := { b.defn with mask := 0, count := 0 }, old := none, lost := true }
  let turn := fun (k : HomeKey) (pa : Nat) => if k.tn == tn && k.bs == bs then s2.keyOf tn 15 pa else k
  let s3 := s2.onFlow fun f =>
    { f with accs := f.accs.map fun a => { a with key := turn a.key a.pa }, xfers := f.xfers.map (Xfer.without tn bs),
             mons := f.mons.map fun m => { m with loc := { m.loc with key := turn m.loc.key m.loc.pa } } }
  s3.resizeDone tn bs

/-- A line that stands in no place of its own any more moves at once, from a sound entry (R211, R236, R259). -/
def State.moveNow (s : State) (k : HomeKey) : State :=
  let s1 := s.sound k
  match s1.home? k with
  | some h => s1.moveLine h
  | none => s

/-- During a resize a bank leaves both sets. A line whose place changes under the set that it stands in has no old place to wait in: it
moves at once, as the resize would move it (R211, R236). -/
def State.cutBoth (s : State) (tn bank : Nat) (b : Basin) : State :=
  let id := b.defn.id
  let len := lineSize b.defn.line
  let mask := maskWithout b.defn.mask bank
  let old := b.old.map fun o => maskWithout o bank
  let moves := fun (h : Home) => h.key.tn == tn && h.key.bs == id &&
    (if h.old then old == some 0 || bankUnder (b.old.getD 0) len h.key.line != bankUnder (old.getD 0) len h.key.line
     else bankUnder b.defn.mask len h.key.line != bankUnder mask len h.key.line)
  let s1 := (s.raiseAll tn id b.defn.die mask).mapBasin tn id fun b =>
    { b with defn := { b.defn with mask := mask, count := (banksOf mask).length }, old := old }
  (((s.flow.homes.filter moves).map (·.key)).foldl State.moveNow s1).fitTables tn id

/-- The lines that a resize has left in a bank move at once. -/
def State.moveOut (s : State) (tn bs bank : Nat) : State :=
  let ks := s.homesIn bank
  ((s.flow.homes.filter fun h => h.key.tn == tn && h.key.bs == bs && h.old && ks.contains h.key).map (·.key)).foldl State.moveNow s

/-- The bank leaves a basin: during a resize it leaves both sets, else the basin is placed again over its other banks as a
resize, for which the lines of the bank itself do not wait; LOST is set (R236). -/
def State.cutBasin (s : State) (tn bank : Nat) (b : Basin) : State :=
  let id := b.defn.id
  let mask := maskWithout b.defn.mask bank
  if mask = 0 then s.bankless tn id
  else
    let s1 := if b.old.isSome then s.cutBoth tn bank b else (s.replace tn id mask (banksOf mask).length).moveOut tn id bank
    (s1.mapBasin tn id fun b => { b with lost := true }).resizeDone tn id

/-- No spare: the bank leaves its basins and the tenant's share, and the tenant has the event (R236). -/
def State.loseBank (s : State) (bank : Nat) (t : Tenant) : State :=
  let die := bank / 64
  let hit := t.basins.filter fun b => b.defn.die == die && (b.defn.mask ||| b.old.getD 0).getLsbD (bank % 64)
  let s1 := hit.foldl (fun s b => s.cutBasin t.id bank b) s
  (s1.mapTenant t.id fun t =>
    let cut := fun (x : Nat × BitVec 64) => if x.1 == die then (x.1, maskWithout x.2 bank) else x
    { t with banks := t.banks.map cut }).event t.id .bankLost (BitVec.ofNat 64 bank)

/-- BANK_RETIRE: its readable dirty lines are copied, and the health record lists it. A spare of the die takes the bank's number and
place; without one the bank is lost to its basin (R13, R236, R301, R316). -/
def State.retireBank (s : State) (bank : Nat) : State :=
  let die := bank / 64
  if bank ≥ 512 || s.dev.deadB.contains bank then s
  else
    let spares := s.dev.health.spareBanks.getD die 0
    let s1 := (((s.homesIn bank).foldl State.saveLine s).rearmIn bank).onHealth fun h => { h with deadBanks := bank :: h.deadBanks }
    if spares > 0 then s1.onHealth fun h => { h with spareBanks := h.spareBanks.set die (spares - 1) }
    else
      let s2 := s1.onDev fun d => { d with deadB := bank :: d.deadB }
      let s3 := match s2.tenants.find? fun t => (t.shareOn die).getLsbD (bank % 64) with
        | some t => s2.loseBank bank t
        | none => s2
      s3.advise die

/-- BANK_RETIRE (R236). -/
def execBankRetire (bank : Nat) (s : State) : Host.Outcome State Fault Refusal := .next (s.retireBank bank)

end Sys2Proof.Machine
end

