-- ==== Sys2Proof/Machine/Vector.lean ====
section
/-!
DEFINITION. The integer vector words: `via` (R127), `vil` (R128, R129), `vic` (R130), the immediates (R131, R132), the
lane words (R140), `smov` (R144) and `grd` (R145), over one shared operation for each operand form.
-/

namespace Sys2Proof.Machine

/-! ## Shared forms -/

/-- A word that writes v(D) in the lanes of P from one B operand (R118). -/
def vecBin (i : Info) (d a : BitVec 6) (b : VSrc) (f : Word → Word → Word) (s : State) :
    Host.Outcome State Fault Refusal :=
  runWord i s fun P s => s.onCur fun g => g.setV d.toNat P fun l => f (g.getV a.toNat l) (vval g b l)

/-- As `vecBin`, reading v(D) as well. -/
def vecTri (i : Info) (d a : BitVec 6) (b : VSrc) (f : Word → Word → Word → Word) (s : State) :
    Host.Outcome State Fault Refusal :=
  runWord i s fun P s => s.onCur fun g =>
    g.setV d.toNat P fun l => f (g.getV a.toNat l) (vval g b l) (g.getV d.toNat l)

/-- A word of one operand. -/
def vecUn (i : Info) (d a : BitVec 6) (f : Word → Word) (s : State) : Host.Outcome State Fault Refusal :=
  runWord i s fun P s => s.onCur fun g => g.setV d.toNat P fun l => f (g.getV a.toNat l)

/-- A word on pairs (R49). -/
def vecBin64 (i : Info) (d a : BitVec 6) (b : VSrc) (f : DWord → DWord → DWord) (s : State) :
    Host.Outcome State Fault Refusal :=
  runWord i s fun P s => s.onCur fun g => g.setV2 d.toNat P fun l => f (g.getV2 a.toNat l) (vval64 g b l)

/-- A compare of two registers into a guard (R130). -/
def vecCmp (i : Info) (k n : BitVec 3) (a b : BitVec 6) (f : Word → Word → Bool) (s : State) :
    Host.Outcome State Fault Refusal :=
  runWord i s fun P s => s.onCur fun g =>
    g.combineG k.toNat n.toNat P fun l => f (g.getV a.toNat l) (g.getV b.toNat l)

/-- A compare of two pairs into a guard (R130). -/
def vecCmp64 (i : Info) (k n : BitVec 3) (a b : BitVec 6) (f : DWord → DWord → Bool) (s : State) :
    Host.Outcome State Fault Refusal :=
  runWord i s fun P s => s.onCur fun g =>
    g.combineG k.toNat n.toNat P fun l => f (g.getV2 a.toNat l) (g.getV2 b.toNat l)

/-- A lane word whose value in lane `l` comes from the group as it stands at issue (R140, R141). -/
def laneOp (i : Info) (d : BitVec 6) (f : Mask → Group → Nat → Word) (s : State) : Host.Outcome State Fault Refusal :=
  runWord i s fun P s => s.onCur fun g => g.setV d.toNat P (f P g)

/-- A guard word: bit `l` of the result mask in the lanes of P (R145). -/
def grdOp (i : Info) (d : BitVec 3) (f : Group → Mask) (s : State) : Host.Outcome State Fault Refusal :=
  runWord i s fun P s => s.onCur fun g => g.setG d.toNat P (f g)

/-! ## Integer functions -/

/-- Bits [63:32] of the signed product (R127). -/
def mulHigh (x y : Word) : Word := hi32 (sext64 x * sext64 y)

/-- Bits [63:32] of the unsigned product (R127). -/
def mulHighN (x y : Word) : Word := hi32 (x.setWidth 64 * y.setWidth 64)

/-- The i32 minimum and maximum, the n32 minimum and maximum (R127). -/
def minI (x y : Word) : Word := if x.slt y then x else y
def maxI (x y : Word) : Word := if x.slt y then y else x
def minN (x y : Word) : Word := if x.ult y then x else y
def maxN (x y : Word) : Word := if x.ult y then y else x

/-- The absolute value modulo 2^32 (R127). -/
def absI (x : Word) : Word := if x.slt 0 then -x else x

/-- The count of leading zero bits (R127). -/
def clz (x : Word) : Word :=
  BitVec.ofNat 32 (((List.range 32).find? fun i => x.getLsbD (31 - i)).getD 32)

/-- The count of one bits (R127). -/
def popc (x : Word) : Word := BitVec.ofNat 32 ((List.range 32).countP fun i => x.getLsbD i)

/-- The shift count: bits [5:0] (R128). -/
def shCount (b : Word) : Nat := (bits b 0 6).toNat

/-- Shifts by a count of 0 to 63 (R128). -/
def shlW (x b : Word) : Word := x <<< shCount b
def shrW (x b : Word) : Word := x >>> shCount b
def sraW (x b : Word) : Word := x.sshiftRight (min (shCount b) 31)
def rotlW (x b : Word) : Word := x.rotateLeft (shCount b % 32)

/-- Bit i becomes bit 31 − i (R128). -/
def brev (x : Word) : Word := x.reverse

/-- Position, length and top of a bit field: bits [4:0] and [9:5], cut at bit 31 (R129). -/
def fieldPos (b : Word) : Nat := (bits b 0 5).toNat
def fieldLen (b : Word) : Nat := min ((bits b 5 5).toNat) (32 - fieldPos b)

/-- The mask of a bit field at bit 0. -/
def fieldMask (b : Word) : Word := BitVec.ofNat 32 (2 ^ fieldLen b - 1)

/-- Unsigned field extract, signed field extract, field insert (R129). -/
def bfxn (a b : Word) : Word := (a >>> fieldPos b) &&& fieldMask b
def bfx (a b : Word) : Word :=
  if fieldLen b = 0 then 0
  else if a.getLsbD (fieldPos b + fieldLen b - 1) then bfxn a b ||| ~~~(fieldMask b) else bfxn a b
def bfi (a b d : Word) : Word :=
  let m := fieldMask b <<< fieldPos b
  (d &&& ~~~m) ||| ((a <<< fieldPos b) &&& m)

/-- Result byte `i` of a byte select: the zero mask takes precedence over the sign fill (R129). -/
def bselByte (a b : Word) (i : Nat) : Byte :=
  let byte : Byte := a.extractLsb' (8 * (bits b (2 * i) 2).toNat) 8
  if b.getLsbD (8 + i) then 0 else if b.getLsbD (12 + i) then (if byte.getLsbD 7 then 0xFF else 0) else byte

/-- Byte select (R129). -/
def bsel (a b : Word) : Word := bselByte a b 3 ++ bselByte a b 2 ++ bselByte a b 1 ++ bselByte a b 0

/-! ## via, vil, vic -/

/-- `via.add` (R127). -/
def execViaAdd (h : Hdr) (d a : BitVec 6) (b : VSrc) (s : State) : Host.Outcome State Fault Refusal :=
  vecBin (infoViaAdd h d a b) d a b (· + ·) s

/-- `via.sub` (R127). -/
def execViaSub (h : Hdr) (d a : BitVec 6) (b : VSrc) (s : State) : Host.Outcome State Fault Refusal :=
  vecBin (infoViaSub h d a b) d a b (· - ·) s

/-- `via.mul` (R127). -/
def execViaMul (h : Hdr) (d a : BitVec 6) (b : VSrc) (s : State) : Host.Outcome State Fault Refusal :=
  vecBin (infoViaMul h d a b) d a b (· * ·) s

/-- `via.mulh` (R127). -/
def execViaMulh (h : Hdr) (d a : BitVec 6) (b : VSrc) (s : State) : Host.Outcome State Fault Refusal :=
  vecBin (infoViaMulh h d a b) d a b mulHigh s

/-- `via.mulhn` (R127). -/
def execViaMulhn (h : Hdr) (d a : BitVec 6) (b : VSrc) (s : State) : Host.Outcome State Fault Refusal :=
  vecBin (infoViaMulhn h d a b) d a b mulHighN s

/-- `via.mad` (R127). -/
def execViaMad (h : Hdr) (d a : BitVec 6) (b : VSrc) (s : State) : Host.Outcome State Fault Refusal :=
  vecTri (infoViaMad h d a b) d a b (fun x y z => x * y + z) s

/-- `via.min` (R127). -/
def execViaMin (h : Hdr) (d a : BitVec 6) (b : VSrc) (s : State) : Host.Outcome State Fault Refusal :=
  vecBin (infoViaMin h d a b) d a b minI s

/-- `via.max` (R127). -/
def execViaMax (h : Hdr) (d a : BitVec 6) (b : VSrc) (s : State) : Host.Outcome State Fault Refusal :=
  vecBin (infoViaMax h d a b) d a b maxI s

/-- `via.minn` (R127). -/
def execViaMinn (h : Hdr) (d a : BitVec 6) (b : VSrc) (s : State) : Host.Outcome State Fault Refusal :=
  vecBin (infoViaMinn h d a b) d a b minN s

/-- `via.maxn` (R127). -/
def execViaMaxn (h : Hdr) (d a : BitVec 6) (b : VSrc) (s : State) : Host.Outcome State Fault Refusal :=
  vecBin (infoViaMaxn h d a b) d a b maxN s

/-- `via.abs` (R127). -/
def execViaAbs (h : Hdr) (d a : BitVec 6) (s : State) : Host.Outcome State Fault Refusal :=
  vecUn (infoViaAbs h d a) d a absI s

/-- `via.neg` (R127). -/
def execViaNeg (h : Hdr) (d a : BitVec 6) (s : State) : Host.Outcome State Fault Refusal :=
  vecUn (infoViaNeg h d a) d a (- ·) s

/-- `via.addc` on pairs (R127). -/
def execViaAddc (h : Hdr) (d a : BitVec 6) (b : VSrc) (s : State) : Host.Outcome State Fault Refusal :=
  vecBin64 (infoViaAddc h d a b) d a b (· + ·) s

/-- `via.subc` on pairs (R127). -/
def execViaSubc (h : Hdr) (d a : BitVec 6) (b : VSrc) (s : State) : Host.Outcome State Fault Refusal :=
  vecBin64 (infoViaSubc h d a b) d a b (· - ·) s

/-- `via.clz` (R127). -/
def execViaClz (h : Hdr) (d a : BitVec 6) (s : State) : Host.Outcome State Fault Refusal :=
  vecUn (infoViaClz h d a) d a clz s

/-- `via.popc` (R127). -/
def execViaPopc (h : Hdr) (d a : BitVec 6) (s : State) : Host.Outcome State Fault Refusal :=
  vecUn (infoViaPopc h d a) d a popc s

/-- `vil.and` (R128). -/
def execVilAnd (h : Hdr) (d a : BitVec 6) (b : VSrc) (s : State) : Host.Outcome State Fault Refusal :=
  vecBin (infoVilAnd h d a b) d a b (· &&& ·) s

/-- `vil.or` (R128). -/
def execVilOr (h : Hdr) (d a : BitVec 6) (b : VSrc) (s : State) : Host.Outcome State Fault Refusal :=
  vecBin (infoVilOr h d a b) d a b (· ||| ·) s

/-- `vil.xor` (R128). -/
def execVilXor (h : Hdr) (d a : BitVec 6) (b : VSrc) (s : State) : Host.Outcome State Fault Refusal :=
  vecBin (infoVilXor h d a b) d a b (· ^^^ ·) s

/-- `vil.andn` (R128). -/
def execVilAndn (h : Hdr) (d a : BitVec 6) (b : VSrc) (s : State) : Host.Outcome State Fault Refusal :=
  vecBin (infoVilAndn h d a b) d a b (fun x y => x &&& ~~~y) s

/-- `vil.not` (R128). -/
def execVilNot (h : Hdr) (d a : BitVec 6) (s : State) : Host.Outcome State Fault Refusal :=
  vecUn (infoVilNot h d a) d a (~~~ ·) s

/-- `vil.shl` (R128). -/
def execVilShl (h : Hdr) (d a : BitVec 6) (b : VSrc) (s : State) : Host.Outcome State Fault Refusal :=
  vecBin (infoVilShl h d a b) d a b shlW s

/-- `vil.shr` (R128). -/
def execVilShr (h : Hdr) (d a : BitVec 6) (b : VSrc) (s : State) : Host.Outcome State Fault Refusal :=
  vecBin (infoVilShr h d a b) d a b shrW s

/-- `vil.sra` (R128). -/
def execVilSra (h : Hdr) (d a : BitVec 6) (b : VSrc) (s : State) : Host.Outcome State Fault Refusal :=
  vecBin (infoVilSra h d a b) d a b sraW s

/-- `vil.rotl` (R128). -/
def execVilRotl (h : Hdr) (d a : BitVec 6) (b : VSrc) (s : State) : Host.Outcome State Fault Refusal :=
  vecBin (infoVilRotl h d a b) d a b rotlW s

/-- `vil.brev` (R128). -/
def execVilBrev (h : Hdr) (d a : BitVec 6) (s : State) : Host.Outcome State Fault Refusal :=
  vecUn (infoVilBrev h d a) d a brev s

/-- `vil.bfx` (R129). -/
def execVilBfx (h : Hdr) (d a : BitVec 6) (b : VSrc) (s : State) : Host.Outcome State Fault Refusal :=
  vecBin (infoVilBfx h d a b) d a b bfx s

/-- `vil.bfxn` (R129). -/
def execVilBfxn (h : Hdr) (d a : BitVec 6) (b : VSrc) (s : State) : Host.Outcome State Fault Refusal :=
  vecBin (infoVilBfxn h d a b) d a b bfxn s

/-- `vil.bfi` (R129). -/
def execVilBfi (h : Hdr) (d a : BitVec 6) (b : VSrc) (s : State) : Host.Outcome State Fault Refusal :=
  vecTri (infoVilBfi h d a b) d a b bfi s

/-- `vil.mov` (R128). -/
def execVilMov (h : Hdr) (d a : BitVec 6) (s : State) : Host.Outcome State Fault Refusal :=
  vecUn (infoVilMov h d a) d a id s

/-- `vil.bsel` (R129). -/
def execVilBsel (h : Hdr) (d a : BitVec 6) (b : VSrc) (s : State) : Host.Outcome State Fault Refusal :=
  vecBin (infoVilBsel h d a b) d a b bsel s

/-- `vic.eq` (R130). -/
def execVicEq (h : Hdr) (k n : BitVec 3) (a b : BitVec 6) (s : State) : Host.Outcome State Fault Refusal :=
  vecCmp (infoVicEq h k n a b) k n a b (· == ·) s

/-- `vic.ne` (R130). -/
def execVicNe (h : Hdr) (k n : BitVec 3) (a b : BitVec 6) (s : State) : Host.Outcome State Fault Refusal :=
  vecCmp (infoVicNe h k n a b) k n a b (· != ·) s

/-- `vic.lt` (R130). -/
def execVicLt (h : Hdr) (k n : BitVec 3) (a b : BitVec 6) (s : State) : Host.Outcome State Fault Refusal :=
  vecCmp (infoVicLt h k n a b) k n a b (fun x y => x.slt y) s

/-- `vic.le` (R130). -/
def execVicLe (h : Hdr) (k n : BitVec 3) (a b : BitVec 6) (s : State) : Host.Outcome State Fault Refusal :=
  vecCmp (infoVicLe h k n a b) k n a b (fun x y => x.sle y) s

/-- `vic.gt` (R130). -/
def execVicGt (h : Hdr) (k n : BitVec 3) (a b : BitVec 6) (s : State) : Host.Outcome State Fault Refusal :=
  vecCmp (infoVicGt h k n a b) k n a b (fun x y => y.slt x) s

/-- `vic.ge` (R130). -/
def execVicGe (h : Hdr) (k n : BitVec 3) (a b : BitVec 6) (s : State) : Host.Outcome State Fault Refusal :=
  vecCmp (infoVicGe h k n a b) k n a b (fun x y => y.sle x) s

/-- `vic.ltn` (R130). -/
def execVicLtn (h : Hdr) (k n : BitVec 3) (a b : BitVec 6) (s : State) : Host.Outcome State Fault Refusal :=
  vecCmp (infoVicLtn h k n a b) k n a b (fun x y => x.ult y) s

/-- `vic.len` (R130). -/
def execVicLen (h : Hdr) (k n : BitVec 3) (a b : BitVec 6) (s : State) : Host.Outcome State Fault Refusal :=
  vecCmp (infoVicLen h k n a b) k n a b (fun x y => x.ule y) s

/-- `vic.gtn` (R130). -/
def execVicGtn (h : Hdr) (k n : BitVec 3) (a b : BitVec 6) (s : State) : Host.Outcome State Fault Refusal :=
  vecCmp (infoVicGtn h k n a b) k n a b (fun x y => y.ult x) s

/-- `vic.gen` (R130). -/
def execVicGen (h : Hdr) (k n : BitVec 3) (a b : BitVec 6) (s : State) : Host.Outcome State Fault Refusal :=
  vecCmp (infoVicGen h k n a b) k n a b (fun x y => y.ule x) s

/-- `vic.eq64` (R130). -/
def execVicEq64 (h : Hdr) (k n : BitVec 3) (a b : BitVec 6) (s : State) : Host.Outcome State Fault Refusal :=
  vecCmp64 (infoVicEq64 h k n a b) k n a b (· == ·) s

/-- `vic.lt64` (R130). -/
def execVicLt64 (h : Hdr) (k n : BitVec 3) (a b : BitVec 6) (s : State) : Host.Outcome State Fault Refusal :=
  vecCmp64 (infoVicLt64 h k n a b) k n a b (fun x y => x.slt y) s

/-- `vic.ltn64` (R130). -/
def execVicLtn64 (h : Hdr) (k n : BitVec 3) (a b : BitVec 6) (s : State) : Host.Outcome State Fault Refusal :=
  vecCmp64 (infoVicLtn64 h k n a b) k n a b (fun x y => x.ult y) s

/-! ## Immediates (R131, R132) -/

/-- `addi` (R131). -/
def execAddi (h : Hdr) (d a : BitVec 6) (i : BitVec 10) (s : State) : Host.Outcome State Fault Refusal :=
  vecUn (infoAddi h d a) d a (· + i.signExtend 32) s

/-- `andi` (R131). -/
def execAndi (h : Hdr) (d a : BitVec 6) (i : BitVec 10) (s : State) : Host.Outcome State Fault Refusal :=
  vecUn (infoAndi h d a) d a (· &&& i.signExtend 32) s

/-- `ori` (R131). -/
def execOri (h : Hdr) (d a : BitVec 6) (i : BitVec 10) (s : State) : Host.Outcome State Fault Refusal :=
  vecUn (infoOri h d a) d a (· ||| i.signExtend 32) s

/-- `xori` (R131). -/
def execXori (h : Hdr) (d a : BitVec 6) (i : BitVec 10) (s : State) : Host.Outcome State Fault Refusal :=
  vecUn (infoXori h d a) d a (· ^^^ i.signExtend 32) s

/-- `muli` (R131). -/
def execMuli (h : Hdr) (d a : BitVec 6) (i : BitVec 10) (s : State) : Host.Outcome State Fault Refusal :=
  vecUn (infoMuli h d a) d a (· * i.signExtend 32) s

/-- `shli` (R131). -/
def execShli (h : Hdr) (d a : BitVec 6) (i : BitVec 5) (s : State) : Host.Outcome State Fault Refusal :=
  vecUn (infoShli h d a) d a (· <<< i.toNat) s

/-- `shri` (R131). -/
def execShri (h : Hdr) (d a : BitVec 6) (i : BitVec 5) (s : State) : Host.Outcome State Fault Refusal :=
  vecUn (infoShri h d a) d a (· >>> i.toNat) s

/-- `srai` (R131). -/
def execSrai (h : Hdr) (d a : BitVec 6) (i : BitVec 5) (s : State) : Host.Outcome State Fault Refusal :=
  vecUn (infoSrai h d a) d a (BitVec.sshiftRight · i.toNat) s

/-- `movi` (R132). -/
def execMovi (h : Hdr) (d : BitVec 6) (i : BitVec 16) (s : State) : Host.Outcome State Fault Refusal :=
  runWord (infoMovi h d) s fun P s => s.onCur fun g => g.setV d.toNat P fun _ => i.signExtend 32

/-- `movhi` (R132). -/
def execMovhi (h : Hdr) (d : BitVec 6) (i : BitVec 16) (s : State) : Host.Outcome State Fault Refusal :=
  runWord (infoMovhi h d) s fun P s => s.onCur fun g => g.setV d.toNat P fun l => i ++ bits (g.getV d.toNat l) 0 16

/-! ## lane (R140, R141) -/

/-- v(B)[l] mod 32 (R140). -/
def laneArg (g : Group) (b : BitVec 6) (l : Nat) : Nat := (g.getV b.toNat l).toNat % 32

/-- The values of v(A) in the lanes of P, ascending. -/
def laneVals (g : Group) (P : Mask) (a : BitVec 6) : List Word := (lanesOf P).map (g.getV a.toNat)

/-- `lane.pick` (R140): the lane that v(B) names. -/
def execLanePick (h : Hdr) (d a b : BitVec 6) (s : State) : Host.Outcome State Fault Refusal :=
  laneOp (infoLanePick h d a b) d (fun _ g l => g.getV a.toNat (laneArg g b l)) s

/-- `lane.back` (R140): a lower lane. -/
def execLaneBack (h : Hdr) (d a b : BitVec 6) (s : State) : Host.Outcome State Fault Refusal :=
  laneOp (infoLaneBack h d a b) d (fun _ g l => g.getV a.toNat (if laneArg g b l ≤ l then l - laneArg g b l else l)) s

/-- `lane.fwd` (R140): a higher lane. -/
def execLaneFwd (h : Hdr) (d a b : BitVec 6) (s : State) : Host.Outcome State Fault Refusal :=
  laneOp (infoLaneFwd h d a b) d (fun _ g l => g.getV a.toNat (if l + laneArg g b l ≤ 31 then l + laneArg g b l else l)) s

/-- `lane.flip` (R140): the lane with flipped index bits. -/
def execLaneFlip (h : Hdr) (d a b : BitVec 6) (s : State) : Host.Outcome State Fault Refusal :=
  laneOp (infoLaneFlip h d a b) d (fun _ g l => g.getV a.toNat (l ^^^ laneArg g b l)) s

/-- `lane.any` (R140): whether some lane of P holds a nonzero value. -/
def execLaneAny (h : Hdr) (d a : BitVec 6) (s : State) : Host.Outcome State Fault Refusal :=
  laneOp (infoLaneAny h d a) d (fun P g _ => if (laneVals g P a).any (· ≠ 0) then 1 else 0) s

/-- `lane.every` (R140): whether every lane of P holds a nonzero value. -/
def execLaneEvery (h : Hdr) (d a : BitVec 6) (s : State) : Host.Outcome State Fault Refusal :=
  laneOp (infoLaneEvery h d a) d (fun P g _ => if (laneVals g P a).all (· ≠ 0) then 1 else 0) s

/-- `lane.mask` (R140): the mask of the lanes of P with a nonzero value. -/
def execLaneMask (h : Hdr) (d a : BitVec 6) (s : State) : Host.Outcome State Fault Refusal :=
  laneOp (infoLaneMask h d a) d (fun P g _ => maskOf fun p => inMask P p && g.getV a.toNat p != 0) s

/-- `lane.sum` (R140): the sum over P. -/
def execLaneSum (h : Hdr) (d a : BitVec 6) (s : State) : Host.Outcome State Fault Refusal :=
  laneOp (infoLaneSum h d a) d (fun P g _ => (laneVals g P a).foldl (· + ·) 0) s

/-- `lane.least` (R140): the i32 minimum over P. -/
def execLaneLeast (h : Hdr) (d a : BitVec 6) (s : State) : Host.Outcome State Fault Refusal :=
  laneOp (infoLaneLeast h d a) d (fun P g _ => (laneVals g P a).foldl minI (g.getV a.toNat (lowest P))) s

/-- `lane.most` (R140): the i32 maximum over P. -/
def execLaneMost (h : Hdr) (d a : BitVec 6) (s : State) : Host.Outcome State Fault Refusal :=
  laneOp (infoLaneMost h d a) d (fun P g _ => (laneVals g P a).foldl maxI (g.getV a.toNat (lowest P))) s

/-- `lane.fsum` of the values in ascending lane order, each rounded after the addition, and FZ
applied to the operands and to the result: the sum and all flags (R141). -/
def fsum (mode : BitVec 8) (xs : List Word) : Word × Flags :=
  let fz := fzOf mode
  let rd := fun (x : Word) => f32.read fz x.toNat
  match xs with
  | [] => (0, 0)
  | x :: t =>
    let first : Nat × Flags := (f32.exact (rd x), if (rd x).isSig then fNV else 0)
    let r := t.foldl (fun (acc : Nat × Flags) y =>
      let (z, f) := f32.add (rmOf mode) false (f32.decode acc.1) (rd y)
      (z, acc.2 ||| f)) first
    let cut := f32.exact (f32.read fz r.1)
    (BitVec.ofNat 32 cut, r.2 ||| (if cut = r.1 then 0 else fUF ||| fNX))

/-- `lane.fsum` (R141); the word raises its cause as a whole (R56). -/
def execLaneFsum (h : Hdr) (d a : BitVec 6) (s : State) : Host.Outcome State Fault Refusal :=
  runWord (infoLaneFsum h d a) s fun P s =>
    let r := fsum s.cur.fmode (laneVals s.cur P a)
    s.floatWrite P (fun l => if l = lowest P then r.2 else 0) true fun g => g.setV d.toNat P fun _ => r.1

/-- `lane.from` (R140): lane n. -/
def execLaneFrom (h : Hdr) (d a : BitVec 6) (n : BitVec 5) (s : State) : Host.Outcome State Fault Refusal :=
  laneOp (infoLaneFrom h d a) d (fun _ g _ => g.getV a.toNat n.toNat) s

/-! ## smov (R144) -/

/-- `smov.s2v` (R144). -/
def execSmovS2v (h : Hdr) (d a : BitVec 6) (s : State) : Host.Outcome State Fault Refusal :=
  runWord (infoSmovS2v h d a) s fun P s => s.onCur fun g => g.setV d.toNat P fun _ => g.getS a.toNat

/-- `smov.v2s` reads lane n whatever its state (R144). -/
def execSmovV2s (h : Hdr) (d a : BitVec 6) (n : BitVec 5) (s : State) : Host.Outcome State Fault Refusal :=
  runWord (infoSmovV2s h d a) s fun _ s => s.onCur fun g => g.setS d.toNat (g.getV a.toNat n.toNat)

/-! ## grd (R145) -/

/-- `grd.gand` (R145). -/
def execGrdGand (h : Hdr) (d a b : BitVec 3) (s : State) : Host.Outcome State Fault Refusal :=
  grdOp (infoGrdGand h d a b) d (fun g => g.getG a.toNat &&& g.getG b.toNat) s

/-- `grd.gor` (R145). -/
def execGrdGor (h : Hdr) (d a b : BitVec 3) (s : State) : Host.Outcome State Fault Refusal :=
  grdOp (infoGrdGor h d a b) d (fun g => g.getG a.toNat ||| g.getG b.toNat) s

/-- `grd.gxor` (R145). -/
def execGrdGxor (h : Hdr) (d a b : BitVec 3) (s : State) : Host.Outcome State Fault Refusal :=
  grdOp (infoGrdGxor h d a b) d (fun g => g.getG a.toNat ^^^ g.getG b.toNat) s

/-- `grd.gnot` (R145). -/
def execGrdGnot (h : Hdr) (d a : BitVec 3) (s : State) : Host.Outcome State Fault Refusal :=
  grdOp (infoGrdGnot h d a) d (fun g => ~~~(g.getG a.toNat)) s

/-- `grd.gmov` (R145). -/
def execGrdGmov (h : Hdr) (d a : BitVec 3) (s : State) : Host.Outcome State Fault Refusal :=
  grdOp (infoGrdGmov h d a) d (fun g => g.getG a.toNat) s

/-- `grd.gset` (R145). -/
def execGrdGset (h : Hdr) (d : BitVec 3) (a : BitVec 6) (n : BitVec 5) (s : State) :
    Host.Outcome State Fault Refusal :=
  grdOp (infoGrdGset h d a) d (fun g => maskOf fun l => (g.getV a.toNat l).getLsbD n.toNat) s

/-- `grd.gtov` (R145). -/
def execGrdGtov (h : Hdr) (d : BitVec 6) (a : BitVec 3) (s : State) : Host.Outcome State Fault Refusal :=
  runWord (infoGrdGtov h d a) s fun P s => s.onCur fun g =>
    g.setV d.toNat P fun l => if inMask (g.getG a.toNat) l then 1 else 0

end Sys2Proof.Machine
end

