-- ==== Sys2Proof/Machine/Scalar.lean ====
section
/-!
DEFINITION. The scalar words: `salu` (R142, R143).
-/

namespace Sys2Proof.Machine

/-- A scalar word: s(SD) from s(SA) and the SB operand (R142). -/
def salOp (i : Info) (d a : BitVec 5) (b : SSrc) (f : Word → Word → Word) (s : State) : Host.Outcome State Fault Refusal :=
  runWord i s fun _ s => s.onCur fun g => g.setS d.toNat (f (g.getS a.toNat) (sval g b))

/-- `salu.sadd` (R142). -/
def execSaluSadd (h : Hdr) (d a : BitVec 5) (b : SSrc) (s : State) : Host.Outcome State Fault Refusal :=
  salOp (infoSaluSadd h d a b) d a b (· + ·) s

/-- `salu.ssub` (R142). -/
def execSaluSsub (h : Hdr) (d a : BitVec 5) (b : SSrc) (s : State) : Host.Outcome State Fault Refusal :=
  salOp (infoSaluSsub h d a b) d a b (· - ·) s

/-- `salu.smul` (R142). -/
def execSaluSmul (h : Hdr) (d a : BitVec 5) (b : SSrc) (s : State) : Host.Outcome State Fault Refusal :=
  salOp (infoSaluSmul h d a b) d a b (· * ·) s

/-- `salu.sand` (R142). -/
def execSaluSand (h : Hdr) (d a : BitVec 5) (b : SSrc) (s : State) : Host.Outcome State Fault Refusal :=
  salOp (infoSaluSand h d a b) d a b (· &&& ·) s

/-- `salu.sor` (R142). -/
def execSaluSor (h : Hdr) (d a : BitVec 5) (b : SSrc) (s : State) : Host.Outcome State Fault Refusal :=
  salOp (infoSaluSor h d a b) d a b (· ||| ·) s

/-- `salu.sxor` (R142). -/
def execSaluSxor (h : Hdr) (d a : BitVec 5) (b : SSrc) (s : State) : Host.Outcome State Fault Refusal :=
  salOp (infoSaluSxor h d a b) d a b (· ^^^ ·) s

/-- `salu.sshl` (R142). -/
def execSaluSshl (h : Hdr) (d a : BitVec 5) (b : SSrc) (s : State) : Host.Outcome State Fault Refusal :=
  salOp (infoSaluSshl h d a b) d a b shlW s

/-- `salu.sshr` (R142). -/
def execSaluSshr (h : Hdr) (d a : BitVec 5) (b : SSrc) (s : State) : Host.Outcome State Fault Refusal :=
  salOp (infoSaluSshr h d a b) d a b shrW s

/-- `salu.ssra` (R142). -/
def execSaluSsra (h : Hdr) (d a : BitVec 5) (b : SSrc) (s : State) : Host.Outcome State Fault Refusal :=
  salOp (infoSaluSsra h d a b) d a b sraW s

/-- `salu.smin` (R142). -/
def execSaluSmin (h : Hdr) (d a : BitVec 5) (b : SSrc) (s : State) : Host.Outcome State Fault Refusal :=
  salOp (infoSaluSmin h d a b) d a b minI s

/-- `salu.smax` (R142). -/
def execSaluSmax (h : Hdr) (d a : BitVec 5) (b : SSrc) (s : State) : Host.Outcome State Fault Refusal :=
  salOp (infoSaluSmax h d a b) d a b maxI s

/-- `salu.smov` (R142). -/
def execSaluSmov (h : Hdr) (d a : BitVec 5) (s : State) : Host.Outcome State Fault Refusal :=
  runWord (infoSaluSmov h d a) s fun _ s => s.onCur fun g => g.setS d.toNat (g.getS a.toNat)

/-- `salu.saddc` on pairs (R142). -/
def execSaluSaddc (h : Hdr) (d a : BitVec 5) (b : SSrc) (s : State) : Host.Outcome State Fault Refusal :=
  runWord (infoSaluSaddc h d a b) s fun _ s => s.onCur fun g => g.setS2 d.toNat (g.getS2 a.toNat + sval64 g b)

/-- The compares of `salu.scmp` (R143). -/
def scmpTest (x : BitVec 3) (a b : Word) : Bool :=
  match x.toNat with
  | 0 => a == b
  | 1 => a != b
  | 2 => a.slt b
  | 3 => a.sle b
  | 4 => b.slt a
  | 5 => b.sle a
  | 6 => a.ult b
  | _ => b.ule a

/-- `salu.scmp`: one result, combined into the guard in every lane that has not ended (R143). -/
def execSaluScmp (h : Hdr) (k : BitVec 2) (n : BitVec 3) (a : BitVec 5) (b : SSrc) (x : BitVec 3) (s : State) :
    Host.Outcome State Fault Refusal :=
  runWord (infoSaluScmp h k n a b) s fun _ s => s.onCur fun g =>
    g.combineG k.toNat n.toNat g.live fun _ => scmpTest x (g.getS a.toNat) (sval g b)

end Sys2Proof.Machine
end

