-- ==== Sys2Proof/Machine/Sfu.lean ====
section
/-!
DEFINITION. The special functions (R67, R138). `fsqrt` and `fdiv` are correctly rounded. Each other function has the
exact cases the manual lists; elsewhere its result is a free value among the f32 values within 2 ulp of the exact result,
a real number, and a function of its operand (R66; log 6).
-/

namespace Sys2Proof.Machine

/-! ## Results within 2 ulp -/

/-- The real number m · 2^e. -/
noncomputable def dyReal (m : Nat) (e : Int) : ℝ := m * 2 ^ e

/-- The value of an f32 magnitude pattern, continued past the largest exponent. -/
noncomputable def magVal (p : Nat) : ℝ := if p < 2 ^ 23 then dyReal p (-149) else dyReal (2 ^ 23 + p % 2 ^ 23) ((p / 2 ^ 23 : Nat) - 150)

/-- One ulp of f32 at a number that is not negative: in a binade below the smallest normal one, and at 0, that of the subnormals (R67). -/
noncomputable def ulpAt (y : ℝ) : ℝ := if y < dyReal 1 (-126) then dyReal 1 (-149) else dyReal 1 (Int.log 2 y - 23)

/-- Whether an f32 magnitude pattern is within 2 ulp of the exact result `y`, measured there (R67). -/
def Within2 (y : ℝ) (p : Nat) : Prop := |magVal p - y| ≤ 2 * ulpAt y

open Classical in
/-- The free value `free` where `ok` allows it, else some value that it allows (log 6). -/
noncomputable def freeAmong (ok : Nat → Prop) (free : Nat) : Nat := if ok free then free else Classical.epsilon ok

/-- What a 2-ulp function gives for the pattern `p` of its result, `zero` telling that the exact one is 0: overflow, FZ and the
flags as R55 and R56 say; it is always inexact (R67). -/
def bits2 (rm : RM) (fz neg zero : Bool) (p : Nat) : Nat × Flags :=
  let s := if neg then 2 ^ 31 else 0
  if p ≥ 255 * 2 ^ 23 then (f32.overflow rm neg false, fOF ||| fNX)
  else if p < 2 ^ 23 ∧ ¬(p = 0 ∧ zero) then (if fz then s else s + p, fUF ||| fNX)
  else (s + p, fNX)

/-- A result of one of the 2-ulp functions, of sign `neg` and exact magnitude `y`, not 0: free within the bound (R67). -/
noncomputable def pick2 (rm : RM) (fz neg : Bool) (y : ℝ) (free : Nat) : Nat × Flags :=
  bits2 rm fz neg false (freeAmong (Within2 y) free)

/-! ## The functions -/

/-- 1/x (R67). -/
noncomputable def frcp (rm : RM) (fz : Bool) (a : FVal) (free : Nat) : Nat × Flags :=
  match a with
  | .nan s => (f32.nan, if s then fNV else 0)
  | .inf n => (f32.zeroBits n, 0)
  | .fin n m e => if m = 0 then (f32.infBits n, fDZ) else pick2 rm fz n (1 / dyReal m e) free

/-- 1/√x (R67). -/
noncomputable def frsq (rm : RM) (fz : Bool) (a : FVal) (free : Nat) : Nat × Flags :=
  match a with
  | .nan s => (f32.nan, if s then fNV else 0)
  | .inf n => if n then (f32.nan, fNV) else (0, 0)
  | .fin n m e =>
    if m = 0 then (f32.infBits n, fDZ)
    else if n then (f32.nan, fNV)
    else pick2 rm fz false (1 / Real.sqrt (dyReal m e)) free

/-- Whether m · 2^e is an integer. -/
def isInt (m : Nat) (e : Int) : Bool := e ≥ 0 || m % 2 ^ (-e).toNat == 0

/-- m · 2^e for an integer value. -/
def intVal (m : Nat) (e : Int) : Nat := if e ≥ 0 then m * 2 ^ e.toNat else m / 2 ^ (-e).toNat

/-- 2^x: an integer operand gives the exact power where f32 holds it (R67). -/
noncomputable def fexp2 (rm : RM) (fz : Bool) (a : FVal) (free : Nat) : Nat × Flags :=
  match a with
  | .nan s => (f32.nan, if s then fNV else 0)
  | .inf n => (if n then 0 else f32.infBits false, 0)
  | .fin n m e =>
    let k : Int := (if n then -1 else 1) * (intVal m e : Int)
    if isInt m e ∧ -149 ≤ k then f32.round rm fz false false 1 k
    else pick2 rm fz false (2 ^ (if n then -dyReal m e else dyReal m e)) free

open Classical in
/-- log2 x: an exact power of two gives the exact integer (R67). -/
noncomputable def flog2 (rm : RM) (fz : Bool) (a : FVal) (free : Nat) : Nat × Flags :=
  match a with
  | .nan s => (f32.nan, if s then fNV else 0)
  | .inf n => if n then (f32.nan, fNV) else (f32.infBits false, 0)
  | .fin n m e =>
    if m = 0 then (f32.infBits true, fDZ)
    else if n then (f32.nan, fNV)
    else
      let k : Int := (Nat.log2 m : Int) + e
      if m = 2 ^ Nat.log2 m then (f32.exact (.fin (decide (k < 0)) k.natAbs 0), 0)
      else let y := Real.logb 2 (dyReal m e); pick2 rm fz (decide (y < 0)) |y| free

open Classical in
/-- sin(2πx): integer multiples of 1/4 give exactly 0, +1 or −1 (R67). -/
noncomputable def fsin (rm : RM) (fz : Bool) (a : FVal) (free : Nat) : Nat × Flags :=
  match a with
  | .nan s => (f32.nan, if s then fNV else 0)
  | .inf _ => (f32.nan, fNV)
  | .fin n m e =>
    if isInt m (e + 2) then
      match intVal m (e + 2) % 4 with
      | 1 => (f32.exact (.fin n 1 0), 0)
      | 3 => (f32.exact (.fin (!n) 1 0), 0)
      | _ => (f32.zeroBits n, 0)
    else let y := Real.sin (2 * Real.pi * dyReal m e); pick2 rm fz (decide (y < 0) != n) |y| free

open Classical in
/-- cos(2πx): integer multiples of 1/4 give exactly 0, +1 or −1 (R67). -/
noncomputable def fcos (rm : RM) (fz : Bool) (a : FVal) (free : Nat) : Nat × Flags :=
  match a with
  | .nan s => (f32.nan, if s then fNV else 0)
  | .inf _ => (f32.nan, fNV)
  | .fin _ m e =>
    if isInt m (e + 2) then
      match intVal m (e + 2) % 4 with
      | 0 => (f32.exact (.fin false 1 0), 0)
      | 2 => (f32.exact (.fin true 1 0), 0)
      | _ => (0, 0)
    else let y := Real.cos (2 * Real.pi * dyReal m e); pick2 rm fz (decide (y < 0)) |y| free

/-- tanh x: the result is at most 1 in magnitude (R67). -/
noncomputable def ftanh (rm : RM) (fz : Bool) (a : FVal) (free : Nat) : Nat × Flags :=
  match a with
  | .nan s => (f32.nan, if s then fNV else 0)
  | .inf n => (f32.exact (.fin n 1 0), 0)
  | .fin n m e =>
    let y := Real.tanh (dyReal m e)
    bits2 rm fz n (m == 0) (freeAmong (fun p => Within2 y p ∧ p ≤ 127 * 2 ^ 23) free)

/-- The free value of special function `fn` for the operand of a lane: one function of the operand and of sr.fmode, so that a word
that reads the same again gives the same (R66; log 6). -/
def sfuFree (fn : Nat) (g : Group) (a : BitVec 6) (l : Nat) : Nat :=
  Config.sfuPick fn (bits g.fmode 0 3).toNat (g.getV a.toNat l).toNat

/-- A one-operand special function, number `fn` of the 2-ulp ones (R138). -/
def sfuOp (i : Info) (d a : BitVec 6) (fn : Nat) (f : RM → Bool → FVal → Nat → Nat × Flags) (s : State) :
    Host.Outcome State Fault Refusal :=
  floatOp i d (fun g l => f (rmOf g.fmode) (fzOf g.fmode) (srcF32 a g l) (sfuFree fn g a l)) s

/-- `sfu.frcp` (R138). -/
noncomputable def execSfuFrcp (h : Hdr) (d a : BitVec 6) (s : State) : Host.Outcome State Fault Refusal :=
  sfuOp (infoSfuFrcp h d a) d a 0 frcp s

/-- `sfu.frsq` (R138). -/
noncomputable def execSfuFrsq (h : Hdr) (d a : BitVec 6) (s : State) : Host.Outcome State Fault Refusal :=
  sfuOp (infoSfuFrsq h d a) d a 1 frsq s

/-- `sfu.fsqrt` (R138). -/
def execSfuFsqrt (h : Hdr) (d a : BitVec 6) (s : State) : Host.Outcome State Fault Refusal :=
  floatOp (infoSfuFsqrt h d a) d (fun g l => f32.sqrt (rmOf g.fmode) (fzOf g.fmode) (srcF32 a g l)) s

/-- `sfu.fexp2` (R138). -/
noncomputable def execSfuFexp2 (h : Hdr) (d a : BitVec 6) (s : State) : Host.Outcome State Fault Refusal :=
  sfuOp (infoSfuFexp2 h d a) d a 2 fexp2 s

/-- `sfu.flog2` (R138). -/
noncomputable def execSfuFlog2 (h : Hdr) (d a : BitVec 6) (s : State) : Host.Outcome State Fault Refusal :=
  sfuOp (infoSfuFlog2 h d a) d a 3 flog2 s

/-- `sfu.fsin` (R138). -/
noncomputable def execSfuFsin (h : Hdr) (d a : BitVec 6) (s : State) : Host.Outcome State Fault Refusal :=
  sfuOp (infoSfuFsin h d a) d a 4 fsin s

/-- `sfu.fcos` (R138). -/
noncomputable def execSfuFcos (h : Hdr) (d a : BitVec 6) (s : State) : Host.Outcome State Fault Refusal :=
  sfuOp (infoSfuFcos h d a) d a 5 fcos s

/-- `sfu.ftanh` (R138). -/
noncomputable def execSfuFtanh (h : Hdr) (d a : BitVec 6) (s : State) : Host.Outcome State Fault Refusal :=
  sfuOp (infoSfuFtanh h d a) d a 6 ftanh s

/-- `sfu.fdiv` (R138). -/
def execSfuFdiv (h : Hdr) (d a b : BitVec 6) (s : State) : Host.Outcome State Fault Refusal :=
  floatOp (infoSfuFdiv h d a b) d (fun g l =>
    f32.div (rmOf g.fmode) (fzOf g.fmode) (srcF32 a g l) (srcF32 b g l)) s

end Sys2Proof.Machine
end

