-- ==== Sys2Proof/Machine/Dispatch.lean ====
section
/-!
DEFINITION. Dispatch: one arm for each constructor of `Instr`, a direct call of its meaning.
-/

namespace Sys2Proof.Machine

open Sys2Proof in /-- The meaning of an instruction word, or of a step of the ordering machine. -/ noncomputable
def exec (i : Instr) (s : State) : Host.Outcome State Fault Refusal :=
  match i with
  | .sysNop h => Sys2Proof.Machine.execSysNop h s
  | .sysExit h => Sys2Proof.Machine.execSysExit h s
  | .sysYield h => Sys2Proof.Machine.execSysYield h s
  | .sysTrap h p => Sys2Proof.Machine.execSysTrap h p s
  | .sysUret h => Sys2Proof.Machine.execSysUret h s
  | .sysTret h => Sys2Proof.Machine.execSysTret h s
  | .sysBrk h p => Sys2Proof.Machine.execSysBrk h p s
  | .sysHalt h p => Sys2Proof.Machine.execSysHalt h p s
  | .bra h o => Sys2Proof.Machine.execBra h o s
  | .braLk h o => Sys2Proof.Machine.execBraLk h o s
  | .braUlk h o => Sys2Proof.Machine.execBraUlk h o s
  | .braUnf h o => Sys2Proof.Machine.execBraUnf h o s
  | .ctlJump h a hh => Sys2Proof.Machine.execCtlJump h a hh s
  | .ctlCall h d a => Sys2Proof.Machine.execCtlCall h d a s
  | .ctlCalli h d off => Sys2Proof.Machine.execCtlCalli h d off s
  | .ctlRet h a => Sys2Proof.Machine.execCtlRet h a s
  | .ctlRep h a => Sys2Proof.Machine.execCtlRep h a s
  | .ctlReform h => Sys2Proof.Machine.execCtlReform h s
  | .wait h l sc p t => Sys2Proof.Machine.execWait h l sc p t s
  | .viaAdd h d a b => Sys2Proof.Machine.execViaAdd h d a b s
  | .viaSub h d a b => Sys2Proof.Machine.execViaSub h d a b s
  | .viaMul h d a b => Sys2Proof.Machine.execViaMul h d a b s
  | .viaMulh h d a b => Sys2Proof.Machine.execViaMulh h d a b s
  | .viaMulhn h d a b => Sys2Proof.Machine.execViaMulhn h d a b s
  | .viaMad h d a b => Sys2Proof.Machine.execViaMad h d a b s
  | .viaMin h d a b => Sys2Proof.Machine.execViaMin h d a b s
  | .viaMax h d a b => Sys2Proof.Machine.execViaMax h d a b s
  | .viaMinn h d a b => Sys2Proof.Machine.execViaMinn h d a b s
  | .viaMaxn h d a b => Sys2Proof.Machine.execViaMaxn h d a b s
  | .viaAbs h d a => Sys2Proof.Machine.execViaAbs h d a s
  | .viaNeg h d a => Sys2Proof.Machine.execViaNeg h d a s
  | .viaAddc h d a b => Sys2Proof.Machine.execViaAddc h d a b s
  | .viaSubc h d a b => Sys2Proof.Machine.execViaSubc h d a b s
  | .viaClz h d a => Sys2Proof.Machine.execViaClz h d a s
  | .viaPopc h d a => Sys2Proof.Machine.execViaPopc h d a s
  | .vilAnd h d a b => Sys2Proof.Machine.execVilAnd h d a b s
  | .vilOr h d a b => Sys2Proof.Machine.execVilOr h d a b s
  | .vilXor h d a b => Sys2Proof.Machine.execVilXor h d a b s
  | .vilAndn h d a b => Sys2Proof.Machine.execVilAndn h d a b s
  | .vilNot h d a => Sys2Proof.Machine.execVilNot h d a s
  | .vilShl h d a b => Sys2Proof.Machine.execVilShl h d a b s
  | .vilShr h d a b => Sys2Proof.Machine.execVilShr h d a b s
  | .vilSra h d a b => Sys2Proof.Machine.execVilSra h d a b s
  | .vilRotl h d a b => Sys2Proof.Machine.execVilRotl h d a b s
  | .vilBrev h d a => Sys2Proof.Machine.execVilBrev h d a s
  | .vilBfx h d a b => Sys2Proof.Machine.execVilBfx h d a b s
  | .vilBfxn h d a b => Sys2Proof.Machine.execVilBfxn h d a b s
  | .vilBfi h d a b => Sys2Proof.Machine.execVilBfi h d a b s
  | .vilMov h d a => Sys2Proof.Machine.execVilMov h d a s
  | .vilBsel h d a b => Sys2Proof.Machine.execVilBsel h d a b s
  | .vicEq h k n a b => Sys2Proof.Machine.execVicEq h k n a b s
  | .vicNe h k n a b => Sys2Proof.Machine.execVicNe h k n a b s
  | .vicLt h k n a b => Sys2Proof.Machine.execVicLt h k n a b s
  | .vicLe h k n a b => Sys2Proof.Machine.execVicLe h k n a b s
  | .vicGt h k n a b => Sys2Proof.Machine.execVicGt h k n a b s
  | .vicGe h k n a b => Sys2Proof.Machine.execVicGe h k n a b s
  | .vicLtn h k n a b => Sys2Proof.Machine.execVicLtn h k n a b s
  | .vicLen h k n a b => Sys2Proof.Machine.execVicLen h k n a b s
  | .vicGtn h k n a b => Sys2Proof.Machine.execVicGtn h k n a b s
  | .vicGen h k n a b => Sys2Proof.Machine.execVicGen h k n a b s
  | .vicEq64 h k n a b => Sys2Proof.Machine.execVicEq64 h k n a b s
  | .vicLt64 h k n a b => Sys2Proof.Machine.execVicLt64 h k n a b s
  | .vicLtn64 h k n a b => Sys2Proof.Machine.execVicLtn64 h k n a b s
  | .addi h d a im => Sys2Proof.Machine.execAddi h d a im s
  | .andi h d a im => Sys2Proof.Machine.execAndi h d a im s
  | .ori h d a im => Sys2Proof.Machine.execOri h d a im s
  | .xori h d a im => Sys2Proof.Machine.execXori h d a im s
  | .shli h d a im => Sys2Proof.Machine.execShli h d a im s
  | .shri h d a im => Sys2Proof.Machine.execShri h d a im s
  | .srai h d a im => Sys2Proof.Machine.execSrai h d a im s
  | .muli h d a im => Sys2Proof.Machine.execMuli h d a im s
  | .movi h d im => Sys2Proof.Machine.execMovi h d im s
  | .movhi h d im => Sys2Proof.Machine.execMovhi h d im s
  | .vfFadd h d a b => Sys2Proof.Machine.execVfFadd h d a b s
  | .vfFsub h d a b => Sys2Proof.Machine.execVfFsub h d a b s
  | .vfFmul h d a b => Sys2Proof.Machine.execVfFmul h d a b s
  | .vfFfma h d a b => Sys2Proof.Machine.execVfFfma h d a b s
  | .vfFfms h d a b => Sys2Proof.Machine.execVfFfms h d a b s
  | .vfFmin h d a b => Sys2Proof.Machine.execVfFmin h d a b s
  | .vfFmax h d a b => Sys2Proof.Machine.execVfFmax h d a b s
  | .vfFabs h d a => Sys2Proof.Machine.execVfFabs h d a s
  | .vfFneg h d a => Sys2Proof.Machine.execVfFneg h d a s
  | .vfFcopys h d a b => Sys2Proof.Machine.execVfFcopys h d a b s
  | .vfFfloor h d a => Sys2Proof.Machine.execVfFfloor h d a s
  | .vfFceil h d a => Sys2Proof.Machine.execVfFceil h d a s
  | .vfFrint h d a => Sys2Proof.Machine.execVfFrint h d a s
  | .vfFtrunc h d a => Sys2Proof.Machine.execVfFtrunc h d a s
  | .vfFsat h d a => Sys2Proof.Machine.execVfFsat h d a s
  | .vfFscale h d a b => Sys2Proof.Machine.execVfFscale h d a b s
  | .vfcFeq h k n a b => Sys2Proof.Machine.execVfcFeq h k n a b s
  | .vfcFne h k n a b => Sys2Proof.Machine.execVfcFne h k n a b s
  | .vfcFlt h k n a b => Sys2Proof.Machine.execVfcFlt h k n a b s
  | .vfcFle h k n a b => Sys2Proof.Machine.execVfcFle h k n a b s
  | .vfcFgt h k n a b => Sys2Proof.Machine.execVfcFgt h k n a b s
  | .vfcFge h k n a b => Sys2Proof.Machine.execVfcFge h k n a b s
  | .vfcFun h k n a b => Sys2Proof.Machine.execVfcFun h k n a b s
  | .vfcFord h k n a b => Sys2Proof.Machine.execVfcFord h k n a b s
  | .vfcFclass h k n a b => Sys2Proof.Machine.execVfcFclass h k n a b s
  | .vhHadd h t d a b => Sys2Proof.Machine.execVhHadd h t d a b s
  | .vhHsub h t d a b => Sys2Proof.Machine.execVhHsub h t d a b s
  | .vhHmul h t d a b => Sys2Proof.Machine.execVhHmul h t d a b s
  | .vhHfma h t d a b => Sys2Proof.Machine.execVhHfma h t d a b s
  | .vhHmin h t d a b => Sys2Proof.Machine.execVhHmin h t d a b s
  | .vhHmax h t d a b => Sys2Proof.Machine.execVhHmax h t d a b s
  | .vhHneg h t d a => Sys2Proof.Machine.execVhHneg h t d a s
  | .vhHabs h t d a => Sys2Proof.Machine.execVhHabs h t d a s
  | .sfuFrcp h d a => Sys2Proof.Machine.execSfuFrcp h d a s
  | .sfuFrsq h d a => Sys2Proof.Machine.execSfuFrsq h d a s
  | .sfuFsqrt h d a => Sys2Proof.Machine.execSfuFsqrt h d a s
  | .sfuFexp2 h d a => Sys2Proof.Machine.execSfuFexp2 h d a s
  | .sfuFlog2 h d a => Sys2Proof.Machine.execSfuFlog2 h d a s
  | .sfuFsin h d a => Sys2Proof.Machine.execSfuFsin h d a s
  | .sfuFcos h d a => Sys2Proof.Machine.execSfuFcos h d a s
  | .sfuFtanh h d a => Sys2Proof.Machine.execSfuFtanh h d a s
  | .sfuFdiv h d a b => Sys2Proof.Machine.execSfuFdiv h d a b s
  | .cvtF32I32 h d a => Sys2Proof.Machine.execCvtF32I32 h d a s
  | .cvtF32N32 h d a => Sys2Proof.Machine.execCvtF32N32 h d a s
  | .cvtI32F32 h d a => Sys2Proof.Machine.execCvtI32F32 h d a s
  | .cvtN32F32 h d a => Sys2Proof.Machine.execCvtN32F32 h d a s
  | .cvtF32F16 h d a => Sys2Proof.Machine.execCvtF32F16 h d a s
  | .cvtF16F32 h d a => Sys2Proof.Machine.execCvtF16F32 h d a s
  | .cvtF32Bf16 h d a => Sys2Proof.Machine.execCvtF32Bf16 h d a s
  | .cvtBf16F32 h d a => Sys2Proof.Machine.execCvtBf16F32 h d a s
  | .cvtF32E4m3 h d a sc => Sys2Proof.Machine.execCvtF32E4m3 h d a sc s
  | .cvtE4m3F32 h d a sc => Sys2Proof.Machine.execCvtE4m3F32 h d a sc s
  | .cvtF32E5m2 h d a sc => Sys2Proof.Machine.execCvtF32E5m2 h d a sc s
  | .cvtE5m2F32 h d a sc => Sys2Proof.Machine.execCvtE5m2F32 h d a sc s
  | .cvtF32E2m1 h d a sc => Sys2Proof.Machine.execCvtF32E2m1 h d a sc s
  | .cvtE2m1F32 h d a sc => Sys2Proof.Machine.execCvtE2m1F32 h d a sc s
  | .cvtF32S20 h d a => Sys2Proof.Machine.execCvtF32S20 h d a s
  | .cvtS20F32 h d a => Sys2Proof.Machine.execCvtS20F32 h d a s
  | .lanePick h d a b => Sys2Proof.Machine.execLanePick h d a b s
  | .laneBack h d a b => Sys2Proof.Machine.execLaneBack h d a b s
  | .laneFwd h d a b => Sys2Proof.Machine.execLaneFwd h d a b s
  | .laneFlip h d a b => Sys2Proof.Machine.execLaneFlip h d a b s
  | .laneAny h d a => Sys2Proof.Machine.execLaneAny h d a s
  | .laneEvery h d a => Sys2Proof.Machine.execLaneEvery h d a s
  | .laneMask h d a => Sys2Proof.Machine.execLaneMask h d a s
  | .laneSum h d a => Sys2Proof.Machine.execLaneSum h d a s
  | .laneLeast h d a => Sys2Proof.Machine.execLaneLeast h d a s
  | .laneMost h d a => Sys2Proof.Machine.execLaneMost h d a s
  | .laneFsum h d a => Sys2Proof.Machine.execLaneFsum h d a s
  | .laneFrom h d a n => Sys2Proof.Machine.execLaneFrom h d a n s
  | .saluSadd h d a b => Sys2Proof.Machine.execSaluSadd h d a b s
  | .saluSsub h d a b => Sys2Proof.Machine.execSaluSsub h d a b s
  | .saluSmul h d a b => Sys2Proof.Machine.execSaluSmul h d a b s
  | .saluSand h d a b => Sys2Proof.Machine.execSaluSand h d a b s
  | .saluSor h d a b => Sys2Proof.Machine.execSaluSor h d a b s
  | .saluSxor h d a b => Sys2Proof.Machine.execSaluSxor h d a b s
  | .saluSshl h d a b => Sys2Proof.Machine.execSaluSshl h d a b s
  | .saluSshr h d a b => Sys2Proof.Machine.execSaluSshr h d a b s
  | .saluSsra h d a b => Sys2Proof.Machine.execSaluSsra h d a b s
  | .saluSmin h d a b => Sys2Proof.Machine.execSaluSmin h d a b s
  | .saluSmax h d a b => Sys2Proof.Machine.execSaluSmax h d a b s
  | .saluSmov h d a => Sys2Proof.Machine.execSaluSmov h d a s
  | .saluSaddc h d a b => Sys2Proof.Machine.execSaluSaddc h d a b s
  | .saluScmp h k n a b x => Sys2Proof.Machine.execSaluScmp h k n a b x s
  | .smovS2v h d a => Sys2Proof.Machine.execSmovS2v h d a s
  | .smovV2s h d a n => Sys2Proof.Machine.execSmovV2s h d a n s
  | .grdGand h d a b => Sys2Proof.Machine.execGrdGand h d a b s
  | .grdGor h d a b => Sys2Proof.Machine.execGrdGor h d a b s
  | .grdGxor h d a b => Sys2Proof.Machine.execGrdGxor h d a b s
  | .grdGnot h d a => Sys2Proof.Machine.execGrdGnot h d a s
  | .grdGmov h d a => Sys2Proof.Machine.execGrdGmov h d a s
  | .grdGset h d a b => Sys2Proof.Machine.execGrdGset h d a b s
  | .grdGtov h d a => Sys2Proof.Machine.execGrdGtov h d a s
  | .csrRdsr h d a b => Sys2Proof.Machine.execCsrRdsr h d a b s
  | .csrWrsr h d a b => Sys2Proof.Machine.execCsrWrsr h d a b s
  | .csrRdsrs h d a b => Sys2Proof.Machine.execCsrRdsrs h d a b s
  | .csrWrsrs h d a b => Sys2Proof.Machine.execCsrWrsrs h d a b s
  | .ldB8 h sc d a o => Sys2Proof.Machine.execLdB8 h sc d a o s
  | .ldB8s h sc d a o => Sys2Proof.Machine.execLdB8s h sc d a o s
  | .ldB16 h sc d a o => Sys2Proof.Machine.execLdB16 h sc d a o s
  | .ldB16s h sc d a o => Sys2Proof.Machine.execLdB16s h sc d a o s
  | .ldB32 h sc d a o => Sys2Proof.Machine.execLdB32 h sc d a o s
  | .ldB64 h sc d a o => Sys2Proof.Machine.execLdB64 h sc d a o s
  | .ldB128 h sc d a o => Sys2Proof.Machine.execLdB128 h sc d a o s
  | .stB8 h d a o => Sys2Proof.Machine.execStB8 h d a o s
  | .stB16 h d a o => Sys2Proof.Machine.execStB16 h d a o s
  | .stB32 h d a o => Sys2Proof.Machine.execStB32 h d a o s
  | .stB64 h d a o => Sys2Proof.Machine.execStB64 h d a o s
  | .stB128 h d a o => Sys2Proof.Machine.execStB128 h d a o s
  | .ldsB8 h d a o => Sys2Proof.Machine.execLdsB8 h d a o s
  | .ldsB8s h d a o => Sys2Proof.Machine.execLdsB8s h d a o s
  | .ldsB16 h d a o => Sys2Proof.Machine.execLdsB16 h d a o s
  | .ldsB16s h d a o => Sys2Proof.Machine.execLdsB16s h d a o s
  | .ldsB32 h d a o => Sys2Proof.Machine.execLdsB32 h d a o s
  | .ldsB64 h d a o => Sys2Proof.Machine.execLdsB64 h d a o s
  | .ldsB128 h d a o => Sys2Proof.Machine.execLdsB128 h d a o s
  | .stsB8 h d a o => Sys2Proof.Machine.execStsB8 h d a o s
  | .stsB16 h d a o => Sys2Proof.Machine.execStsB16 h d a o s
  | .stsB32 h d a o => Sys2Proof.Machine.execStsB32 h d a o s
  | .stsB64 h d a o => Sys2Proof.Machine.execStsB64 h d a o s
  | .stsB128 h d a o => Sys2Proof.Machine.execStsB128 h d a o s
  | .ldp h k d a o => Sys2Proof.Machine.execLdp h k d a o s
  | .ldpF32 h k d a o => Sys2Proof.Machine.execLdpF32 h k d a o s
  | .updAdd h d a o => Sys2Proof.Machine.execUpdAdd h d a o s
  | .updFadd h d a o => Sys2Proof.Machine.execUpdFadd h d a o s
  | .updMin h d a o => Sys2Proof.Machine.execUpdMin h d a o s
  | .updMax h d a o => Sys2Proof.Machine.execUpdMax h d a o s
  | .updMinn h d a o => Sys2Proof.Machine.execUpdMinn h d a o s
  | .updMaxn h d a o => Sys2Proof.Machine.execUpdMaxn h d a o s
  | .updAnd h d a o => Sys2Proof.Machine.execUpdAnd h d a o s
  | .updOr h d a o => Sys2Proof.Machine.execUpdOr h d a o s
  | .updXor h d a o => Sys2Proof.Machine.execUpdXor h d a o s
  | .updSwap h d a o => Sys2Proof.Machine.execUpdSwap h d a o s
  | .updCas h d a o => Sys2Proof.Machine.execUpdCas h d a o s
  | .updAdd64 h d a o => Sys2Proof.Machine.execUpdAdd64 h d a o s
  | .updSwap64 h d a o => Sys2Proof.Machine.execUpdSwap64 h d a o s
  | .updCas64 h d a o => Sys2Proof.Machine.execUpdCas64 h d a o s
  | .updcAdd h d a o => Sys2Proof.Machine.execUpdcAdd h d a o s
  | .updcFadd h d a o => Sys2Proof.Machine.execUpdcFadd h d a o s
  | .updcMin h d a o => Sys2Proof.Machine.execUpdcMin h d a o s
  | .updcMax h d a o => Sys2Proof.Machine.execUpdcMax h d a o s
  | .updcMinn h d a o => Sys2Proof.Machine.execUpdcMinn h d a o s
  | .updcMaxn h d a o => Sys2Proof.Machine.execUpdcMaxn h d a o s
  | .updcAnd h d a o => Sys2Proof.Machine.execUpdcAnd h d a o s
  | .updcOr h d a o => Sys2Proof.Machine.execUpdcOr h d a o s
  | .updcXor h d a o => Sys2Proof.Machine.execUpdcXor h d a o s
  | .updcSwap h d a o => Sys2Proof.Machine.execUpdcSwap h d a o s
  | .updcCas h d a o => Sys2Proof.Machine.execUpdcCas h d a o s
  | .updcAdd64 h d a o => Sys2Proof.Machine.execUpdcAdd64 h d a o s
  | .updcSwap64 h d a o => Sys2Proof.Machine.execUpdcSwap64 h d a o s
  | .updcCas64 h d a o => Sys2Proof.Machine.execUpdcCas64 h d a o s
  | .updnAdd h d a o => Sys2Proof.Machine.execUpdnAdd h d a o s
  | .updnFadd h d a o => Sys2Proof.Machine.execUpdnFadd h d a o s
  | .updnMin h d a o => Sys2Proof.Machine.execUpdnMin h d a o s
  | .updnMax h d a o => Sys2Proof.Machine.execUpdnMax h d a o s
  | .updnMinn h d a o => Sys2Proof.Machine.execUpdnMinn h d a o s
  | .updnMaxn h d a o => Sys2Proof.Machine.execUpdnMaxn h d a o s
  | .updnAnd h d a o => Sys2Proof.Machine.execUpdnAnd h d a o s
  | .updnOr h d a o => Sys2Proof.Machine.execUpdnOr h d a o s
  | .updnXor h d a o => Sys2Proof.Machine.execUpdnXor h d a o s
  | .memFenceHost h => Sys2Proof.Machine.execMemFenceHost h s
  | .memFencePeer h => Sys2Proof.Machine.execMemFencePeer h s
  | .memFenceSys h => Sys2Proof.Machine.execMemFenceSys h s
  | .memPref h a o => Sys2Proof.Machine.execMemPref h a o s
  | .memBpref h d n => Sys2Proof.Machine.execMemBpref h d n s
  | .monWaitcEq h d a o => Sys2Proof.Machine.execMonWaitcEq h d a o s
  | .monWaitcNe h d a o => Sys2Proof.Machine.execMonWaitcNe h d a o s
  | .monWaitcLt h d a o => Sys2Proof.Machine.execMonWaitcLt h d a o s
  | .monWaitcGe h d a o => Sys2Proof.Machine.execMonWaitcGe h d a o s
  | .monWaitcLtn h d a o => Sys2Proof.Machine.execMonWaitcLtn h d a o s
  | .monWaitcGen h d a o => Sys2Proof.Machine.execMonWaitcGen h d a o s
  | .monWaitcChg h a o => Sys2Proof.Machine.execMonWaitcChg h a o s
  | .barInit h k n => Sys2Proof.Machine.execBarInit h k n s
  | .barInitX h k n => Sys2Proof.Machine.execBarInitX h k n s
  | .barArr h n => Sys2Proof.Machine.execBarArr h n s
  | .barDrop h n => Sys2Proof.Machine.execBarDrop h n s
  | .barWait h n => Sys2Proof.Machine.execBarWait h n s
  | .barTest h m n => Sys2Proof.Machine.execBarTest h m n s
  | .barInval h m n => Sys2Proof.Machine.execBarInval h m n s
  | .barArrw h n => Sys2Proof.Machine.execBarArrw h n s
  | .musSet h k n => Sys2Proof.Machine.execMusSet h k n s
  | .musClr h n => Sys2Proof.Machine.execMusClr h n s
  | .ringInit h d n => Sys2Proof.Machine.execRingInit h d n s
  | .ringAcq h k n => Sys2Proof.Machine.execRingAcq h k n s
  | .ringRel h k n => Sys2Proof.Machine.execRingRel h k n s
  | .ringTake h k n => Sys2Proof.Machine.execRingTake h k n s
  | .ringFree h k n => Sys2Proof.Machine.execRingFree h k n s
  | .futFinit h a o => Sys2Proof.Machine.execFutFinit h a o s
  | .futFput h d a o => Sys2Proof.Machine.execFutFput h d a o s
  | .futFget h d a o => Sys2Proof.Machine.execFutFget h d a o s
  | .futFpoll h d a o => Sys2Proof.Machine.execFutFpoll h d a o s
  | .cpyMm h z d a b => Sys2Proof.Machine.execCpyMm h z d a b s
  | .cpyMs h z d a b => Sys2Proof.Machine.execCpyMs h z d a b s
  | .cpySm h z d a b => Sys2Proof.Machine.execCpySm h z d a b s
  | .cpySs h z d a b => Sys2Proof.Machine.execCpySs h z d a b s
  | .tcpySp h r q b n => Sys2Proof.Machine.execTcpySp h r q b n s
  | .tcpyOa h r q b n x => Sys2Proof.Machine.execTcpyOa h r q b n x s
  | .tcpyWb h r q b n x => Sys2Proof.Machine.execTcpyWb h r q b n x s
  | .tcpySt h r q b n => Sys2Proof.Machine.execTcpySt h r q b n s
  | .tcpyGath h r q b n => Sys2Proof.Machine.execTcpyGath h r q b n s
  | .tcpyScat h r q b n => Sys2Proof.Machine.execTcpyScat h r q b n s
  | .tcpyZero h r q n => Sys2Proof.Machine.execTcpyZero h r q n s
  | .seal h m k => Sys2Proof.Machine.execSeal h m k s
  | .unseal h k => Sys2Proof.Machine.execUnseal h k s
  | .mma h x y t o w m b e => Sys2Proof.Machine.execMma h x y t o w m b e s
  | .mmaz h x y t o w m b e => Sys2Proof.Machine.execMmaz h x y t o w m b e s
  | .mmag h x y t o w m b e lists => Sys2Proof.Machine.execMmag h x y t o w m b e lists s
  | .mmagz h x y t o w m b e lists => Sys2Proof.Machine.execMmagz h x y t o w m b e lists s
  | .taccTzero h t => Sys2Proof.Machine.execTaccTzero h t s
  | .taccTstSp h b n t => Sys2Proof.Machine.execTaccTstSp h b n t s
  | .taccTstMem h b n t => Sys2Proof.Machine.execTaccTstMem h b n t s
  | .taccTld h b n t => Sys2Proof.Machine.execTaccTld h b n t s
  | .taccTscale h x k t => Sys2Proof.Machine.execTaccTscale h x k t s
  | .taccTbias h k t => Sys2Proof.Machine.execTaccTbias h k t s
  | .qntPi8 h d a => Sys2Proof.Machine.execQntPi8 h d a s
  | .qntE2m1 h d a => Sys2Proof.Machine.execQntE2m1 h d a s
  | .taskSpawn h e k => Sys2Proof.Machine.execTaskSpawn h e k s
  | .taskLaunch h e k => Sys2Proof.Machine.execTaskLaunch h e k s
  | .arenaNew h e k => Sys2Proof.Machine.execArenaNew h e k s
  | .arenaEnd h k => Sys2Proof.Machine.execArenaEnd h k s
  | .arenaChk h m k => Sys2Proof.Machine.execArenaChk h m k s
  | .bsnDef h k => Sys2Proof.Machine.execBsnDef h k s
  | .bsnResize h b k => Sys2Proof.Machine.execBsnResize h b k s
  | .bsnDrop h b k => Sys2Proof.Machine.execBsnDrop h b k s
  | .bsnStat h e k => Sys2Proof.Machine.execBsnStat h e k s
  | .pgBsn h b im k => Sys2Proof.Machine.execPgBsn h b im k s
  | .tsysInvVa h k => Sys2Proof.Machine.execTsysInvVa h k s
  | .tsysInvAll h => Sys2Proof.Machine.execTsysInvAll h s
  | .tsysWqpop h m d => Sys2Proof.Machine.execTsysWqpop h m d s
  | .tsysWqdone h d => Sys2Proof.Machine.execTsysWqdone h d s
  | .tsysPtld h a d => Sys2Proof.Machine.execTsysPtld h a d s
  | .tsysFrmTake h z m d => Sys2Proof.Machine.execTsysFrmTake h z m d s
  | .tsysFrmGive h z a => Sys2Proof.Machine.execTsysFrmGive h z a s
  | .tsysMzero h z a => Sys2Proof.Machine.execTsysMzero h z a s
  | .tsysMcopy h z a d => Sys2Proof.Machine.execTsysMcopy h z a d s
  | .tsysMeterRd h e k => Sys2Proof.Machine.execTsysMeterRd h e k s
  | .tsysPsaveDone h => Sys2Proof.Machine.execTsysPsaveDone h s
  | .tsysFaultPost h d => Sys2Proof.Machine.execTsysFaultPost h d s
  | .performLoad a => Sys2Proof.Machine.execPerformLoad a s
  | .renew a => Sys2Proof.Machine.execRenew a s
  | .streamLoad a => Sys2Proof.Machine.execStreamLoad a s
  | .prefetch a => Sys2Proof.Machine.execPrefetch a s
  | .baseDieAccess a => Sys2Proof.Machine.execBaseDieAccess a s
  | .performStore a => Sys2Proof.Machine.execPerformStore a s
  | .performAtomic a excl => Sys2Proof.Machine.execPerformAtomic a excl s
  | .recall k => Sys2Proof.Machine.execRecall k s
  | .land x => Sys2Proof.Machine.execLand x s
  | .spAccess a => Sys2Proof.Machine.execSpAccess a s
  | .enqueueHost a => Sys2Proof.Machine.execEnqueueHost a s
  | .enqueuePeer a => Sys2Proof.Machine.execEnqueuePeer a s
  | .drainHost grp => Sys2Proof.Machine.execDrainHost grp s
  | .drainPeer grp peer => Sys2Proof.Machine.execDrainPeer grp peer s
  | .readHost a => Sys2Proof.Machine.execReadHost a s
  | .readPeer a => Sys2Proof.Machine.execReadPeer a s
  | .wake m => Sys2Proof.Machine.execWake m s
  | .signal sg => Sys2Proof.Machine.execSignal sg s
  | .tick grp => Sys2Proof.Machine.execTick grp s
  | .recover k => Sys2Proof.Machine.execRecover k s
  | .loadWriteback wd => Sys2Proof.Machine.execLoadWriteback wd s
  | .flashData a => Sys2Proof.Machine.execFlashData a s
  | .remoteErrorCompletion a => Sys2Proof.Machine.execRemoteErrorCompletion a s
  | .pendingCauseDelivery core => Sys2Proof.Machine.execPendingCauseDelivery core s
  | .atsCompletion rq ans => Sys2Proof.Machine.execAtsCompletion rq ans s
  | .priResponse rq ok => Sys2Proof.Machine.execPriResponse rq ok s
  | .atsInvalidation vf page count => Sys2Proof.Machine.execAtsInvalidation vf page count s
  | .invalidationCompletion iv => Sys2Proof.Machine.execInvalidationCompletion iv s
  | .strokeStep x => Sys2Proof.Machine.execStrokeStep x s
  | .monitorPoll m => Sys2Proof.Machine.execMonitorPoll m s
  | .rotation grp => Sys2Proof.Machine.execRotation grp s
  | .binDraw crew bin => Sys2Proof.Machine.execBinDraw crew bin s
  | .placement tn die => Sys2Proof.Machine.execPlacement tn die s
  | .steal tn die => Sys2Proof.Machine.execSteal tn die s
  | .poolAgeLimit tn die => Sys2Proof.Machine.execPoolAgeLimit tn die s
  | .swapOut grp => Sys2Proof.Machine.execSwapOut grp s
  | .swapIn grp => Sys2Proof.Machine.execSwapIn grp s
  | .nodeRetire nd => Sys2Proof.Machine.execNodeRetire nd s
  | .arenaDeath tn slot => Sys2Proof.Machine.execArenaDeath tn slot s
  | .resizeLineMove k => Sys2Proof.Machine.execResizeLineMove k s
  | .bsnDropComplete x => Sys2Proof.Machine.execBsnDropComplete x s
  | .pgBsnComplete x => Sys2Proof.Machine.execPgBsnComplete x s
  | .frameWorkComplete x => Sys2Proof.Machine.execFrameWorkComplete x s
  | .bprefComplete x => Sys2Proof.Machine.execBprefComplete x s
  | .serviceRestart grp => Sys2Proof.Machine.execServiceRestart grp s
  | .saveHandlerEntry crew => Sys2Proof.Machine.execSaveHandlerEntry crew s
  | .saveDeadline crew => Sys2Proof.Machine.execSaveDeadline crew s
  | .timeQuantum tn crews => Sys2Proof.Machine.execTimeQuantum tn crews s
  | .create d => Sys2Proof.Machine.execCreate d s
  | .teardown tn => Sys2Proof.Machine.execTeardown tn s
  | .quadReturn tn quad => Sys2Proof.Machine.execQuadReturn tn quad s
  | .bankReturn tn bank => Sys2Proof.Machine.execBankReturn tn bank s
  | .frameReturn tn frame => Sys2Proof.Machine.execFrameReturn tn frame s
  | .preempt tn crews => Sys2Proof.Machine.execPreempt tn crews s
  | .halt tn code => Sys2Proof.Machine.execHalt tn code s
  | .inspect tn => Sys2Proof.Machine.execInspect tn s
  | .grant gr => Sys2Proof.Machine.execGrant gr s
  | .revoke gr => Sys2Proof.Machine.execRevoke gr s
  | .grantWithdrawn gr => Sys2Proof.Machine.execGrantWithdrawn gr s
  | .setcap watts => Sys2Proof.Machine.execSetcap watts s
  | .usageInterval tn => Sys2Proof.Machine.execUsageInterval tn s
  | .recordRelease tn => Sys2Proof.Machine.execRecordRelease tn s
  | .hostWindowRead vf off len => Sys2Proof.Machine.execHostWindowRead vf off len s
  | .hostWindowWrite vf off data => Sys2Proof.Machine.execHostWindowWrite vf off data s
  | .peerRequest rq => Sys2Proof.Machine.execPeerRequest rq s
  | .mplLinkFail port => Sys2Proof.Machine.execMplLinkFail port s
  | .peerRouteTimeout peer => Sys2Proof.Machine.execPeerRouteTimeout peer s
  | .ideIntegrityFail fn => Sys2Proof.Machine.execIdeIntegrityFail fn s
  | .attestation fn nonce => Sys2Proof.Machine.execAttestation fn nonce s
  | .powerOn boot => Sys2Proof.Machine.execPowerOn boot s
  | .emergencyHalt why => Sys2Proof.Machine.execEmergencyHalt why s
  | .thermalThrottle why => Sys2Proof.Machine.execThermalThrottle why s
  | .correctedError at_ => Sys2Proof.Machine.execCorrectedError at_ s
  | .uncorrectedError at_ => Sys2Proof.Machine.execUncorrectedError at_ s
  | .crewFailure crew => Sys2Proof.Machine.execCrewFailure crew s
  | .coreRetire core => Sys2Proof.Machine.execCoreRetire core s
  | .bankRetire bank => Sys2Proof.Machine.execBankRetire bank s
  | .fflagsWrite grp => Sys2Proof.Machine.execFflagsWrite grp s
  | .ptrootWrite grp => Sys2Proof.Machine.execPtrootWrite grp s
  | .awindowWrite grp => Sys2Proof.Machine.execAwindowWrite grp s
  | .thrashWrite grp => Sys2Proof.Machine.execThrashWrite grp s
  | .csrWrite grp => Sys2Proof.Machine.execCsrWrite grp s
  | .illegalEnc core => Sys2Proof.Machine.execIllegalEnc core s
  | .illegalPacket core => Sys2Proof.Machine.execIllegalPacket core s
  | .instructionFetch core => Sys2Proof.Machine.execInstructionFetch core s
  | .taccComplete x => Sys2Proof.Machine.execTaccComplete x s
  | .thrashThrottleEnd tn page => Sys2Proof.Machine.execThrashThrottleEnd tn page s
  | .lostFlitRetry port => Sys2Proof.Machine.execLostFlitRetry port s

end Sys2Proof.Machine
end

