-- ==== Sys2Proof/Machine/Auto.lean ====
section
/-!
DEFINITION. What the machine does around its steps: the bookkeeping after a step, the end of a CCLK cycle (R9, R247, R332),
the steps that the machine may take by itself, and the choice of the next one when the agenda is empty (R249: in any order).
-/

namespace Sys2Proof.Machine

/-! ## After a step -/

/-- A group after a step: with no lane on its current path it takes its next one (R38, R47); a service group whose lanes have
all ended starts again 1,024 cycles later (R269). -/
def Group.tidy (g : Group) (now : Nat) : Group :=
  let g1 := if g.stopped then g else g.next
  let g2 := if g1.unblocked then { g1 with since := now } else g1
  if g2.role = .service ∧ g2.live = 0 ∧ g2.restart.isNone then { g2 with restart := some (now + 1024) } else g2

/-- The groups of running partitions after a step. -/
def State.tidyGroups (s : State) : State :=
  s.mapGrps fun g => if g.id != 0 && (s.tenant g.tn).life == .live then g.tidy s.dev.cycle else g

/-- A pending write to a control register of a group that issues no further chain takes effect (R148). -/
def State.lateWrites (s : State) : State :=
  ((s.allGroups.filter fun g => g.live == 0 && g.csrw.isSome).map (·.id)).foldl State.csrCommit s

/-- The bookkeeping after every step; usage records go to the host's buffer as long as it has room (R312). -/
def State.tidy (s : State) : State := s.lateWrites.settle.tidyGroups.reap.writeAll

/-! ## The end of a cycle -/

/-- A group that holds a slot and is not blocked owes a TICK for each 64 cycles of its core (R247). -/
def State.owe (s : State) (g : Group) : Group :=
  if g.id != 0 && g.slot && g.unblocked && (s.tenant g.tn).life == .live && (s.dev.cycle - (s.core g.core).resetAt) % 64 == 0 then
    { g with due := g.due + 1 }
  else g

/-- The frames that a partition is metered for: those of its allotment that it holds, and the memory of each group that has been
swapped out (R223, R334). -/
def State.frameLoad (s : State) (t : Tenant) : Nat :=
  t.used.length + t.free.length + 2 * s.allGroups.countP fun g => g.tn == t.id && !g.slot && g.live != 0

/-- The time meters of a partition take a cycle: bank-share microseconds and frame-seconds, counted in cycles (R223). -/
def State.meterCycle (s : State) (t : Tenant) : State :=
  (s.meter t.id 9 (t.banks.foldl (fun n b => n + (banksOf b.2).length) 0)).meter t.id 10 (s.frameLoad t)

/-- A core at the start of a cycle: pipes and ports are free but for those held into it (R78, R332). -/
def Core.freshCycle (k : Core) : Core :=
  { k with picks := 0, pipes := k.heldPipes, reads := k.heldReads, heldPipes := [], heldReads := [] }

/-- The end of a CCLK cycle. -/
def State.endCycle (s : State) : State :=
  let s1 := s.onDev fun d => { d with cycle := d.cycle + 1 }
  let s2 := { s1 with cores := s1.cores.map Core.freshCycle }
  ((s2.tenants.foldl State.meterCycle s2).mapGrps s2.owe).limitCycle

/-! ## Steps the machine may take -/

/-- The steps of one access. -/
noncomputable def State.accSteps (s : State) (a : Access) : List Instr :=
  [.performLoad a.id, .renew a.id, .streamLoad a.id, .prefetch a.id, .baseDieAccess a.id, .performStore a.id,
   .performAtomic a.id false, .spAccess a.id, .enqueueHost a.id, .enqueuePeer a.id, .readHost a.id, .readPeer a.id,
   .flashData a.id] ++ (match a.cls with | .peer d => if s.peerGone d then [Instr.remoteErrorCompletion a.id] else [] | _ => [])

/-- The steps of one group: its queues, its ticks, its restart, its slot. -/
noncomputable def State.groupSteps (s : State) (g : Group) : List Instr :=
  [.drainHost g.id] ++ (g.peerQ.map fun q => if s.peerGone q.1 then .remoteErrorCompletion q.2.id else .drainPeer g.id q.1) ++
    [.tick g.id, .serviceRestart g.id, .swapIn g.id, .swapOut g.id]

/-- The steps of one engine word in flight. -/
noncomputable def Xfer.steps (x : Xfer) : List Instr :=
  match x.kind with
  | .stroke _ => [.strokeStep x.id]
  | .cpy .. => [.flashData x.id, .land x.id]
  | .tileIn .. | .tileOut .. | .tileZero _ | .taccSp .. | .taccMem .. => [.land x.id]
  | .taccZero _ | .taccLd .. | .taccScale .. | .taccBias .. => [.taccComplete x.id]
  | .frames .. => [.frameWorkComplete x.id]
  | .bpref _ => [.bprefComplete x.id]
  | .bsnResize id => [.resizeLineMove ⟨x.tn, id, 0⟩]
  | .bsnDrop _ => [.bsnDropComplete x.id]
  | .pgBsn .. => [.pgBsnComplete x.id]

/-- The moves of the lines of a partition's basins in resize (R211). -/
noncomputable def State.moveSteps (s : State) (t : Tenant) : List Instr :=
  ((s.flow.homes.filter fun h => h.key.tn == t.id && h.old).map fun h => .resizeLineMove h.key) ++
    (t.basins.filter (·.old.isSome)).map fun b => .resizeLineMove ⟨t.id, b.defn.id, 0⟩

/-- The steps of pools, arenas, records and storage of one partition. -/
noncomputable def State.tenantSteps (s : State) (t : Tenant) : List Instr :=
  match t.life with
  | .ending => (t.quads.map fun q => .quadReturn t.id q) ++
      (t.banks.flatMap fun b => (banksOf b.2).map fun i => .bankReturn t.id (b.1 * 64 + i)) ++
      ((t.used ++ t.free).map fun f => .frameReturn t.id f)
  | .stopping => .teardown t.id :: s.moveSteps t
  | _ =>
    (t.arenas.map fun a => .arenaDeath t.id a.slot) ++ [.usageInterval t.id] ++
      ((diesOf t.quads).flatMap fun d => [.placement t.id d, .poolAgeLimit t.id d, .steal t.id d]) ++
      (t.pages.map fun p => .thrashThrottleEnd t.id p.vpn) ++ s.moveSteps t

/-- The steps of one crew: bins drawn into groups, its save. -/
noncomputable def Crew.steps (c : Crew) : List Instr :=
  ((List.range c.bins.length).map fun i => .binDraw c.id i) ++
    (match c.life with | .stopping => [.saveHandlerEntry c.id] | .saving => [.saveDeadline c.id] | .running | .exited => [])

/-- The lines whose owner an access in flight, or a write-back on its way, may have to give back (R254, R255). -/
def State.recallable (s : State) : List HomeKey :=
  ((s.flow.accs.map (·.key)) ++ s.flow.wbs.map (·.key)).filter fun k => (s.ownerOf k).isSome

/-- The entries that RECOVER rebuilds (R259). -/
def State.lostHomes (s : State) : List HomeKey :=
  s.dev.poison.filterMap fun p => match p with | .homeEntry k => some k | _ => none

/-- The members of the domain to which no route leads any more, whatever waits for them (R306). -/
def State.lostPeers (s : State) : List Nat :=
  s.dev.domain.filter fun d => d != s.dev.self && !s.linked d && !s.peerGone d

/-- What firmware does at the limits of R315. -/
noncomputable def State.limitSteps (s : State) : List Instr :=
  s.dev.passed.2.map Instr.emergencyHalt ++ s.dev.passed.1.map Instr.thermalThrottle

/-- Every step that the machine may take by itself: none of the host's, of firmware's commands, or of an error. -/
noncomputable def State.mySteps (s : State) : List Instr :=
  s.lostHomes.map .recover ++ s.flow.accs.flatMap s.accSteps ++ s.flow.words.map (fun w => .loadWriteback w.id) ++
    s.flow.sigs.map (fun x => .signal x.id) ++ s.flow.xfers.flatMap Xfer.steps ++ s.flow.mons.map (fun m => .wake m.id) ++
    s.flow.mons.map (fun m => .monitorPoll m.id) ++ (s.allGroups.filter (·.id != 0)).flatMap s.groupSteps ++
    s.crews.flatMap Crew.steps ++ s.nodes.map (fun n => .nodeRetire n.id) ++ s.tenants.flatMap s.tenantSteps ++
    s.flow.invs.map (fun v => .invalidationCompletion v.id) ++ s.dev.leaving.map .grantWithdrawn ++ s.recallable.map .recall ++
    s.lostPeers.map .peerRouteTimeout ++ s.limitSteps

/-! ## Turns -/

/-- An outcome with the bookkeeping done. -/
def tidied : Host.Outcome State Fault Refusal → Host.Outcome State Fault Refusal
  | .next s => .next s.tidy
  | r => r

/-- Whether an instruction is a word of a program, and no step of the table by itself. -/
def isWord (i : Instr) : Bool := (info i).isSome

/-- What a turn does. A word takes effect only in a chain that a core issues, never by itself. -/
noncomputable def turn (t : Turn) (s : State) : Host.Outcome State Fault Refusal :=
  match t with
  | .event i => if isWord i then .next s else exec i s
  | .issue core => s.issue exec core
  | .cycle => .next s.endCycle

/-- Whether a turn changes the state. -/
noncomputable def State.moves (s : State) (t : Turn) : Bool :=
  match tidied (turn t s) with
  | .next u => u != s
  | _ => true

/-- The turn that the machine takes with an empty agenda: a step that it may take, then the issue of a chain, then the end of
the cycle. -/
noncomputable def State.autoTurn (s : State) : Turn :=
  let ts := s.mySteps.map Turn.event ++ s.cores.map fun c => Turn.issue c.num
  (ts.find? s.moves).getD .cycle

/-- Whether a turn is POWER_ON, the one that a module without power takes (R317). -/
def Turn.powersOn : Turn → Bool
  | .event (.powerOn ..) => true
  | _ => false

end Sys2Proof.Machine
end

