-- ==== Sys2Proof/Machine/Fetchword.lean ====
section
/-!
DEFINITION. A program placed from outside: a partition whose only group is about to issue a given instruction. It stands for
CREATE, placement and the walks that would have led there.
-/

namespace Sys2Proof.Machine

/-- The address of the placed packet, its page and its frame. -/
def placedVa : Nat := 0x10000
def placedFrame : Nat := 1

/-- The role and the mode in which a word may issue (R32). -/
def roleFor (i : Option Info) : Role × Mode :=
  match i with
  | none => (.vector, .u)
  | some i =>
    match i.who with
    | .copy => (.copy, .u)
    | .matrix => (.matrix, .u)
    | .tmode | .service => (.service, .t1)
    | .tret => (.vector, .t1)
    | _ => (.vector, if i.csr.all csrUser then .u else .t1)

/-- The leaf of the placed page: valid, writable, executable, user, dirty, pinned, HBM, no basin. -/
def placedLeaf : DWord := BitVec.ofNat 64 (placedFrame * 4096) ||| 0x03C000000000015F#64

/-- The placed partition. -/
def placedTenant (id : Nat) : Tenant :=
  { Tenant.blank with
    id := id, tid := 1, vf := 1, life := .live, quads := [0], banks := [(0, 1)], cistern := BitVec.ofNat 64 placedVa,
    cisterns := 0x10000, allot := 1, used := [placedFrame], tvec := BitVec.ofNat 64 (placedVa + 0x800), interval := 60000,
    nextRec := 75000000000 }

/-- A state with a partition whose group issues the instruction of the table word `w` next (R72): the packet's words are those of
`w` and zeros. -/
noncomputable def State.place (s : State) (_nbits w : Nat) : State :=
  let n := s.fresh
  let w0 := BitVec.ofNat 32 w
  let w1 := BitVec.ofNat 32 (w >>> 32)
  let w2 := BitVec.ofNat 32 (w >>> 64)
  let as := roleFor ((decodeWord w0 w1).bind info)
  let t := placedTenant n
  let lr := { LaunchRec.zero with entry := BitVec.ofNat 64 placedVa, gx := 1, gy := 1, gz := 1, width := 1, nVec := 1, bVec := 64 }
  let nd : Node := { Node.blank with id := n + 1, tn := n, lr := lr, total := 1, visible := true }
  let svc := as.1 == .service
  let c : Crew := { Crew.blank with id := n + 2, tn := n, node := if svc then 0 else n + 1, service := svc }
  let g : Group :=
    { Group.blank with
      id := n + 3, tn := n, crew := n + 2, slot := true, role := as.1, mode := as.2, lanes := BitVec.allOnes 32,
      path := { Path.blank with mask := BitVec.allOnes 32, pc := BitVec.ofNat 64 placedVa, tag := ⟨as.2, 0⟩ }, ages := 1 }
  let x : Xent := { tn := n, va := placedVa, level := 0, leaf := placedLeaf, user := as.2 == .u, pin := true, die := 0,
                    host := none, stamp := 0 }
  let hbm := s.hbm.setList (placedFrame * 4096) (wordBytes w0 ++ wordBytes w1 ++ wordBytes w2)
  let s1 := { s with hbm := hbm, tenants := t :: s.tenants, nodes := nd :: s.nodes, crews := c :: s.crews, cur := g,
                     groups := (if s.cur.id = 0 then [] else [s.cur]) ++ s.groups, agenda := [.issue 0], fresh := n + 4 }
  (s1.onDev fun d => { d with power := true, stall := false }).mapCore 0 fun k =>
    { k with tc := x :: k.tc, picks := 0, pipes := [], reads := [] }

end Sys2Proof.Machine
end

