-- ==== Sys2Proof/Machine/Step.lean ====
section
/-!
DEFINITION. One step of the machine: the first turn of the agenda, or with none the machine's own.
-/

namespace Sys2Proof.Machine

/-- One step. Without power only POWER_ON has an effect; a module without power and with nothing to come stops. -/
noncomputable def step (s : State) : Host.Outcome State Fault Refusal :=
  match s.agenda with
  | t :: rest =>
    if s.dev.power || t.powersOn then tidied (turn t { s with agenda := rest }) else .next { s with agenda := rest }
  | [] => if s.dev.power then tidied (turn s.autoTurn s) else .fault .moduleOff

/-- The state in which the next step issues the instruction whose bits are `w` as the first chain of a new partition. -/
noncomputable def State.withFetchWord (s : State) (nbits w : Nat) : State := s.place nbits w

end Sys2Proof.Machine
end

