-- ==== Sys2Proof/Safety.lean ====
section
/-!
DEFINITION. The vocabulary of the claims: what it is for a word to have passed its issue checks, for an instruction to
run, for a step to change one kind of register and nothing else, and the memory form that every step keeps. The
reference functions (`Ref`) say results with exact integers, apart from the definitions the machine runs on.
-/

namespace Sys2Proof.Machine

/-! ## Running -/

/-- The word has passed its issue checks (R33). -/
def Passes (i : Instr) (s : State) : Prop := ∃ f, info i = some f ∧ issueFault f s = none

/-- `exec` answers a next state, of which `Q` holds. -/
def Runs (i : Instr) (s : State) (Q : State → Prop) : Prop := ∃ t, exec i s = .next t ∧ Q t

/-- Two states that differ at most in the group in issue. -/
def SameBut (s t : State) : Prop := { t with cur := s.cur } = s

/-- A cached translation apart from its recency. -/
def Xent.aged (x : Xent) : Xent := { x with stamp := 0 }

/-- `u` is `s` but for what hits change in the translation caches: the entries of the TCs, the recency of the entries of the STCs,
and the counter that recency is told by (R231, R270). -/
def Cached (s u : State) : Prop :=
  { u with cores := s.cores, tenants := s.tenants, fresh := s.fresh } = s ∧
    (∀ n, { u.core n with tc := [] } = { s.core n with tc := [] }) ∧
    (∀ n, { u.tenant n with stc := [] } = { s.tenant n with stc := [] }) ∧
    ∀ n, (u.tenant n).stc.map Xent.aged = (s.tenant n).stc.map Xent.aged

/-- The word's counter stands at 63: it holds back its chain, which issues again, and changes nothing else (R156). -/
def HoldsChain (i : Instr) (s : State) : Prop :=
  exec i s = .next { s with ctx := { s.ctx with stop := true, moved := true, stalled := true, whole := true } }

/-- A failed check of the word `i` faults; the translations that its checks hit have been installed (R152, R270). -/
def FailsCheck (i : Instr) (s : State) (c : Cause) (v : DWord) : Prop := Runs i s fun t => ∃ u, Cached s u ∧ t = u.fault c v

/-! ## Registers -/

/-- v(n) takes `f l` in the lanes of `m`; every other vector register and lane and everything else is as before. -/
def WritesV (s t : State) (n : Nat) (m : Mask) (f : Nat → Word) : Prop :=
  (∀ k l, l < 32 → t.cur.getV k l = if k = n ∧ inMask m l = true then f l else s.cur.getV k l) ∧
    { t with cur := { t.cur with v := s.cur.v } } = s

/-- The pair v(n), v(n+1) takes `f l` in the lanes of `m`, low word first (R49); everything else is as before. -/
def WritesV2 (s t : State) (n : Nat) (m : Mask) (f : Nat → DWord) : Prop :=
  (∀ k l, l < 32 → t.cur.getV k l =
      if k = n ∧ inMask m l = true then BitVec.ofNat 32 (f l).toNat
      else if k = n + 1 ∧ inMask m l = true then BitVec.ofNat 32 ((f l).toNat / 2 ^ 32) else s.cur.getV k l) ∧
    { t with cur := { t.cur with v := s.cur.v } } = s

/-- g(n) takes `c l` in the lanes of `m`, g0 ignoring the write; everything else is as before. -/
def WritesG (s t : State) (n : Nat) (m : Mask) (c : Nat → Bool) : Prop :=
  (∀ k l, l < 32 → inMask (t.cur.getG k) l =
      if k = n ∧ n ≠ 0 ∧ inMask m l = true then c l else inMask (s.cur.getG k) l) ∧
    { t with cur := { t.cur with g := s.cur.g } } = s

/-- s(n) takes `x` when `b` holds, s0 ignoring the write; everything else is as before. -/
def WritesS (s t : State) (n : Nat) (b : Bool) (x : Word) : Prop :=
  (∀ k, t.cur.getS k = if k = n ∧ n ≠ 0 ∧ b = true then x else s.cur.getS k) ∧
    { t with cur := { t.cur with s := s.cur.s } } = s

/-- A compare's result in a guard: set, and, or, by the combine code (R130). -/
def Combined (k : Nat) (old new : Bool) : Bool :=
  match k with
  | 0 => new
  | 1 => old && new
  | _ => old || new

/-- The word writes v(d) in the lanes of P, lane `l` receiving `f s.cur l`, in every state in which it is ready. -/
def VecResult (i : Instr) (h : Hdr) (d : BitVec 6) (f : Group → Nat → Word) : Prop :=
  ∀ s, Passes i s → Runs i s fun t => WritesV s t d.toNat (s.cur.lanesP h) (f s.cur)

/-- The word writes the pair at v(d) in the lanes of P. -/
def PairResult (i : Instr) (h : Hdr) (d : BitVec 6) (f : Group → Nat → DWord) : Prop :=
  ∀ s, Passes i s → Runs i s fun t => WritesV2 s t d.toNat (s.cur.lanesP h) (f s.cur)

/-- The compare combines its condition into g(n) in the lanes of P. -/
def CmpResult (i : Instr) (h : Hdr) (k n : BitVec 3) (c : Group → Nat → Bool) : Prop :=
  ∀ s, Passes i s → Runs i s fun t =>
    WritesG s t n.toNat (s.cur.lanesP h) fun l => Combined k.toNat (inMask (s.cur.getG n.toNat) l) (c s.cur l)

/-- The word writes g(d) in the lanes of P. -/
def GuardResult (i : Instr) (h : Hdr) (d : BitVec 3) (c : Group → Nat → Bool) : Prop :=
  ∀ s, Passes i s → Runs i s fun t => WritesG s t d.toNat (s.cur.lanesP h) (c s.cur)

/-- The word writes s(d) if some lane is in P. -/
def ScalarResult (i : Instr) (h : Hdr) (d : Nat) (f : State → Mask → Word) : Prop :=
  ∀ s, Passes i s → Runs i s fun t => WritesS s t d (s.cur.lanesP h != 0) (f s (s.cur.lanesP h))

/-! ## Floating words (R54 to R56) -/

/-- Exception `e` is raised by some lane of `m`. -/
def Raises (m : Mask) (x : Nat → Flags) (e : Nat) : Prop := ∃ l, l < 32 ∧ inMask m l = true ∧ (x l).getLsbD e = true

/-- The trap bit of exception `e` in sr.fmode: bits [7:3] for NV, DZ, OF, UF, NX; an invalid scale uses that of NV (R54). -/
def TrapOn (mode : BitVec 8) (e : Nat) : Bool := if e = 5 then mode.getLsbD 3 else mode.getLsbD (3 + e)

/-- The flag of sr.fflags that exception `e` sets: its own, an invalid scale that of NV (R55, R62). -/
def flagBit (e : Nat) : Nat := if e = 5 then 0 else e

/-- sr.fflags after the exceptions of the lanes of `m`: each raised one sets its flag, and a set flag stays set (R55). -/
def FlagsAfter (s t : State) (m : Mask) (x : Nat → Flags) : Prop :=
  ∀ b, b < 5 → (t.cur.fflags.getLsbD b = true ↔ s.cur.fflags.getLsbD b = true ∨ ∃ e, e < 6 ∧ flagBit e = b ∧ Raises m x e)

/-- A floating word whose lanes raise `x`. With no enabled exception it sets the flags and writes as `W` says; with one it
sets the flags, writes nothing, and faults with the lowest-numbered enabled exception raised and the mask of the lanes that
raised it, or all of P for a word across lanes (R56). -/
def FloatRun (i : Instr) (h : Hdr) (whole : Bool) (x : State → Nat → Flags) (W : State → State → Prop) : Prop :=
  ∀ s, Passes i s →
    let P := s.cur.lanesP h
    ((∀ e, e < 6 → TrapOn s.cur.fmode e = true → ¬Raises P (x s) e) →
      Runs i s fun t => FlagsAfter s t P (x s) ∧ W s t) ∧
    (∀ e, e < 6 → TrapOn s.cur.fmode e = true → Raises P (x s) e →
      (∀ j, j < e → TrapOn s.cur.fmode j = true → ¬Raises P (x s) j) →
      Runs i s fun t => ∃ u : State, FlagsAfter s u P (x s) ∧
        { u with cur := { u.cur with fflags := s.cur.fflags } } = s ∧
        t = u.fault (fpCause e) (if whole then P.setWidth 64 else (maskOf fun l => inMask P l && (x s l).getLsbD e).setWidth 64))

/-- v(n) takes the low 32 bits of `f l` in the lanes of `m`; the floating flags apart, everything else is as before. -/
def WritesVF (n : Nat) (m : State → Mask) (f : State → Nat → Nat) (s t : State) : Prop :=
  (∀ k l, l < 32 → t.cur.getV k l = if k = n ∧ inMask (m s) l = true then BitVec.ofNat 32 (f s l) else s.cur.getV k l) ∧
    { t with cur := { t.cur with v := s.cur.v, fflags := s.cur.fflags } } = s

/-- g(n) takes `c l` in the lanes of `m`; the floating flags apart, everything else is as before. -/
def WritesGF (n : Nat) (m : State → Mask) (c : State → Nat → Bool) (s t : State) : Prop :=
  (∀ k l, l < 32 → inMask (t.cur.getG k) l =
      if k = n ∧ n ≠ 0 ∧ inMask (m s) l = true then c s l else inMask (s.cur.getG k) l) ∧
    { t with cur := { t.cur with g := s.cur.g, fflags := s.cur.fflags } } = s

/-- The floating word writes v(d) with the lane results of `f` and raises their exceptions. -/
def FloatResult (i : Instr) (h : Hdr) (d : BitVec 6) (f : State → Nat → Nat × Flags) : Prop :=
  FloatRun i h false (fun s l => (f s l).2) (WritesVF d.toNat (·.cur.lanesP h) fun s l => (f s l).1)

/-- The operand v(n) of a lane as an f32, FZ applied (R54). -/
def opF (s : State) (n : BitVec 6) (l : Nat) : FVal := f32.read (fzOf s.cur.fmode) (s.cur.getV n.toNat l).toNat

/-- The B operand of a lane as an f32, FZ applied. -/
def opB (s : State) (b : VSrc) (l : Nat) : FVal := f32.read (fzOf s.cur.fmode) (vval s.cur b l).toNat

/-- Half `k` of v(n) of a lane in a 16-bit format, FZ applied (R137). -/
def opH (s : State) (t : Bool) (n : BitVec 6) (k l : Nat) : FVal :=
  (vhFmt t).read (fzOf s.cur.fmode) ((s.cur.getV n.toNat l).toNat / 65536 ^ k % 65536)

/-- Half `k` of the B operand of a lane. -/
def opHB (s : State) (t : Bool) (b : VSrc) (k l : Nat) : FVal :=
  (vhFmt t).read (fzOf s.cur.fmode) ((vval s.cur b l).toNat / 65536 ^ k % 65536)

/-- Both halves of a result, the exceptions of both raised (R52). -/
def halves (f : Nat → Nat × Flags) : Nat × Flags := ((f 0).1 + 65536 * (f 1).1, (f 0).2 ||| (f 1).2)

/-! ## Lanes and paths (R34 to R38) -/

/-- Lane `l` stands at `pc`: on the current path, or in a set that is not blocked. -/
def StandsAt (g : Group) (l : Nat) (pc : DWord) : Prop :=
  (inMask g.path.mask l = true ∧ g.path.pc = pc) ∨
    ∃ p ∈ g.sets, inMask p.path.mask l = true ∧ p.path.pc = pc ∧ p.cond = .deferred

/-- The group's registers, counters, clock, mode and trap registers, apart from the places of its lanes. -/
def SameRegisters (g k : Group) : Prop :=
  { k with path := g.path, sets := g.sets, ages := g.ages, ended := g.ended } = g

/-- The redirecting word `i` whose guard-true lanes go to `t s l` and the others to the next packet (R119). `keep` says
where the path that stays current stands. -/
def Branches (i : Instr) (h : Hdr) (hint : Nat) (t : State → Nat → DWord) (link : State → Mask → Group → Group) : Prop :=
  ∀ s, Passes i s →
    let P := s.cur.lanesP h
    let act := s.cur.active
    let goto := fun l => if inMask P l then t s l else nextPkt s.ctx.pc
    (∀ l, l < 32 → inMask P l = true → pcOk (t s l) = true) →
    (hint = 3 → ∀ l m, l < 32 → m < 32 → inMask act l = true → inMask act m = true → goto l = goto m) →
    Runs i s fun u =>
      (∀ l, l < 32 → inMask act l = true → StandsAt u.cur l (goto l)) ∧
      (act ≠ 0 → ∃ l, l < 32 ∧ inMask u.cur.path.mask l = true) ∧
      (hint ≠ 1 → hint ≠ 2 → ∀ l, l < 32 → inMask act l = true → u.cur.path.pc.toNat ≤ (goto l).toNat) ∧
      (hint = 1 ∨ (hint = 2 ∧ act &&& ~~~P = 0) → P ≠ 0 → (∃ l, l < 32 ∧ inMask P l = true ∧ u.cur.path.pc = t s l) ∧
        ∀ l, l < 32 → inMask P l = true → u.cur.path.pc.toNat ≤ (t s l).toNat) ∧
      (hint = 1 → P = 0 → u.cur.path.pc = nextPkt s.ctx.pc) ∧
      (hint = 2 → act &&& ~~~P ≠ 0 → u.cur.path.pc = nextPkt s.ctx.pc) ∧
      SameRegisters (link s P s.cur) u.cur ∧ u.cur.ended = s.cur.ended ∧
      { u with cur := s.cur, ctx := s.ctx } = s

/-- A split under hint unf: with every target sound and lanes that would reach two PCs, the word faults with 0x05 and moves none
(R36). -/
def UnfSplit (i : Instr) (h : Hdr) (t : State → Nat → DWord) : Prop :=
  ∀ s l m, Passes i s → (∀ k, k < 32 → inMask (s.cur.lanesP h) k = true → pcOk (t s k) = true) → l < 32 → m < 32 →
    inMask s.cur.active l = true → inMask s.cur.active m = true →
    let goto := fun l => if inMask (s.cur.lanesP h) l then t s l else nextPkt s.ctx.pc
    goto l ≠ goto m → exec i s = .next (s.fault .uniformViolation (s.ctx.word.setWidth 64))

/-- A bad target of a guard-true lane: the word faults with 0x42 ALIGN, the lowest such lane's target as its value, and no
lane has moved (R70). -/
def BadTarget (i : Instr) (h : Hdr) (t : State → Nat → DWord) : Prop :=
  ∀ s l, Passes i s → l < 32 → inMask (s.cur.lanesP h) l = true → pcOk (t s l) = false →
    (∀ m, m < l → inMask (s.cur.lanesP h) m = true → pcOk (t s m) = true) → exec i s = .next (s.fault .align (t s l))

/-! ## Memory words (R150 to R165) -/

/-- A memory word: its instruction, the bytes of an element, whether the value is sign-extended, its atomic function. -/
structure MemForm where
  i      : Instr
  size   : Nat
  signed : Bool
  fn     : BitVec 4

/-- The loads of a hint bit (R159). -/
def loadForms (h : Hdr) (st : Bool) (d a o : BitVec 6) : List MemForm :=
  [⟨.ldB8 h st d a o, 1, false, 0⟩, ⟨.ldB8s h st d a o, 1, true, 0⟩, ⟨.ldB16 h st d a o, 2, false, 0⟩,
   ⟨.ldB16s h st d a o, 2, true, 0⟩, ⟨.ldB32 h st d a o, 4, false, 0⟩, ⟨.ldB64 h st d a o, 8, false, 0⟩,
   ⟨.ldB128 h st d a o, 16, false, 0⟩]

/-- The stores (R159). -/
def storeForms (h : Hdr) (d a o : BitVec 6) : List MemForm :=
  [⟨.stB8 h d a o, 1, false, 0⟩, ⟨.stB16 h d a o, 2, false, 0⟩, ⟨.stB32 h d a o, 4, false, 0⟩,
   ⟨.stB64 h d a o, 8, false, 0⟩, ⟨.stB128 h d a o, 16, false, 0⟩]

/-- The scratchpad loads (R160). -/
def spLoadForms (h : Hdr) (d a o : BitVec 6) : List MemForm :=
  [⟨.ldsB8 h d a o, 1, false, 0⟩, ⟨.ldsB8s h d a o, 1, true, 0⟩, ⟨.ldsB16 h d a o, 2, false, 0⟩,
   ⟨.ldsB16s h d a o, 2, true, 0⟩, ⟨.ldsB32 h d a o, 4, false, 0⟩, ⟨.ldsB64 h d a o, 8, false, 0⟩,
   ⟨.ldsB128 h d a o, 16, false, 0⟩]

/-- The scratchpad stores (R160). -/
def spStoreForms (h : Hdr) (d a o : BitVec 6) : List MemForm :=
  [⟨.stsB8 h d a o, 1, false, 0⟩, ⟨.stsB16 h d a o, 2, false, 0⟩, ⟨.stsB32 h d a o, 4, false, 0⟩,
   ⟨.stsB64 h d a o, 8, false, 0⟩, ⟨.stsB128 h d a o, 16, false, 0⟩]

/-- The device-scope atomics that return old values (R162). -/
def updForms (h : Hdr) (d a o : BitVec 6) : List MemForm :=
  [⟨.updAdd h d a o, 4, false, 0⟩, ⟨.updFadd h d a o, 4, false, 1⟩, ⟨.updMin h d a o, 4, false, 2⟩,
   ⟨.updMax h d a o, 4, false, 3⟩, ⟨.updMinn h d a o, 4, false, 4⟩, ⟨.updMaxn h d a o, 4, false, 5⟩,
   ⟨.updAnd h d a o, 4, false, 6⟩, ⟨.updOr h d a o, 4, false, 7⟩, ⟨.updXor h d a o, 4, false, 8⟩,
   ⟨.updSwap h d a o, 4, false, 9⟩, ⟨.updCas h d a o, 4, false, 10⟩, ⟨.updAdd64 h d a o, 8, false, 11⟩,
   ⟨.updSwap64 h d a o, 8, false, 12⟩, ⟨.updCas64 h d a o, 8, false, 13⟩]

/-- The crew-scope atomics (R163). -/
def updcForms (h : Hdr) (d a o : BitVec 6) : List MemForm :=
  [⟨.updcAdd h d a o, 4, false, 0⟩, ⟨.updcFadd h d a o, 4, false, 1⟩, ⟨.updcMin h d a o, 4, false, 2⟩,
   ⟨.updcMax h d a o, 4, false, 3⟩, ⟨.updcMinn h d a o, 4, false, 4⟩, ⟨.updcMaxn h d a o, 4, false, 5⟩,
   ⟨.updcAnd h d a o, 4, false, 6⟩, ⟨.updcOr h d a o, 4, false, 7⟩, ⟨.updcXor h d a o, 4, false, 8⟩,
   ⟨.updcSwap h d a o, 4, false, 9⟩, ⟨.updcCas h d a o, 4, false, 10⟩, ⟨.updcAdd64 h d a o, 8, false, 11⟩,
   ⟨.updcSwap64 h d a o, 8, false, 12⟩, ⟨.updcCas64 h d a o, 8, false, 13⟩]

/-- The atomics that return nothing (R162). -/
def updnForms (h : Hdr) (d a o : BitVec 6) : List MemForm :=
  [⟨.updnAdd h d a o, 4, false, 0⟩, ⟨.updnFadd h d a o, 4, false, 1⟩, ⟨.updnMin h d a o, 4, false, 2⟩,
   ⟨.updnMax h d a o, 4, false, 3⟩, ⟨.updnMinn h d a o, 4, false, 4⟩, ⟨.updnMaxn h d a o, 4, false, 5⟩,
   ⟨.updnAnd h d a o, 4, false, 6⟩, ⟨.updnOr h d a o, 4, false, 7⟩, ⟨.updnXor h d a o, 4, false, 8⟩]

/-- ISSUE (R249): the word raises its counter by one, changes no register, no memory and no other group, and its accesses
enter the streams: lane `l` of P has the elements `els l`, each in an access of the class and home line of its place, and
nothing else is accessed. -/
def Issues (s t : State) (ctr : Counter) (kind : WKind) (ak : Access → AKind) (P : Mask) (els : Nat → List (El × Loc)) : Prop :=
  t.cur = { s.cur.raise ctr with seq := s.cur.seq + 1 } ∧ t.hbm = s.hbm ∧ t.dev = s.dev ∧ t.groups = s.groups ∧
    t.crews = s.crews ∧ t.nodes = s.nodes ∧ t.flow.homes = s.flow.homes ∧ t.ctx.stop = s.ctx.stop ∧
    ∃ (as : List Access) (w : PendWord), t.flow.accs = s.flow.accs ++ as ∧ t.flow.words = s.flow.words ++ [w] ∧
      w.kind = kind ∧ w.ctr = ctr ∧ w.mask = P ∧ w.grp = s.cur.id ∧ w.fails = 0 ∧
      (∀ a ∈ as, a.word = w.id ∧ a.grp = s.cur.id ∧ a.core = s.cur.core ∧ a.tn = s.cur.tn ∧ a.seq = s.cur.seq + 1 ∧
        a.kind = ak a ∧ ∀ e ∈ a.els, ∃ l x, l < 32 ∧ inMask P l = true ∧ (e, x) ∈ els l ∧ a.cls = x.cls) ∧
      ∀ l, l < 32 → inMask P l = true → ∀ e x, (e, x) ∈ els l → ∃ a ∈ as, e ∈ a.els ∧ a.cls = x.cls ∧
        (x.cls ≠ .scratch → a.key = x.key)

/-- The word `i` with checks `chk` in each lane: when every lane of P has its places, `loc l`, it issues. -/
def IssuesWhen (i : Instr) (h : Hdr) (ctr : Counter) (kind : WKind) (ak : Access → AKind)
    (chk : State → Nat → List XRes) (els : State → Nat → List Loc → List (El × Loc)) : Prop :=
  ∀ (s : State) (loc : Nat → List Loc), Passes i s → s.cur.lanesP h ≠ 0 → s.cur.ctr ctr < 63 →
    (∀ l, l < 32 → inMask (s.cur.lanesP h) l = true → chk s l = (loc l).map .ok ∧ loc l ≠ []) →
    Runs i s fun t => Issues s t ctr kind ak (s.cur.lanesP h) fun l => els s l (loc l)

/-- The same word when it does not issue: its counter stands at 63 (R156), or a translation is outstanding (R152); it then
changes no register and no memory and its path issues it again. When no translation is outstanding and some lane fails a
check, it faults with the cause and address of the lowest such lane (R152). No set owes a word not yet numbered, an
invariant of the machine's own numbering. -/
def HeldBack (i : Instr) (h : Hdr) (ctr : Counter) (chk : State → Nat → XRes) : Prop :=
  ∀ s, Passes i s → s.cur.lanesP h ≠ 0 → (∀ q ∈ s.cur.sets, q.path.owed ≠ [s.fresh]) →
    (63 ≤ s.cur.ctr ctr → HoldsChain i s) ∧
    (s.cur.ctr ctr < 63 → (∃ l, l < 32 ∧ inMask (s.cur.lanesP h) l = true ∧ (chk s l).open = true) → Runs i s fun t =>
      t.cur = s.cur ∧ t.hbm = s.hbm ∧ t.groups = s.groups ∧ t.flow.accs = s.flow.accs ∧ t.flow.homes = s.flow.homes ∧
        t.ctx = { s.ctx with stop := true, moved := true, stalled := true }) ∧
    (s.cur.ctr ctr < 63 → (∀ l, l < 32 → inMask (s.cur.lanesP h) l = true → (chk s l).open = false) →
      ∀ l c ea, l < 32 → inMask (s.cur.lanesP h) l = true → chk s l = .fail c ea →
        (∀ m, m < l → inMask (s.cur.lanesP h) m = true → ∀ c' ea', chk s m ≠ .fail c' ea') →
        FailsCheck i s c ea)

/-! ## Steps of the ordering machine -/

/-- The access has performed: it is in flight no longer and its group's logical time is `T` (R249). -/
def Performed (t : State) (a : Access) (T : Nat) : Prop := t.acc? a.id = none ∧ t.timeOf a.grp = T

/-- The access has no companion that performs in its step: only the loads of a dequantising plane read have (R161). -/
def Alone (s : State) (a : Access) (w : PendWord) : Prop :=
  w.kind.oneStep = true → ∀ y ∈ s.flow.accs, y.word = a.word → y.id = a.id

/-- The group's time has joined that of every write of the tenant that a lease copy does not show (R261; log 21). -/
def CaughtUp (s t : State) (grp tn : Nat) : Prop :=
  ∀ c ∈ s.cores, ∀ x ∈ c.l1, x.key.tn = tn → x.excl = false → x.flash = false → x.wts < s.lastWts x.key →
    s.lastWts x.key ≤ t.timeOf grp

/-- A crew of `s` has lost its cores in `t` (R186, R228, R300): it has exited, no lane of its groups is left, its engine words have ended,
and of its accesses only stores, atomics and reductions to memory go on. -/
def Shed (s t : State) (crew : Nat) : Prop :=
  (∀ c ∈ t.crews, c.id = crew → c.life = .exited) ∧ (∀ k ∈ t.cores, k.owner ≠ some crew) ∧
  (∀ g ∈ t.allGroups, g.crew = crew → g.id ≠ 0 → g.path.mask = 0 ∧ g.sets = []) ∧
  (∀ x ∈ t.flow.xfers, x.crew = crew → x.ofTenant = true) ∧
  ∀ a ∈ t.flow.accs, (∃ g ∈ s.allGroups, g.id = a.grp ∧ g.id ≠ 0 ∧ g.crew = crew) →
    a.isLoad = false ∧ a.kind ≠ .pref ∧ a.cls ≠ .scratch

/-- The access of an event is in flight, its group is known, and its word takes values. -/
def InFlight (s : State) (id : Nat) (a : Access) (w : PendWord) : Prop :=
  s.acc? id = some a ∧ (s.grp? a.grp).isSome = true ∧ s.word? a.word = some w ∧ w.kind.dest.isSome = true

/-- LOAD_WRITEBACK of the word `w` into v(d), whose lanes raise `x` and receive the `n` bytes of `y` (R56, R150, R156, R161, R165). With
no enabled exception the lanes whose element did not fail receive their value and every other register stays; with one every
register stays, and the lowest enabled cause is held pending with the mask of the lanes that raised it. -/
def Arrives (w : PendWord) (d n : Nat) (sg : Bool) (x : Group → Nat → Flags) (y : Group → Nat → Nat) : Prop :=
  ∀ (s : State) (g : Group), s.word? w.id = some w → s.grp? w.grp = some g → s.arrived w = true → w.away = 0 →
    let on := fun l => inMask w.mask l = true ∧ inMask w.fails l = false
    let raised := fun e => ∃ l, l < 32 ∧ on l ∧ (x g l).getLsbD e = true
    let done := fun (t : State) (k : Group) => t.word? w.id = none ∧ t.grp? w.grp = some k ∧ k.ctr w.ctr = g.ctr w.ctr - 1 ∧
      k.s = g.s ∧ k.g = g.g ∧ t.hbm = s.hbm ∧
      ∀ b, b < 5 → (k.fflags.getLsbD b = true ↔ g.fflags.getLsbD b = true ∨ ∃ e, e < 6 ∧ flagBit e = b ∧ raised e)
    ((∀ e, e < 6 → TrapOn g.fmode e = true → ¬raised e) → Runs (.loadWriteback w.id) s fun t => ∃ k, done t k ∧ k.pend = g.pend ∧
      ∀ r l, l < 32 →
        (on l → n ≤ 4 → r = d → (k.getV r l).toInt =
          (if sg ∧ 2 ^ (8 * n - 1) ≤ y g l then ((y g l : Int) - 2 ^ (8 * n)) else y g l).bmod (2 ^ 32)) ∧
        (on l → 4 < n → d ≤ r → r < d + n / 4 → (k.getV r l).toNat = y g l / 2 ^ (32 * (r - d)) % 2 ^ 32) ∧
        (¬on l ∨ r < d ∨ d + max 1 (n / 4) ≤ r → k.getV r l = g.getV r l)) ∧
    (∀ e, e < 6 → TrapOn g.fmode e = true → raised e → (∀ j, j < e → TrapOn g.fmode j = true → ¬raised j) →
      Runs (.loadWriteback w.id) s fun t => ∃ k, done t k ∧ k.v = g.v ∧ ∃ v, (fpCause e, v) ∈ k.pend ∧
        ((∀ p ∈ g.pend, p.1 ≠ fpCause e) →
          v = (maskOf fun l => inMask w.mask l && !inMask w.fails l && (x g l).getLsbD e).setWidth 64))

/-- Lane values that have reached the word. -/
def Got (t : State) (a : Access) (x : Nat × Nat × List Byte) : Prop := ∃ w, t.word? a.word = some w ∧ x ∈ w.got

/-! ## Engine words (R181 to R203) -/

/-- The engine word `x` of the group in issue is in flight, the last issued, and its counter has risen; no register, no memory,
no access and no other group has changed (R249). -/
def Launched (s t : State) (x : Xfer) : Prop :=
  t.flow.xfers = s.flow.xfers ++ [x] ∧
    t.cur = (match x.ctr with
      | some c => { s.cur.raise c with seq := s.cur.seq + 1 }
      | none => { s.cur with seq := s.cur.seq + 1 }) ∧
    t.hbm = s.hbm ∧ t.dev = s.dev ∧ t.groups = s.groups ∧ t.flow.accs = s.flow.accs ∧ t.ctx.stop = s.ctx.stop ∧
    x.grp = s.cur.id ∧ x.core = s.cur.core ∧ x.crew = s.cur.crew ∧ x.tn = s.cur.tn ∧ x.seq = s.cur.seq + 1 ∧
    x.t = s.cur.ltime ∧ x.held = false

/-- The word counts as attached to its barrier and to its ring stage (R175, R178, R185). -/
def Attached (s t : State) (x : Xfer) : Prop :=
  (∀ n p, x.bar = some (n, p) → (t.bar x.crew n.toNat).att = (s.bar x.crew n.toNat).att + 1) ∧
    ∀ q i, x.ring = some (q, i) → i < (s.ring x.crew q.toNat).stages.length →
      ((t.ring x.crew q.toNat).at_ i).copies = ((s.ring x.crew q.toNat).at_ i).copies + 1

/-- The barrier a copy attaches to: barrier `n` of the crew if it is valid and has a transfer member (R185). -/
def AttachesTo (s : State) (n : BitVec 4) (r : Option (BitVec 4 × Bool)) : Prop :=
  let b := s.bar s.cur.crew n.toNat
  r = if b.valid = true ∧ b.xfer = true then some (n, b.phase) else none

/-- An engine word at issue: with room in the scoreboard and the line transfers it is in flight and attached, and `Q` holds;
without, the word stalls and nothing has changed (R183, R184). -/
def LaunchesOrStalls (i : Instr) (s : State) (x : Xfer) (Q : State → Prop) : Prop :=
  (s.roomFor x = true → Runs i s fun t => Launched s t x ∧ Attached s t x ∧ Q t) ∧
    (s.roomFor x = false → Runs i s fun t => t.cur = s.cur ∧ t.flow.xfers = s.flow.xfers ∧ t.hbm = s.hbm ∧ t.ctx.stalled = true)

/-- A tile word: its instruction, what it does, whether it attaches to a ring stage, its barrier, its buffer. -/
structure TileForm where
  i    : Instr
  k    : TileWord
  ring : Bool
  bar  : Option (BitVec 4)
  buf  : Nat

/-- The tile words (R192, R193, R202, R203). -/
noncomputable def tileForms (h : Hdr) (r : Bool) (q : BitVec 3) (b : BitVec 4) (n : BitVec 5) (x : BitVec 2) : List TileForm :=
  [⟨.tcpySp h r q b n, .sp, r, some b, 0⟩, ⟨.tcpyOa h r q b n x, .oa, r, some b, x.toNat⟩,
   ⟨.tcpyWb h r q b n x, .wb, r, some b, x.toNat⟩, ⟨.tcpySt h r q b n, .st, r, some b, 0⟩,
   ⟨.tcpyGath h r q b n, .gath, r, some b, 0⟩, ⟨.tcpyScat h r q b n, .scat, r, some b, 0⟩,
   ⟨.tcpyZero h r q n, .zero, r, none, 0⟩, ⟨.taccTstSp h b n x, .tstSp, false, some b, x.toNat⟩,
   ⟨.taccTstMem h b n x, .tstMem, false, some b, x.toNat⟩, ⟨.taccTld h b n x, .tld, false, some b, x.toNat⟩]

/-- What a tile word does once it is in flight. -/
def tileKind (k : TileWord) (buf : Nat) (r : TileRec) (idx : List (BitVec 16)) (map : List (Nat × Loc)) : XKind :=
  match k with
  | .sp | .gath => .tileIn 0 0 r idx map
  | .oa => .tileIn 1 buf r [] map
  | .wb => .tileIn 2 buf r [] map
  | .st => .tileOut r [] false map
  | .scat => .tileOut r idx true map
  | .zero => .tileZero r
  | .tstSp => .taccSp buf r
  | .tstMem => .taccMem buf r map
  | .tld => .taccLd buf r map

/-- The index list that a gather or scatter reads at issue (R193). -/
def tileIdx (s : State) (k : TileWord) (n : Nat) : Option (List (BitVec 16)) :=
  if k.byList = true then some (s.indexList s.cur.crew (s.cur.tileRec n)) else none

/-- The record in s(n) passes the checks of R191, its memory standing at the places of `map`. -/
def TileReady (s : State) (k : TileWord) (n : Nat) (map : List (Nat × Loc)) : Prop :=
  let r := s.cur.tileRec n
  let idx := tileIdx s k n
  s.tileBad k r = false ∧ (k = .zero ∨ r.width < 16 ∨ (r.far.toNat % (r.width / 8) = 0 ∧ r.stride % (r.width / 8) = 0)) ∧
    s.tileSp k r = none ∧ (k = .zero ∨ k = .tstSp → map = []) ∧
    (k ≠ .zero → k ≠ .tstSp → ∃ locs : List Loc, (s.tileMem s.cur k r idx).map (·.2) = locs.map .ok ∧
      map = ((s.tileMem s.cur k r idx).zip locs).map fun p => pageBase p.1.1 p.2) ∧
    (k = .sp ∨ k = .gath → r.scaleArea idx map = true → r.unevenRow idx = false ∧ r.spEnd k true ≤ (s.crew s.cur.crew).scratch)

/-- The engine word has left the machine, and its counter has fallen (R156). -/
def Retired (s t : State) (x : Xfer) : Prop :=
  (∀ y ∈ t.flow.xfers, y.id ≠ x.id) ∧
    ∀ c, x.ctr = some c → (t.grp? x.grp).map (·.ctr c) = (s.grp? x.grp).map fun g => g.ctr c - 1

/-! ## Exact results -/

/-- The 32-bit word of an integer, modulo 2^32 (R48). -/
def Ref.word (x : Int) : Word := BitVec.ofInt 32 x

/-- The number of leading zero bits. -/
def Ref.clz (x : Word) : Nat := if x.toNat = 0 then 32 else 31 - Nat.log2 x.toNat

/-- The number of one bits. -/
def Ref.popc (x : Word) : Nat := ((List.range 32).map fun i => x.toNat / 2 ^ i % 2).sum

/-- A bit field: its position and its length, cut at bit 31 (R129). -/
def Ref.pos (b : Word) : Nat := b.toNat % 32
def Ref.len (b : Word) : Nat := min (b.toNat / 32 % 32) (32 - Ref.pos b)

/-- The field's value. -/
def Ref.field (a b : Word) : Nat := a.toNat / 2 ^ Ref.pos b % 2 ^ Ref.len b

/-- The field's value as a signed number of its length. -/
def Ref.sfield (a b : Word) : Int :=
  if Ref.len b ≠ 0 ∧ 2 ^ (Ref.len b - 1) ≤ Ref.field a b then (Ref.field a b : Int) - 2 ^ Ref.len b else Ref.field a b

/-- Result byte `i` of a byte select as a number (R129). -/
def Ref.byte (a b : Word) (i : Nat) : Nat :=
  let x := a.toNat / 256 ^ (b.toNat / 4 ^ i % 4) % 256
  if b.toNat / 2 ^ (8 + i) % 2 = 1 then 0 else if b.toNat / 2 ^ (12 + i) % 2 = 1 then (if 128 ≤ x then 255 else 0) else x

/-- The 64-bit number in the pair v(n), v(n+1). -/
def Ref.pair (g : Group) (n l : Nat) : Nat := (g.getV n l).toNat + 2 ^ 32 * (g.getV (n + 1) l).toNat

/-- The same as a signed number. -/
def Ref.spair (g : Group) (n l : Nat) : Int := (g.getV n l).toNat + 2 ^ 32 * (g.getV (n + 1) l).toInt

/-! ## Memory -/

/-- Every memory of the module stands in the canonical form. -/
def MemoryOk (s : State) : Prop :=
  SMap.wf s.hbm = true ∧ SMap.wf s.dev.host = true ∧ SMap.wf s.dev.flash = true ∧ ∀ p ∈ s.dev.peers, SMap.wf p.2 = true

end Sys2Proof.Machine
end

