-- ==== Sys2Proof/Certificates/Slice0/Obligations.lean ====
section
/-!
DEFINITION. The statements for the provers.
-/

open Sys2Proof Sys2Proof.Machine

/-! ## Vector, scalar and guard registers -/

/-- The integer words of `via` (R127): each result from the exact integers, modulo 2^32. `via.addc` and `via.subc` on
pairs, a register or the literal sign-extended to 64 bits (R49, R127). -/
def Obligations.ArithmeticResults : Prop :=
  (∀ (h : Hdr) (d a : BitVec 6) (b : VSrc),
     VecResult (.viaAdd h d a b) h d (fun g l => Ref.word ((g.getV a.toNat l).toInt + (vval g b l).toInt)) ∧
     VecResult (.viaSub h d a b) h d (fun g l => Ref.word ((g.getV a.toNat l).toInt - (vval g b l).toInt)) ∧
     VecResult (.viaMul h d a b) h d (fun g l => Ref.word ((g.getV a.toNat l).toInt * (vval g b l).toInt)) ∧
     VecResult (.viaMulh h d a b) h d (fun g l => Ref.word ((g.getV a.toNat l).toInt * (vval g b l).toInt / 2 ^ 32)) ∧
     VecResult (.viaMulhn h d a b) h d
       (fun g l => BitVec.ofNat 32 ((g.getV a.toNat l).toNat * (vval g b l).toNat / 2 ^ 32)) ∧
     VecResult (.viaMad h d a b) h d
       (fun g l => Ref.word ((g.getV a.toNat l).toInt * (vval g b l).toInt + (g.getV d.toNat l).toInt)) ∧
     VecResult (.viaMin h d a b) h d (fun g l => Ref.word (min (g.getV a.toNat l).toInt (vval g b l).toInt)) ∧
     VecResult (.viaMax h d a b) h d (fun g l => Ref.word (max (g.getV a.toNat l).toInt (vval g b l).toInt)) ∧
     VecResult (.viaMinn h d a b) h d (fun g l => BitVec.ofNat 32 (min (g.getV a.toNat l).toNat (vval g b l).toNat)) ∧
     VecResult (.viaMaxn h d a b) h d (fun g l => BitVec.ofNat 32 (max (g.getV a.toNat l).toNat (vval g b l).toNat)) ∧
     VecResult (.viaAbs h d a) h d (fun g l => Ref.word |(g.getV a.toNat l).toInt|) ∧
     VecResult (.viaNeg h d a) h d (fun g l => Ref.word (-(g.getV a.toNat l).toInt)) ∧
     VecResult (.viaClz h d a) h d (fun g l => BitVec.ofNat 32 (Ref.clz (g.getV a.toNat l))) ∧
     VecResult (.viaPopc h d a) h d (fun g l => BitVec.ofNat 32 (Ref.popc (g.getV a.toNat l)))) ∧
  (∀ (h : Hdr) (d a r : BitVec 6) (x : Word),
     PairResult (.viaAddc h d a (.reg r)) h d
       (fun g l => BitVec.ofNat 64 (Ref.pair g a.toNat l + Ref.pair g r.toNat l)) ∧
     PairResult (.viaSubc h d a (.reg r)) h d
       (fun g l => BitVec.ofInt 64 ((Ref.pair g a.toNat l : Int) - Ref.pair g r.toNat l)) ∧
     PairResult (.viaAddc h d a (.lit x)) h d (fun g l => BitVec.ofInt 64 ((Ref.pair g a.toNat l : Int) + x.toInt)) ∧
     PairResult (.viaSubc h d a (.lit x)) h d (fun g l => BitVec.ofInt 64 ((Ref.pair g a.toNat l : Int) - x.toInt)))

/-- The logic and shift words of `vil` (R128): a shift count is bits [5:0] of b, a rotation count bits [4:0]. The
immediate words (R131, R132). -/
def Obligations.LogicShiftImmediateResults : Prop :=
  (∀ (h : Hdr) (d a : BitVec 6) (b : VSrc),
     VecResult (.vilAnd h d a b) h d (fun g l => maskOf fun i => (g.getV a.toNat l).getLsbD i && (vval g b l).getLsbD i) ∧
     VecResult (.vilOr h d a b) h d (fun g l => maskOf fun i => (g.getV a.toNat l).getLsbD i || (vval g b l).getLsbD i) ∧
     VecResult (.vilXor h d a b) h d (fun g l => maskOf fun i => (g.getV a.toNat l).getLsbD i != (vval g b l).getLsbD i) ∧
     VecResult (.vilAndn h d a b) h d
       (fun g l => maskOf fun i => (g.getV a.toNat l).getLsbD i && !(vval g b l).getLsbD i) ∧
     VecResult (.vilNot h d a) h d (fun g l => maskOf fun i => !(g.getV a.toNat l).getLsbD i) ∧
     VecResult (.vilMov h d a) h d (fun g l => g.getV a.toNat l) ∧
     VecResult (.vilShl h d a b) h d
       (fun g l => BitVec.ofNat 32 ((g.getV a.toNat l).toNat * 2 ^ ((vval g b l).toNat % 64))) ∧
     VecResult (.vilShr h d a b) h d
       (fun g l => BitVec.ofNat 32 ((g.getV a.toNat l).toNat / 2 ^ ((vval g b l).toNat % 64))) ∧
     VecResult (.vilSra h d a b) h d (fun g l => Ref.word ((g.getV a.toNat l).toInt / 2 ^ ((vval g b l).toNat % 64))) ∧
     VecResult (.vilRotl h d a b) h d
       (fun g l => maskOf fun i => (g.getV a.toNat l).getLsbD ((i + 32 - (vval g b l).toNat % 32) % 32)) ∧
     VecResult (.vilBrev h d a) h d (fun g l => maskOf fun i => (g.getV a.toNat l).getLsbD (31 - i))) ∧
  (∀ (h : Hdr) (d a : BitVec 6) (i : BitVec 10) (n : BitVec 5) (m : BitVec 16),
     VecResult (.addi h d a i) h d (fun g l => Ref.word ((g.getV a.toNat l).toInt + i.toInt)) ∧
     VecResult (.muli h d a i) h d (fun g l => Ref.word ((g.getV a.toNat l).toInt * i.toInt)) ∧
     VecResult (.andi h d a i) h d (fun g l => g.getV a.toNat l &&& Ref.word i.toInt) ∧
     VecResult (.ori h d a i) h d (fun g l => g.getV a.toNat l ||| Ref.word i.toInt) ∧
     VecResult (.xori h d a i) h d (fun g l => g.getV a.toNat l ^^^ Ref.word i.toInt) ∧
     VecResult (.shli h d a n) h d (fun g l => BitVec.ofNat 32 ((g.getV a.toNat l).toNat * 2 ^ n.toNat)) ∧
     VecResult (.shri h d a n) h d (fun g l => BitVec.ofNat 32 ((g.getV a.toNat l).toNat / 2 ^ n.toNat)) ∧
     VecResult (.srai h d a n) h d (fun g l => Ref.word ((g.getV a.toNat l).toInt / 2 ^ n.toNat)) ∧
     VecResult (.movi h d m) h d (fun _ _ => Ref.word m.toInt) ∧
     VecResult (.movhi h d m) h d
       (fun g l => BitVec.ofNat 32 (m.toNat * 65536 + (g.getV d.toNat l).toNat % 65536)))

/-- The field and byte-select words of `vil` (R129). -/
def Obligations.FieldResults : Prop :=
  ∀ (h : Hdr) (d a : BitVec 6) (b : VSrc),
    VecResult (.vilBfxn h d a b) h d (fun g l => BitVec.ofNat 32 (Ref.field (g.getV a.toNat l) (vval g b l))) ∧
    VecResult (.vilBfx h d a b) h d (fun g l => Ref.word (Ref.sfield (g.getV a.toNat l) (vval g b l))) ∧
    VecResult (.vilBfi h d a b) h d (fun g l =>
      let p := Ref.pos (vval g b l)
      let n := Ref.len (vval g b l)
      let x := (g.getV d.toNat l).toNat
      BitVec.ofNat 32 (x / 2 ^ (p + n) * 2 ^ (p + n) + (g.getV a.toNat l).toNat % 2 ^ n * 2 ^ p + x % 2 ^ p)) ∧
    VecResult (.vilBsel h d a b) h d (fun g l =>
      let r := Ref.byte (g.getV a.toNat l) (vval g b l)
      BitVec.ofNat 32 (r 0 + 256 * r 1 + 65536 * r 2 + 16777216 * r 3))

/-- The compares of `vic` into a guard, by the combine code set, and, or (R130). The guard words (R145): g0 discards
the write. g0 reads 1 in every lane and s0 reads 0, in every state, and no write through the register operations
changes them (R26). -/
def Obligations.CompareAndGuardResults : Prop :=
  (∀ (h : Hdr) (k n : BitVec 3) (a b : BitVec 6),
     CmpResult (.vicEq h k n a b) h k n (fun g l => decide ((g.getV a.toNat l).toNat = (g.getV b.toNat l).toNat)) ∧
     CmpResult (.vicNe h k n a b) h k n (fun g l => decide ((g.getV a.toNat l).toNat ≠ (g.getV b.toNat l).toNat)) ∧
     CmpResult (.vicLt h k n a b) h k n (fun g l => decide ((g.getV a.toNat l).toInt < (g.getV b.toNat l).toInt)) ∧
     CmpResult (.vicLe h k n a b) h k n (fun g l => decide ((g.getV a.toNat l).toInt ≤ (g.getV b.toNat l).toInt)) ∧
     CmpResult (.vicGt h k n a b) h k n (fun g l => decide ((g.getV a.toNat l).toInt > (g.getV b.toNat l).toInt)) ∧
     CmpResult (.vicGe h k n a b) h k n (fun g l => decide ((g.getV a.toNat l).toInt ≥ (g.getV b.toNat l).toInt)) ∧
     CmpResult (.vicLtn h k n a b) h k n (fun g l => decide ((g.getV a.toNat l).toNat < (g.getV b.toNat l).toNat)) ∧
     CmpResult (.vicLen h k n a b) h k n (fun g l => decide ((g.getV a.toNat l).toNat ≤ (g.getV b.toNat l).toNat)) ∧
     CmpResult (.vicGtn h k n a b) h k n (fun g l => decide ((g.getV a.toNat l).toNat > (g.getV b.toNat l).toNat)) ∧
     CmpResult (.vicGen h k n a b) h k n (fun g l => decide ((g.getV a.toNat l).toNat ≥ (g.getV b.toNat l).toNat)) ∧
     CmpResult (.vicEq64 h k n a b) h k n (fun g l => decide (Ref.pair g a.toNat l = Ref.pair g b.toNat l)) ∧
     CmpResult (.vicLt64 h k n a b) h k n (fun g l => decide (Ref.spair g a.toNat l < Ref.spair g b.toNat l)) ∧
     CmpResult (.vicLtn64 h k n a b) h k n (fun g l => decide (Ref.pair g a.toNat l < Ref.pair g b.toNat l))) ∧
  (∀ (h : Hdr) (d a b : BitVec 3) (v : BitVec 6) (n : BitVec 5),
     GuardResult (.grdGand h d a b) h d (fun g l => inMask (g.getG a.toNat) l && inMask (g.getG b.toNat) l) ∧
     GuardResult (.grdGor h d a b) h d (fun g l => inMask (g.getG a.toNat) l || inMask (g.getG b.toNat) l) ∧
     GuardResult (.grdGxor h d a b) h d (fun g l => inMask (g.getG a.toNat) l != inMask (g.getG b.toNat) l) ∧
     GuardResult (.grdGnot h d a) h d (fun g l => !inMask (g.getG a.toNat) l) ∧
     GuardResult (.grdGmov h d a) h d (fun g l => inMask (g.getG a.toNat) l) ∧
     GuardResult (.grdGset h d v n) h d (fun g l => (g.getV v.toNat l).getLsbD n.toNat) ∧
     VecResult (.grdGtov h v a) h v (fun g l => if inMask (g.getG a.toNat) l then 1 else 0)) ∧
  (∀ (g : Group) (n : Nat) (m x : Mask) (w : Word) (y : DWord) (l : Nat), l < 32 →
     inMask (g.getG 0) l = true ∧ g.getS 0 = 0 ∧ inMask ((g.setG n m x).getG 0) l = true ∧ (g.setS n w).getS 0 = 0 ∧
       (g.setS2 n y).getS 0 = 0 ∧ g.setG 0 m x = g ∧ g.setS 0 w = g)

/-- The lane words (R140): the source lanes are read whatever their state, and the reductions range over P. -/
def Obligations.LaneResults : Prop :=
  ∀ (h : Hdr) (d a b : BitVec 6) (n : BitVec 5),
    VecResult (.lanePick h d a b) h d (fun g l => g.getV a.toNat ((g.getV b.toNat l).toNat % 32)) ∧
    VecResult (.laneBack h d a b) h d (fun g l =>
      let k := (g.getV b.toNat l).toNat % 32
      g.getV a.toNat (if k ≤ l then l - k else l)) ∧
    VecResult (.laneFwd h d a b) h d (fun g l =>
      let k := (g.getV b.toNat l).toNat % 32
      g.getV a.toNat (if l + k < 32 then l + k else l)) ∧
    VecResult (.laneFlip h d a b) h d (fun g l => g.getV a.toNat (l ^^^ (g.getV b.toNat l).toNat % 32)) ∧
    VecResult (.laneFrom h d a n) h d (fun g _ => g.getV a.toNat n.toNat) ∧
    VecResult (.laneAny h d a) h d (fun g _ =>
      if (List.range 32).any fun p => inMask (g.lanesP h) p && decide (g.getV a.toNat p ≠ 0) then 1 else 0) ∧
    VecResult (.laneEvery h d a) h d (fun g _ =>
      if (List.range 32).any fun p => inMask (g.lanesP h) p && decide (g.getV a.toNat p = 0) then 0 else 1) ∧
    VecResult (.laneMask h d a) h d (fun g _ =>
      maskOf fun p => inMask (g.lanesP h) p && decide (g.getV a.toNat p ≠ 0)) ∧
    VecResult (.laneSum h d a) h d (fun g _ =>
      BitVec.ofNat 32 (((List.range 32).map fun p => if inMask (g.lanesP h) p then (g.getV a.toNat p).toNat else 0).sum)) ∧
    (∀ s, Passes (.laneLeast h d a) s → Runs (.laneLeast h d a) s fun t => ∃ m : Word,
      WritesV s t d.toNat (s.cur.lanesP h) (fun _ => m) ∧
      (∀ p, p < 32 → inMask (s.cur.lanesP h) p = true → m.toInt ≤ (s.cur.getV a.toNat p).toInt) ∧
      (s.cur.lanesP h ≠ 0 → ∃ p, p < 32 ∧ inMask (s.cur.lanesP h) p = true ∧ m = s.cur.getV a.toNat p)) ∧
    (∀ s, Passes (.laneMost h d a) s → Runs (.laneMost h d a) s fun t => ∃ m : Word,
      WritesV s t d.toNat (s.cur.lanesP h) (fun _ => m) ∧
      (∀ p, p < 32 → inMask (s.cur.lanesP h) p = true → m.toInt ≥ (s.cur.getV a.toNat p).toInt) ∧
      (s.cur.lanesP h ≠ 0 → ∃ p, p < 32 ∧ inMask (s.cur.lanesP h) p = true ∧ m = s.cur.getV a.toNat p))

/-- The scalar words of `salu` and `smov` (R142, R144): s0 discards the write, and a word whose P is empty writes
nothing (R80). `salu.saddc` adds pairs modulo 2^64, and `salu.scmp` combines one condition into the guard of every
lane that has not ended (R142, R143). -/
def Obligations.ScalarResults : Prop :=
  (∀ (h : Hdr) (d a : BitVec 5) (b : SSrc) (v w : BitVec 6) (n : BitVec 5),
     ScalarResult (.saluSadd h d a b) h d.toNat (fun s _ => Ref.word ((s.cur.getS a.toNat).toInt + (sval s.cur b).toInt)) ∧
     ScalarResult (.saluSsub h d a b) h d.toNat (fun s _ => Ref.word ((s.cur.getS a.toNat).toInt - (sval s.cur b).toInt)) ∧
     ScalarResult (.saluSmul h d a b) h d.toNat (fun s _ => Ref.word ((s.cur.getS a.toNat).toInt * (sval s.cur b).toInt)) ∧
     ScalarResult (.saluSand h d a b) h d.toNat (fun s _ => s.cur.getS a.toNat &&& sval s.cur b) ∧
     ScalarResult (.saluSor h d a b) h d.toNat (fun s _ => s.cur.getS a.toNat ||| sval s.cur b) ∧
     ScalarResult (.saluSxor h d a b) h d.toNat (fun s _ => s.cur.getS a.toNat ^^^ sval s.cur b) ∧
     ScalarResult (.saluSshl h d a b) h d.toNat
       (fun s _ => BitVec.ofNat 32 ((s.cur.getS a.toNat).toNat * 2 ^ ((sval s.cur b).toNat % 64))) ∧
     ScalarResult (.saluSshr h d a b) h d.toNat
       (fun s _ => BitVec.ofNat 32 ((s.cur.getS a.toNat).toNat / 2 ^ ((sval s.cur b).toNat % 64))) ∧
     ScalarResult (.saluSsra h d a b) h d.toNat
       (fun s _ => Ref.word ((s.cur.getS a.toNat).toInt / 2 ^ ((sval s.cur b).toNat % 64))) ∧
     ScalarResult (.saluSmin h d a b) h d.toNat (fun s _ => Ref.word (min (s.cur.getS a.toNat).toInt (sval s.cur b).toInt)) ∧
     ScalarResult (.saluSmax h d a b) h d.toNat (fun s _ => Ref.word (max (s.cur.getS a.toNat).toInt (sval s.cur b).toInt)) ∧
     ScalarResult (.saluSmov h d a) h d.toNat (fun s _ => s.cur.getS a.toNat) ∧
     ScalarResult (.smovV2s h v w n) h v.toNat (fun s _ => s.cur.getV w.toNat n.toNat) ∧
     VecResult (.smovS2v h v w) h v (fun g _ => g.getS w.toNat)) ∧
  (∀ (h : Hdr) (d a : BitVec 5) (b : SSrc) (k : BitVec 2) (n x : BitVec 3) (s : State),
     (Passes (.saluSaddc h d a b) s → Runs (.saluSaddc h d a b) s fun t =>
       let bv : Int := match b with
         | .reg r => (s.cur.getS r.toNat).toNat + 2 ^ 32 * (s.cur.getS (r.toNat + 1)).toNat
         | .lit w => w.toInt
       let sum := BitVec.ofInt 64 ((s.cur.getS a.toNat).toNat + 2 ^ 32 * (s.cur.getS (a.toNat + 1)).toNat + bv)
       (∀ j, t.cur.getS j = if s.cur.lanesP h = 0 ∨ j = 0 then s.cur.getS j
         else if j = d.toNat then BitVec.ofNat 32 sum.toNat
         else if j = d.toNat + 1 then BitVec.ofNat 32 (sum.toNat / 2 ^ 32) else s.cur.getS j) ∧
       { t with cur := { t.cur with s := s.cur.s } } = s) ∧
     (Passes (.saluScmp h k n a b x) s → Runs (.saluScmp h k n a b x) s fun t =>
       let p := s.cur.getS a.toNat
       let q := sval s.cur b
       let c := (x = 0 ∧ p = q) ∨ (x = 1 ∧ p ≠ q) ∨ (x = 2 ∧ p.toInt < q.toInt) ∨ (x = 3 ∧ p.toInt ≤ q.toInt) ∨
         (x = 4 ∧ p.toInt > q.toInt) ∨ (x = 5 ∧ p.toInt ≥ q.toInt) ∨ (x = 6 ∧ p.toNat < q.toNat) ∨ (x = 7 ∧ p.toNat ≥ q.toNat)
       WritesG s t n.toNat (if s.cur.lanesP h = 0 then 0 else s.cur.live)
         fun l => Combined k.toNat (inMask (s.cur.getG n.toNat) l) (decide c)))

/-! ## Floating words -/

/-- The rounding of R54 at one place: the kept multiple is the neighbour that the mode names, ties to even, and the
inexact mark tells an inexact result. Rounding a nonzero value into any of the six formats without overflow and
without FZ gives the bits of the rounded multiple of the format's last place, and a decoded finite value goes back to
its own bits (R50, R56). The operations on finite values behind the floating words, whose results are one rounding of
the exact real number (R53, R133, R134): sums, products, fused sums of a product and scalings; an exact zero takes the
sign that the rules give it. A minimum or maximum is one of its operands, with -0 below +0. -/
def Obligations.RoundingAndFormats : Prop :=
  (∀ (neg : Bool) (m : Nat) (e q : Int),
     let lo := min e q
     let x := m * 2 ^ (e - lo).toNat
     let u := 2 ^ (q - lo).toNat
     (∀ rm, ((roundAt rm neg m e q).2 = false ↔ (roundAt rm neg m e q).1 * u = x)) ∧
     (let k := (roundAt .rtz neg m e q).1; k * u ≤ x ∧ x < (k + 1) * u) ∧
     (let k := (roundAt .rne neg m e q).1
      2 * (k * u) ≤ 2 * x + u ∧ 2 * x ≤ 2 * (k * u) + u ∧ (2 * (k * u) = 2 * x + u ∨ 2 * x = 2 * (k * u) + u → k % 2 = 0)) ∧
     (∀ rm, (rm = .rup ∧ neg = false) ∨ (rm = .rdn ∧ neg = true) →
       let k := (roundAt rm neg m e q).1; x ≤ k * u ∧ k * u < x + u) ∧
     (∀ rm, (rm = .rup ∧ neg = true) ∨ (rm = .rdn ∧ neg = false) →
       let k := (roundAt rm neg m e q).1; k * u ≤ x ∧ x < k * u + u)) ∧
  (∀ f ∈ [f32, f16, bf16, e4m3, e5m2, e2m1],
     (∀ (rm : RM) (neg sat : Bool) (m : Nat) (e : Int), m ≠ 0 → (f.round rm false sat neg m e).2.getLsbD 2 = false →
       let q := max ((Nat.log2 m : Int) + e - f.fb) (1 - (f.bias : Int) - f.fb)
       let k := (roundAt rm neg m e q).1
       ∃ (k' : Nat) (q' : Int), f.decode (f.round rm false sat neg m e).1 = .fin neg k' q' ∧
         k' * 2 ^ (q' - min q q').toNat = k * 2 ^ (q - min q q').toNat) ∧
     (∀ (x : Nat) (n : Bool) (m : Nat) (e : Int), x < 2 * f.sbit → f.decode x = .fin n m e → f.exact (.fin n m e) = x)) ∧
  (∀ (f : Fmt) (rm : RM) (fz big n₁ n₂ n₃ : Bool) (m₁ m₂ m₃ : Nat) (e₁ e₂ e₃ : Int),
     let val := fun (n : Bool) (m : Nat) (e : Int) => if n then -dyReal m e else dyReal m e
     let a := FVal.fin n₁ m₁ e₁
     let b := FVal.fin n₂ m₂ e₂
     let c := FVal.fin n₃ m₃ e₃
     let x := val n₁ m₁ e₁
     let y := val n₂ m₂ e₂
     let rounded := fun (v : ℝ) (zero : Bool) (r : Nat × Flags) =>
       (v = 0 → r = (f.zeroBits zero, 0)) ∧ (v ≠ 0 → ∃ n m e, m ≠ 0 ∧ val n m e = v ∧ r = f.round rm fz false n m e)
     let sumZero := fun p q : Bool => if p = q then p else decide (rm = .rdn)
     rounded (x * y + val n₃ m₃ e₃) (sumZero (n₁ != n₂) n₃) (f.fma rm fz a b c) ∧
     rounded (x + y) (sumZero n₁ n₂) (f.add rm fz a b) ∧
     rounded (x * y) (n₁ != n₂) (f.mul rm fz a b) ∧
     (-600 ≤ e₃ → e₃ ≤ 600 → rounded (x * 2 ^ e₃) n₁ (f.scale rm fz a e₃)) ∧
     (∃ n m e, f.minmax big a b = (f.exact (.fin n m e), 0) ∧ val n m e = (if big then max x y else min x y) ∧
       (x = 0 → y = 0 → n = (if big then n₁ && n₂ else n₁ || n₂))) ∧
     (∀ m e, m ≠ 0 → f.exact (.fin n₁ m e) = (f.round .rne false false n₁ m e).1) ∧
     (m₁ ≠ 0 → f.narrow rm fz big a = f.round rm fz big n₁ m₁ e₁ ∧
       (∀ nx, f.integral rm a nx = (f.exact (.fin n₁ (roundAt rm n₁ m₁ e₁ 0).1 0), if (roundAt rm n₁ m₁ e₁ 0).2 && nx then fNX else 0)) ∧
       (∀ lo hi : Int, let v : Int := if n₁ then -((roundAt rm n₁ m₁ e₁ 0).1 : Int) else (roundAt rm n₁ m₁ e₁ 0).1
         lo ≤ hi → toInt rm lo hi a = (max lo (min hi v), if v < lo ∨ hi < v then fNV else if (roundAt rm n₁ m₁ e₁ 0).2 then fNX else 0))))

/-- The words of `vf` (R133, R134): results rounded once in sr.fmode.RM, written with their flags or trapped as R56
says. The words of `vh` (R137): both halves in f16 or bf16, the flags of both raised (R52). -/
def Obligations.FloatArithmeticResults : Prop :=
  (∀ (h : Hdr) (d a : BitVec 6) (b : VSrc),
     let rm := fun s : State => rmOf s.cur.fmode
     let fz := fun s : State => fzOf s.cur.fmode
     FloatResult (.vfFadd h d a b) h d (fun s l => f32.add (rm s) (fz s) (opF s a l) (opB s b l)) ∧
     FloatResult (.vfFsub h d a b) h d (fun s l => f32.add (rm s) (fz s) (opF s a l) (opB s b l).flip) ∧
     FloatResult (.vfFmul h d a b) h d (fun s l => f32.mul (rm s) (fz s) (opF s a l) (opB s b l)) ∧
     FloatResult (.vfFfma h d a b) h d (fun s l => f32.fma (rm s) (fz s) (opF s a l) (opB s b l) (opF s d l)) ∧
     FloatResult (.vfFfms h d a b) h d (fun s l => f32.fma (rm s) (fz s) (opF s a l) (opB s b l) (opF s d l).flip) ∧
     FloatResult (.vfFmin h d a b) h d (fun s l => f32.minmax false (opF s a l) (opB s b l)) ∧
     FloatResult (.vfFmax h d a b) h d (fun s l => f32.minmax true (opF s a l) (opB s b l)) ∧
     FloatResult (.vfFabs h d a) h d (fun s l => f32.withSign (opF s a l) false false) ∧
     FloatResult (.vfFneg h d a) h d (fun s l => f32.withSign (opF s a l) (!(opF s a l).neg) false) ∧
     FloatResult (.vfFcopys h d a b) h d
       (fun s l => f32.withSign (opF s a l) (decide (2 ^ 31 ≤ (vval s.cur b l).toNat)) (opB s b l).isSig) ∧
     FloatResult (.vfFfloor h d a) h d (fun s l => f32.integral .rdn (opF s a l) false) ∧
     FloatResult (.vfFceil h d a) h d (fun s l => f32.integral .rup (opF s a l) false) ∧
     FloatResult (.vfFrint h d a) h d (fun s l => f32.integral (rm s) (opF s a l) true) ∧
     FloatResult (.vfFtrunc h d a) h d (fun s l => f32.integral .rtz (opF s a l) false) ∧
     FloatResult (.vfFsat h d a) h d (fun s l => f32.sat01 (opF s a l)) ∧
     FloatResult (.vfFscale h d a b) h d (fun s l => f32.scale (rm s) (fz s) (opF s a l) (vval s.cur b l).toInt)) ∧
  (∀ (h : Hdr) (t : Bool) (d a : BitVec 6) (b : VSrc),
     let rm := fun s : State => rmOf s.cur.fmode
     let fz := fun s : State => fzOf s.cur.fmode
     let f := vhFmt t
     FloatResult (.vhHadd h t d a b) h d (fun s l => halves fun k => f.add (rm s) (fz s) (opH s t a k l) (opHB s t b k l)) ∧
     FloatResult (.vhHsub h t d a b) h d
       (fun s l => halves fun k => f.add (rm s) (fz s) (opH s t a k l) (opHB s t b k l).flip) ∧
     FloatResult (.vhHmul h t d a b) h d (fun s l => halves fun k => f.mul (rm s) (fz s) (opH s t a k l) (opHB s t b k l)) ∧
     FloatResult (.vhHfma h t d a b) h d
       (fun s l => halves fun k => f.fma (rm s) (fz s) (opH s t a k l) (opHB s t b k l) (opH s t d k l)) ∧
     FloatResult (.vhHmin h t d a b) h d (fun s l => halves fun k => f.minmax false (opH s t a k l) (opHB s t b k l)) ∧
     FloatResult (.vhHmax h t d a b) h d (fun s l => halves fun k => f.minmax true (opH s t a k l) (opHB s t b k l)) ∧
     FloatResult (.vhHneg h t d a) h d
       (fun s l => halves fun k => f.withSign (opH s t a k l) (!(opH s t a k l).neg) false) ∧
     FloatResult (.vhHabs h t d a) h d (fun s l => halves fun k => f.withSign (opH s t a k l) false false))

/-- The compares of `vfc` (R135, R136): feq, fne, fun and ford raise NV for a signalling NaN alone, the ordering
compares for any NaN, fclass raises nothing and ignores FZ. `sr.fflags` holds a raised flag until it is written: no
floating word clears one (R55). -/
def Obligations.FloatCompareResults : Prop :=
  (∀ (h : Hdr) (k n : BitVec 3) (a b : BitVec 6),
     let quiet := fun (s : State) l => if (opF s a l).isSig || (opF s b l).isSig then fNV else 0
     let loud := fun (s : State) l => if (opF s a l).isNan || (opF s b l).isNan then fNV else 0
     let ord := fun (s : State) l => !(opF s a l).isNan && !(opF s b l).isNan
     let cmp := fun (s : State) l => (opF s a l).cmp (opF s b l)
     let W := fun c : State → Nat → Bool =>
       WritesGF n.toNat (·.cur.lanesP h) fun s l => Combined k.toNat (inMask (s.cur.getG n.toNat) l) (c s l)
     FloatRun (.vfcFeq h k n a b) h false quiet (W fun s l => ord s l && decide (cmp s l = 0)) ∧
     FloatRun (.vfcFne h k n a b) h false quiet (W fun s l => !(ord s l && decide (cmp s l = 0))) ∧
     FloatRun (.vfcFlt h k n a b) h false loud (W fun s l => ord s l && decide (cmp s l < 0)) ∧
     FloatRun (.vfcFle h k n a b) h false loud (W fun s l => ord s l && decide (cmp s l ≤ 0)) ∧
     FloatRun (.vfcFgt h k n a b) h false loud (W fun s l => ord s l && decide (cmp s l > 0)) ∧
     FloatRun (.vfcFge h k n a b) h false loud (W fun s l => ord s l && decide (cmp s l ≥ 0)) ∧
     FloatRun (.vfcFun h k n a b) h false quiet (W fun s l => !ord s l) ∧
     FloatRun (.vfcFord h k n a b) h false quiet (W fun s l => ord s l) ∧
     CmpResult (.vfcFclass h k n a b) h k n (fun g l => (g.getV b.toNat l).getLsbD (fclass (g.getV a.toNat l)))) ∧
  (∀ (s : State) (m : Mask) (x : Nat → Flags) (whole : Bool) (w : Group → Group) (b : Nat),
     (∀ g, (w g).fflags = g.fflags) → s.cur.fflags.getLsbD b = true → (s.floatWrite m x whole w).cur.fflags.getLsbD b = true)

/-- The special functions (R67, R138): fsqrt and fdiv rounded once; each other one has its listed exact cases and
elsewhere a value within its bound that nothing else constrains, one function of the operand and of sr.fmode (R66; log
3, log 6). The exact and special cases of the special functions, whatever the free value (R67): signed zeros and
infinities, domain errors with a quiet NaN, the quarter turns and the integer powers, each for every finite operand
that has the value; a zero is one at any exponent, as operands decode. The bounds of the special functions (R67):
outside their exact cases the result is the pattern of some f32 value within 2 ulp of the exact real number, of its
sign, with NX; one below the smallest normal value has UF too and is flushed under FZ, and one past the largest
overflows as the rounding direction says. Which value within the bound is left open (log 6). `tanh` never exceeds 1.
What the manual leaves open here is the model's choice of logs 3 and 6. -/
def Obligations.SpecialFunctionResults : Prop :=
  (∀ (h : Hdr) (d a b : BitVec 6),
     let rm := fun s : State => rmOf s.cur.fmode
     let fz := fun s : State => fzOf s.cur.fmode
     let open_ := fun (fn : Nat) (s : State) (l : Nat) => Config.sfuPick fn (bits s.cur.fmode 0 3).toNat (s.cur.getV a.toNat l).toNat
     FloatResult (.sfuFrcp h d a) h d (fun s l => frcp (rm s) (fz s) (opF s a l) (open_ 0 s l)) ∧
     FloatResult (.sfuFrsq h d a) h d (fun s l => frsq (rm s) (fz s) (opF s a l) (open_ 1 s l)) ∧
     FloatResult (.sfuFsqrt h d a) h d (fun s l => f32.sqrt (rm s) (fz s) (opF s a l)) ∧
     FloatResult (.sfuFexp2 h d a) h d (fun s l => fexp2 (rm s) (fz s) (opF s a l) (open_ 2 s l)) ∧
     FloatResult (.sfuFlog2 h d a) h d (fun s l => flog2 (rm s) (fz s) (opF s a l) (open_ 3 s l)) ∧
     FloatResult (.sfuFsin h d a) h d (fun s l => fsin (rm s) (fz s) (opF s a l) (open_ 4 s l)) ∧
     FloatResult (.sfuFcos h d a) h d (fun s l => fcos (rm s) (fz s) (opF s a l) (open_ 5 s l)) ∧
     FloatResult (.sfuFtanh h d a) h d (fun s l => ftanh (rm s) (fz s) (opF s a l) (open_ 6 s l)) ∧
     FloatResult (.sfuFdiv h d a b) h d (fun s l => f32.div (rm s) (fz s) (opF s a l) (opF s b l))) ∧
  (∀ (rm : RM) (fz n n' : Bool) (m : Nat) (e e' : Int) (k : Nat),
     let one := 127 * 2 ^ 23
     frcp rm fz (.fin n 0 e) k = (f32.infBits n, fDZ) ∧ frcp rm fz (.inf n) k = (f32.zeroBits n, 0) ∧
     frsq rm fz (.fin n 0 e) k = (f32.infBits n, fDZ) ∧ frsq rm fz (.inf false) k = (0, 0) ∧
     (m ≠ 0 → frsq rm fz (.fin true m e) k = (f32.nan, fNV)) ∧
     f32.sqrt rm fz (.fin n 0 e) = (f32.zeroBits n, 0) ∧ f32.sqrt rm fz (.inf false) = (f32.infBits false, 0) ∧
     (m ≠ 0 → f32.sqrt rm fz (.fin true m e) = (f32.nan, fNV)) ∧
     fexp2 rm fz (.inf true) k = (0, 0) ∧ fexp2 rm fz (.inf false) k = (f32.infBits false, 0) ∧
     (∀ j : Int, (if n then -dyReal m e else dyReal m e) = j →
       (-126 ≤ j → j ≤ 127 → fexp2 rm fz (.fin n m e) k = ((j + 127).toNat * 2 ^ 23, 0)) ∧
       (-149 ≤ j → j < -126 → fexp2 rm false (.fin n m e) k = (2 ^ (j + 149).toNat, 0))) ∧
     flog2 rm fz (.fin n 0 e) k = (f32.infBits true, fDZ) ∧ (m ≠ 0 → flog2 rm fz (.fin true m e) k = (f32.nan, fNV)) ∧
     flog2 rm fz (.inf false) k = (f32.infBits false, 0) ∧ flog2 rm fz (.inf true) k = (f32.nan, fNV) ∧
     (∀ j : Nat, m = 2 ^ j → flog2 rm fz (.fin false m e) k = (f32.exact (.fin (decide (j + e < 0)) (j + e).natAbs 0), 0)) ∧
     fsin rm fz (.inf n) k = (f32.nan, fNV) ∧ fcos rm fz (.inf n) k = (f32.nan, fNV) ∧
     (∀ q : Nat, 4 * dyReal m e = q →
       (q % 2 = 0 → fsin rm fz (.fin n m e) k = (f32.zeroBits n, 0)) ∧
       (q % 4 = 1 → fsin rm fz (.fin n m e) k = (f32.zeroBits n + one, 0)) ∧
       (q % 4 = 3 → fsin rm fz (.fin n m e) k = (f32.zeroBits (!n) + one, 0)) ∧
       (q % 4 = 0 → fcos rm fz (.fin n m e) k = (one, 0)) ∧
       (q % 2 = 1 → fcos rm fz (.fin n m e) k = (0, 0)) ∧
       (q % 4 = 2 → fcos rm fz (.fin n m e) k = (f32.zeroBits true + one, 0))) ∧
     ftanh rm fz (.inf n) k = (f32.zeroBits n + one, 0) ∧
     f32.div rm fz (.fin n 0 e) (.fin n' 0 e') = (f32.nan, fNV) ∧ f32.div rm fz (.inf n) (.inf n') = (f32.nan, fNV) ∧
     (m ≠ 0 → f32.div rm fz (.fin n m e) (.fin n' 0 e') = (f32.infBits (n != n'), fDZ))) ∧
  ((∀ p < 255 * 2 ^ 23, ∃ m e, f32.decode p = .fin false m e ∧ dyReal m e = magVal p) ∧
   (∀ (rm : RM) (fz n : Bool) (m : Nat) (e : Int) (k : Nat), m ≠ 0 →
     let x := dyReal m e
     let near := fun (neg : Bool) (y : ℝ) (top : Nat) (r : Nat × Flags) => ∃ p : Nat, |magVal p - y| ≤ 2 * ulpAt y ∧
       (top ≠ 0 → p ≤ top) ∧
       (255 * 2 ^ 23 ≤ p → r = (f32.overflow rm neg false, fOF ||| fNX)) ∧
       (p < 255 * 2 ^ 23 → r = ((if neg then 2 ^ 31 else 0) + (if fz = true ∧ p < 2 ^ 23 then 0 else p),
         if p < 2 ^ 23 then fUF ||| fNX else fNX))
     let quarter := ∃ q : Nat, 4 * x = q
     near n (1 / x) 0 (frcp rm fz (.fin n m e) k) ∧
     near false (1 / Real.sqrt x) 0 (frsq rm fz (.fin false m e) k) ∧
     ((∀ j : Nat, x ≠ j) → near false (2 ^ (if n then -x else x)) 0 (fexp2 rm fz (.fin n m e) k)) ∧
     ((∀ j, m ≠ 2 ^ j) → ∀ neg, (neg = true ↔ Real.logb 2 x < 0) →
       near neg |Real.logb 2 x| 0 (flog2 rm fz (.fin false m e) k)) ∧
     (¬quarter → ∀ neg, (neg = true ↔ Real.sin (2 * Real.pi * (if n then -x else x)) < 0) →
       near neg |Real.sin (2 * Real.pi * x)| 0 (fsin rm fz (.fin n m e) k)) ∧
     (¬quarter → ∀ neg, (neg = true ↔ Real.cos (2 * Real.pi * x) < 0) →
       near neg |Real.cos (2 * Real.pi * x)| 0 (fcos rm fz (.fin n m e) k)) ∧
     near n (Real.tanh x) (127 * 2 ^ 23) (ftanh rm fz (.fin n m e) k)))

/-- The conversions of `cvt` (R57): to and from the narrow formats, the integers and S20; a narrow result replaces its
own bits of v(D) and leaves the others. `lane.fsum` and the quantisers (R63, R64, R141): a raised cause belongs to the
whole word, every lane of P receives the sum, and every active lane the scale and its element, 0 for a lane outside P.
What the manual leaves open here is the model's choice of logs 65, 66 and 105. -/
def Obligations.ConversionResults : Prop :=
  (∀ (h : Hdr) (d a : BitVec 6) (b : BitVec 2) (c : BitVec 3),
     let rm := fun s : State => rmOf s.cur.fmode
     let fz := fun s : State => fzOf s.cur.fmode
     let src := fun (s : State) l => (s.cur.getV a.toNat l).toNat
     let old := fun (s : State) l => (s.cur.getV d.toNat l).toNat
     let put := fun (s : State) l w j (r : Nat × Flags) =>
       (old s l / 2 ^ (w * (j + 1)) * 2 ^ (w * (j + 1)) + r.1 * 2 ^ (w * j) + old s l % 2 ^ (w * j), r.2)
     FloatResult (.cvtF32I32 h d a) h d (fun s l => fromInt (rm s) (s.cur.getV a.toNat l).toInt) ∧
     FloatResult (.cvtF32N32 h d a) h d (fun s l => fromInt (rm s) (src s l)) ∧
     FloatResult (.cvtI32F32 h d a) h d (fun s l =>
       let r := toInt (rm s) (-2147483648) 2147483647 (opF s a l); ((BitVec.ofInt 32 r.1).toNat, r.2)) ∧
     FloatResult (.cvtN32F32 h d a) h d (fun s l =>
       let r := toInt (rm s) 0 4294967295 (opF s a l); ((BitVec.ofInt 32 r.1).toNat, r.2)) ∧
     FloatResult (.cvtF32F16 h d a) h d (fun s l => widen (f16.read (fz s) (src s l % 65536))) ∧
     FloatResult (.cvtF16F32 h d a) h d (fun s l => f16.narrow (rm s) (fz s) false (opF s a l)) ∧
     FloatResult (.cvtF32Bf16 h d a) h d (fun s l => widen (bf16.read (fz s) (src s l % 65536))) ∧
     FloatResult (.cvtBf16F32 h d a) h d (fun s l => bf16.narrow (rm s) (fz s) false (opF s a l)) ∧
     FloatResult (.cvtF32E4m3 h d a b) h d (fun s l => widen (e4m3.decode (src s l / 256 ^ b.toNat % 256))) ∧
     FloatResult (.cvtE4m3F32 h d a b) h d (fun s l => put s l 8 b.toNat (e4m3.narrow (rm s) false true (opF s a l))) ∧
     FloatResult (.cvtF32E5m2 h d a b) h d (fun s l => widen (e5m2.decode (src s l / 256 ^ b.toNat % 256))) ∧
     FloatResult (.cvtE5m2F32 h d a b) h d (fun s l => put s l 8 b.toNat (e5m2.narrow (rm s) false false (opF s a l))) ∧
     FloatResult (.cvtF32E2m1 h d a c) h d (fun s l => widen (e2m1.decode (src s l / 16 ^ c.toNat % 16))) ∧
     FloatResult (.cvtE2m1F32 h d a c) h d (fun s l => put s l 4 c.toNat (narrowE2m1 (rm s) (opF s a l))) ∧
     FloatResult (.cvtF32S20 h d a) h d (fun s l => s20ToF32 (fz s) (src s l)) ∧
     FloatResult (.cvtS20F32 h d a) h d (fun s l => f32ToS20 (opF s a l))) ∧
  (∀ (h : Hdr) (d a : BitVec 6),
     let vals := fun s : State => (lanesOf (s.cur.lanesP h)).map fun l => s.cur.getV a.toNat l
     let xs := fun s : State => (lanesOf (s.cur.lanesP h)).map fun l => opF s a l
     let one := fun (f : State → Flags) (s : State) l => if l = lowest (s.cur.lanesP h) then f s else 0
     let pair := fun (r : State → Nat × (FVal → Nat)) (s t : State) =>
       (∀ k l, l < 32 → t.cur.getV k l =
         if s.cur.lanesP h ≠ 0 ∧ k = d.toNat + 1 ∧ inMask s.cur.active l = true then BitVec.ofNat 32 (r s).1
         else if s.cur.lanesP h ≠ 0 ∧ k = d.toNat ∧ inMask s.cur.active l = true then
           (if inMask (s.cur.lanesP h) l then BitVec.ofNat 32 ((r s).2 (opF s a l)) else 0)
         else s.cur.getV k l) ∧
       { t with cur := { t.cur with v := s.cur.v, fflags := s.cur.fflags } } = s
     FloatRun (.laneFsum h d a) h true (one fun s => (fsum s.cur.fmode (vals s)).2)
       (WritesVF d.toNat (·.cur.lanesP h) fun s _ => (fsum s.cur.fmode (vals s)).1.toNat) ∧
     FloatRun (.qntPi8 h d a) h true (one fun s => (qntPi8 (xs s)).2.2)
       (pair fun s => ((qntPi8 (xs s)).1, (qntPi8 (xs s)).2.1)) ∧
     FloatRun (.qntE2m1 h d a) h true (one fun s => (qntE2m1 (xs s)).2.2)
       (pair fun s => ((qntE2m1 (xs s)).1, (qntE2m1 (xs s)).2.1)))

/-! ## Steering lanes -/

/-- `bra`, `ctl.jump`, `ctl.call`, `ctl.calli` and `ctl.ret` send every active lane to its target or to the next
packet, keep the path that the hint names, under lk the lowest taken target and under ulk the fall-through side or,
with no lane there, again the lowest taken target, and write the link pair before the lanes go (R36, R119, R122,
R123). A redirecting word with a bad target faults with ALIGN and moves no lane, and a split of `bra.unf` or of
`ctl.jump.unf` faults with UNIFORM_VIOLATION (R36, R70). -/
def Obligations.LanesSentByBranches : Prop :=
  (∀ (h : Hdr) (o : BitVec 20) (d a : BitVec 6) (hint : BitVec 2) (off : Word),
     let rel := fun (s : State) (_ : Nat) => BitVec.ofInt 64 ((s.ctx.pc.toNat / 4 * 4 : Nat) + 12 * o.toInt)
     let pair := fun (s : State) l => s.cur.getV2 a.toNat l
     let far := fun (s : State) (_ : Nat) => BitVec.ofInt 64 ((s.ctx.pc.toNat / 4 * 4 : Nat) + 12 * off.toInt)
     let link := fun (s : State) P (g : Group) => g.setV2 d.toNat P fun _ => BitVec.ofNat 64 (s.ctx.pc.toNat / 4 * 4 + 12)
     Branches (.bra h o) h 0 rel (fun _ _ g => g) ∧ Branches (.braLk h o) h 1 rel (fun _ _ g => g) ∧
     Branches (.braUlk h o) h 2 rel (fun _ _ g => g) ∧ Branches (.braUnf h o) h 3 rel (fun _ _ g => g) ∧
     Branches (.ctlJump h a hint) h hint.toNat pair (fun _ _ g => g) ∧ Branches (.ctlRet h a) h 0 pair (fun _ _ g => g) ∧
     Branches (.ctlCall h d a) h 0 pair link ∧ Branches (.ctlCalli h d off) h 0 far link) ∧
  (∀ (h : Hdr) (o : BitVec 20) (d a : BitVec 6) (hint : BitVec 2) (off : Word),
     let rel := fun (s : State) (_ : Nat) => BitVec.ofInt 64 ((s.ctx.pc.toNat / 4 * 4 : Nat) + 12 * o.toInt)
     let pair := fun (s : State) l => s.cur.getV2 a.toNat l
     let far := fun (s : State) (_ : Nat) => BitVec.ofInt 64 ((s.ctx.pc.toNat / 4 * 4 : Nat) + 12 * off.toInt)
     BadTarget (.bra h o) h rel ∧ BadTarget (.braLk h o) h rel ∧ BadTarget (.braUlk h o) h rel ∧
     BadTarget (.braUnf h o) h rel ∧ BadTarget (.ctlJump h a hint) h pair ∧ BadTarget (.ctlRet h a) h pair ∧
     BadTarget (.ctlCall h d a) h pair ∧ BadTarget (.ctlCalli h d off) h far ∧
     UnfSplit (.braUnf h o) h rel ∧ UnfSplit (.ctlJump h a 3) h pair)

/-- `sys.nop`, `sys.exit`, `sys.yield` and `wait` (R30, R38, R120, R158). `ctl.rep` and its passes (R124, R125): the
next packet is repeated as often as the count says, a count of 0 skips it, and a repetition within one, or a packet
with a word after `ctl.rep`, faults. `ctl.reform` (R40, R126): it blocks while the group has anything outstanding;
then, where the crew's bins are empty, the lanes of P are filed under the next packet and end, and the others go on
there. What the manual leaves open here is the model's choice of logs 19 and 78. -/
def Obligations.SystemAndRepetitionWords : Prop :=
  (∀ (h : Hdr) (s : State) (ld st cp tl : BitVec 5),
     (Passes (.sysNop h) s → exec (.sysNop h) s = .next s) ∧
     (Passes (.sysExit h) s → Runs (.sysExit h) s fun t =>
       t.cur.ended = s.cur.ended ||| s.cur.lanesP h ∧ t.cur.path.mask = s.cur.path.mask &&& ~~~(s.cur.lanesP h) ∧
       { t with cur := { t.cur with ended := s.cur.ended, path := { t.cur.path with mask := s.cur.path.mask } } } = s) ∧
     (Passes (.sysYield h) s → s.cur.lanesP h ≠ 0 → s.cur.path.tag = ⟨s.cur.mode, s.cur.depth⟩ →
       (∀ p ∈ s.cur.sets, s.cur.canRun p = false) →
       exec (.sysYield h) s = .next { s with
         cur := { s.cur with path := { s.cur.path with pc := s.ctx.next, age := s.cur.ages, rot := 0 }, ages := s.cur.ages + 1,
                             notTill := s.dev.cycle + 2 },
         ctx := { s.ctx with stop := true, moved := true } }) ∧
     (Passes (.sysYield h) s → s.cur.lanesP h ≠ 0 → ∀ p, s.cur.sets.find? s.cur.canRun = some p → p.cond = .deferred →
       (∀ q ∈ s.cur.sets, q.path.age < s.cur.ages ∧ q.path.pc ≠ s.ctx.next) → Runs (.sysYield h) s fun t =>
         t.cur.path = { p.path with rot := 0 } ∧ t.cur.notTill = s.dev.cycle + 2 ∧ t.cur.ages = s.cur.ages + 1 ∧
         (∃ q ∈ t.cur.sets, q.cond = .deferred ∧
           q.path = { s.cur.path with pc := s.ctx.next, age := s.cur.ages, rot := 0 }) ∧
         { t.cur with path := s.cur.path, sets := s.cur.sets, ages := s.cur.ages, notTill := s.cur.notTill } = s.cur ∧
         { t with cur := s.cur, ctx := s.ctx } = s) ∧
     (Passes (.wait h ld st cp tl) s → s.cur.saving = none →
       let met := (ld = 31 ∨ s.cur.ld ≤ ld.toNat) ∧ (st = 31 ∨ s.cur.st ≤ st.toNat) ∧ (cp = 31 ∨ s.cur.cp ≤ cp.toNat) ∧
         (tl = 31 ∨ s.cur.tl ≤ tl.toNat)
       (met → exec (.wait h ld st cp tl) s = .next s) ∧
       (¬met → s.cur.lanesP h ≠ 0 → Runs (.wait h ld st cp tl) s fun t =>
         t.cur.path.mask = 0 ∧ t.ctx.stop = true ∧
         (∃ q ∈ t.cur.sets, q.cond = .counters ld st cp tl ∧ q.path.mask = s.cur.path.mask ∧
           q.path = s.cur.path.advance s.ctx.pc s.ctx.next) ∧
         { t.cur with path := s.cur.path, sets := s.cur.sets } = s.cur ∧ { t with cur := s.cur, ctx := s.ctx } = s))) ∧
  (∀ (h : Hdr) (b : SSrc) (s : State) (p : Path) (pkt : DWord) (n : Nat),
     (Passes (.ctlRep h b) s → s.cur.lanesP h ≠ 0 →
       let next := BitVec.ofNat 64 (s.ctx.pc.toNat / 4 * 4 + 12)
       let count := (sval s.cur b).toNat
       (restNop s.ctx.pkt (idxOf s.ctx.pc) = true → s.cur.path.rep = none → Runs (.ctlRep h b) s fun t =>
         t.cur.path = (if count = 0 then { s.cur.path with pc := next + 12 }
           else { s.cur.path with pc := next, rep := some ⟨next, count⟩ }) ∧
         { t.cur with path := s.cur.path } = s.cur ∧ { t with cur := s.cur, ctx := s.ctx } = s) ∧
       (restNop s.ctx.pkt (idxOf s.ctx.pc) = false ∨ s.cur.path.rep.isSome = true →
         exec (.ctlRep h b) s = .next (s.fault .repNest (s.ctx.word.setWidth 64)))) ∧
     (pkt.toNat % 4 = 0 → p.rep = some ⟨pkt, n⟩ →
       (1 < n → p.advance pkt (pkt + 12) = { p with pc := pkt, rep := some ⟨pkt, n - 1⟩ }) ∧
       (n ≤ 1 → p.advance pkt (pkt + 12) = { p with pc := pkt + 12, rep := none }) ∧
       (∀ pc next, next ≠ pkt + 12 → p.advance pc next = { p with pc := next }))) ∧
  (∀ (h : Hdr) (s : State), Passes (.ctlReform h) s → s.cur.lanesP h ≠ 0 →
     (s.cur.ld + s.cur.st + s.cur.cp + s.cur.tl ≠ 0 → Runs (.ctlReform h) s fun t =>
       t.cur.path.mask = 0 ∧ (∃ q ∈ t.cur.sets, q.cond = .reform ∧ q.path = { s.cur.path with pc := s.ctx.pc }) ∧
       { t.cur with path := s.cur.path, sets := s.cur.sets } = s.cur ∧ { t with cur := s.cur, ctx := s.ctx } = s) ∧
     (s.cur.ld + s.cur.st + s.cur.cp + s.cur.tl = 0 → ∀ c, s.crews.find? (·.id == s.cur.crew) = some c → c.bins = [] →
       Runs (.ctlReform h) s fun t =>
         t.cur.ended = s.cur.ended ||| s.cur.lanesP h ∧
         t.cur.path.mask = s.cur.path.mask &&& ~~~(s.cur.lanesP h) ∧ t.cur.path.pc = nextPkt s.ctx.pc ∧
         (∃ b, (t.crew s.cur.crew).bins = [b] ∧ b.key = nextPkt s.ctx.pc ∧ b.first = s.dev.cycle ∧ b.num = s.cur.num ∧
           b.s = s.cur.s ∧ b.t = s.cur.ltime ∧
           b.filed = (lanesOf (s.cur.lanesP h)).map fun l => s.cur.filedLane l (nextPkt s.ctx.pc)) ∧
         { t.cur with ended := s.cur.ended, path := s.cur.path } = s.cur ∧
         { t with cur := s.cur, ctx := s.ctx, crews := s.crews } = s))

/-! ## Exceptions -/

/-- Which handler a cause of a mode enters, and what is saved: the cause with EV clear, bits [47:0] of the PC, the
value. The handler's lanes are those of the path, every other register is kept, and a cause raised in T2 halts the
tenant (R46, R70, R281, R286, R287, R290). It is stated for a chain of which no lane has left for flash data; where
one has, the chain ends first (IssueChecksAndEvents). -/
def Obligations.ExceptionEntry : Prop :=
  ∀ (s : State) (c : Cause) (val pc : DWord), s.ctx.leave = [] →
    let t := s.deliver c val pc
    let saved : TrapRegs := ⟨c.code.setWidth 9, BitVec.ofNat 64 (pc.toNat % 2 ^ 48), val⟩
    let rest := fun (g : Group) =>
      { g with mode := s.cur.mode, depth := s.cur.depth, path := s.cur.path, saves := s.cur.saves } = s.cur
    let went := fun (m : Mode) (d : Nat) (entry : DWord) =>
      t.cur.mode = m ∧ t.cur.depth = d ∧
      t.cur.path = { s.cur.path with pc := entry, rep := none, tag := ⟨m, d⟩ } ∧
      t.cur.saves.find? (·.1 == s.cur.path.tag) = some (s.cur.path.tag, s.cur.path.rep) ∧
      { t with cur := s.cur, ctx := s.ctx } = s ∧ t.ctx.stop = true ∧ t.ctx.moved = true
    let toUser := c ∈ [Cause.breakpoint, .userTrap, .fpInvalid, .fpDivZero, .fpOverflow, .fpUnderflow, .fpInexact,
      .scaleInvalid, .futureEmpty] ∧ s.cur.utvec ≠ 0 ∧ pcOk s.cur.utvec = true
    (s.cur.mode = .u → toUser → went .u (s.cur.depth + 1) s.cur.utvec ∧ t.cur.utrap = saved ∧
      rest { t.cur with utrap := s.cur.utrap }) ∧
    (s.cur.mode = .u → ¬toUser → went .t1 s.cur.depth s.tn.tvec ∧ t.cur.t1trap = saved ∧
      rest { t.cur with t1trap := s.cur.t1trap }) ∧
    (s.cur.mode = .t1 → went .t2 s.cur.depth (s.tn.tvec + 0x100) ∧ t.cur.t2trap = saved ∧
      rest { t.cur with t2trap := s.cur.t2trap }) ∧
    (s.cur.mode = .t2 → t = (s.haltTenant s.cur.tn .nestedFaultLimit (0#8 ++ c.code) s.cur.core pc).stopChain ∧ t.cur = s.cur)

/-- `sys.trap` and `sys.brk` take their exception: the first saves the PC past its chain, the second its own, each
with its number as the value; a word with no lane in P does nothing (R120). `sys.uret` and `sys.tret`: the path takes
the saved PC, the group the mode it returns to, with that mode's repetition state; a saved PC that fails the check
faults with ALIGN and changes nothing before (R47, R120, R125). `sys.halt`: the tenant halts, one halt record with
TENANT_HALT, the number and the place joins its records, its cores' walk queues are discarded and its monitors
released (R120, R281, R282, R313). What the manual leaves open here is the model's choice of logs 49, 67 and 83. -/
def Obligations.TrapAndHaltWords : Prop :=
  (∀ (h : Hdr) (p : BitVec 8) (q : BitVec 14) (s : State),
     (Passes (.sysTrap h p) s → s.cur.lanesP h ≠ 0 →
       exec (.sysTrap h p) s = .next (s.deliver .userTrap (BitVec.ofNat 64 p.toNat) s.ctx.next)) ∧
     (Passes (.sysBrk h q) s → s.cur.lanesP h ≠ 0 →
       exec (.sysBrk h q) s = .next (s.deliver .breakpoint (BitVec.ofNat 64 q.toNat) s.ctx.pc)) ∧
     (Passes (.sysTrap h p) s → s.cur.lanesP h = 0 → exec (.sysTrap h p) s = .next s) ∧
     (Passes (.sysBrk h q) s → s.cur.lanesP h = 0 → exec (.sysBrk h q) s = .next s)) ∧
  (∀ (h : Hdr) (s : State),
     let back := fun (i : Instr) (m : Mode) (d : Nat) (target : DWord) =>
       (pcOk target = true → Runs i s fun t =>
         t.cur.mode = m ∧ t.cur.depth = d ∧
         t.cur.path = { s.cur.path with pc := target, tag := ⟨m, d⟩, rep := (s.cur.saves.find? (·.1 == ⟨m, d⟩)).bind (·.2) } ∧
         { t.cur with mode := s.cur.mode, depth := s.cur.depth, path := s.cur.path, saves := s.cur.saves } = s.cur ∧
         { t with cur := s.cur, ctx := s.ctx } = s ∧ t.ctx.stop = true ∧ t.ctx.moved = true) ∧
       (pcOk target = false → exec i s = .next (s.fault .align target))
     (Passes (.sysUret h) s → s.cur.lanesP h ≠ 0 → back (.sysUret h) .u (s.cur.depth - 1) s.cur.utrap.epc) ∧
     (Passes (.sysTret h) s → s.cur.lanesP h ≠ 0 → s.cur.mode = .t2 → back (.sysTret h) .t1 s.cur.depth s.cur.t2trap.epc) ∧
     (Passes (.sysTret h) s → s.cur.lanesP h ≠ 0 → s.cur.mode = .t1 → back (.sysTret h) .u s.cur.depth s.cur.t1trap.epc)) ∧
  (∀ (h : Hdr) (p : BitVec 13) (s : State) (t0 : Tenant), Passes (.sysHalt h p) s → s.cur.lanesP h ≠ 0 →
     s.tenants.find? (·.id == s.cur.tn) = some t0 → t0.held.length < 65536 → Runs (.sysHalt h p) s fun t =>
       let t1 := t.tenant s.cur.tn
       t1.life = .halted ∧
       (∃ r, t1.held = t0.held ++ [r] ∧ r.kind = 1 ∧ r.code = 0xC4 ∧ r.reason = BitVec.ofNat 16 p.toNat ∧
         r.core = s.cur.core ∧ r.pc = s.ctx.pc ∧ r.seq = t0.seq) ∧
       (∀ k ∈ t.cores, k.num / 4 ∈ t0.quads → k.wq = []) ∧ (∀ m ∈ t.flow.mons, m.loc.key.tn ≠ s.cur.tn) ∧
       t.cur = s.cur ∧ t.hbm = s.hbm ∧ t.dev = s.dev ∧ t.groups = s.groups ∧ t.crews = s.crews ∧ t.ctx.stop = true)

/-! ## Control registers -/

/-- The `csr` words (R146): a read writes the lanes of P, or one scalar as the lowest lane reads; a write is taken at
issue, from the lowest lane of P or the scalar, and takes effect later. What the control registers that mode U reads
hold, and those of the T modes (R29, R44, R45, R54, R55, R147, R265, R290). The steps in which a register write takes
effect, each on the pending write of its own kind and on no other: the register reads the value written in its
writable bits and its old one elsewhere, every other register as before, and a read-only one does not change (R4, R45,
R55, R148, R244, R265, R290). What the manual leaves open here is the model's choice of log 82. -/
def Obligations.ControlRegisters : Prop :=
  (∀ (h : Hdr) (d a b : BitVec 6) (s : State),
     let n : BitVec 12 := a ++ b
     (Passes (.csrRdsr h d a b) s → Runs (.csrRdsr h d a b) s fun t =>
       WritesV s t d.toNat (s.cur.lanesP h) fun l => s.csrRead s.cur n l) ∧
     (Passes (.csrRdsrs h d a b) s → Runs (.csrRdsrs h d a b) s fun t =>
       WritesS s t d.toNat (s.cur.lanesP h != 0) (s.csrRead s.cur n (lowest (s.cur.lanesP h)))) ∧
     (Passes (.csrWrsr h d a b) s → s.cur.lanesP h ≠ 0 → Runs (.csrWrsr h d a b) s fun t =>
       t.cur.csrw = some (n, s.cur.getV d.toNat (lowest (s.cur.lanesP h))) ∧
       { t with cur := { t.cur with csrw := s.cur.csrw } } = s) ∧
     (Passes (.csrWrsrs h d a b) s → s.cur.lanesP h ≠ 0 → Runs (.csrWrsrs h d a b) s fun t =>
       t.cur.csrw = some (n, s.cur.getS d.toNat) ∧ { t with cur := { t.cur with csrw := s.cur.csrw } } = s)) ∧
  (∀ (s : State) (g : Group) (l : Nat), l < 32 →
     let rd := fun n : BitVec 12 => (s.csrRead g n l).toNat
     let c := s.crew g.crew
     let t := s.tenant g.tn
     let cyc := s.dev.cycle - (s.core g.core).resetAt
     let both := fun (n : BitVec 12) (x : Nat) => rd n = x % 2 ^ 32 ∧ rd (n + 1) = x / 2 ^ 32 % 2 ^ 32
     rd 0x000 = l ∧ rd 0x001 = g.num % 2 ^ 32 ∧ rd 0x002 = c.x % 1024 + c.y % 1024 * 2 ^ 10 + c.z % 1024 * 2 ^ 20 ∧
     rd 0x003 = (s.node c.node).lr.gx % 2 ^ 16 + (s.node c.node).lr.gy % 2 ^ 16 * 2 ^ 16 ∧ rd 0x004 = g.core % 2 ^ 32 ∧
     rd 0x005 = (match g.role with | .copy => 0 | .matrix => 1 | .vector => 2 | .service => 3) ∧
     both 0x006 cyc ∧ both 0x008 g.ltime ∧ rd 0x00B = (s.node c.node).depth % 2 ^ 32 ∧ both 0x00C (s.node c.node).recVa.toNat ∧
     ((s.node c.node).arena = none → rd 0x00A = 0) ∧
     (∀ k, (s.node c.node).arena = some k →
       (t.arenas.find? (·.slot == k) = none → rd 0x00A = 0) ∧
       ∀ a, t.arenas.find? (·.slot == k) = some a → rd 0x00A = (a.gen.toNat * 4096 + a.slot) % 2 ^ 32) ∧
     rd 0x010 = g.fmode.toNat ∧ rd 0x011 = g.fflags.toNat ∧
     rd 0x012 = g.ld % 256 + g.st % 256 * 2 ^ 8 + g.cp % 256 * 2 ^ 16 + g.tl % 256 * 2 ^ 24 ∧
     both 0x020 g.utvec.toNat ∧ rd 0x022 = g.utrap.cause.toNat % 256 ∧ both 0x023 g.utrap.epc.toNat ∧
     both 0x025 g.utrap.val.toNat ∧ rd 0x030 = t.tid.toNat ∧ rd 0x031 = (match g.mode with | .u => 0 | .t1 => 1 | .t2 => 2) ∧
     both 0x040 t.tvec.toNat ∧ rd 0x042 = g.t1trap.cause.toNat ∧ both 0x043 g.t1trap.epc.toNat ∧ both 0x045 g.t1trap.val.toNat ∧
     rd 0x047 = min t.free.length (2 ^ 24 - 1) * 2 ^ 8 + t.tstat.toNat ∧ both 0x048 t.ptroot.toNat ∧ both 0x04A t.cistern.toNat ∧
     rd 0x04C = t.cisterns.toNat ∧ both 0x04D t.awbase.toNat ∧ rd 0x04F = t.awsize.toNat ∧ both 0x050 t.soff.toNat ∧
     rd 0x052 = t.allot % 2 ^ 32 ∧ rd 0x053 = t.used.length % 2 ^ 32 ∧ rd 0x054 = t.tperm.toNat ∧ rd 0x055 = t.thrash.toNat ∧
     both 0x056 t.actbase.toNat ∧ rd 0x05A = t.keyslot.toNat ∧ rd 0x05B = t.deadline % 2 ^ 32 ∧
     (g.saving = none → rd 0x058 = 0 ∧ rd 0x059 = 0) ∧
     rd 0x060 = g.t2trap.cause.toNat ∧ both 0x061 g.t2trap.epc.toNat ∧ both 0x063 g.t2trap.val.toNat) ∧
  (∀ (s : State) (id : Nat) (g : Group) (x : Word) (n : BitVec 12), s.cur = g → g.id = id → g.csrw = some (n, x) →
     (∀ k ∈ s.groups, k.id ≠ id) → ∀ tn0, s.tenants.find? (·.id == g.tn) = some tn0 →
     let only := fun (t : State) (k : Group) (tn1 : Tenant) =>
       t.cur = k ∧ t.tenant g.tn = tn1 ∧ { t with cur := s.cur, tenants := s.tenants } = s
     let takes := fun (m : Word) (t : State) =>
       (∀ l, t.csrRead t.cur n l = (s.csrRead g n l &&& ~~~m) ||| (x &&& m)) ∧
       (∀ k l, k ≠ n → t.csrRead t.cur k l = s.csrRead g k l) ∧ t.cur.csrw = none ∧
       { t.cur with csrw := g.csrw, fmode := g.fmode, fflags := g.fflags, utvec := g.utvec, utrap := g.utrap, t1trap := g.t1trap,
                    t2trap := g.t2trap } = g ∧
       { t.tenant g.tn with tvec := tn0.tvec, ptroot := tn0.ptroot, awbase := tn0.awbase, awsize := tn0.awsize, soff := tn0.soff,
                            actbase := tn0.actbase } = tn0 ∧
       { t with cur := s.cur, tenants := s.tenants } = s
     let whole : Word := 0xFFFFFFFF
     let table : List (BitVec 12 × Word) :=
       [(0x010, 0xFF), (0x020, 0xFFFFFFFC), (0x021, whole), (0x022, 0xFF), (0x023, whole), (0x024, whole), (0x025, whole),
        (0x026, whole), (0x040, 0xFFFFFFFC), (0x041, 0xFFFF), (0x042, 0xFF), (0x043, whole), (0x044, 0xFFFF), (0x045, whole),
        (0x046, whole), (0x050, 0xFFFFE000), (0x051, 0xFFFF), (0x056, 1), (0x057, 0xFFF0), (0x060, 0xFF), (0x061, whole),
        (0x062, 0xFFFF), (0x063, whole), (0x064, whole)]
     let window : List (BitVec 12 × Word) := [(0x04D, 0xFFFF0000), (0x04E, 0xFFFF), (0x04F, 0xFFFF0000)]
     let other := n ∉ [0x011, 0x048, 0x049, 0x04D, 0x04E, 0x04F, 0x055]
     let base := if n = 0x04D then tn0.awbase.toNat / 2 ^ 32 * 2 ^ 32 + x.toNat / 65536 * 65536 + tn0.awbase.toNat % 65536
       else if n = 0x04E then tn0.awbase.toNat / 2 ^ 48 * 2 ^ 48 + x.toNat % 65536 * 2 ^ 32 + tn0.awbase.toNat % 2 ^ 32
       else tn0.awbase.toNat
     let size := if n = 0x04F then x.toNat / 65536 * 65536 else tn0.awsize.toNat
     let may := (∀ a ∈ tn0.arenas, a.dying.isSome = true) ∧ base + size ≤ 2 ^ 48 ∧
       (size = 0 ∨ tn0.cisterns = 0 ∨ base + size ≤ tn0.cistern.toNat ∨ tn0.cistern.toNat + tn0.cisterns.toNat ≤ base)
     (n = 0x011 → Runs (.fflagsWrite id) s (takes 0x1F)) ∧
     (n = 0x048 → Runs (.ptrootWrite id) s (takes 0xFFFFF000)) ∧ (n = 0x049 → Runs (.ptrootWrite id) s (takes 0xFF)) ∧
     (n = 0x055 → Runs (.thrashWrite id) s fun t => ∃ v : Word,
       only t { g with csrw := none } { tn0 with thrash := v } ∧ v.toNat % 256 = x.toNat % 256 ∧
       v.toNat / 2 ^ 8 % 4096 = max 1 (x.toNat / 2 ^ 8 % 4096) ∧ v.toNat / 2 ^ 20 = max 1 (x.toNat / 2 ^ 20)) ∧
     (∀ p ∈ window, n = p.1 → (may → Runs (.awindowWrite id) s (takes p.2)) ∧
       (¬may → Runs (.awindowWrite id) s fun t => only t { g with csrw := none } tn0)) ∧
     (∀ p ∈ table, n = p.1 → Runs (.csrWrite id) s (takes p.2)) ∧
     (other → (∀ p ∈ table, n ≠ p.1) → Runs (.csrWrite id) s fun t => only t { g with csrw := none } tn0) ∧
     (n ≠ 0x011 → exec (.fflagsWrite id) s = .next s) ∧ (n ≠ 0x048 → n ≠ 0x049 → exec (.ptrootWrite id) s = .next s) ∧
     (n ∉ [0x04D, 0x04E, 0x04F] → exec (.awindowWrite id) s = .next s) ∧ (n ≠ 0x055 → exec (.thrashWrite id) s = .next s) ∧
     (¬other → exec (.csrWrite id) s = .next s))

/-! ## Memory words -/

/-- Loads, scratchpad loads and plane reads issue one element a lane at the lane's effective address and raise ld; no
register is written until the values arrive (R151, R156, R159 to R161, R249). Stores and scratchpad stores issue each
lane's bytes, read from v(D) upward at issue, and raise st (R150, R156, R159, R160, R249). Atomics issue each lane's
operands, read at issue: `upd` and `updc` return old values and raise ld, `updn` raises st; a crew-scope atomic on a
page with MS = 1 acts as a device-scope one (R156, R162, R163, R249). What the manual leaves open here is the model's
choice of log 22. -/
def Obligations.MemoryWordsIssue : Prop :=
  (∀ (h : Hdr) (st : Bool) (d a o : BitVec 6) (k : BitVec 3),
     (∀ f ∈ loadForms h st d a o, IssuesWhen f.i h .ld (.load d.toNat f.size f.signed) (fun _ => if st then .stream else .load)
       (fun s l => [s.xcheck s.cur rqLoad (effAddr s.cur a o f.size l) f.size])
       fun _ l xs => xs.map fun x => (⟨l, 0, x.pa, f.size, .load⟩, x)) ∧
     (∀ f ∈ spLoadForms h d a o, IssuesWhen f.i h .ld (.load d.toNat f.size f.signed) (fun _ => .load)
       (fun s l => [s.spCheck s.cur (spOff s.cur a o f.size l) f.size .align])
       fun _ l xs => xs.map fun x => (⟨l, 0, x.pa, f.size, .load⟩, x)) ∧
     (∀ i deq, (i = .ldp h k d a o ∧ deq = false) ∨ (i = .ldpF32 h k d a o ∧ deq = true) →
       IssuesWhen i h .ld (.planes d.toNat (k.toNat + 1) deq) (fun _ => .load)
         (fun s l => s.planeCheck s.cur (k.toNat + 1) deq (effAddr s.cur a o 1 l))
         fun _ l xs => xs.mapIdx fun j x =>
           (⟨l, if j = k.toNat + 1 then 9 else j, x.pa, if j = k.toNat + 1 then 4 else 1, .load⟩, x))) ∧
  (∀ (h : Hdr) (d a o : BitVec 6),
     (∀ f ∈ storeForms h d a o, IssuesWhen f.i h .st .store (fun _ => .store)
       (fun s l => [s.xcheck s.cur rqStore (effAddr s.cur a o f.size l) f.size])
       fun s l xs => xs.map fun x => (⟨l, 0, x.pa, f.size, .store (regBytes s.cur d.toNat l f.size)⟩, x)) ∧
     (∀ f ∈ spStoreForms h d a o, IssuesWhen f.i h .st .store (fun _ => .store)
       (fun s l => [s.spCheck s.cur (spOff s.cur a o f.size l) f.size .align])
       fun s l xs => xs.map fun x => (⟨l, 0, x.pa, f.size, .store (regBytes s.cur d.toNat l f.size)⟩, x))) ∧
  (∀ (h : Hdr) (d a o : BitVec 6),
     let chk := fun (f : MemForm) (s : State) l => [s.xcheck s.cur rqAtomic (effAddr s.cur a o f.size l) f.size]
     let els := fun (f : MemForm) (s : State) (l : Nat) (xs : List Loc) =>
       xs.map fun x => ((⟨l, 0, x.pa, f.size, atomOp s.cur f.fn d.toNat l⟩ : El), x)
     (∀ f ∈ updForms h d a o, IssuesWhen f.i h .ld (.atomic d.toNat f.size (f.fn == 1)) (fun _ => .atomic) (chk f) (els f)) ∧
     (∀ f ∈ updcForms h d a o, ∀ ms : Bool, IssuesWhen f.i h .ld (.atomic d.toNat f.size (f.fn == 1))
       (fun _ => if ms then .atomic else .crewAtomic)
       (fun s l => match chk f s l with
         | [.ok x] => if x.ms = ms then [.ok x] else []
         | r => r) (els f)) ∧
     (∀ f ∈ updnForms h d a o, IssuesWhen f.i h .st .store (fun _ => .atomic) (chk f) (els f)))

/-- A memory word with its counter at 63 holds back its chain, one with a translation outstanding does not issue, and
one with a failed check faults with the cause and address of the lowest failing lane, the first check of a plane read
that fails there; none of them writes anything, and the translations that the checks hit are installed (R152, R156,
R161, R270). What the manual leaves open here is the model's choice of logs 18, 20 and 101. -/
def Obligations.MemoryWordsHeldOrFaulting : Prop :=
  ∀ (h : Hdr) (st : Bool) (k : BitVec 3) (d a o : BitVec 6),
    let dev := fun (f : MemForm) (rq : XReq) (s : State) l => s.xcheck s.cur rq (effAddr s.cur a o f.size l) f.size
    let planes := fun (deq : Bool) (s : State) l => firstOf (s.planeCheck s.cur (k.toNat + 1) deq (effAddr s.cur a o 1 l))
    let sp := fun (f : MemForm) (s : State) l => s.spCheck s.cur (spOff s.cur a o f.size l) f.size .align
    (∀ f ∈ loadForms h st d a o, HeldBack f.i h .ld (dev f rqLoad)) ∧
    (∀ f ∈ storeForms h d a o, HeldBack f.i h .st (dev f rqStore)) ∧
    (∀ f ∈ spLoadForms h d a o, HeldBack f.i h .ld (sp f)) ∧ (∀ f ∈ spStoreForms h d a o, HeldBack f.i h .st (sp f)) ∧
    (∀ f ∈ updForms h d a o ++ updcForms h d a o, HeldBack f.i h .ld (dev f rqAtomic)) ∧
    (∀ f ∈ updnForms h d a o, HeldBack f.i h .st (dev f rqAtomic)) ∧
    HeldBack (.ldp h k d a o) h .ld (planes false) ∧ HeldBack (.ldpF32 h k d a o) h .ld (planes true)

/-- The checks of an address in their order (R152, R264, R265): alignment, the cistern in the T modes, the arena tag,
the arena's generation, and with no translation at hand a walk, but CISTERN_MISS in the T modes when the TC misses;
under a translation the permission and the ownership of the place, the basin, the format and the protection bits, and
then the place. A scratchpad offset is checked for alignment and range (R160). What the manual leaves open here is the
model's choice of log 99. -/
def Obligations.AddressChecks : Prop :=
  ∀ (s : State) (g : Group) (rq : XReq) (ea : DWord) (size off : Nat), 0 < size →
    let t := s.tenant g.tn
    let va := ea.toNat % 2 ^ 48
    let tag := ea.toNat / 2 ^ 48
    let tmode := g.mode ≠ .u ∧ rq.eng = false
    let inC := t.cistern.toNat ≤ va ∧ va < t.cistern.toNat + t.cisterns.toNat
    let inW := t.awbase.toNat ≤ va ∧ va < t.awbase.toNat + t.awsize.toNat
    let aligned := size ∣ ea.toNat ∧ (tmode → inC)
    let passed := aligned ∧ (inW ↔ tag ≠ 0) ∧ (inW → ∃ a, t.arenaAt va = some a ∧ a.gen.toNat = tag) ∧
      s.retargeting g.tn va = false
    (¬size ∣ ea.toNat → s.xcheck g rq ea size = .fail .align ea) ∧
    (size ∣ ea.toNat → tmode → ¬inC → s.xcheck g rq ea size = .fail .cisternMiss ea) ∧
    (aligned → ¬(inW ↔ tag ≠ 0) → s.xcheck g rq ea size = .fail .arenaTag ea) ∧
    (aligned → (inW ↔ tag ≠ 0) → inW →
      (∀ r ∈ t.arenas, r.dying = none → r.base ≤ va → va < r.base + r.len → r.gen.toNat ≠ tag) →
      s.xcheck g rq ea size = .fail .arenaDead ea) ∧
    (passed → s.xfind g rq.write va = none →
      let inTc := (s.tcFind g.core g.tn (g.mode == .u) va).isSome = true
      (tmode → ¬inTc → s.xcheck g rq ea size = .fail .cisternMiss ea) ∧
      (¬tmode ∨ inTc → rq.pref = false → s.xcheck g rq ea size = .walk ⟨ea, rq.write, rq.fetch, rq.eng, false, none⟩)) ∧
    (passed → ∀ x, s.xfind g rq.write va = some x →
      let leaf := x.leaf.toNat
      let ty := leaf / 2 ^ 52 % 4
      let bs := leaf / 2 ^ 54 % 16
      let fm := leaf / 2 ^ 58 % 16
      let pa := leafBase x.leaf x.level + (va - x.va)
      let ours := (ty = 0 ∨ t.tperm.getLsbD (ty - 1) = true) ∧ (ty = 0 → pa / 4096 ∈ t.used ∨ pa / 4096 ∈ t.free) ∧
        (ty = 3 → pa / 4096 ∈ t.flash)
      let based := bs = 15 ∨ ∃ b ∈ t.basins, b.defn.id = bs
      let suits := fm ≤ 3 ∧ rq.acc ty fm = true
      let may := (rq.write = true → leaf / 2 ^ 2 % 2 = 1 ∧ ty ≠ 3) ∧ (g.mode = .u → leaf / 2 ^ 4 % 2 = 1) ∧
        (rq.fetch = true → leaf / 2 ^ 3 % 2 = 1)
      (¬ours → s.xcheck g rq ea size = .fail .otherTenant ea) ∧
      (ours → ¬based → s.xcheck g rq ea size = .fail .basinUndefined ea) ∧
      (ours → based → ¬suits → s.xcheck g rq ea size = .fail .formatMismatch ea) ∧
      (ours → based → suits → ¬may → s.xcheck g rq ea size = .fail .protection ea) ∧
      (ours → based → suits → may → ty ≠ 1 → ∃ l, s.xcheck g rq ea size = .ok l ∧ l.pa = pa ∧ l.vpn = va / 4096 ∧
        l.fm = fm ∧ l.va = ea.toNat ∧ (l.ms = true ↔ ty = 0 ∧ leaf / 2 ^ 7 % 2 = 1) ∧ (l.pin = true ↔ leaf / 2 ^ 8 % 2 = 1) ∧
        (ty = 0 → l.cls = .device ∧ l.key = s.keyOf g.tn bs pa) ∧
        (ty = 2 → l.cls = .peer (pa / 2 ^ 44)) ∧ (ty = 3 → l.cls = .flash))) ∧
    (¬size ∣ off → s.spCheck g off size .align = .fail .align (BitVec.ofNat 64 off)) ∧
    (size ∣ off → (s.crew g.crew).scratch < off + size → s.spCheck g off size .align = .fail .spRange (BitVec.ofNat 64 off)) ∧
    (size ∣ off → off + size ≤ (s.crew g.crew).scratch →
      s.spCheck g off size .align = .ok ⟨.scratch, ⟨g.crew, 15, off⟩, off, 0, 0, false, false, off, 0⟩)

/-- Fences hold back their chain until the group's host or peer accesses have drained, `mem.fence.sys` also its stores
(R166). `mem.pref` issues a prefetch of each lane's line whose checks pass, drops the others without a fault, and
raises no counter (R167). `mem.bpref` and its completion (R168, R240): the lines of the range's pages that pass their
checks are named, a misplaced range faults, and the word completes when no line is claimed: then the line named last
is in place, and so is every named line whose way set has room for all the named lines that belong there. What the
manual leaves open here is the model's choice of logs 23 and 31. -/
def Obligations.FencesAndPrefetches : Prop :=
  (∀ (h : Hdr) (s : State), s.cur.lanesP h ≠ 0 →
     let none_ := fun (p : Cls → Prop) => ∀ a ∈ s.flow.accs, a.grp = s.cur.id → a.kind ≠ .pref → ¬p a.cls
     let hostOk := s.cur.hostQ = [] ∧ none_ (· = .host)
     let peerOk := s.cur.peerQ = [] ∧ none_ (∃ d, · = .peer d)
     let held := { s with ctx := { s.ctx with stop := true, moved := true, stalled := true } }
     (Passes (.memFenceHost h) s → (hostOk → exec (.memFenceHost h) s = .next s) ∧
       (¬hostOk → exec (.memFenceHost h) s = .next held)) ∧
     (Passes (.memFencePeer h) s → (peerOk → exec (.memFencePeer h) s = .next s) ∧
       (¬peerOk → exec (.memFencePeer h) s = .next held)) ∧
     (Passes (.memFenceSys h) s → (hostOk ∧ peerOk ∧ s.cur.st = 0 → exec (.memFenceSys h) s = .next s) ∧
       (¬(hostOk ∧ peerOk ∧ s.cur.st = 0) → exec (.memFenceSys h) s = .next held))) ∧
  (∀ (h : Hdr) (a o : BitVec 6) (s : State), Passes (.memPref h a o) s → s.cur.lanesP h ≠ 0 →
     let line := fun l => (effAddr s.cur a o 128 l) &&& ~~~127#64
     let P := s.cur.lanesP h
     (∀ l, l < 32 → inMask P l = true → (s.xcheck s.cur rqPref (line l) 128).open = false) →
     Runs (.memPref h a o) s fun t =>
       t.cur = { s.cur with
         dropped := s.cur.dropped.filter (fun p => !(lanesOf P).any fun l => vaOf (line l) / 4096 == p), seq := s.cur.seq + 1 } ∧
       t.hbm = s.hbm ∧ t.groups = s.groups ∧ t.flow.homes = s.flow.homes ∧ t.ctx.stop = s.ctx.stop ∧
       ∃ as, t.flow.accs = s.flow.accs ++ as ∧ (∀ x ∈ as, x.kind = .pref ∧ x.grp = s.cur.id) ∧
         (∀ l, l < 32 → inMask P l = true → ∀ x, s.xcheck s.cur rqPref (line l) 128 = .ok x →
           ∃ y ∈ as, y.cls = x.cls ∧ (x.cls ≠ .scratch → y.key = x.key) ∧ ∃ e ∈ y.els, e.lane = l ∧ e.pa = x.pa)) ∧
  (∀ (h : Hdr) (d : BitVec 6) (n : BitVec 4) (s : State),
     let va := s.cur.getS2 d.toNat
     let len := (s.cur.getS (d.toNat + 2)).toNat
     let pgs := pagesOf va.toNat len
     let chk := fun p : Nat => s.xcheck s.cur rqPref (BitVec.ofNat 64 (p * 4096)) 1
     let fits := va.toNat < 2 ^ 48 ∧ va.toNat + len ≤ 2 ^ 48
     (s.cur.lanesP h ≠ 0 → Passes (.memBpref h d n) s →
       (¬fits → exec (.memBpref h d n) s = .next (s.fault .align va)) ∧
       (fits → 0 < len → (∀ p ∈ pgs, (chk p).open = false) → Runs (.memBpref h d n) s fun t =>
         ∃ x keys, Launched (s.onCur fun g => { g with dropped := g.dropped.filter fun p => !pgs.contains p }) t x ∧
           x.kind = .bpref keys ∧ x.ctr = none ∧ AttachesTo s n x.bar ∧
           ∀ p ∈ pgs, ∀ y, chk p = .ok y → y.cls = .device → y.key.bs ≠ 15 →
             ∀ i, p * 4096 + i < va.toNat + len → va.toNat ≤ p * 4096 + i → i < 4096 → y.vpn = p → ∃ k ∈ keys,
               k.1.tn = (s.keyOf s.cur.tn y.key.bs (y.pa + i)).tn ∧ k.1.line ≤ y.pa + i ∧ y.pa + i < k.1.line + s.lineLen k.1)) ∧
     (∀ (x : Xfer) (keys : List (HomeKey × Nat)), s.flow.xfers.find? (·.id == x.id) = some x → x.kind = .bpref keys →
       ((∃ k ∈ keys, s.open_ k.1 = false) → exec (.bprefComplete x.id) s = .next s) ∧
       ((∀ k ∈ keys, s.open_ k.1 = true) → Runs (.bprefComplete x.id) s fun t => Retired s t x ∧
         (∀ k, keys.getLast? = some k → (t.home? k.1).isSome = true) ∧
         ∀ k ∈ keys, (∀ b, s.liveBasin k.1.tn k.1.bs = some b → let bank := b.bankOf false k.1.line
             (∀ y ∈ s.flow.homes, y.key = k.1 → y.old = false) ∧
             (s.setLines k.1 b bank).length + (keys.filter fun j => j.1.tn == k.1.tn && j.1.bs == k.1.bs &&
               b.bankOf false j.1.line == bank && setOf b.defn j.1.line == setOf b.defn k.1.line).length ≤ b.defn.ways) →
           (t.home? k.1).isSome = true)))

/-! ## The ordering machine -/

/-- PERFORM_LOAD, RENEW and STREAM_LOAD (R249): the value each lane receives, the time the group joins, and what the
home and the copies keep. `h` is the line's home once the access has been counted and the line looked up. A
dequantising plane read reads its scale slots in the same step as its planes (R161): the step of one of its accesses
takes all of them, or none. PREFETCH at a home and of a flash line (R249): the copy's lease is taken at the home, and
the group's time stays. What the manual leaves open here is the model's choice of logs 21, 69, 74, 79, 96 and 102. -/
def Obligations.LoadsPerform : Prop :=
  (∀ (s : State) (id : Nat) (a : Access) (w : PendWord) (h : Home), InFlight s id a w → Alone s a w → s.mayPerform a = true →
     let s0 := (s.missed a).allocate a.key
     let now := s.timeOf a.grp
     let home := s.open_ a.key = true ∧ s.ownerOf a.key = none ∧ (s.liveBasin a.key.tn a.key.bs).isSome = true ∧
       a.cls = .device ∧ s.hit a = false ∧ s0.home? a.key = some h
     let clean := s0.homePoison a.key h.key.line (s.lineLen a.key) = false
     let inside := fun e : El => e.pa % s.chunkLen a.key + e.len ≤ s.chunkLen a.key
     (a.isLoad = true → (a.cls = .device ∨ a.cls = .flash) → s.hit a = true → s.dev.poison.contains (.homeEntry a.key) = false → Runs (.performLoad id) s fun t =>
       let shown := fun (x : L1Line) => ∃ c ∈ s.chunks a.key a.els, s.l1? a.core a.key c = some x ∧ x.flash = false
       t.acc? id = none ∧ now ≤ t.timeOf a.grp ∧ (∀ x, shown x → x.wts ≤ t.timeOf a.grp) ∧
       (t.timeOf a.grp = now ∨ ∃ x, shown x ∧ t.timeOf a.grp = x.wts) ∧
       (∀ e ∈ a.els, ∀ x, s.l1? a.core a.key e.pa = some x → Got t a (e.lane, e.part, x.data.getList e.pa e.len)) ∧
       t.hbm = s.hbm ∧ t.flow.homes = s.flow.homes ∧ t.dev.host = s.dev.host) ∧
     (a.kind = .load → home → Runs (.renew id) s fun t =>
       Performed t a (max now h.wts) ∧
       (∃ h', t.home? a.key = some h' ∧ h'.wts = h.wts ∧ h'.data = h.data ∧ h'.rts = max h.rts (max now h.wts + 16)) ∧
       (clean → (∀ x ∈ (s0.core a.core).l1, x.key ≠ a.key) →
         ∀ e ∈ a.els, inside e → Got t a (e.lane, e.part, h.data.getList e.pa e.len))) ∧
     (a.kind = .stream → home → Runs (.streamLoad id) s fun t =>
       Performed t a (max now h.wts) ∧
       (∃ h', t.home? a.key = some h' ∧ h'.wts = h.wts ∧ h'.data = h.data ∧ h'.rts = max h.rts (max now h.wts)) ∧
       ∀ e ∈ a.els, Got t a (e.lane, e.part, h.data.getList e.pa e.len))) ∧
  (∀ (s : State) (id : Nat) (a : Access) (w : PendWord) (i : Instr), s.acc? id = some a → s.word? a.word = some w →
     w.kind.oneStep = true → (∀ x ∈ s.flow.xfers, x.id ≠ id) → a.isLoad = true →
     i ∈ [.performLoad id, .renew id, .streamLoad id, .baseDieAccess id, .readHost id, .readPeer id, .flashData id] →
     Runs i s fun t => t = s ∨ ∀ y ∈ t.flow.accs, y.word ≠ a.word) ∧
  (∀ (s : State) (id : Nat) (a : Access), s.acc? id = some a → a.kind = .pref →
     (a.cls = .flash → Runs (.prefetch id) s fun t => Performed t a (s.timeOf a.grp) ∧ t.hbm = s.hbm ∧
       t.flow.homes = s.flow.homes) ∧
     (a.cls ≠ .flash → a.cls ≠ .device ∨ s.liveBasin a.key.tn a.key.bs = none → Runs (.prefetch id) s fun t =>
       Performed t a (s.timeOf a.grp) ∧ t.hbm = s.hbm ∧ t.flow.homes = s.flow.homes ∧ t.cores = s.cores) ∧
     (a.cls = .device → (s.liveBasin a.key.tn a.key.bs).isSome = true → s.open_ a.key = true → s.ownerOf a.key = none →
       ∀ h, (s.allocate a.key).home? a.key = some h → Runs (.prefetch id) s fun t =>
         Performed t a (s.timeOf a.grp) ∧ ∃ h', t.home? a.key = some h' ∧ h'.wts = h.wts ∧ h'.data = h.data ∧
           h'.rts = max h.rts (max (s.timeOf a.grp) h.wts + 16)))

/-- PERFORM_STORE at a resident line (R234, R249): the store's bytes at the home, wts after every read and write of
the line, the group's time at wts, and the st counter down with the word's last access. PERFORM_ATOMIC at a resident
line's home (R164, R249): the lanes act in ascending order on the line, with wts after every read and write of it; the
old values return to a word that takes them, and the counter of a word without a destination falls with its last
access. What the manual leaves open here is the model's choice of logs 21, 26 and 104. -/
def Obligations.StoresAndAtomicsPerform : Prop :=
  (∀ (s : State) (id : Nat) (a : Access) (w : PendWord) (b : Basin) (h : Home), s.acc? id = some a →
     (s.grp? a.grp).isSome = true → s.word? a.word = some w → w.kind = .store → a.kind = .store → a.cls = .device →
     s.mayPerform a = true → s.open_ a.key = true → s.ownerOf a.key = none → a.key.bs ≠ 15 →
     s.liveBasin a.key.tn a.key.bs = some b → (if s.hit a then s else s.missed a).home? a.key = some h →
     Runs (.performStore id) s fun t =>
       let wts := max (s.timeOf a.grp) (max (h.rts + 1) (h.wts + 1))
       Performed t a wts ∧
       (∃ h', t.home? a.key = some h' ∧ h'.data = storeEls h.data a.els ∧ h'.wts = wts ∧ h'.rts = h.rts ∧
         (h'.dirty = true ↔ h.dirty = true ∨ b.defn.write ≠ 1)) ∧
       ((∀ y ∈ s.flow.accs, y.word = a.word → y.id = a.id) → w.grp = a.grp →
         (t.grp? a.grp).map (·.ctr w.ctr) = (s.grp? a.grp).map fun g => g.ctr w.ctr - 1)) ∧
  (∀ (s : State) (id : Nat) (a : Access) (w : PendWord) (h : Home), s.acc? id = some a → (s.grp? a.grp).isSome = true →
     s.word? a.word = some w → a.kind = .atomic → a.cls = .device →
     s.mayPerform a = true → s.open_ a.key = true → s.ownerOf a.key = none → a.key.bs ≠ 15 → s.capAcc a = true →
     (s.liveBasin a.key.tn a.key.bs).isSome = true → (if s.hit a then s else s.missed a).home? a.key = some h →
     s.homePoison a.key a.key.line (s.lineLen a.key) = false → Runs (.performAtomic id false) s fun t =>
       let run := runAtoms a.els h.data
       let now := max (s.timeOf a.grp) h.wts
       let wts := max now (max (h.rts + 1) (h.wts + 1))
       Performed t a wts ∧
       (∃ h', t.home? a.key = some h' ∧ h'.data = run.mem ∧ h'.wts = wts ∧ h'.rts = h.rts) ∧
       (w.kind.dest.isSome = true → ∀ x ∈ run.got, Got t a x) ∧
       (∀ x, t.word? a.word = some x → x.flags = w.flags ++ run.flags) ∧
       (w.kind = .store → (∀ y ∈ s.flow.accs, y.word = a.word → y.id = a.id) → w.grp = a.grp →
         (t.grp? a.grp).map (·.ctr w.ctr) = (s.grp? a.grp).map fun g => g.ctr w.ctr - 1))

/-- What one atomic element does (R162, R165): the old value returns, and the new one is the function's of the old
value and the operands; `fadd` adds in f32 in the mode and under the FZ of its word, raises the flags of that sum, and
gives and returns the canonical NaN for any NaN; the lanes of a word on one address take effect one after another. The
bytes that the stores of one word leave (R155): each byte takes the value of the highest lane that writes it, every
other byte is as before. -/
def Obligations.AtomicFunctionsAndStoredBytes : Prop :=
  (∀ (rm : BitVec 2) (fz : Bool) (o x y : Word) (p q r : DWord),
     let f := fun fn : BitVec 4 => ((atomFn fn rm fz (o.setWidth 64) (x.setWidth 64) (y.setWidth 64)).1.toNat : Int)
     let g := fun fn : BitVec 4 => (atomFn fn rm fz p q r).1.toNat
     f 0 = (o.toNat + x.toNat) % 2 ^ 32 ∧ f 2 = (Ref.word (min o.toInt x.toInt)).toNat ∧
     f 3 = (Ref.word (max o.toInt x.toInt)).toNat ∧ f 4 = min o.toNat x.toNat ∧ f 5 = max o.toNat x.toNat ∧
     f 6 = (o &&& x).toNat ∧ f 7 = (o ||| x).toNat ∧ f 8 = (o ^^^ x).toNat ∧ f 9 = x.toNat ∧
     f 10 = (if o = x then y.toNat else o.toNat) ∧ g 11 = (p.toNat + q.toNat) % 2 ^ 64 ∧ g 12 = q.toNat ∧
     g 13 = (if p = q then r.toNat else p.toNat) ∧
     (let v := atomFn 1 rm fz (o.setWidth 64) (x.setWidth 64) (y.setWidth 64)
      let sum := f32.add (rmOf (rm.setWidth 8)) fz (f32.read fz o.toNat) (f32.read fz x.toNat)
      v.1.toNat = sum.1 ∧ v.2 = sum.2 ∧
       ((f32.decode o.toNat).isNan = true ∨ (f32.decode x.toNat).isNan = true → v.1 = 0x7FC00000 ∧
         v.2 = if (f32.decode o.toNat).isSig || (f32.decode x.toNat).isSig then fNV else 0) ∧
       (fz = true → ∀ n m e, f32.decode o.toNat = .fin n m e → m < 2 ^ 23 → f32.read fz o.toNat = .fin n 0 e) ∧
       atomOld 1 (leBytes o.toNat 4) = if (f32.decode o.toNat).isNan then leBytes 0x7FC00000 4 else leBytes o.toNat 4) ∧
     (∀ fn : BitVec 4, fn ≠ 1 → (atomFn fn rm fz p q r).2 = 0) ∧
     (∀ (m : SMap 8) (a : Nat) (fn : BitVec 4) (u v u' v' : DWord) (l k : Nat),
       let e : El := ⟨l, 0, a, 4, .atomic fn u v rm fz⟩
       let e' : El := ⟨k, 0, a, 4, .atomic fn u' v' rm fz⟩
       let old := BitVec.ofNat 64 (leNat (m.getList a 4))
       let mid := (atomFn fn rm fz old u v).1.toNat
       fn.toNat < 11 → (runAtoms [e, e'] m).got = [(l, 0, atomOld fn (m.getList a 4)),
         (k, 0, atomOld fn (leBytes mid 4))])) ∧
  (∀ (m : SMap 8) (els : List El) (j : Nat), (∀ e ∈ els, ∃ d, e.op = .store d) →
     ((∀ e ∈ els, ∀ d, e.op = .store d → ¬(e.pa ≤ j ∧ j < e.pa + d.length)) → (storeEls m els).get j = m.get j) ∧
     (∀ pre e post d, els = pre ++ e :: post → e.op = .store d → e.pa ≤ j → j < e.pa + d.length →
       (∀ e' ∈ post, ∀ d', e'.op = .store d' → ¬(e'.pa ≤ j ∧ j < e'.pa + d'.length)) →
       (storeEls m els).get j = d.getD (j - e.pa) 0))

/-- BASE_DIE_ACCESS (R249): a load reads memory and joins the line's wts; a store writes its bytes and no other, with
a wts after every access of the line; an atomic returns the old values. RECALL and RECOVER (R234, R255, R259): a line
that another agent's access meets, or that is on its way home, has no owner afterwards, its data, wts and rts are back
at its home, and no L1 holds it exclusively; a write-through basin passes the data on to memory, any other marks the
line dirty. A lost entry is rebuilt with the largest timestamp of its basin and reports RAS_HOME_LOST. SP_ACCESS
(R249, R252, R261): a scratchpad load takes the crew's bytes, and a store leaves its own there; the group's time joins
every write that a lease copy does not show. What the manual leaves open here is the model's choice of logs 14 and 21.
-/
def Obligations.HomeSteps : Prop :=
  (∀ (s : State) (id : Nat) (a : Access) (w : PendWord), s.acc? id = some a → (s.grp? a.grp).isSome = true →
     s.word? a.word = some w → a.kind ≠ .pref → a.cls = .device → s.liveBasin a.key.tn a.key.bs = none →
     Alone s a w → s.mayPerform a = true → s.open_ a.key = true → s.capAcc a = true → (∀ e ∈ a.els, s.elPoison a.key e = false) →
     let st := (s.missed a).stamps a.key
     let now := s.timeOf a.grp
     Runs (.baseDieAccess id) s fun t =>
       (a.isLoad = true → Performed t a (max now st.1) ∧ t.hbm = (s.missed a).hbm ∧
         (w.kind.dest.isSome = true → ∀ e ∈ a.els, Got t a (e.lane, e.part, s.hbm.getList e.pa e.len))) ∧
       (a.kind = .store → Performed t a (max now (max (st.2 + 1) (st.1 + 1))) ∧
         t.hbm = writeEls (s.missed a).hbm a.els (storeEls s.hbm a.els) ∧
         ∀ j, (∀ e ∈ a.els, ¬(e.pa ≤ j ∧ j < e.pa + e.len)) → t.hbm.get j = (s.missed a).hbm.get j) ∧
       (a.isLoad = false → a.kind ≠ .store →
         let n1 := max now st.1
         Performed t a (max n1 (max (max st.2 n1 + 1) (st.1 + 1))) ∧
         t.hbm = writeEls (s.missed a).hbm a.els (runAtoms a.els s.hbm).mem ∧
         (w.kind.dest.isSome = true → ∀ x ∈ (runAtoms a.els s.hbm).got, Got t a x) ∧
         (w.kind = .store → (∀ y ∈ s.flow.accs, y.word = a.word → y.id = a.id) → w.grp = a.grp →
           (t.grp? a.grp).map (·.ctr w.ctr) = (s.grp? a.grp).map fun g => g.ctr w.ctr - 1))) ∧
  (∀ (s : State) (k : HomeKey) (h : Home), s.home? k = some h →
     (∀ c, h.owner = some c →
       (∃ b ∈ s.flow.wbs, b.key = k) ∨ (∃ a ∈ s.flow.accs, a.cls = .device ∧ a.key = k ∧
         (a.core ≠ c ∨ a.kind = .store ∨ a.kind = .atomic ∨ s.ownsAll a = false)) → Runs (.recall k) s fun t =>
       (∃ h', t.home? k = some h' ∧ h'.owner = none ∧ h.wts ≤ h'.wts ∧ h.rts ≤ h'.rts ∧
         (∀ x ∈ (s.core c).l1, x.excl = true → x.key = k → x.wts ≤ h'.wts ∧ x.rts ≤ h'.rts) ∧
         (∀ x, (s.core c).l1.filter (fun y => y.excl && y.key == k) = [x] → s.flow.wbs.filter (·.key == k) = [] →
           h'.data = h.data.copyRange x.data x.pa (x.pa + s.chunkLen k) ∧ (s.through k = false → h'.dirty = true) ∧
           (s.through k = true → s.dev.poison.contains (.basin k) = false → s.dev.poison.contains (.l1 c x.pa) = false →
             t.hbm = s.hbm.setList x.pa (x.data.getList x.pa (s.chunkLen k))))) ∧
       (∀ x ∈ (t.core c).l1, ¬(x.excl = true ∧ x.key = k)) ∧ (∀ b ∈ t.flow.wbs, b.key ≠ k) ∧
       (s.through k = false → t.hbm = s.hbm) ∧ t.cur = s.cur ∧ t.groups = s.groups) ∧
     (h.owner = none → exec (.recall k) s = .next s) ∧
     (s.dev.poison.contains (.homeEntry k) = true → ∀ t0, s.tenants.find? (·.id == k.tn) = some t0 →
       Runs (.recover k) s fun t =>
         (∃ h', t.home? k = some h' ∧ h'.owner = none ∧ h'.wts = s.largest k.tn k.bs ∧ h'.rts = s.largest k.tn k.bs) ∧
         t.dev.poison.contains (.homeEntry k) = false ∧ (∀ b ∈ t.flow.wbs, b.key ≠ k) ∧
         (∃ v, (Cause.rasHomeLost, v) ∈ (t.tenant k.tn).events) ∧ t.hbm = s.hbm ∧ t.cur = s.cur ∧ t.groups = s.groups)) ∧
  (∀ (s : State) (id : Nat) (a : Access) (w : PendWord), s.acc? id = some a → s.word? a.word = some w → a.cls = .scratch →
     s.mayPerform a = true → (∀ e ∈ a.els, s.spHeld a.key.tn e.pa e.len (!a.isLoad) = false) →
     (a.isLoad = true → w.kind.dest.isSome = true → Runs (.spAccess id) s fun t =>
       t.acc? id = none ∧ (∀ e ∈ a.els, Got t a (e.lane, e.part, s.spRead a.key.tn e.pa e.len)) ∧ t.cores = s.cores ∧
       t.hbm = s.hbm ∧ ((s.grp? a.grp).isSome = true → CaughtUp s t a.grp a.tn)) ∧
     (a.isLoad = false → Runs (.spAccess id) s fun t =>
       t.acc? id = none ∧ ((s.grp? a.grp).isSome = true → CaughtUp s t a.grp a.tn) ∧ t.hbm = s.hbm ∧ t.dev.host = s.dev.host ∧
       ∀ e d, a.els = [e] → e.op = .store d → e.pa % 4096 + d.length ≤ 4096 → t.spRead a.key.tn e.pa d.length = d))

/-- The host and peer steps (R246, R249, R253, R261): a write enters its queue and performs from its head in order, a
read takes the value at its home, and as they act the group's time joins every write that a lease copy does not show.
What the manual leaves open here is the model's choice of logs 21, 23, 70 and 71. -/
def Obligations.HostAndPeerSteps : Prop :=
  ∀ (s : State) (id : Nat) (a : Access) (w : PendWord) (g : Group) (n : Nat), s.grp? n = some g →
    (s.acc? id = some a → s.word? a.word = some w → s.mayPerform a = true → a.grp = n →
      (a.kind = .store → a.cls = .host → Runs (.enqueueHost id) s fun t => t.acc? id = none ∧
        (t.grp? n).map (·.hostQ) = some (g.hostQ ++ [s.queued a]) ∧ t.dev.host = s.dev.host) ∧
      (∀ d, a.isLoad = false → a.kind ≠ .pref → a.cls = .peer d → Runs (.enqueuePeer id) s fun t => t.acc? id = none ∧
        (t.grp? n).map (·.peerQ) = some (g.peerQ ++ [(d, s.queued a)]) ∧ t.dev.peers = s.dev.peers) ∧
      (w.kind.dest.isSome = true → (s.nodeOf g).cap = none → a.isLoad = true → Alone s a w →
        (a.cls = .host → Runs (.readHost id) s fun t => t.acc? id = none ∧ t.dev.host = s.dev.host ∧
          CaughtUp (s.missed a) t n a.tn ∧ ∀ e ∈ a.els, Got t a (e.lane, e.part, s.dev.host.getList e.pa e.len)) ∧
        (∀ d, a.cls = .peer d → s.reaches d = true → Runs (.readPeer id) s fun t => t.acc? id = none ∧
          t.dev.peers = s.dev.peers ∧ CaughtUp (s.missed a) t n a.tn ∧
          ∀ e ∈ a.els, Got t a (e.lane, e.part, (s.peerMem d).getList e.pa e.len)))) ∧
    (∀ q rest, g.hostQ = q :: rest → Runs (.drainHost n) s fun t =>
      t.dev.host = storeEls s.dev.host q.els ∧ (t.grp? n).map (·.hostQ) = some rest ∧ t.hbm = s.hbm ∧
      t.dev.peers = s.dev.peers ∧ t.flow = s.flow ∧ CaughtUp s t n g.tn) ∧
    (∀ d q, g.peerQ.find? (·.1 == d) = some q → s.reaches d = true →
      (q.2.atomic = true → s.capMay g q.2.line q.2.seq = true) → Runs (.drainPeer n d) s fun t =>
      t.peerMem d = (runAtoms q.2.els (s.peerMem d)).mem ∧ (∀ e, e ≠ d → t.peerMem e = s.peerMem e) ∧
      (t.grp? n).map (·.peerQ) = some (g.peerQ.erase q) ∧ t.hbm = s.hbm ∧ t.dev.host = s.dev.host ∧ CaughtUp s t n g.tn)

/-- Values arrive (R56, R150, R156, R159, R161, R162, R165): the lanes whose elements did not fail receive the loaded
value, the plane read's or the atomic's old value, extended as the word says, the exceptions of a dequantising read
and of `fadd` set their flags, and the counter falls; no other register changes. With an enabled exception every
register is kept, and the cause is held pending with the mask of the lanes that raised it. A plane read's value (R58,
R59, R62, R161): the top k bits of the element's eight, as a signed number; dequantised, that number times 2^(8−k) and
the block's scale rounded once, and the canonical NaN with an invalid scale. What the manual leaves open here is the
model's choice of logs 18, 66 and 85. -/
def Obligations.LoadedValues : Prop :=
  (∀ (w : PendWord) (d n : Nat),
     (∀ sg, w.kind = .load d n sg → n ∈ [1, 2, 4, 8, 16] →
       Arrives w d n sg (fun _ _ => 0) fun _ l => leNat ((w.part l 0).take n)) ∧
     (∀ fl, w.kind = .atomic d n fl → n ∈ [4, 8] → Arrives w d n false
       (fun _ l => if fl then (w.flags.filter (·.1 == l)).foldl (fun a x => a ||| x.2) 0 else 0)
       fun _ l => leNat ((w.part l 0).take n)) ∧
     (∀ k deq, w.kind = .planes d k deq →
       let t := fun l => planeInt k (leNat (w.part l 8)) (w.part l)
       let f := fun (g : Group) l => planeF32 g.fmode k (t l) (if w.part l 9 = [] then none else some (leNat (w.part l 9)))
       Arrives w d 4 false (fun g l => if deq then (f g l).2 else 0)
         fun g l => if deq then (f g l).1 else (t l % 2 ^ 32).toNat)) ∧
  (∀ (v : BitVec 8) (k bit : Nat) (byteOf : Nat → List Byte), 1 ≤ k → k ≤ 8 →
     (∀ p, p < k → leNat (byteOf p) / 2 ^ bit % 2 = (if v.getLsbD (7 - p) then 1 else 0)) →
     planeInt k bit byteOf = v.toInt / 2 ^ (8 - k) ∧
     (∀ (mode : BitVec 8) (m : Nat) (e : Int) (slot : Nat), s20Value slot = some (m, e) →
       planeF32 mode k (planeInt k bit byteOf) (some slot) =
         f32.roundV (rmOf mode) (fzOf mode) false (decide (v.toInt / 2 ^ (8 - k) < 0))
           ((v.toInt / 2 ^ (8 - k)).natAbs * 2 ^ (8 - k) * m) e) ∧
     (∀ (mode : BitVec 8), planeF32 mode k (planeInt k bit byteOf) none =
         f32.roundV (rmOf mode) (fzOf mode) false (decide (v.toInt / 2 ^ (8 - k) < 0))
           ((v.toInt / 2 ^ (8 - k)).natAbs * 2 ^ (8 - k)) 0) ∧
     (∀ (mode : BitVec 8) (slot : Nat), s20Value slot = none →
       planeF32 mode k (planeInt k bit byteOf) (some slot) = (f32.nan, fSI)))

/-- Logical time, monitors, flash data and remote errors (R153, R154, R169, R170, R247, R249). What the manual leaves
open here is the model's choice of logs 18 and 73. -/
def Obligations.TimeAndWaitingSteps : Prop :=
  ∀ (s : State) (n : Nat) (g : Group), s.grp? n = some g →
    (g.due ≠ 0 → Runs (.tick n) s fun t => t.grp? n = some { g with due := g.due - 1, ltime := g.ltime + 1 } ∧
      t.hbm = s.hbm ∧ t.flow = s.flow ∧ t.dev = s.dev) ∧
    (∀ m x, s.flow.mons.find? (·.id == m) = some x → x.grp = n → ∀ u, x.met = some u → (s.nodeOf g).cap = none →
      Runs (.wake m) s fun t => (∀ y ∈ t.flow.mons, y.id ≠ m) ∧ ∃ k, t.grp? n = some k ∧ k.ltime = max g.ltime u ∧
        k.sets = g.sets.map fun q => if q.cond == .monitor m then { q with cond := .deferred } else q) ∧
    (∀ id a w, InFlight s id a w → Alone s a w → a.isLoad = true → a.cls = .flash → s.mayPerform a = true →
      (∀ x ∈ s.flow.xfers, x.id ≠ id) → Runs (.flashData id) s fun t => t.acc? id = none ∧
        ∀ e ∈ a.els, Got t a (e.lane, e.part, s.dev.flash.getList e.pa e.len)) ∧
    (∀ id a w, InFlight s id a w → a.grp = n → a.isLoad = true → a.cls = .host → s.mayPerform a = true →
      (∀ x ∈ s.flow.xfers, x.id ≠ id) → (∀ k ∈ s.allGroups, k.id ≠ id) → Runs (.remoteErrorCompletion id) s fun t => t.acc? id = none ∧
        (∃ k v, t.grp? n = some k ∧ (Cause.remoteError, v) ∈ k.pend ∧
          (¬g.pend.any (·.1 == .remoteError) = true → v = BitVec.ofNat 64 a.va)) ∧
        ∃ w', t.word? a.word = some w' ∧ ∀ e ∈ a.els, e.lane < 32 → inMask w'.fails e.lane = true) ∧
    (∀ m x l r, s.flow.mons.find? (·.id == m) = some x → x.grp = n → x.table = false → x.poll ≤ s.dev.cycle →
      let h := { g with mode := ((g.sets.find? (·.cond == .monitor m)).map (·.path.tag.mode)).getD g.mode }
      s.xcheck h rqLoad x.ea 4 = .ok l → ((s.xuse h [.ok l]).countRead h l).readWord g l 4 = some r →
      let v := wordVal r.2.1
      let met := if x.cond = .chg then v ≠ x.w else x.cond.holds v x.x = true
      ((s.nodeOf g).cap = none → r.2.2 = none → met → Runs (.monitorPoll m) s fun t => (∀ y ∈ t.flow.mons, y.id ≠ m)) ∧
      ((s.nodeOf g).cap = none → r.2.2 = none → ¬met → Runs (.monitorPoll m) s fun t =>
        ∃ y ∈ t.flow.mons, y.id = m ∧ y.poll = s.dev.cycle + 4096) ∧
      (∀ c, r.2.2 = some c → Runs (.monitorPoll m) s fun t =>
        (∃ y ∈ t.flow.mons, y.id = m) ∧ ∃ k v, t.grp? n = some k ∧ (c, v) ∈ k.pend))

/-! ## Barriers, musters, rings, futures, monitors -/

/-- The barrier words (R173, R174): what each does to barrier `n` of its crew, and when it faults. What the manual
leaves open here is the model's choice of logs 29 and 30. -/
def Obligations.BarrierWords : Prop :=
  ∀ (h : Hdr) (s : State) (k : BitVec 10) (n : BitVec 4) (m : BitVec 3) (c : Crew), s.cur.lanesP h ≠ 0 →
    s.crews.find? (·.id == s.cur.crew) = some c → n.toNat < c.bars.length →
    let b := c.bars.getD n.toNat Barrier.invalid
    let now := fun t : State => (t.crew s.cur.crew).bars.getD n.toNat Barrier.invalid
    let only := fun t : State => { t with crews := s.crews } = s
    let waits := fun (p : Machine.PSet) => p.cond = .barrier n false ∨ p.cond = .barrier n true
    let busy := b.valid = true ∧ ((∃ g ∈ s.allGroups, g.crew = s.cur.crew ∧ g.id ≠ 0 ∧ ∃ p ∈ g.sets, waits p) ∨ 0 < b.att)
    let val := n.setWidth 64
    let phase := ((b.last.find? (·.1 == s.cur.id)).map (·.2)).getD b.phase
    let open_ := b.valid = true ∧ b.exp ≠ 0 ∧ b.arr ≠ b.exp
    let arrived := fun (t : State) (d : Nat) =>
      now t = { b with arr := b.arr + 1, unobs := b.unobs + 1, drops := b.drops + d,
                       last := (s.cur.id, b.phase) :: b.last.filter (·.1 != s.cur.id) } ∧
      ∃ g, t.flow.sigs = s.flow.sigs ++ [g] ∧ g.kind = .arrive s.cur.crew n ∧ g.grp = s.cur.id
    let init := fun (i : Instr) (x : Bool) => Passes i s →
      (busy → exec i s = .next (s.fault .barBusy val)) ∧
      (¬busy → Runs i s fun t => now t = ⟨true, k.toNat, x, 0, false, 0, 0, false, 0, 0, 0, false, []⟩ ∧ only t)
    let arr := fun (i : Instr) (d : Nat) => Passes i s →
      (open_ → Runs i s fun t => arrived t d ∧ t.cur = s.cur ∧ t.groups = s.groups ∧ t.hbm = s.hbm) ∧
      (b.valid = false → exec i s = .next (s.fault .barInvalidated val)) ∧
      (b.valid = true → b.exp = 0 ∨ b.arr = b.exp → exec i s = .next (s.fault .barOverarrive val))
    init (.barInit h k n) false ∧ init (.barInitX h k n) true ∧ arr (.barArr h n) 0 ∧ arr (.barDrop h n) 1 ∧
    (Passes (.barWait h n) s →
      (b.valid = false → exec (.barWait h n) s = .next (s.fault .barInvalidated val)) ∧
      (b.valid = true → b.phase = phase → Runs (.barWait h n) s fun t => t.cur.path.mask = 0 ∧
        (∃ p ∈ t.cur.sets, p.cond = .barrier n b.phase ∧ p.path = s.cur.path.advance s.ctx.pc s.ctx.next) ∧
        { t with cur := s.cur, ctx := s.ctx } = s) ∧
      (b.valid = true → b.phase ≠ phase → exec (.barWait h n) s = .next (s.onCur (·.report b.doneT b.doneC)))) ∧
    (Passes (.barTest h m n) s →
      (b.valid = false → exec (.barTest h m n) s = .next (s.fault .barInvalidated val)) ∧
      (b.valid = true → b.phase = phase → Runs (.barTest h m n) s fun t => WritesG s t m.toNat s.cur.live fun _ => false) ∧
      (b.valid = true → b.phase ≠ phase → Runs (.barTest h m n) s fun t =>
        ∃ u, WritesG s u m.toNat s.cur.live (fun _ => true) ∧ t = u.onCur (·.report b.doneT b.doneC))) ∧
    (Passes (.barInval h m n) s →
      (0 < b.att → Runs (.barInval h m n) s fun t => WritesG s t m.toNat s.cur.live fun _ => false) ∧
      (b.att = 0 → Runs (.barInval h m n) s fun t => now t = { b with valid := false } ∧
        (∀ l, l < 32 → m ≠ 0 → inMask s.cur.live l = true → inMask (t.cur.getG m.toNat) l = true) ∧
        t.groups = s.groups.map fun g => if g.crew = s.cur.crew ∧ g.id ≠ 0 then
          { g with sets := g.sets.map fun p => if waits p then { p with cond := .fault .barInvalidated val } else p } else g)) ∧
    (Passes (.barArrw h n) s → open_ → Runs (.barArrw h n) s fun t => arrived t 0 ∧ t.cur.path.mask = 0 ∧
      ∃ p ∈ t.cur.sets, p.cond = .barrier n b.phase ∧ p.path = s.cur.path.advance s.ctx.pc s.ctx.next)

/-- A group that observes a completion joins the phase's time, and sr.uval takes 0xA1 when a copy of the phase was
cancelled; the completion itself, at the last observable arrival, flips the phase, drops the dropped members and makes
every waiter ready (R174, R175, R256). What the manual leaves open here is the model's choice of logs 25 and 28. -/
def Obligations.BarrierCompletion : Prop :=
  ∀ (s : State) (sg n : Nat) (bn : BitVec 4) (x : Signal) (g : Group) (c : Crew), s.flow.sigs.find? (·.id == sg) = some x →
    x.kind = .arrive n bn → s.signalReady x = true → s.grp? x.grp = some g → (s.nodeOf g).cap = none →
    s.crews.find? (·.id == n) = some c → bn.toNat < c.bars.length →
    let b := c.bars.getD bn.toNat Barrier.invalid
    let now := fun t : State => (t.crew n).bars.getD bn.toNat Barrier.invalid
    let time := max b.t g.ltime
    let last := b.valid = true ∧ b.exp ≠ 0 ∧ b.arr = b.exp ∧ b.unobs ≤ 1 ∧ (b.xfer = true → b.att = 0)
    Runs (.signal sg) s fun t => (∀ y ∈ t.flow.sigs, y.id ≠ sg) ∧ t.hbm = s.hbm ∧
      (¬last → now t = { b with unobs := b.unobs - 1, t := time } ∧ t.cur = s.cur ∧ t.groups = s.groups) ∧
      (last → now t = { b with unobs := 0, phase := !b.phase, arr := 0, exp := b.exp - b.drops, drops := 0, cancelled := false,
                               t := 0, doneT := time, doneC := b.cancelled } ∧
        ∀ k ∈ s.groups, k.crew = n → k.id ≠ 0 → (∃ p ∈ k.sets, p.cond = .barrier bn b.phase) → ∃ k' ∈ t.groups, k'.id = k.id ∧
          k'.ltime = max k.ltime time ∧ (b.cancelled = true → k'.utrap.val = 0xA1) ∧
          k'.sets = k.sets.map fun p => if p.cond == .barrier bn b.phase then { p with cond := .deferred } else p)

/-- `mus.set` and `mus.clr` (R176): the muster takes the count, unless groups have signed it. The ring words (R177,
R178): a stage is acquired, released, taken and freed in ring order; a misuse faults. What the manual leaves open here
is the model's choice of logs 28 and 30. -/
def Obligations.MusterAndRingWords : Prop :=
  (∀ (h : Hdr) (s : State) (k : BitVec 11) (n : BitVec 3) (c : Crew), s.cur.lanesP h ≠ 0 →
     s.crews.find? (·.id == s.cur.crew) = some c → n.toNat < c.musters.length →
     let signs := (c.musters.getD n.toNat Muster.unarmed).signs
     let sets := fun (i : Instr) (v : Nat) => Passes i s →
       (signs = 0 → Runs i s fun t => (t.crew s.cur.crew).musters = c.musters.set n.toNat ⟨v, 0, none⟩ ∧
         { t with crews := s.crews } = s) ∧
       (0 < signs → exec i s = .next (s.fault .musterOversign (n.setWidth 64)))
     sets (.musSet h k n) k.toNat ∧ sets (.musClr h n) 0) ∧
  (∀ (h : Hdr) (s : State) (d : BitVec 4) (k : BitVec 5) (n : BitVec 3) (c : Crew), s.cur.lanesP h ≠ 0 →
     s.crews.find? (·.id == s.cur.crew) = some c → n.toNat < c.rings.length →
     let r := c.rings.getD n.toNat Ring.invalid
     let now := fun t : State => (t.crew s.cur.crew).rings.getD n.toNat Ring.invalid
     let waits := fun (p : Machine.PSet) => (∃ j, p.cond = .acq n j) ∨ ∃ j, p.cond = .take n j
     let quiet := ∀ g ∈ s.allGroups, g.crew = s.cur.crew → g.id ≠ 0 → ∀ p ∈ g.sets, ¬waits p
     let stage := fun i : Nat => r.stages.getD i ⟨.empty, false, 0, false, 0⟩
     let sk := (s.cur.getS k.toNat).toNat
     let misuse := fun i : Instr => exec i s = .next (s.fault .ringMisuse (n.setWidth 64))
     (Passes (.ringInit h d n) s →
       (r.valid = false ∨ ((∀ x ∈ r.stages, x.st = .empty) ∧ quiet) → Runs (.ringInit h d n) s fun t =>
         now t = ⟨true, List.replicate d.toNat ⟨.empty, false, 0, false, 0⟩, 0, 0, [], []⟩ ∧ { t with crews := s.crews } = s) ∧
       (r.valid = true → (∃ x ∈ r.stages, x.st ≠ .empty) ∨ ¬quiet → misuse (.ringInit h d n))) ∧
     (Passes (.ringAcq h k n) s →
       (r.valid = false → misuse (.ringAcq h k n)) ∧
       (r.valid = true → (stage r.pi).st = .empty → Runs (.ringAcq h k n) s fun t =>
         now t = { r with stages := r.stages.modify r.pi fun x => { x with st := .held, t := 0, copies := 0, unobs := false },
                          held := r.held ++ [r.pi], pi := (r.pi + 1) % r.stages.length } ∧
         t.cur = s.cur.setS k.toNat (BitVec.ofNat 32 r.pi) ∧ t.groups = s.groups) ∧
       (r.valid = true → (stage r.pi).st ≠ .empty → Runs (.ringAcq h k n) s fun t => t.cur.path.mask = 0 ∧
         (∃ p ∈ t.cur.sets, p.cond = .acq n k ∧ p.path = s.cur.path.advance s.ctx.pc s.ctx.next) ∧
         { t with cur := s.cur, ctx := s.ctx } = s)) ∧
     (Passes (.ringRel h k n) s →
       (r.valid = false ∨ r.held.head? ≠ some sk → misuse (.ringRel h k n)) ∧
       (r.valid = true → r.held.head? = some sk → Runs (.ringRel h k n) s fun t =>
         now t = { r with stages := r.stages.modify sk fun x => { x with st := .pending, unobs := true }, held := r.held.drop 1 } ∧
         (∃ g, t.flow.sigs = s.flow.sigs ++ [g] ∧ g.kind = .release s.cur.crew n sk ∧ g.grp = s.cur.id) ∧ t.cur = s.cur)) ∧
     (Passes (.ringTake h k n) s →
       (r.valid = false → misuse (.ringTake h k n)) ∧
       (r.valid = true → (stage r.ci).st = .full → Runs (.ringTake h k n) s fun t =>
         now t = { r with stages := r.stages.modify r.ci fun x => { x with st := .taken }, taken := r.taken ++ [r.ci],
                          ci := (r.ci + 1) % r.stages.length } ∧
         t.cur = (s.cur.join (stage r.ci).t).setS k.toNat (BitVec.ofNat 32 r.ci) ∧ t.groups = s.groups) ∧
       (r.valid = true → (stage r.ci).st ≠ .full → Runs (.ringTake h k n) s fun t => t.cur.path.mask = 0 ∧
         ∃ p ∈ t.cur.sets, p.cond = .take n k ∧ p.path = s.cur.path.advance s.ctx.pc s.ctx.next)) ∧
     (Passes (.ringFree h k n) s →
       (r.valid = false ∨ r.taken.head? ≠ some sk → misuse (.ringFree h k n)) ∧
       (r.valid = true → r.taken.head? = some sk → quiet → Runs (.ringFree h k n) s fun t =>
         now t = { r with stages := r.stages.modify sk fun x => { x with st := .empty }, taken := r.taken.drop 1 } ∧
         t.cur = s.cur ∧ t.groups = s.groups)))

/-- The future words (R154, R179, R180, R256): `finit` stores an empty state word, `fput` is counted and performs with
its signal, `fget` reads a full slot's payload into the lanes of P and faults on an empty one, `fpoll` reads the state
into a guard; a failed check faults; poison or an error in place of the slot is held pending with its address. The
monitor words (R169): the watched word is read; one that meets the condition lets the path go on, else a monitor is
armed on it and the path blocks past its chain; `chg` always arms. What the manual leaves open here is the model's
choice of logs 24 and 73. -/
def Obligations.FutureAndMonitorWords : Prop :=
  (∀ (h : Hdr) (s : State) (d a o : BitVec 6) (g : BitVec 3) (x : Loc), s.cur.lanesP h ≠ 0 →
     let P := s.cur.lanesP h
     let ea := effAddr s.cur a o 16 (lowest P)
     let rd := fun v => s.xcheck s.cur (rqPlain v) ea 16 = .ok x
     let used := s.xuse s.cur [.ok x]
     let seen := (if used.hit (s.onceAcc P x 16) then used else used.missed (s.onceAcc P x 16)).readWord s.cur x 16
     (Passes (.futFinit h a o) s → s.cur.st < 63 → rd true → Runs (.futFinit h a o) s fun t =>
       t.cur = { s.cur with st := s.cur.st + 1, seq := s.cur.seq + 1 } ∧ t.hbm = s.hbm ∧
       ∃ b, t.flow.accs.getLast? = some b ∧ b.kind = .store ∧ b.lanes = P ∧ b.grp = s.cur.id ∧
         b.els = [⟨lowest P, 0, x.pa + 8, 8, .store (List.replicate 8 0)⟩]) ∧
     (Passes (.futFput h d a o) s → s.cur.st < 63 → rd true → s.open_ x.key = true →
       let full := (((s.recallNow x.key).slotBytes x).getD 8 0).getLsbD 0 = true
       let bad := (s.recallNow x.key).slotPoison x = true
       (bad → Runs (.futFput h d a o) s fun t => t.cur = s.cur.pending .poison ea ∧ t.hbm = (s.recallNow x.key).hbm ∧
         t.flow.accs = s.flow.accs ∧ t.flow.sigs = s.flow.sigs) ∧
       (¬bad → full → ∃ u : State, u.cur = s.cur ∧ u.hbm = s.hbm ∧ exec (.futFput h d a o) s = .next (u.fault .futureRefill ea)) ∧
       (¬bad → ¬full → Runs (.futFput h d a o) s fun t =>
         t.cur = { s.cur with st := s.cur.st + 1, seq := s.cur.seq + 1 } ∧ t.hbm = (s.recallNow x.key).hbm ∧ t.flow.accs = s.flow.accs ∧
         t.ctx = s.ctx ∧
         ∃ b q, t.flow.sigs = s.flow.sigs ++ [q] ∧ q.kind = .fput b ∧ b.kind = .store ∧ b.key = x.key ∧
           b.els = [⟨lowest P, 0, x.pa, 16,
             .store (leBytes (s.cur.getV2 d.toNat (lowest P)).toNat 8 ++ [1, 0, 0, 0, 0, 0, 0, 0])⟩])) ∧
     (∀ i wr c v, (i ∈ [.futFinit h a o, .futFput h d a o] ∧ wr = true ∧ s.cur.st < 63) ∨
         (i ∈ [.futFget h d a o, .futFpoll h g a o] ∧ wr = false) → Passes i s →
       s.xcheck s.cur (rqPlain wr) ea 16 = .fail c v → FailsCheck i s c v) ∧
     ((∀ b ∈ s.flow.accs, b.grp = s.cur.id → b.key = x.key → b.cls = .device → b.isLoad = true ∨ b.kind = .pref) →
       s.slotBytes x = s.homeBytes x.key x.pa 16) ∧
     (∀ s1 bs c, seen = some (s1, bs, some c) → s.mayPerform (s.onceAcc P x 16) = true → rd false →
       let u := (s1.onCur fun k => { k with seq := k.seq + 1 }).onCur (·.pending c ea)
       (Passes (.futFget h d a o) s → exec (.futFget h d a o) s = .next u) ∧
       (Passes (.futFpoll h g a o) s → exec (.futFpoll h g a o) s = .next u)) ∧
     (∀ s1 bs, seen = some (s1, bs, none) → (s.nodeOf s.cur).cap = none → s.mayPerform (s.onceAcc P x 16) = true → rd false →
       (Passes (.futFget h d a o) s →
         ((bs.getD 8 0).getLsbD 0 = true → Runs (.futFget h d a o) s fun t =>
           (∀ k l, l < 32 → t.cur.getV k l =
             if k = d.toNat ∧ inMask P l = true then BitVec.ofNat 32 (leNat (bs.take 8))
             else if k = d.toNat + 1 ∧ inMask P l = true then BitVec.ofNat 32 (leNat (bs.take 8) % 2 ^ 64 / 2 ^ 32)
             else s1.cur.getV k l) ∧
           { t with cur := { t.cur with v := s1.cur.v, seq := s1.cur.seq } } = s1) ∧
         ((bs.getD 8 0).getLsbD 0 = false → exec (.futFget h d a o) s =
           .next ((s1.onCur fun k => { k with seq := k.seq + 1 }).fault .futureEmpty ea))) ∧
       (Passes (.futFpoll h g a o) s → Runs (.futFpoll h g a o) s fun t =>
         (∀ k l, l < 32 → inMask (t.cur.getG k) l =
           if k = g.toNat ∧ g ≠ 0 ∧ inMask s1.cur.live l = true then (bs.getD 8 0).getLsbD 0 else inMask (s1.cur.getG k) l) ∧
         { t with cur := { t.cur with g := s1.cur.g, seq := s1.cur.seq } } = s1))) ∧
  (∀ (h : Hdr) (s : State) (d a o : BitVec 6) (x : Loc) (s1 : State) (bs : List Byte), s.cur.lanesP h ≠ 0 →
     let P := s.cur.lanesP h
     let ea := effAddr s.cur a o 4 (lowest P)
     s.xcheck s.cur rqLoad ea 4 = .ok x → s.mayPerform (s.onceAcc P x 4) = true →
     (s.nodeOf s.cur).cap = none →
     let used := s.xuse s.cur [.ok x]
     (if used.hit (s.onceAcc P x 4) then used else used.missed (s.onceAcc P x 4)).readWord s.cur x 4 = some (s1, bs, none) →
     let w := wordVal bs
     let v := s.cur.getV d.toNat (lowest P)
     let goes := fun i : Instr => Runs i s fun t => { t with cur := { t.cur with seq := s1.cur.seq } } = s1 ∧
       t.cur.seq = s1.cur.seq + 1
     let arms := fun (i : Instr) (c : MonCond) (y : Word) => Runs i s fun t =>
       (∃ m, t.flow.mons = s1.flow.mons ++ [m] ∧ m.grp = s.cur.id ∧ m.loc = x ∧ m.cond = c ∧ m.x = y ∧ m.w = w ∧ m.met = none ∧
         (m.table = true ↔ x.cls = .device ∧ s1.monitorsIn x.key < 256) ∧
         ∃ p ∈ t.cur.sets, p.cond = .monitor m.id ∧ p.path = s1.cur.path.advance s.ctx.pc s.ctx.next) ∧
       t.cur.path.mask = 0 ∧ t.hbm = s1.hbm ∧ t.groups = s1.groups
     let waitc := fun (i : Instr) (c : MonCond) (holds : Prop) => Passes i s → (holds → goes i) ∧ (¬holds → arms i c v)
     waitc (.monWaitcEq h d a o) .eq (w = v) ∧ waitc (.monWaitcNe h d a o) .ne (w ≠ v) ∧
     waitc (.monWaitcLt h d a o) .lt (w.toInt < v.toInt) ∧ waitc (.monWaitcGe h d a o) .ge (w.toInt ≥ v.toInt) ∧
     waitc (.monWaitcLtn h d a o) .ltn (w.toNat < v.toNat) ∧ waitc (.monWaitcGen h d a o) .gen (w.toNat ≥ v.toNat) ∧
     (Passes (.monWaitcChg h a o) s → arms (.monWaitcChg h a o) .chg 0))

/-! ## Engine words -/

/-- `cpy` in its four forms (R181 to R185): with every lane's checks passed the word is in flight, claiming its
destination lines, with its entries of the range scoreboard and one line transfer for each pair of lines; a counter at
63 holds back the chain, and the first failing check of the lowest lane with one faults, though another check of it
waits for a page request. What the manual leaves open here is the model's choice of log 31. -/
def Obligations.CopyWordsIssue : Prop :=
  ∀ (h : Hdr) (z : BitVec 2) (d a : BitVec 6) (b : BitVec 4) (s : State) (src dst : Nat → Loc), s.cur.lanesP h ≠ 0 →
    let P := lanesOf (s.cur.lanesP h)
    let size := 4 * 2 ^ z.toNat
    let form := fun (i : Instr) (ssp dsp : Bool) => Passes i s →
      let chk := s.cpyCheck s.cur size ssp dsp a d
      (63 ≤ s.cur.cp → HoldsChain i s) ∧
      (s.cur.cp < 63 → (∀ l ∈ P, chk l = [.ok (src l), .ok (dst l)]) → ∃ x : Xfer,
        x.kind = .cpy size (P.map fun l => ⟨l, src l, dst l⟩) ∧ x.ctr = some .cp ∧ x.ring = none ∧ AttachesTo s b x.bar ∧
        (∀ k, k ∈ x.claims ↔ ∃ l ∈ P, (dst l).cls = .device ∧ k = (dst l).key) ∧
        x.lines = (P.map fun l => ((src l).unit, (dst l).unit)).dedup.length ∧
        (dsp = false → ∃ e ∈ x.sb, e.dest = true) ∧
        (∀ l ∈ P, dsp = true → ∃ e ∈ x.sb, e.dest = true ∧ e.crew = s.cur.crew ∧ e.lo ≤ (dst l).pa ∧ (dst l).pa + size ≤ e.hi) ∧
        (∀ l ∈ P, ssp = true → ∃ e ∈ x.sb, e.dest = false ∧ e.crew = s.cur.crew ∧ e.lo ≤ (src l).pa ∧ (src l).pa + size ≤ e.hi) ∧
        LaunchesOrStalls i s x fun _ => True) ∧
      (s.cur.cp < 63 → (∀ m ∈ P, ∀ r ∈ chk m, r.open = false) → ∀ l ∈ P, ∀ pre c ea post, chk l = pre ++ .fail c ea :: post →
        (∀ r ∈ pre, ∀ c' ea', r ≠ .fail c' ea') → (∀ m ∈ P, m < l → ∀ r ∈ chk m, ∀ c' ea', r ≠ .fail c' ea') →
        FailsCheck i s c ea)
    form (.cpyMm h z d a b) false false ∧ form (.cpyMs h z d a b) true false ∧ form (.cpySm h z d a b) false true ∧
    form (.cpySs h z d a b) true true

/-- The tile words (R185, R189, R191 to R193, R195, R202, R203): a record that passes the checks is in flight with its
claims, its scoreboard range and, for an engine buffer, its content tag; a record that fails them faults with
TILE_BOUNDS, COPY_ALIGN or SP_RANGE, or with the first failing check of its memory; tl at 63 holds back the chain. An
index list that is poison names no row there, and POISON is held pending with its first such entry (R299). What the
manual leaves open here is the model's choice of logs 31 and 32. -/
def Obligations.TileWordsIssue : Prop :=
  ∀ (h : Hdr) (r : Bool) (q : BitVec 3) (b : BitVec 4) (n : BitVec 5) (z : BitVec 2) (s : State), s.cur.lanesP h ≠ 0 →
    (63 ≤ s.cur.tl → ∀ f ∈ tileForms h r q b n z, Passes f.i s → HoldsChain f.i s) ∧
    (s.cur.tl < 63 → ∀ f ∈ tileForms h r q b n z, Passes f.i s →
      let t := s.cur.tileRec n.toNat
      let shaped := f.k = .zero ∨ t.width < 16 ∨ (t.far.toNat % (t.width / 8) = 0 ∧ t.stride % (t.width / 8) = 0)
      let ring := s.ring s.cur.crew q.toNat
      let idx := tileIdx s f.k n.toNat
      let lost := if f.k.byList = true then s.indexLost s.cur.crew t else []
      let base := (s.crew s.cur.crew).base
      let tag := fun (l : List (Nat × BufTag)) => l.find? (·.1 == f.buf) = some (f.buf, ⟨t.code, t.planes, t.code == 6 || t.code == 7⟩)
      (∀ map, TileReady s f.k n.toNat map → (f.ring = true → ring.valid = true ∧ ring.held ≠ []) → ∃ x : Xfer,
        x.kind = tileKind f.k f.buf t (idx.getD []) map ∧ x.ctr = some .tl ∧
        (∀ m, f.bar = some m → AttachesTo s m x.bar) ∧ (f.bar = none → x.bar = none) ∧
        x.ring = (if f.ring = true then ring.held.head?.map (q, ·) else none) ∧
        x.claims = (if f.k.writesMem = true then s.claimsOf s.cur.tn map (t.memRanges (s.tenant s.cur.tn).soff idx map) else []) ∧
        (f.k.usesSp = true → ∃ e, x.sb = [e] ∧ e.crew = s.cur.crew ∧ e.lo = (t.spTile f.k).1 ∧ (t.spTile f.k).2 ≤ e.hi ∧
          (e.dest = false ↔ f.k = .st ∨ f.k = .scat)) ∧
        (f.k.usesSp = false → x.sb = []) ∧
        x.skip = lost ∧
        (lost = [] → LaunchesOrStalls f.i s x fun u =>
          (f.k = .oa → tag (u.core (base + t.core)).eng.oaTag) ∧ (f.k = .wb → tag (u.core (base + t.core)).eng.wbTag)) ∧
        (∀ j, lost.head? = some j → s.roomFor x = true → Runs f.i s fun u => u.flow.xfers = s.flow.xfers ++ [x] ∧
          { u.cur with pend := s.cur.pend } = { s.cur.raise .tl with seq := s.cur.seq + 1 } ∧
          ((∀ p ∈ s.cur.pend, p.1 ≠ .poison) → (.poison, BitVec.ofNat 64 (16 * t.list + 2 * j)) ∈ u.cur.pend))) ∧
      (s.tileBad f.k t = true → exec f.i s = .next (s.fault .tileBounds (n.setWidth 64))) ∧
      (s.tileBad f.k t = false → f.k ≠ .zero → 16 ≤ t.width → t.far.toNat % (t.width / 8) ≠ 0 ∨ t.stride % (t.width / 8) ≠ 0 →
        exec f.i s = .next (s.fault .copyAlign (n.setWidth 64))) ∧
      (∀ o, s.tileBad f.k t = false → shaped → s.tileSp f.k t = some o → exec f.i s = .next (s.fault .spRange o)) ∧
      (s.tileBad f.k t = false → shaped → s.tileSp f.k t = none → f.k ≠ .zero → f.k ≠ .tstSp →
        ∀ pre ea c v post, s.tileMem s.cur f.k t idx = pre ++ (ea, .fail c v) :: post →
          (∀ p ∈ pre ++ post, p.2.open = false) → (∀ p ∈ pre, ∀ c' v', p.2 ≠ .fail c' v') → FailsCheck f.i s c v))

/-- `tacc.tzero`, `tacc.tscale` and `tacc.tbias` (R195, R201, R203): in flight, their factor lists source ranges; a
list that is not aligned to 4 bytes or passes the crew's bytes faults; tl at 63 holds back the chain. `mma`, `mmaz`,
`mmag` and `mmagz` (R176, R198, R200): without a muster the stroke is in flight at once; a signature counts its lanes
and fixes the stroke's fields, and the one that completes the count issues the stroke for every signing group; a
signature too many or of other fields and wrong content tags fault, and so does a bad list, the first with its offset;
a list that is poison leaves POISON pending (R299); tl at 63 holds back the chain. What the manual leaves open here is
the model's choice of logs 31, 32, 88 and 107. -/
def Obligations.AccumulatorAndStrokeWordsIssue : Prop :=
  (∀ (h : Hdr) (row : Bool) (k : BitVec 5) (t : BitVec 2) (s : State), s.cur.lanesP h ≠ 0 →
     (63 ≤ s.cur.tl → ∀ i ∈ [.taccTzero h t, .taccTscale h row k t, .taccTbias h k t], Passes i s → HoldsChain i s) ∧
     (s.cur.tl < 63 →
     let cap := (s.crew s.cur.crew).scratch
     let u := (s.cur.getS k.toNat).toNat
     let v := (s.cur.getS (k.toNat + 1)).toNat
     let ok := fun o : Nat => o % 4 = 0 ∧ o + 512 ≤ cap
     let src := fun o => (⟨s.cur.crew, o, o + 512, false⟩ : SbEnt)
     let bad := fun (i : Instr) (o : Nat) =>
       (o % 4 ≠ 0 → exec i s = .next (s.fault .copyAlign (BitVec.ofNat 64 o))) ∧
       (o % 4 = 0 → cap < o + 512 → exec i s = .next (s.fault .spRange (BitVec.ofNat 64 o)))
     (Passes (.taccTzero h t) s → Runs (.taccTzero h t) s fun y => ∃ x, Launched s y x ∧ x.kind = .taccZero t.toNat ∧
       x.ctr = some .tl) ∧
     (Passes (.taccTscale h row k t) s → (ok u → ∃ x : Xfer, x.kind = .taccScale t.toNat row u ∧ x.ctr = some .tl ∧ x.sb = [src u] ∧
         x.bar = none ∧ x.ring = none ∧ LaunchesOrStalls (.taccTscale h row k t) s x fun _ => True) ∧ bad (.taccTscale h row k t) u) ∧
     (Passes (.taccTbias h k t) s → (ok u → ok v → ∃ x : Xfer, x.kind = .taccBias t.toNat u v ∧ x.ctr = some .tl ∧
         x.sb = [src u, src v] ∧ x.bar = none ∧ x.ring = none ∧ LaunchesOrStalls (.taccTbias h k t) s x fun _ => True) ∧
       bad (.taccTbias h k t) u ∧ (ok u → bad (.taccTbias h k t) v)))) ∧
  (∀ (h : Hdr) (x y : Bool) (t o w : BitVec 2) (m : BitVec 3) (b : BitVec 4) (e : BitVec 5) (lists : Word) (s : State) (c : Crew),
     s.cur.lanesP h ≠ 0 → s.crews.find? (·.id == s.cur.crew) = some c → m.toNat < c.musters.length →
     let mu := c.musters.getD m.toNat Muster.unarmed
     let n := (lanesOf (s.cur.lanesP h)).length
     let form := fun (i : Instr) (zero gath : Bool) => Passes i s →
       let at_ := if gath = true then [16 * (lists.toNat % 65536), 16 * (lists.toNat / 65536)] else []
       let sound := ∀ p ∈ at_, ∀ j, j < 128 → s.spPoison s.cur.crew (p + 2 * j) 2 = false
       let raised := fun (g : Group) => { g with pend := s.cur.pend } = { s.cur.raise .tl with seq := s.cur.seq + 1 } ∧
         (sound → g.pend = s.cur.pend) ∧ (¬sound → ∃ v, (Cause.poison, v) ∈ g.pend)
       let core := if y = true then (mu.signed.map (·.core)).getD s.cur.core else s.cur.core
       let eng := (s.core core).eng
       let tags := tagIs eng.oaTag o.toNat (efTags e.toNat).1 = true ∧ tagIs eng.wbTag w.toNat (efTags e.toNat).2 = true
       let fields := fun (f : Signed) => f.zero = zero ∧ f.gath = gath ∧ f.ta = t ∧ f.oa = o ∧ f.wb = w ∧ f.bb = b ∧ f.ef = e ∧
         f.lists = (if gath = true then lists else 0)
       let agree := ∀ f, mu.signed = some f → fields f
       let signers := ((mu.signed.map (·.grps)).getD []) ++ [s.cur.id]
       let stroke := fun (u : State) (gs : List Nat) (k : Nat) => ∃ z st, u.flow.xfers = s.flow.xfers ++ [z] ∧
         z.kind = .stroke st ∧ fields st.f ∧ st.f.grps = gs ∧ st.step = 0 ∧ st.stop = false ∧ z.core = k ∧ z.crew = s.cur.crew ∧
         z.tn = s.cur.tn ∧ some z.grp = gs.head?
       let off := fun p : Nat => BitVec.ofNat 64 p
       (63 ≤ s.cur.tl → HoldsChain i s) ∧
       (s.cur.tl < 63 → ∀ pre p post f v, at_ = pre ++ p :: post → (∀ q ∈ pre, s.listFault q = none) →
         s.listFault p = some (f, v) → exec i s = .next (s.fault f v)) ∧
       (∀ p ∈ at_, (c.scratch < p + 256 → s.listFault p = some (.spRange, off p)) ∧
         (p + 256 ≤ c.scratch → (∃ j ∈ s.strokeList p, 127 < j.toNat ∧ j ≠ 0xFFFF) → s.listFault p = some (.tileBounds, off p)) ∧
         (p + 256 ≤ c.scratch → (∀ j ∈ s.strokeList p, j.toNat ≤ 127 ∨ j = 0xFFFF) → s.listFault p = none)) ∧
       (s.cur.tl < 63 → (∀ p ∈ at_, s.listFault p = none) →
         (¬tags → exec i s = .next (s.fault .mmaFormat (s.ctx.word.setWidth 64))) ∧
         (tags → y = false → Runs i s fun u => raised u.cur ∧ stroke u [s.cur.id] s.cur.core ∧ u.crews = s.crews ∧ u.hbm = s.hbm) ∧
         (tags → y = true → agree → mu.signs + n < mu.count → Runs i s fun u => raised u.cur ∧ u.flow = s.flow ∧ u.hbm = s.hbm ∧
           ∃ f, fields f ∧ f.grps = signers ∧ f.core = core ∧
             (u.crew s.cur.crew).musters = c.musters.set m.toNat ⟨mu.count, mu.signs + n, some f⟩) ∧
         (tags → y = true → agree → mu.count ≠ 0 → mu.signs + n = mu.count → Runs i s fun u => raised u.cur ∧
           stroke u signers core ∧ (u.crew s.cur.crew).musters = c.musters.set m.toNat ⟨mu.count, 0, none⟩) ∧
         (tags → y = true → ¬agree ∨ mu.count = 0 ∨ mu.count < mu.signs + n →
           exec i s = .next (s.fault .musterOversign (m.setWidth 64))))
     form (.mma h x y t o w m b e) false false ∧ form (.mmaz h x y t o w m b e) true false ∧
     form (.mmag h x y t o w m b e lists) false true ∧ form (.mmagz h x y t o w m b e lists) true true)

/-- LAND of a copy of one element, and what a landing does to timestamps (R182, R249, R251, R258): the destination
then reads as the source did, and every device line written carries one timestamp, above its last write and its last
read lease. A copy waits while a word issued before it claims a line of either side or a home entry there awaits
RECOVER (R239, R259). LAND of a tile (R190, R192 to R194): an element of 8 bits reaches its delivered place in
scratchpad or in an engine buffer, padding reads 0, and an element that could not be had leaves its place as it was
(R154); `tcpy.zero` leaves zeros; a tile of one byte going out lands at its far address. What a tile reads of a byte
is what stands at that byte's place. What the manual leaves open here is the model's choice of logs 31, 32 and 33. -/
def Obligations.CopiesAndTilesLand : Prop :=
  (∀ (s : State) (x : Xfer) (size : Nat) (e : CpyEl), s.flow.xfers.find? (·.id == x.id) = some x → x.kind = .cpy size [e] →
     size ∈ [4, 8, 16, 32] → size ∣ e.src.pa → size ∣ e.dst.pa →
     (s.waitsFor x e.src size = true ∨ s.waitsFor x e.dst size = true → exec (.land x.id) s = .next s) ∧
     (s.waitsFor x e.src size = false → s.waitsFor x e.dst size = false →
       let u := s.recallAt x.tn e.src size
       u.failsAt x e.src size = false → e.src.cls = .device ∨ e.src.cls = .scratch ∨ e.src.cls = .flash → e.dst.cls ≠ .flash →
       (∀ d, e.dst.cls = .peer d → s.peerGone d = false) → x.loses e.dst size = false →
       Runs (.land x.id) s fun t => Retired s t x ∧ t.fetchAt x.tn e.dst size = u.fetchAt x.tn e.src size ∧
         (e.dst.cls = .device → ∀ k ∈ s.linesOf x.tn e.dst.key.bs e.dst.pa size, ∀ h h', s.home? k = some h → h.owner = none →
           t.home? k = some h' → x.t ≤ h'.wts ∧ h.rts < h'.wts ∧ h.wts < h'.wts))) ∧
  (∀ (s : State) (x : Xfer) (r : TileRec) (map : List (Nat × Loc)), s.flow.xfers.find? (·.id == x.id) = some x →
     let q := (s.tileRead x map r none false).2
     let at_ := fun fr fc : Nat => r.far.toNat + fr * r.stride + fc
     let far := fun dr dc : Nat => if r.trans then (dc, dr) else (dr, dc)
     let elem := fun (dr dc : Nat) (old : Byte) => let p := far dr dc
       if p.1 < r.erows ∧ p.2 < r.ecols then (if q.lost.contains (at_ p.1 p.2) then old else q.mem.get (at_ p.1 p.2)) else 0
     let go := s.engineTurn x = true ∧ s.tileClear x map (r.memRanges (s.tenant x.tn).soff none map) = true ∧
       r.far.toNat + r.rows * r.stride + r.cols ≤ 2 ^ 48
     (r.code ∈ [2, 5, 16] → r.far.toNat + r.rows * r.stride + r.cols ≤ 2 ^ 48 → ∀ fr fc l, fr < r.nRows → fc < r.nCols →
       s.placeIn x.tn map (at_ fr fc) = some l → (l.cls = .device → ∀ p ∈ s.placesIn x.tn map (r.elements none),
         ∀ k ∈ s.linesOf x.tn p.2.1.key.bs p.2.1.pa p.2.2, s.ownerOf k = none) →
       (l.cls = .device ∨ l.cls = .flash ∨ ∀ g, s.grp? x.grp = some g → (s.nodeOf g).cap = none) →
       [q.mem.get (at_ fr fc)] = s.fetchAt x.tn l 1) ∧
     (x.kind = .tileIn 0 0 r [] map → x.skip = [] → r.code ∈ [2, 5, 16] → r.mask = false → go →
       r.near.toNat % 4096 + r.dRows * r.pitch ≤ 4096 → Runs (.land x.id) s fun t => Retired s t x ∧
         ∀ dr dc, dr < r.dRows → dc < r.dCols → t.spRead x.crew (r.near.toNat + dr * r.pitch + dc) 1 =
           [elem dr dc ((s.spRead x.crew (r.near.toNat + dr * r.pitch + dc) 1).headD 0)]) ∧
     (∀ oa buf, x.kind = .tileIn (if oa = true then 1 else 2) buf r [] map → r.code = 2 ∨ r.code = 5 → go → buf < 4 →
       r.row0 + r.dRows ≤ 128 → r.col0 + r.dCols ≤ 256 → Runs (.land x.id) s fun t => Retired s t x ∧
         let was := (s.core ((s.crew x.crew).base + r.core)).eng
         let eng := (t.core ((s.crew x.crew).base + r.core)).eng
         ∀ dr dc, dr < r.dRows → dc < r.dCols →
           let a := oaBit buf 8 (r.row0 + dr) (r.col0 + dc)
           let b := wbBit buf 8 (r.col0 + dc) (r.row0 + dr)
           (oa = true → getBits eng.oa a 8 = (elem dr dc (BitVec.ofNat 8 (getBits was.oa a 8))).toNat) ∧
           (oa = false → getBits eng.wb b 8 = (elem dr dc (BitVec.ofNat 8 (getBits was.wb b 8))).toNat)) ∧
     (x.kind = .tileZero r → r.near.toNat % 4096 + r.dRows * r.pitch ≤ 4096 → Runs (.land x.id) s fun t => Retired s t x ∧
       t.spRead x.crew r.near.toNat (r.dRows * r.pitch) = List.replicate (r.dRows * r.pitch) 0 ∧ t.hbm = s.hbm) ∧
     (∀ l, x.kind = .tileOut r [] false map → r.code ∈ [2, 5, 16] → r.rows = 1 → r.cols = 1 → 0 < r.erows → 0 < r.ecols →
       s.tileClear x map (r.elements none) = true → s.placeIn x.tn map r.far.toNat = some l → l.cls = .device ∨ l.cls = .host →
       x.loses l 1 = false → s.spPoison x.crew r.near.toNat 1 = false →
       Runs (.land x.id) s fun t => Retired s t x ∧ t.fetchAt x.tn l 1 = s.spRead x.crew r.near.toNat 1))

/-- What the accumulator words do in their turn (R194, R201 to R203). An element whose factor is poison keeps its
value, and POISON is held pending with the first such factor's offset (R154, R299). STROKE_STEP (R65, R188, R199):
step `k` adds to accumulator rows 4k to 4k + 3 the dot products of R65 and touches no other row; the last step lets tl
fall in every signing group. Exact sums and products lose nothing. What the manual leaves open here is the model's
choice of logs 32, 33 and 87. -/
def Obligations.AccumulatorsAndStrokesAct : Prop :=
  (∀ (s : State) (x : Xfer) (t : Nat) (r : TileRec) (row : Bool) (o v : Nat), s.flow.xfers.find? (·.id == x.id) = some x →
     s.engineTurn x = true → t < 4 →
     let e := (s.core x.core).eng
     let now := fun u : State => (u.core x.core).eng
     let val := fun (w : Word) => f32.decode w.toNat
     let num := fun p i => f32.decode (leNat (s.spRead x.crew (p + 4 * i) 4))
     let lost := fun p i => s.spPoison x.crew (p + 4 * i) 4 = true
     let clean := s.taPoison x t = false
     let others := fun u : State => ∀ k, k < 16384 * t ∨ 16384 * (t + 1) ≤ k → (now u).ta.get k = e.ta.get k
     let done := fun u : State => Retired s u x ∧ u.hbm = s.hbm ∧ others u ∧ (now u).oa = e.oa ∧ (now u).wb = e.wb
     let one := r.code = 18 ∧ r.rows = 1 ∧ r.cols = 1 ∧ 0 < r.erows ∧ 0 < r.ecols
     (x.kind = .taccZero t → Runs (.taccComplete x.id) s fun u => done u ∧ ∀ i j, i < 128 → j < 128 →
       (now u).ta.get (taWord t i j) = 0) ∧
     (x.kind = .taccScale t row o → clean → Runs (.taccComplete x.id) s fun u => done u ∧
       (∀ i j, i < 128 → j < 128 → let n := if row = true then i else j
         (lost o n → (now u).ta.get (taWord t i j) = e.ta.get (taWord t i j)) ∧
         (¬lost o n → (now u).ta.get (taWord t i j) =
           BitVec.ofNat 32 (f32.mul .rne false (val (e.ta.get (taWord t i j))) (num o n)).1)) ∧
       ∀ i g, i < 128 → lost o i → (∀ j, j < i → ¬lost o j) → s.grp? x.grp = some g → (∀ p ∈ g.pend, p.1 ≠ .poison) →
         ∃ k, u.grp? x.grp = some k ∧ (.poison, BitVec.ofNat 64 (o + 4 * i)) ∈ k.pend) ∧
     (x.kind = .taccBias t o v → clean → Runs (.taccComplete x.id) s fun u => done u ∧ ∀ i j, i < 128 → j < 128 →
       (lost o i ∨ lost v j → (now u).ta.get (taWord t i j) = e.ta.get (taWord t i j)) ∧
       (¬lost o i → ¬lost v j → (now u).ta.get (taWord t i j) =
         BitVec.ofNat 32 (f32.fma .rne false (num o i) (num v j) (val (e.ta.get (taWord t i j)))).1)) ∧
     (∀ map l, x.kind = .taccLd t r map → one → r.row0 < 128 → r.col0 < 128 → s.tileClear x map (r.elements none) = true →
       s.placeIn x.tn map r.far.toNat = some l → r.far.toNat % 4 = 0 → l.cls = .host → x.loses l 4 = false →
       (∀ g, s.grp? x.grp = some g → (s.nodeOf g).cap = none) → Runs (.taccComplete x.id) s fun u => Retired s u x ∧ others u ∧
         (now u).ta.get (taWord t r.row0 r.col0) = BitVec.ofNat 32 (f32.exact (f32.decode (leNat (s.dev.host.getList l.pa 4))))) ∧
     (x.kind = .taccSp t r → one → clean → r.far.toNat % 4096 + 4 + (if r.mask = true then r.stride else 0) ≤ 4096 →
       (r.mask = true → 4 ≤ r.stride) → Runs (.land x.id) s fun u => Retired s u x ∧ now u = e ∧
         u.spRead x.crew r.far.toNat 4 = leBytes (f32.exact (val (e.ta.get (taWord t r.row0 r.col0)))) 4 ∧
         (r.mask = true → u.spRead x.crew (r.far.toNat + r.stride) 4 = leBytes 0xFFFFFFFE 4)) ∧
     (∀ map l, x.kind = .taccMem t r map → one → clean → s.tileClear x map (r.memRanges (s.tenant x.tn).soff none map) = true →
       s.placeIn x.tn map r.far.toNat = some l → l.cls = .host → x.loses l 4 = false → Runs (.land x.id) s fun u =>
         Retired s u x ∧ now u = e ∧ u.dev.host.getList l.pa 4 = leBytes (f32.exact (val (e.ta.get (taWord t r.row0 r.col0)))) 4)) ∧
  ((∀ (s : State) (x : Xfer) (k : Stroke), s.flow.xfers.find? (·.id == x.id) = some x → x.kind = .stroke k → k.stop = false →
     s.engineTurn x = true → k.f.gath = false → k.step < 32 → Runs (.strokeStep x.id) s fun t =>
       let e := (s.core x.core).eng
       let e' := (t.core x.core).eng
       e'.oa = e.oa ∧ e'.wb = e.wb ∧
       (∀ i j, i < 128 → j < 128 → e'.ta.get (taWord k.f.ta.toNat i j) =
         if i / 4 = k.step then e.strokeElem k.f i j (if k.f.zero = true then 0 else e.ta.get (taWord k.f.ta.toNat i j))
         else e.ta.get (taWord k.f.ta.toNat i j)) ∧
       (k.step < 31 → t.cur = s.cur ∧ t.groups = s.groups ∧ ∃ y ∈ t.flow.xfers, y.id = x.id ∧
         y.kind = .stroke { k with step := k.step + 1 }) ∧
       (k.step = 31 → (∀ y ∈ t.flow.xfers, y.id ≠ x.id) ∧ (k.f.grps.Nodup → ∀ n ∈ k.f.grps,
         (t.grp? n).map (·.tl) = (s.grp? n).map (·.tl - 1)))) ∧
   (∀ (n1 n2 : Bool) (m1 m2 : Nat) (e1 e2 : Int),
     let a := FVal.fin n1 m1 e1
     let b := FVal.fin n2 m2 e2
     let signed := fun (n : Bool) (m : Nat) (e lo : Int) => (if n = true then -1 else 1) * ((m * 2 ^ (e - lo).toNat : Nat) : Int)
     (∃ n m e, exactMul a b = .fin n m e ∧ n = (n1 != n2) ∧ m = m1 * m2 ∧ e = e1 + e2) ∧
     (∃ n m e, exactAdd a b = .fin n m e ∧ ∀ lo, lo ≤ e → lo ≤ e1 → lo ≤ e2 →
       signed n m e lo = signed n1 m1 e1 lo + signed n2 m2 e2 lo) ∧
     exactMul (.inf n1) (.fin n2 0 e2) = .nan false ∧ exactAdd (.inf n1) (.inf (!n1)) = .nan false))

/-! ## Tasks, arenas, basins and tenant mode -/

/-- `task.spawn` and `task.launch` (R27, R43, R204, R320) for a record without future and capture: a node enters the
pool of the core's die, one level deeper for a spawn, from the group's time; a full pool stalls, a failed check of the
record's address faults, and depth, record and arena faults carry that address. `arena.new`, `arena.end`, `arena.chk`
and the death of an arena (R205 to R208, R328). What the manual leaves open here is the model's choice of logs 24, 37
and 44. -/
def Obligations.TaskAndArenaWords : Prop :=
  ((∀ (h : Hdr) (e k : BitVec 5) (s s1 : State) (bs : List Byte) (x : Loc), s.cur.lanesP h ≠ 0 →
     let P := s.cur.lanesP h
     let va := s.cur.getS2 k.toNat
     let die := dieOf s.cur.core
     let r := LaunchRec.ofBytes bs []
     let s0 := s.xuse s.cur [.ok x]
     let s2 := s1.onCur fun g => { g with seq := g.seq + 1 }
     let form := fun (i : Instr) (depth : Nat) => Passes i s →
       let room := s.poolCount s.cur.tn die < 1024
       (¬room → exec i s = .next { s with ctx := { s.ctx with stop := true, moved := true, stalled := true } }) ∧
       (room → 8 < depth → exec i s = .next (s.fault .spawnDepth va)) ∧
       (room → depth ≤ 8 → ∀ c v, s.xcheck s.cur rqRecord va 64 = .fail c v → FailsCheck i s c v) ∧
       (room → depth ≤ 8 → s.xcheck s.cur rqRecord va 64 = .ok x → s0.mayPerform (s0.onceAcc P x 64) = true →
         State.readPieces P [(va, x, 64)] s0 = some (s1, bs, none) → r.capture = false →
         (r.ok = false → exec i s = .next (s2.fault .spawnFootprint va)) ∧
         (r.ok = true → r.future = 0 → r.arena ≠ 0 → s1.tn.reserve r.arena s1.fresh = none →
           exec i s = .next (s2.fault .arenaRefused va)) ∧
         (r.ok = true → r.future = 0 → ∀ u a, r.arena = 0 ∨ s1.tn.reserve r.arena s1.fresh = some (u, a) → Runs i s fun t =>
           t.cur = s2.cur.setS2 e.toNat 0 ∧ t.hbm = s1.hbm ∧ t.groups = s1.groups ∧ ∃ nd p g,
             t.nodes = s1.nodes ++ [nd] ∧ t.pool = s1.pool ++ [p] ∧ t.flow.sigs = s1.flow.sigs ++ [g] ∧
             nd.tn = s1.cur.tn ∧ nd.depth = depth ∧ nd.recVa = va ∧ nd.lr = r ∧ nd.start = s1.cur.ltime ∧
             nd.utvec = s1.cur.utvec ∧ nd.total = r.gx * r.gy * r.gz ∧ nd.exited = 0 ∧ nd.visible = false ∧ nd.cap = none ∧
             nd.arena = (if r.arena = 0 then none else some a.slot) ∧
             p.tn = s1.cur.tn ∧ p.die = dieOf s1.cur.core ∧ p.node = nd.id ∧ p.lo = 0 ∧ p.hi = nd.total ∧
             g.kind = .node nd.id s1.cur.ltime ∧ g.grp = s1.cur.id ∧
             (r.arena ≠ 0 → ∃ b ∈ (t.tenant s1.cur.tn).arenas, b.slot = a.slot ∧ b.base = a.base ∧ b.len = a.len ∧ b.gen = a.gen ∧
               b.owner = nd.id)))
     form (.taskSpawn h e k) (s.curNode.depth + 1) ∧ form (.taskLaunch h e k) 0) ∧
   (∀ r : LaunchRec, r.capture = false → (r.ok = true ↔
     (r.width = 1 ∨ r.width = 2 ∨ r.width = 4) ∧ 1 ≤ r.nCopy + r.nMat + r.nVec ∧ r.nCopy + r.nMat + r.nVec ≤ 32 * r.width ∧
     (r.nCopy = 0 ∨ r.bCopy ∈ [16, 32, 48, 64]) ∧ (r.nMat = 0 ∨ r.bMat ∈ [16, 32, 48, 64]) ∧
     (r.nVec = 0 ∨ r.bVec ∈ [16, 32, 48, 64]) ∧ r.scratch ≤ 262144 * r.width ∧ 4096 ∣ r.scratch ∧ 1 ≤ r.gx ∧ 1 ≤ r.gy ∧
     1 ≤ r.gz ∧ r.prio ≤ 3 ∧ r.basin ≤ 15 ∧ r.rsvd = false))) ∧
  ((∀ (h : Hdr) (e k : BitVec 5) (m : BitVec 3) (s : State), s.cur.lanesP h ≠ 0 →
     let nd := s.curNode
     (Passes (.arenaNew h e k) s →
       let got := s.tn.reserve (s.cur.getS k.toNat).toNat nd.id
       (nd.id = 0 ∨ nd.arena.isSome = true ∨ got = none → exec (.arenaNew h e k) s = .next (s.faultFree .arenaRefused)) ∧
       (∀ u a, nd.id ≠ 0 → nd.arena = none → got = some (u, a) → Runs (.arenaNew h e k) s fun t =>
         t.cur = (s.cur.setS2 e.toNat (a.gen ++ BitVec.ofNat 48 a.base)).setS (e.toNat + 2) a.handle ∧
         (t.node nd.id).arena = some a.slot ∧ (t.tenant s.cur.tn).arenas = s.tn.arenas ++ [a] ∧ t.hbm = s.hbm ∧
         t.groups = s.groups ∧ t.flow = s.flow)) ∧
     (Passes (.arenaEnd h k) s →
       let mine := s.arenaOf s.cur.tn nd.arena
       ((∀ a, mine = some a → a.handle ≠ s.cur.getS k.toNat) → exec (.arenaEnd h k) s = .next (s.faultFree .arenaRefused)) ∧
       (∀ a, mine = some a → a.handle = s.cur.getS k.toNat → Runs (.arenaEnd h k) s fun t =>
         t.cur.hold = some (.arena a.slot) ∧ t.hbm = s.hbm ∧ (∀ n ∈ t.nodes, n.id = a.owner → n.arena = none) ∧
         ∃ b ∈ (t.tenant s.cur.tn).arenas, b.slot = a.slot ∧ b.dying.isSome = true)) ∧
     (Passes (.arenaChk h m k) s →
       let p := s.cur.getS2 k.toNat
       let va := p.toNat % 2 ^ 48
       let tag := p.toNat / 2 ^ 48
       let alive := s.tn.inWindow va = true ∧ tag ≠ 0 ∧ ∃ a, s.tn.arenaAt va = some a ∧ a.gen.toNat = tag
       (alive → Runs (.arenaChk h m k) s fun t => WritesG s t m.toNat s.cur.live fun _ => true) ∧
       (¬alive → Runs (.arenaChk h m k) s fun t => WritesG s t m.toNat s.cur.live fun _ => false))) ∧
   (∀ (t : Tenant) (size node : Nat) (u : Tenant) (a : Arena), t.reserve size node = some (u, a) →
     size ≤ a.len ∧ 65536 ∣ a.len ∧ t.awbase.toNat ≤ a.base ∧ a.base + a.len ≤ t.awbase.toNat + t.awsize.toNat ∧
     a.slot < 4096 ∧ a.owner = node ∧ a.dying = none ∧ (∀ b ∈ t.arenas, b.slot ≠ a.slot ∧ (a.base + a.len ≤ b.base ∨ b.base + b.len ≤ a.base)) ∧
     (t.genCtr + 1 ≠ 0 → (∀ b ∈ t.arenas, b.gen ≠ t.genCtr + 1) → a.gen = t.genCtr + 1)) ∧
   (∀ (s : State) (tn slot : Nat) (a : Arena) (w : List Nat × List Nat), (s.tenant tn).arenas.find? (·.slot == slot) = some a →
     a.dying = some w → s.lostIn tn a.frames = false → s.gone w.1 w.2 = true → (∀ y ∈ s.imageWords tn, y.id ∉ w.2) → Runs (.arenaDeath tn slot) s fun t =>
       (∀ b ∈ (t.tenant tn).arenas, b.slot ≠ slot) ∧ t.hbm = s.hbm ∧
       (∀ f ∈ a.frames, f ∈ (s.tenant tn).used → f ∈ (t.tenant tn).free ∧ f ∉ (t.tenant tn).used) ∧
       (∀ g ∈ t.allGroups, g.tn = tn → g.hold ≠ some (.arena slot)) ∧
       (∀ r ∈ t.resumed, ∀ g ∈ r.image.groups, g.tn = tn → g.hold ≠ some (.arena slot)) ∧
       ∀ c ∈ t.cores, c.num / 4 ∈ (s.tenant tn).quads → ∀ x ∈ c.tc, x.tn = tn → meets x.va (pageSize x.level) a.base a.len = false))

/-- The basin words and the steps that complete them (R209 to R214): definition, resize line by line, drop, status,
and the move of a page range to a basin, whose pinned translations stay and whose lines go on from the timestamps that
they had; a record that fails its checks faults with its address, and a basin that has lost its last bank gains none
by a resize. What the manual leaves open here is the model's choice of logs 24, 27, 38, 39, 40, 57 and 89. -/
def Obligations.BasinWords : Prop :=
  (∀ (h : Hdr) (n i : BitVec 4) (e k : BitVec 5) (s s1 : State) (bs : List Byte) (x : Loc), s.cur.lanesP h ≠ 0 →
    let P := s.cur.lanesP h
    let va := s.cur.getS2 k.toNat
    let r := basinRecOf bs
    let s2 := s1.onCur fun g => { g with seq := g.seq + 1 }
    let id := (s.cur.getS k.toNat).toNat % 16
    let len := (s.cur.getS (k.toNat + 2)).toNat
    let s0 := s.xuse s.cur [.ok x]
    let seen := s.xcheck s.cur rqLoad va 32 = .ok x ∧ s0.mayPerform (s0.onceAcc P x 32) = true ∧
      State.readPieces P [(va, x, 32)] s0 = some (s1, bs, none)
    (∀ i ∈ [.bsnDef h k, .bsnResize h n k], Passes i s → ∀ c v, s.xcheck s.cur rqLoad va 32 = .fail c v → FailsCheck i s c v) ∧
    (Passes (.bsnDef h k) s → seen →
      (∀ c, s1.tn.defCheck r = some c → exec (.bsnDef h k) s = .next (s2.fault c va)) ∧
      (s1.tn.defCheck r = none → Runs (.bsnDef h k) s fun t => t.cur = s2.cur ∧ t.hbm = s1.hbm ∧
        (t.tenant s1.cur.tn).basins = s1.tn.basins ++ [⟨r, none, false, false⟩])) ∧
    (Passes (.bsnResize h n k) s → seen →
      (∀ c, s1.tn.resizeCheck r = some c → exec (.bsnResize h n k) s = .next (s2.fault c va)) ∧
      (∀ b, s1.tn.resizeCheck r = none → s1.tn.basin? r.id = some b → b.defn.mask = 0 → Runs (.bsnResize h n k) s fun t =>
        t.hbm = s1.hbm ∧ (t.tenant s1.cur.tn).basins = s1.tn.basins ∧
        ∃ y, t.flow.xfers = s1.flow.xfers ++ [y] ∧ y.kind = .bsnResize r.id ∧ y.ctr = none ∧ AttachesTo s1 n y.bar) ∧
      (∀ b, s1.tn.resizeCheck r = none → s1.tn.basin? r.id = some b → b.defn.mask ≠ 0 → Runs (.bsnResize h n k) s fun t =>
        t.cur = { s1.cur with seq := s1.cur.seq + 2 } ∧ t.hbm = s1.hbm ∧
        (t.tenant s1.cur.tn).basin? r.id = some { b with defn := { b.defn with mask := r.mask, count := r.count },
                                                         old := some b.defn.mask } ∧
        (∀ y ∈ s1.flow.homes, y.key.tn = s1.cur.tn → y.key.bs = r.id →
          bankUnder b.defn.mask (lineSize b.defn.line) y.key.line ≠ bankUnder r.mask (lineSize b.defn.line) y.key.line →
          ∃ z ∈ t.flow.homes, z.key = y.key ∧ z.old = true) ∧
        ∃ y, t.flow.xfers = s1.flow.xfers ++ [y] ∧ y.kind = .bsnResize r.id ∧ y.ctr = none ∧ AttachesTo s1 n y.bar)) ∧
    (Passes (.bsnDrop h n k) s →
      (id = 15 ∨ s.tn.basin? id = none → exec (.bsnDrop h n k) s = .next (s.faultFree .basinUndefined)) ∧
      (∀ b, id ≠ 15 → s.tn.basin? id = some b → b.old.isSome = true ∨ b.drop = true →
        exec (.bsnDrop h n k) s = .next (s.faultFree .basinBusy)) ∧
      (∀ b, id ≠ 15 → s.tn.basin? id = some b → b.old = none → b.drop = false → Runs (.bsnDrop h n k) s fun t =>
        (t.tn.basin? id = some { b with drop := true }) ∧ ∃ y, Launched s t y ∧ y.kind = .bsnDrop id ∧ y.ctr = none ∧
          AttachesTo s n y.bar)) ∧
    (Passes (.bsnStat h e k) s →
      let word := fun (a b c : Word) => exec (.bsnStat h e k) s = .next (s.onCur fun g =>
        ((g.setS e.toNat a).setS (e.toNat + 1) b).setS (e.toNat + 2) c)
      (id = 15 ∨ s.tn.basin? id = none → word 0 0 0) ∧
      (∀ b, id ≠ 15 → s.tn.basin? id = some b → word
        (BitVec.ofNat 32 (1 + (if b.old.isSome then 2 else 0) + (if b.drop then 4 else 0) + (if b.lost then 8 else 0) +
          16 * b.defn.die + 128 * (banksOf b.defn.mask).length))
        (BitVec.ofNat 32 b.defn.mask.toNat) (BitVec.ofNat 32 (b.defn.mask.toNat / 2 ^ 32)))) ∧
    (Passes (.pgBsn h n i k) s →
      let lo := va.toNat
      let odd := lo % 4096 ≠ 0 ∨ len % 4096 ≠ 0 ∨ 2 ^ 48 ≤ lo ∨ 2 ^ 48 < lo + len
      (odd → exec (.pgBsn h n i k) s = .next (s.fault .align va)) ∧
      (¬odd → i ≠ 15 → s.tn.basin? i.toNat = none → exec (.pgBsn h n i k) s = .next (s.fault .basinUndefined va)) ∧
      (¬odd → i = 15 ∨ (s.tn.basin? i.toNat).isSome = true → Runs (.pgBsn h n i k) s fun t =>
        (∃ y fs, Launched s t y ∧ y.kind = .pgBsn lo (lo + len) i.toNat fs ∧ y.ctr = none ∧ AttachesTo s n y.bar) ∧
        (∀ c ∈ t.cores, c.num / 4 ∈ s.tn.quads → ∀ y ∈ c.tc, y.tn = s.cur.tn → meets y.va (pageSize y.level) lo len = false) ∧
        (∀ y ∈ t.tn.stc, y.tn = s.cur.tn → y.pin = false → meets y.va (pageSize y.level) lo len = false) ∧
        ∀ y ∈ s.tn.stc, y.pin = true → ∃ z ∈ t.tn.stc, z.pin = true ∧ z.va = y.va ∧ z.level = y.level))) ∧
  (∀ (t : Tenant) (r : BasinRec), t.defCheck r = none ↔
    (∀ b, b < 64 → r.mask.getLsbD b = true → (t.shareOn r.die).getLsbD b = true) ∧ r.id < 15 ∧
    (∀ b ∈ t.basins, b.defn.id ≠ r.id) ∧ r.line ≤ 2 ∧ r.ways ∈ [4, 8, 16] ∧ r.write ≤ 3 ∧ r.repl ≤ 2 ∧ r.die ≤ 7 ∧
    r.count = (banksOf r.mask).length ∧ r.count ≠ 0 ∧ r.rsvd = false ∧
    ∀ b ∈ t.basins, b.defn.id ≠ r.id → b.defn.die = r.die → ∀ j, j < 64 → r.mask.getLsbD j = true →
      b.defn.mask.getLsbD j = false ∧ ((b.old.getD 0).getLsbD j = false)) ∧
  (∀ (s : State) (k : HomeKey) (b : Basin), s.liveBasin k.tn k.bs = some b → b.old.isSome = true → s.entryLost k = false →
    (∀ h, s.home? k = some h → h.old = true → h.owner = none →
      let room := ((s.setLines k b (b.bankOf false k.line)).filter fun y => y.key != k).length < b.defn.ways
      (h.dirty = false → Runs (.resizeLineMove k) s fun t => t.home? k = none ∧ t.hbm = s.hbm) ∧
      (h.dirty = true → room → Runs (.resizeLineMove k) s fun t => t.home? k = some { h with old := false } ∧ t.hbm = s.hbm) ∧
      (h.dirty = true → ¬room → Runs (.resizeLineMove k) s fun t => t.home? k = none ∧
        t.hbm = s.hbm.setList k.line (h.data.getList k.line (lineSize b.defn.line)))) ∧
    (s.home? k = none → s.moving k.tn k.bs = false → Runs (.resizeLineMove k) s fun t =>
      (∀ c ∈ (t.tenant k.tn).basins, c.defn.id = k.bs → c.old = none) ∧ t.hbm = s.hbm ∧
      ∀ x, s.flow.xfers.find? (fun y => y.tn == k.tn && y.kind == .bsnResize k.bs) = some x → Retired s t x)) ∧
  (∀ (s : State) (x : Xfer) (id lo hi : Nat) (fs : List Nat), s.flow.xfers.find? (·.id == x.id) = some x →
    (x.kind = .bsnDrop id → s.lostInBasin x.tn id = false → (∀ a ∈ s.flow.accs, ¬(a.key.tn = x.tn ∧ a.key.bs = id)) →
      (∀ y ∈ s.flow.xfers, ∀ c ∈ y.claims, ¬(c.tn = x.tn ∧ c.bs = id)) →
      (∀ y ∈ s.flow.xfers, ∀ ks, y.kind = .bpref ks → ∀ c ∈ ks, ¬(c.1.tn = x.tn ∧ c.1.bs = id)) → Runs (.bsnDropComplete x.id) s fun t => Retired s t x ∧
        (∀ b ∈ (t.tenant x.tn).basins, b.defn.id ≠ id) ∧ ∀ h ∈ t.flow.homes, ¬(h.key.tn = x.tn ∧ h.key.bs = id)) ∧
    (x.kind = .pgBsn lo hi id fs →
      let in_ := fun ea n => meets (ea % 2 ^ 48) n lo (hi - lo)
      s.lostIn x.tn fs = false → s.gone (s.accsThrough x.tn fun ea => in_ ea 1) (s.xfersThrough x.tn in_) = true →
      Runs (.pgBsnComplete x.id) s fun t => Retired s t x ∧
        (∀ h ∈ t.flow.homes, h.key.tn = x.tn → h.key.bs ≠ 15 → h.key.bs ≠ id → h.key.line / 4096 ∉ fs) ∧
        ∀ k h, s.home? k = some h → k.tn = x.tn → k.line / 4096 ∈ fs → k.bs ≠ id → (s.liveBasin k.tn k.bs).isSome = true →
          let now := t.stamps (s.keyOf x.tn id k.line)
          h.wts ≤ now.1 ∧ h.rts ≤ now.2))

/-- Invalidation and the walk queue (R216 to R218, R222, R272, R273, R289): a pending event comes before walk entries;
a leaf installs, a bad one posts its cause to every group that waits, which holds it pending with the address it waits
at, or takes it at its fetch, or drops the prefetch, or has its launch record refused; an entry that has become stale
installs nothing. An invalidation waits for every access that used a translation which it drops. What the manual
leaves open here is the model's choice of logs 36, 42 and 108. -/
def Obligations.WalkerWords : Prop :=
  ∀ (h : Hdr) (m : BitVec 3) (d : BitVec 6) (k : BitVec 5) (s : State), s.cur.lanesP h ≠ 0 →
    let P := s.cur.lanesP h
    let va := s.cur.getS2 k.toNat
    let len := (s.cur.getS (k.toNat + 2)).toNat
    let core := s.core s.cur.core
    let mine := fun (x : Xent) (lo hi : Nat) => x.tn = s.cur.tn ∧ meets x.va (pageSize x.level) lo (hi - lo) = true
    let held := fun (lo hi : Nat) (t : State) => (∃ as xs, t.cur = { s.cur with hold := some (.inv as xs) } ∧
        ∀ a ∈ s.flow.accs, a.tn = s.cur.tn → a.cls ≠ .scratch → a.va < 2 ^ 64 →
          let at_ := a.va % 2 ^ 48
          (lo ≤ at_ ∧ at_ < hi) ∨ (∃ x ∈ s.translations s.cur.tn, mine x lo hi ∧ x.va ≤ at_ ∧ at_ < x.va + pageSize x.level) →
          a.id ∈ as) ∧
      t.groups = s.groups ∧ t.hbm = s.hbm ∧ t.flow = s.flow ∧ (∀ x ∈ t.tn.stc, ¬mine x lo hi) ∧
      ∀ c ∈ t.cores, c.num / 4 ∈ s.tn.quads → ∀ x ∈ c.tc, ¬mine x lo hi
    let at_ := fun (t : State) (w : Walk) (c : Cause) => (t.core s.cur.core).wq = core.wq.erase w ∧ t.hbm = s.hbm ∧
      let pend := fun (g : Group) (c : Cause) (v : DWord) => if g.pend.any (·.1 == c) then g else { g with pend := g.pend ++ [(c, v)] }
      t.groups = s.groups.map fun g => match w.grps.find? fun r => r.grp == g.id with
        | some ⟨_, _, _, some e⟩ => pend g e.1 e.2
        | some ⟨_, none, _, none⟩ => { g with dropped := w.vpn :: g.dropped }
        | some ⟨_, some ea, true, none⟩ => { g with charge := some (g.charge.getD (c, ea)) }
        | some ⟨_, some ea, false, none⟩ => pend g c ea
        | none => g
    (Passes (.tsysInvVa h k) s →
      (va.toNat + len ≤ 2 ^ 48 → va.toNat < 2 ^ 48 → Runs (.tsysInvVa h k) s (held va.toNat (va.toNat + len))) ∧
      (2 ^ 48 < va.toNat + len ∨ 2 ^ 48 ≤ va.toNat → exec (.tsysInvVa h k) s = .next (s.fault .align va))) ∧
    (Passes (.tsysInvAll h) s → Runs (.tsysInvAll h) s (held 0 (2 ^ 48))) ∧
    (Passes (.tsysWqpop h m d) s →
      let ws := (core.wq.filter (!·.served)).take (lanesOf P).length
      (∀ e, s.eventFor s.cur.core s.cur.tn = some e → Runs (.tsysWqpop h m d) s fun t =>
        (∃ u : State, WritesG s u m.toNat P (fun _ => false) ∧
          t.cur = { u.cur with t1trap := { s.cur.t1trap with cause := 1#1 ++ e.1.code, val := e.2 } }) ∧
        ((s.tenants.any (·.id == s.cur.tn)) = true → t.tn.events = s.tn.events.erase e) ∧ t.cores = s.cores ∧ t.groups = s.groups) ∧
      (s.eventFor s.cur.core s.cur.tn = none → ws = [] → Runs (.tsysWqpop h m d) s fun t => t.cur.path.mask = 0 ∧
        (∃ p ∈ t.cur.sets, p.cond = .walk ∧ p.path = { s.cur.path with pc := s.ctx.pc }) ∧
        { t with cur := s.cur, ctx := s.ctx } = s) ∧
      (s.eventFor s.cur.core s.cur.tn = none → ws ≠ [] → Runs (.tsysWqpop h m d) s fun t =>
        (∀ (j l : Nat) (w : Walk), (lanesOf P)[j]? = some l → ws[j]? = some w →
          t.cur.getV d.toNat l = BitVec.ofNat 32 (w.vpn * 4096) ∧ t.cur.getV (d.toNat + 1) l = BitVec.ofNat 32 (w.vpn / 2 ^ 20) ∧
          t.cur.getV (d.toNat + 2) l = w.token ∧ t.cur.getV (d.toNat + 3) l = w.flags) ∧
        (∀ j l : Nat, (lanesOf P)[j]? = some l → m ≠ 0 → (inMask (t.cur.getG m.toNat) l = true ↔ j < ws.length)) ∧
        (∀ n l, l < 32 → n < d.toNat ∨ d.toNat + 4 ≤ n ∨ inMask P l = false → t.cur.getV n l = s.cur.getV n l) ∧
        (∀ w ∈ (t.core s.cur.core).wq, w.served = false → w ∈ core.wq ∧ w ∉ ws) ∧ t.groups = s.groups ∧ t.hbm = s.hbm)) ∧
    (∀ l, lanesOf P = [l] →
      let entry := s.inService (s.cur.getV (d.toNat + 2) l)
      let leaf := s.cur.getV2 d.toNat l
      let level := (s.cur.getV (d.toNat + 3) l).toNat % 4
      let code := (s.cur.getV (d.toNat + 3) l).toNat % 256
      (Passes (.tsysWqdone h d) s →
        (entry = none → exec (.tsysWqdone h d) s = .next s) ∧
        (∀ w, entry = some w → w.stale = true → Runs (.tsysWqdone h d) s fun t =>
          (t.core s.cur.core).wq = core.wq.erase w ∧ t.cur = s.cur ∧ t.groups = s.groups ∧ t.tenants = s.tenants) ∧
        (∀ w, entry = some w → w.stale = false → leafV leaf = false → Runs (.tsysWqdone h d) s fun t => at_ t w .notPresent) ∧
        (∀ w, entry = some w → w.stale = false → leafV leaf = true → badLeaf leaf level = true →
          Runs (.tsysWqdone h d) s fun t => at_ t w .ptFrame) ∧
        (∀ w, entry = some w → w.stale = false → leafV leaf = true → badLeaf leaf level = false → s.tn.thrash.toNat % 256 = 0 →
          (s.tenants.any (·.id == s.cur.tn)) = true →
          s.tn.stc.countP (fun x => x.die == dieOf s.cur.core) < s.tn.stcShare (dieOf s.cur.core) →
          Runs (.tsysWqdone h d) s fun t => (t.core s.cur.core).wq = core.wq.erase w ∧ t.groups = s.groups ∧ t.hbm = s.hbm ∧
            ∃ x ∈ t.tn.stc, x.level = level ∧ x.va = w.vpn * 4096 / pageSize level * pageSize level ∧
              x.leaf = leaf &&& ~~~0x200#64 ∧ x.die = dieOf s.cur.core)) ∧
      (Passes (.tsysFaultPost h d) s →
        (Cause.posted (BitVec.ofNat 8 code) = none → exec (.tsysFaultPost h d) s = .next (s.fault .priv (s.ctx.word.setWidth 64))) ∧
        (∀ c w, Cause.posted (BitVec.ofNat 8 code) = some c → entry = some w → w.stale = false →
          Runs (.tsysFaultPost h d) s fun t => at_ t w c) ∧
        (∀ c, Cause.posted (BitVec.ofNat 8 code) = some c → entry = none → exec (.tsysFaultPost h d) s = .next s)))

/-- Physical loads, frames, frame work and meters (R219 to R221, R223, R274): a frame taken is free, from the tenant's
list or within its allotment from the pool; a frame that is not the tenant's faults with PT_FRAME; zeroed and copied
frames read so. What the manual leaves open here is the model's choice of logs 3, 34 and 35. -/
def Obligations.FrameWords : Prop :=
  (∀ (h : Hdr) (z : Bool) (m : BitVec 3) (a d : BitVec 6) (e k : BitVec 5) (s : State), s.cur.lanesP h ≠ 0 →
    let P := s.cur.lanesP h
    let L := lanesOf P
    let n := if z = true then 16 else 1
    let pa := fun l => (s.cur.getV2 a.toNat l).toNat
    let dst := fun l => (s.cur.getV2 d.toNat l).toNat
    let owned := fun p => 4096 * n ∣ p ∧ ∀ i, i < n → s.tn.hasFrame (p / 4096 + i) = true
    let run := fun p => (List.range n).map (p / 4096 + ·)
    let first := fun (l : Nat) (bad : Nat → Prop) => l ∈ L ∧ bad l ∧ ∀ j ∈ L, j < l → ¬bad j
    (Passes (.tsysPtld h a d) s → s.cur.ld < 63 →
      ((∀ l ∈ L, 8 ∣ pa l ∧ s.tn.hasFrame (pa l / 4096) = true) → Runs (.tsysPtld h a d) s fun t =>
        Issues s t .ld (.load d.toNat 8 false) (fun _ => .load) P fun l =>
          [(⟨l, 0, pa l, 8, .load⟩, ⟨.device, ⟨s.cur.tn, 15, pa l / 128 * 128⟩, pa l, 0, 0, false, true, 2 ^ 64 + pa l, 0⟩)]) ∧
      (∀ l, first l (fun j => ¬8 ∣ pa j ∨ s.tn.hasFrame (pa j / 4096) = false) → exec (.tsysPtld h a d) s =
        .next (s.fault (if pa l % 8 ≠ 0 then .align else .ptFrame) (s.cur.getV2 a.toNat l)))) ∧
    (Passes (.tsysFrmTake h z m d) s → (s.tenants.any (·.id == s.cur.tn)) = true → ∀ l, L = [l] →
      (∀ f, s.takeFrame n = some f → Runs (.tsysFrmTake h z m d) s fun t =>
        t.cur.getV2 d.toNat l = BitVec.ofNat 64 (f * 4096) ∧ (m ≠ 0 → inMask (t.cur.getG m.toNat) l = true) ∧
        t.tn.used = s.tn.used ++ run (f * 4096) ∧ t.tn.tstat = 0 ∧ t.groups = s.groups ∧ t.hbm = s.hbm) ∧
      (s.takeFrame n = none → Runs (.tsysFrmTake h z m d) s fun t =>
        (m ≠ 0 → inMask (t.cur.getG m.toNat) l = false) ∧ t.cur.v = s.cur.v ∧ t.tn.used = s.tn.used ∧ t.tn.tstat = 0xC1 ∧
        t.groups = s.groups ∧ t.hbm = s.hbm)) ∧
    (Passes (.tsysFrmGive h z a) s →
      (∀ l, L = [l] → owned (pa l) → (s.tenants.any (·.id == s.cur.tn)) = true → Runs (.tsysFrmGive h z a) s fun t =>
        t.cur = s.cur ∧ t.hbm = s.hbm ∧ (∀ f ∈ run (pa l), f ∉ t.tn.used ∧ f ∈ t.tn.free) ∧
        ∀ f, f ∉ run (pa l) → (f ∈ t.tn.used ↔ f ∈ s.tn.used) ∧ (f ∈ t.tn.free ↔ f ∈ s.tn.free)) ∧
      (∀ l, first l (fun j => ¬owned (pa j)) → exec (.tsysFrmGive h z a) s = .next (s.fault .ptFrame (s.cur.getV2 a.toNat l)))) ∧
    (Passes (.tsysMzero h z a) s →
      ((∀ l ∈ L, owned (pa l)) → s.cur.st < 63 → Runs (.tsysMzero h z a) s fun t => ∃ x, Launched s t x ∧ x.ctr = some .st ∧
        x.kind = .frames false (L.flatMap fun l => (run (pa l)).map fun f => (f, f))) ∧
      (∀ l, first l (fun j => ¬owned (pa j)) → exec (.tsysMzero h z a) s = .next (s.fault .ptFrame (s.cur.getV2 a.toNat l)))) ∧
    (Passes (.tsysMcopy h z a d) s →
      ((∀ l ∈ L, owned (pa l) ∧ owned (dst l)) → s.cur.st < 63 → Runs (.tsysMcopy h z a d) s fun t => ∃ x, Launched s t x ∧
        x.ctr = some .st ∧ x.kind = .frames true (L.flatMap fun l => (run (dst l)).zip (run (pa l)))) ∧
      (∀ l, first l (fun j => ¬owned (dst j) ∨ ¬owned (pa j)) → owned (dst l) →
        exec (.tsysMcopy h z a d) s = .next (s.fault .ptFrame (s.cur.getV2 a.toNat l)))) ∧
    (Passes (.tsysMeterRd h e k) s →
      let j := (s.cur.getS k.toNat).toNat
      exec (.tsysMeterRd h e k) s = .next (s.onCur (·.setS2 e.toNat (if j < 12 then BitVec.ofNat 64 (s.tn.meterOf j) else 0))))) ∧
  (∀ (s : State) (n f : Nat), n = 1 ∨ n = 16 → s.takeFrame n = some f → n ∣ f ∧ ((∀ i, i < n → f + i ∈ s.tn.free) ∨
    (s.tn.used.length + s.tn.free.length + n ≤ s.tn.allot ∧ ∀ i, i < n → f + i ∉ s.heldFrames))) ∧
  (∀ (s : State) (x : Xfer) (d f : Nat), MemoryOk s → s.flow.xfers.find? (·.id == x.id) = some x →
    let unclaimed := fun f : Nat => ∀ y ∈ s.flow.xfers, y.id < x.id → y.claims? s (f * 4096) 4096 = false
    (x.kind = .frames false [(d, d)] → s.lostIn x.tn [d] = false → unclaimed d → Runs (.frameWorkComplete x.id) s fun t => Retired s t x ∧
      ∀ j, t.hbm.get j = if j / 4096 = d then 0 else s.hbm.get j) ∧
    (x.kind = .frames true [(d, f)] → s.lostIn x.tn [d, f] = false → unclaimed d → unclaimed f →
      Runs (.frameWorkComplete x.id) s fun t => Retired s t x ∧
        ∀ j, t.hbm.get j = if j / 4096 = d then s.hbm.get (f * 4096 + j % 4096) else s.hbm.get j))

/-- The end of a save, `seal.seal` and `seal.unseal` (R224, R226, R227, R293, R298): the outcomes in their order, the
counter, and the way back into the pool. What the manual leaves open here is the model's choice of logs 5, 8, 54, 58,
59, 92 and 97. -/
def Obligations.SaveWords : Prop :=
  ∀ (h : Hdr) (m : BitVec 3) (k : BitVec 5) (s : State), s.cur.lanesP h ≠ 0 →
    let P := s.cur.lanesP h
    let va := s.cur.getS2 k.toNat
    let size := (s.cur.getS (k.toNat + 2)).toNat
    let priv := fun i : Instr => exec i s = .next (s.fault .priv (s.ctx.word.setWidth 64))
    (Passes (.tsysPsaveDone h) s → (s.cur.saving = none → priv (.tsysPsaveDone h)) ∧
      (∀ n, s.cur.saving = some n → s.cur.crew ≠ n → Runs (.tsysPsaveDone h) s fun t =>
        (∀ c ∈ t.crews, c.id = n → c.life = .exited ∧ c.units = [] ∧ c.matrix = []) ∧
        (∀ g ∈ t.groups, g.crew = n → g.id ≠ 0 → g.ended = g.lanes ∧ g.slot = false ∧ g.path.mask = 0 ∧ g.sets = []) ∧
        (∀ c ∈ t.cores, c.owner ≠ some n) ∧ t.hbm = s.hbm ∧
        t.cur.saving = none ∧ t.cur.path.mask = 0 ∧ t.cur.sets = [] ∧ t.cur.restart = some (s.dev.cycle + 1024))) ∧
    (Passes (.seal h m k) s → (s.cur.saving = none → priv (.seal h m k)) ∧
      (∀ n, s.cur.saving = some n →
        let c := s.crew n
        let len := s.imageLen c
        let recVa := (s.node c.node).recVa
        let nothing := fun (x : Word) => Runs (.seal h m k) s fun t => ∃ u, WritesS s u (k.toNat + 2) true x ∧
          WritesG u t m.toNat P fun _ => false
        let pages := s.sealPages va len true
        (s.crewQuiet n = true → len ≤ size → s.tn.savesFull recVa c = false → (∃ w, .walk w ∈ pages) → Runs (.seal h m k) s fun t =>
          t.hbm = s.hbm ∧ t.dev.sealed = s.dev.sealed ∧ (k.toNat + 2 ≠ 0 → t.cur.getS (k.toNat + 2) = 0) ∧
          ∀ l, l < 32 → inMask P l = true → m ≠ 0 → inMask (t.cur.getG m.toNat) l = false) ∧
        (s.crewQuiet n = false → exec (.seal h m k) s = .next { s with ctx := { s.ctx with stop := true, moved := true, stalled := true } }) ∧
        (s.crewQuiet n = true → size < len → nothing (BitVec.ofNat 32 len)) ∧
        (s.crewQuiet n = true → len ≤ size → s.tn.savesFull recVa c = true → nothing 0xFFFFFFFF) ∧
        (s.crewQuiet n = true → len ≤ size → s.tn.savesFull recVa c = false → ∀ ls : List Loc, pages = ls.map .ok →
          s.sealMay P true ls len = true → Runs (.seal h m k) s fun t =>
            (∃ x, t.dev.sealed = x :: s.dev.sealed ∧ x.tn = c.tn ∧ x.recVa = recVa ∧
              (x.image.crew.x, x.image.crew.y, x.image.crew.z) = (c.x, c.y, c.z) ∧ x.bytes.length = len ∧
              x.count = (((s.tenant c.tn).saveOf recVa c).map (·.count)).getD 0 + 1) ∧
            (k.toNat + 2 ≠ 0 → t.cur.getS (k.toNat + 2) = BitVec.ofNat 32 len) ∧
            (∀ l, inMask P l = true → m ≠ 0 → inMask (t.cur.getG m.toNat) l = true)))) ∧
    (Passes (.unseal h k) s → ∀ pre c v post, s.sealPages va size false = pre ++ .fail c v :: post →
      (∀ r ∈ pre ++ post, r.open = false) → (∀ r ∈ pre, ∀ c' v', r ≠ .fail c' v') → FailsCheck (.unseal h k) s c v) ∧
    (Passes (.unseal h k) s → ∀ (ls : List Loc) (s1 : State) (bs : List Byte), s.sealPages va size false = ls.map .ok →
      let u := s.xuse s.cur (s.sealPages va size false)
      let s2 := s1.onCur fun g => { g with seq := g.seq + 1 }
      u.sealMay P false ls size = true →
      (∀ c, u.sealReadAll va.toNat size ls = some (s1, bs, some c) →
        exec (.unseal h k) s = .next { s2 with cur := s2.cur.pending c va }) ∧
      (u.sealReadAll va.toNat size ls = some (s1, bs, none) →
      (s1.sealedAs s1.cur.tn bs = none → exec (.unseal h k) s = .next (s2.fault .sealTag va)) ∧
      (∀ x, s1.sealedAs s1.cur.tn bs = some x →
        x ∈ s1.dev.sealed ∧ x.tn = s1.cur.tn ∧ bs.take x.bytes.length = x.bytes ∧
        ((∀ e, s1.tn.saveOf x.recVa x.image.crew = some e → e.count ≠ x.count ∨ e.live = true) →
          exec (.unseal h k) s = .next (s2.fault .sealStale va)) ∧
        (∀ e, s1.tn.saveOf x.recVa x.image.crew = some e → e.count = x.count → e.live = false → Runs (.unseal h k) s fun t =>
          t.cur = s2.cur ∧ t.hbm = s1.hbm ∧ (∃ r, t.resumed = s1.resumed ++ [r] ∧ r.tn = x.tn ∧ r.image = x.image ∧
            r.die = dieOf x.image.crew.base ∧ r.saved = x.stamp) ∧
          ∀ y ∈ t.tn.saves, y.recVa = x.recVa → (y.x, y.y, y.z) = (x.image.crew.x, x.image.crew.y, x.image.crew.z) →
            y.live = true))))

/-! ## Scheduling -/

/-- ROTATION and BIN_DRAW (R38, R41): a path that has issued 1,024 chains becomes the youngest, and the oldest ready
set runs, or the same path again; a full or old bin becomes a group in the freed slot, its lanes with their registers,
guards and PCs. SWAP_OUT and SWAP_IN (R334): a group blocked for 65,536 cycles gives up its slot only where a crew can
then be placed, and returns once it is unblocked and a slot is free; nothing else of it changes. What the manual
leaves open here is the model's choice of logs 62, 78 and 91. -/
def Obligations.RotationBinsAndSwaps : Prop :=
  ((∀ (s : State) (n : Nat) (g : Group), s.grp? n = some g →
     let young : Path := { g.path with age := g.ages, rot := 0 }
     (g.path.rot < 1024 → Runs (.rotation n) s fun t => t.grp? n = some g) ∧
     (1024 ≤ g.path.rot → g.path.tag = ⟨g.mode, g.depth⟩ → (∀ p ∈ g.sets, g.canRun p = false) → Runs (.rotation n) s fun t =>
       t.grp? n = some { g with path := young, ages := g.ages + 1 }) ∧
     (1024 ≤ g.path.rot → ∀ p, g.sets.find? g.canRun = some p → p.cond = .deferred →
       (∀ q ∈ g.sets, q.path.age < g.ages ∧ q.path.pc ≠ g.path.pc) → Runs (.rotation n) s fun t => ∃ k, t.grp? n = some k ∧
         k.path = { p.path with rot := 0 } ∧ k.ages = g.ages + 1 ∧ (∃ q ∈ k.sets, q.cond = .deferred ∧ q.path = young) ∧
         { k with path := g.path, sets := g.sets, ages := g.ages } = g)) ∧
   (∀ (s : State) (n j : Nat) (c : Crew) (b : Bin) (f : Nat × Nat × Nat), s.crews.find? (·.id == n) = some c →
     c.bins[j]? = some b → c.life = .running → (s.tenant c.tn).life = .live →
     let due := 32 ≤ b.filed.length ∨ b.first + 256 ≤ s.dev.cycle
     (¬due → exec (.binDraw n j) s = .next s) ∧
     (due → b.filed.length ≤ 32 → f ∈ c.freeNums → (s.slotsOn f.2.1).length < 64 →
       (∀ e ∈ c.freeNums, (s.slotsOn e.2.1).length < 64 → e = f ∨ f.2.1 < e.2.1) → Runs (.binDraw n j) s fun t =>
       (∃ g ∈ t.groups, g.id = s.fresh ∧ g.crew = n ∧ (g.num, g.core, g.age) = f ∧ g.role = .vector ∧ g.slot = true ∧
         g.mode = .u ∧ g.ltime = b.t ∧ g.s = b.s ∧ g.ld + g.st + g.cp + g.tl = 0 ∧
         (∀ (l : Nat) (x : Filed), b.filed[l]? = some x → inMask g.ended l = false ∧ StandsAt g l x.pc ∧
           (∀ r, r < g.budget → g.getV r l = x.v.get r) ∧ ∀ k, k < 8 → k ≠ 0 → inMask (g.getG k) l = x.g.getLsbD k) ∧
         ∀ l, l < 32 → b.filed.length ≤ l → inMask g.ended l = true) ∧
       (t.crew n).bins = c.bins.eraseIdx j ∧ t.hbm = s.hbm ∧ t.flow = s.flow ∧ t.nodes = s.nodes))) ∧
  (∀ (s : State) (n : Nat) (g : Group), s.grp? n = some g →
     let without := s.mapGrp n fun g => { g with slot := false }
     let blocked := g.slot = true ∧ g.unblocked = false ∧ g.live ≠ 0 ∧ g.since + 65536 ≤ s.dev.cycle
     let helps := s.nextPlace g.tn (g.core / 44) = none ∧ without.nextPlace g.tn (g.core / 44) ≠ none
     let back := g.slot = false ∧ g.live ≠ 0 ∧ (s.tenant g.tn).life = .live ∧ g.unblocked = true ∧ (s.slotsOn g.core).length < 64
     (blocked ∧ helps → exec (.swapOut n) s = .next without) ∧ (¬(blocked ∧ helps) → exec (.swapOut n) s = .next s) ∧
     (back → exec (.swapIn n) s = .next (s.mapGrp n fun g => { g with slot := true })) ∧
     (¬back → exec (.swapIn n) s = .next s))

/-- PLACEMENT (R28, R29, R321, R323, R324): what is placed fits on an eligible core set, the lowest one; a new crew
has its index's coordinates, every group at the entry of R29, and its node one unplaced crew less; a saved crew comes
back as its image holds it, and what has completed in the meantime makes its paths ready (R227, R228). The order of a
pool's offers, POOL_AGE_LIMIT and STEAL (R320, R321, R325): nodes by priority, time of entry and index; the
first-offered crew that has waited 1 ms goes first until it is placed, and no other is placed before it; a die with
nothing to place takes half of the crews, rounded up, of the first node that another die offers, if its pool has room
for the node, or the first resumed crew. What the manual leaves open here is the model's choice of logs 41 and 61. -/
def Obligations.PlacementAndPools : Prop :=
  ((∀ (s : State) (tn die : Nat) (o : Offer) (b : Nat), s.nextPlace tn die = some (o, b) →
     let need := s.need o
     let fits := fun b' => b' ∈ s.sets tn die need.width ∧ ∀ i, i < need.width → s.coreTakes need b' i = true
     (s.tenant tn).life = .live ∧ fits b ∧ ((∀ n ∈ s.nodes, n.cap = none) → ∀ b', fits b' → b ≤ b') ∧
       ∀ i, i < need.width →
         ((s.slotsOn (b + i)).filter (·.role != .service)).length + (need.groups.filter fun g => g.1 % need.width == i).length ≤ 63 ∧
         (need.width ∈ [1, 2, 4] → (b + i) / 4 ∈ (s.tenant tn).quads ∧ (b + i) / 44 = die)) ∧
   (∀ (s : State) (tn die : Nat), s.nextPlace tn die = none → exec (.placement tn die) s = .next s) ∧
   (∀ (s : State) (tn die b : Nat) (e : PoolEnt), s.nextPlace tn die = some (.fresh e, b) → (s.node e.node).cap = none →
     Runs (.placement tn die) s fun t =>
       let n := s.node e.node
       let r := n.lr
       ∃ c ∈ t.crews, c.id = s.fresh ∧ c.tn = n.tn ∧ c.node = n.id ∧ c.idx = e.lo ∧ c.base = b ∧ c.width = r.width ∧
         c.scratch = r.scratch ∧ c.life = .running ∧ c.service = false ∧ e.lo = c.x + r.gx * (c.y + r.gy * c.z) ∧
         (∀ (k : Nat) (x : Role), (List.replicate r.nCopy Role.copy ++ List.replicate r.nMat .matrix ++
             List.replicate r.nVec .vector)[k]? = some x → ∃ g ∈ t.groups, g.crew = c.id ∧ g.num = k ∧ g.core = b + k % r.width ∧
           g.role = x ∧ g.slot = true ∧ g.mode = .u ∧ g.path.mask = BitVec.allOnes 32 ∧ g.path.pc = r.entry ∧ g.sets = [] ∧
           g.ended = 0 ∧ g.v = [] ∧ g.g = [] ∧ g.getS 1 = BitVec.ofNat 32 c.x ∧ g.getS 2 = BitVec.ofNat 32 c.y ∧
           g.getS 3 = BitVec.ofNat 32 c.z ∧ g.getS2 4 = r.arg ∧ (∀ j, 6 < j → g.getS j = 0) ∧ g.ltime = n.start ∧
           g.utvec = n.utvec ∧ g.fmode = 0 ∧ g.fflags = 0 ∧ g.ld + g.st + g.cp + g.tl = 0) ∧
         (e ∈ s.pool → e.lo + 1 < e.hi → { e with lo := e.lo + 1, first := false } ∈ t.pool) ∧
         t.hbm = s.hbm ∧ t.flow = s.flow ∧ t.nodes = s.nodes) ∧
   (∀ (s : State) (tn die b : Nat) (r : Resumed), s.nextPlace tn die = some (.back r, b) →
     Runs (.placement tn die) s fun t => t.resumed = s.resumed.erase r ∧ t.hbm = s.hbm ∧
       (r.image.forced = true → ∀ e ∈ (t.tenant r.tn).saves, e.isOf (s.node r.image.crew.node).recVa r.image.crew = true →
         e.live = true) ∧
       (∃ c ∈ t.crews, c.id = r.image.crew.id ∧ c.base = b ∧ c.life = .running ∧ c.idx = r.image.crew.idx) ∧
       ∀ g ∈ r.image.groups, ∃ k ∈ t.groups, k.id = g.id ∧ k.v = g.v ∧ k.s = g.s ∧ k.g = g.g ∧ k.path = g.path ∧
         k.stopped = false ∧ k.slot = true ∧ k.core = b + (g.core - r.image.crew.base) ∧ g.ltime ≤ k.ltime ∧
         k.sets.map (·.path) = g.sets.map (·.path) ∧
         ((∀ y ∈ r.image.crew.bars, y.valid = true → y.arr ≠ y.exp) → (∀ p ∈ g.sets, p.cond ≠ .reform ∧ p.cond ≠ .walk ∧
           ∀ l st c tl, p.cond ≠ .counters l st c tl) → k.sets = g.sets ∧ k.ltime = g.ltime))) ∧
  (∀ (s : State) (tn die src : Nat) (e : PoolEnt) (r : Resumed) (rest : List Offer) (b : Nat),
     let aged := fun first since => first = false ∧ since + 1250000 ≤ s.dev.cycle ∧ ∀ o ∈ rest, o.flagged = false
     let room := e.node ∈ s.poolNodes tn die ∨ (s.poolNodes tn die).length < 1024
     let alone := (s.tenant tn).life = .live ∧ (∃ q ∈ (s.tenant tn).quads, q / 11 = die) ∧ s.nextPlace tn die = none ∧
       (((dieOrder die).drop 1).filter fun d => (s.tenant tn).quads.any (· / 11 == d)) = [src]
     (∀ pre e1 mid e2 post, s.offers tn die = pre ++ .fresh e1 :: mid ++ .fresh e2 :: post →
       let p1 := (s.node e1.node).lr.prio
       let p2 := (s.node e2.node).lr.prio
       p2 < p1 ∨ (p1 = p2 ∧ (e1.enter < e2.enter ∨ (e1.enter = e2.enter ∧ e1.lo ≤ e2.lo)))) ∧
     (∀ o o' b', (s.offers tn die).find? Offer.flagged = some o → s.nextPlace tn die = some (o', b') → o' = o) ∧
     (s.offers tn die = .fresh e :: rest →
       (aged e.first e.since → exec (.poolAgeLimit tn die) s =
         .next { s with pool := s.pool.map fun q => if q = e then { q with first := true } else q }) ∧
       (¬aged e.first e.since → exec (.poolAgeLimit tn die) s = .next s)) ∧
     (s.offers tn die = .back r :: rest → aged r.first r.since → exec (.poolAgeLimit tn die) s =
       .next { s with resumed := s.resumed.map fun q => if q = r then { q with first := true } else q }) ∧
     (s.nextPlace tn die ≠ none → exec (.steal tn die) s = .next s) ∧
     (alone → s.offers tn src = .fresh e :: rest → s.findSet tn die (s.need (.fresh e)) = some b → (s.node e.node).cap = none →
       (room → Runs (.steal tn die) s fun t =>
         let mid := e.lo + (e.hi - e.lo) / 2
         { e with die := die, lo := mid, first := false } ∈ t.pool ∧ (e.lo < mid → { e with hi := mid } ∈ t.pool) ∧
           { t with pool := s.pool } = s) ∧
       (¬room → exec (.steal tn die) s = .next s)) ∧
     (alone → s.offers tn src = .back r :: rest → s.findSet tn die (s.need (.back r)) = some b →
       (s.node r.image.crew.node).cap = none → exec (.steal tn die) s =
       .next { s with resumed := s.resumed.map fun q => if q = r then { q with die := die, first := false } else q }))

/-- NODE_RETIRE (R204, R207, R300, R328): once every crew has exited and given up its cores the node's arena dies
first; then the completion future reads full with value 0, or with the cause of a failed crew, and the node is gone; a
future in an arena that is dead stays as it is. What the manual leaves open here is the model's choice of logs 43, 84
and 109. -/
def Obligations.NodesRetire : Prop :=
  ∀ (s : State) (nd : Node), s.nodes.find? (·.id == nd.id) = some nd →
    let mine := s.arenaOf nd.tn nd.arena
    let gone_ := nd.exited = nd.total ∧ (s.tenant nd.tn).life = .live ∧ ∀ c ∈ s.crews, c.node ≠ nd.id
    (¬gone_ → exec (.nodeRetire nd.id) s = .next s) ∧
    (gone_ →
      (∀ a, mine = some a → Runs (.nodeRetire nd.id) s fun t => t.hbm = s.hbm ∧
        ∃ b ∈ (t.tenant nd.tn).arenas, b.slot = a.slot ∧ b.dying.isSome = true) ∧
      (mine = none → (∀ a ∈ (s.tenant nd.tn).arenas, a.owner ≠ nd.id) → nd.cap = none →
        let forgotten := { s with nodes := s.nodes.filter (·.id != nd.id) }
        (nd.slot = none → exec (.nodeRetire nd.id) s = .next forgotten) ∧
        (∀ x, nd.slot = some x →
          let l := s.placeNow nd.tn nd.lr.future.toNat x
          let open_ := s.open_ (s.keyOf nd.tn l.key.bs l.pa) = true
          (s.deadTag nd.tn l.va = true → exec (.nodeRetire nd.id) s = .next forgotten) ∧
          (s.deadTag nd.tn l.va = false → l.cls = .device → l.pa % 16 = 0 → ¬open_ → exec (.nodeRetire nd.id) s = .next s) ∧
          (s.deadTag nd.tn l.va = false → l.cls = .device → l.pa % 16 = 0 → open_ →
            Runs (.nodeRetire nd.id) s fun t =>
            (∀ n ∈ t.nodes, n.id ≠ nd.id) ∧ t.crews = s.crews ∧
            t.fetchAt nd.tn l 16 = leBytes nd.fill.toNat 8 ++ [1, 0, 0, 0, 0, 0, 0, 0]))))

/-- Service groups and saves (R224, R269, R291, R292, R294): the restart at sr.tvec + 0x200 with every register 0; a
stopped crew's save handler at sr.tvec with the crew's indices and its trap registers; the deadline, after which the
hardware has sealed the crew and returned it to its pool. TIME_QUANTUM and PREEMPT (R228, R291, R308, R335): a running
crew that is named stops and queues for the save handler of its first core, a fault that one of its groups is charged
with delivered before (R295); the mailbox answers BUSY during a teardown and NOT_RUNNING where a named crew does not
run; the answer DONE to a PREEMPT that is taken is the model's name (log 47), since R308 gives it none. What the
manual leaves open here is the model's choice of logs 47, 48, 55 and 58. -/
def Obligations.ServiceSavesAndPreemption : Prop :=
  (∀ (s : State) (n : Nat) (g : Group), s.grp? g.id = some g → (s.tenant g.tn).life = .live →
     let t0 := s.tenant g.tn
     let fresh := fun (k : Group) (pc : DWord) => k.mode = .t1 ∧ k.depth = 0 ∧ k.path.pc = pc ∧ k.path.mask = BitVec.allOnes 32 ∧
       k.sets = [] ∧ k.ended = 0 ∧ k.v = [] ∧ k.g = [] ∧ k.fmode = 0 ∧ k.fflags = 0 ∧ k.ltime = g.ltime ∧ k.restart = none ∧
       k.core = g.core ∧ k.role = .service
     let quiet := s.quiet g = true ∧ g.csrw = none
     (∀ till, g.restart = some till → quiet →
       (till ≤ s.dev.cycle → Runs (.serviceRestart g.id) s fun t => t.hbm = s.hbm ∧
         (∃ k, t.grp? g.id = some k ∧ fresh k (t0.tvec + 0x200) ∧ k.s = []) ∧
         ∀ c ∈ t.crews, c.id = g.crew → (∀ b ∈ c.bars, b.valid = false) ∧ (∀ r ∈ c.rings, r.valid = false) ∧
           ∀ m ∈ c.musters, m.count = 0) ∧
       (s.dev.cycle < till → exec (.serviceRestart g.id) s = .next s)) ∧
     (∀ c, s.crews.find? (·.id == n) = some c → c.tn = g.tn → c.life = .stopping → s.serviceOn c.base = some g →
       (s.core c.base).saveQ.head? = some n → g.saving = none → quiet → Runs (.saveHandlerEntry n) s fun t =>
         (∃ k, t.grp? g.id = some k ∧ fresh k t0.tvec ∧ k.saving = some n ∧
           k.getS 1 = BitVec.ofNat 32 c.x ∧ k.getS 2 = BitVec.ofNat 32 c.y ∧ k.getS 3 = BitVec.ofNat 32 c.z ∧
           (∀ j, 3 < j → k.getS j = 0) ∧ k.t1trap.cause = 0x0C0 ∧ k.t1trap.val = (s.node c.node).recVa ∧
           k.t1trap.epc.toNat = (t0.tvec + 0x200).toNat % 2 ^ 48 ∧
           k.deadAt = s.dev.cycle + t0.deadline * 1250) ∧
         (t.crew n).life = .saving ∧ (∀ w ∈ (t.core c.base).wq, w.served = false) ∧ t.hbm = s.hbm) ∧
     (∀ c, s.crews.find? (·.id == n) = some c → c.tn = g.tn → c.life = .saving → s.serviceOn c.base = some g → g.saving = some n →
       g.crew ≠ n →
       (s.dev.cycle < g.deadAt → exec (.saveDeadline n) s = .next s) ∧
       (g.deadAt ≤ s.dev.cycle → s.drained n = true → t0.held.length < 65536 → Runs (.saveDeadline n) s fun t =>
         (∀ k ∈ t.crews, k.id ≠ n) ∧ (∀ k ∈ t.groups, k.crew ≠ n) ∧
         (∃ r, t.resumed = s.resumed ++ [r] ∧ r.tn = c.tn ∧ r.die = c.base / 44 ∧ r.image.forced = true ∧
           r.image.crew.idx = c.idx) ∧
         (∃ k, t.grp? g.id = some k ∧ k.saving = none ∧ k.path.mask = 0 ∧ k.sets = [] ∧
           k.restart = some (s.dev.cycle + 1024)) ∧
         (∃ v, (Cause.saveDeadline, v) ∈ (t.tenant g.tn).events) ∧
         ∃ r ∈ (t.tenant g.tn).held, r.kind = 2 ∧ r.code = 0xC3 ∧ r.pc = (s.node c.node).recVa))) ∧
  (∀ (s : State) (tn n : Nat) (ns : List Nat) (c : Crew),
     let answered := fun res => exec (.preempt tn ns) s = .next (s.answer "PREEMPT" res)
     let named := if ns = [] then s.running tn else ns
     let stops := fun (t : State) => (t.crew n).life = .stopping ∧ (∀ g ∈ t.allGroups, g.crew = n → g.stopped = true) ∧
       n ∈ (t.core c.base).saveQ ∧ t.hbm = s.hbm ∧ t.tenants = s.tenants ∧
       ∀ m ∈ t.flow.mons, ∀ g, s.grp? m.grp = some g → g.crew ≠ n
     let runs := s.crews.find? (·.id == n) = some c ∧ c.tn = tn ∧ c.service = false ∧ c.life = .running ∧
       (s.tenant tn).life = .live
     let sound := ∀ g ∈ s.allGroups, g.crew = n → g.charge = none ∧ ∀ p ∈ g.sets, ∀ e v, p.cond ≠ .fault e v
     (runs → sound → Runs (.timeQuantum tn [n]) s stops) ∧
     (∀ g e v, runs → s.crewGroups n = [g] → s.grp? g.id = some g → g.path.mask ≠ 0 → g.charge = some (e, v) → g.mode = .u →
       e.toUser = false → Runs (.timeQuantum tn [n]) s fun t => (t.crew n).life = .stopping ∧ ∃ k, t.grp? g.id = some k ∧
         k.stopped = true ∧ k.charge = none ∧ k.mode = .t1 ∧ k.path.pc = (s.tenant g.tn).tvec ∧
         k.t1trap.cause = 0#1 ++ e.code ∧ k.t1trap.epc.toNat = g.path.pc.toNat % 2 ^ 48 ∧ k.t1trap.val = v) ∧
     ((s.tenant tn).life ≠ .live → exec (.timeQuantum tn ns) s = .next s) ∧
     (runs → sound → ns = [n] → s.leaving tn = false → Runs (.preempt tn ns) s fun t => stops t ∧
       t.dev.outs = s.dev.outs ++ [.answer "PREEMPT" "DONE"]) ∧
     (s.leaving tn = true → answered "BUSY") ∧
     (s.leaving tn = false → (s.tenant tn).life ≠ .live ∨ named = [] ∨ (∃ k ∈ named, k ∉ s.running tn) → answered "NOT_RUNNING"))

/-! ## Firmware and the host -/

/-- CREATE (R269, R309, R310, R317, R319): refusals in their order; a partition that is created holds what its
description says, with its page-table image copied from host memory, a service group at sr.tvec + 0x200 on every core,
the dispatch node in the pool of its lowest quad's die, a VF that no other partition uses, its IDE stream keyed anew,
its creation record and READY; the mesh stops of its quads and the die of each bank mask are written back. What the
manual leaves open here is the model's choice of logs 4, 45, 46, 47, 80, 81, 93, 110, 111 and 112. -/
def Obligations.Creation : Prop :=
  ∀ (d : PartDesc) (s : State),
    let answer := fun e => exec (.create d) s = .next (s.answer "CREATE" e)
    let quads := ∀ q ∈ d.quads, q ∉ s.dev.deadQ ∧ ∀ t ∈ s.tenants, q ∉ t.quads
    let banks := ∀ b ∈ d.banks, s.banksFree b.1 b.2 = true
    (s.dev.firmware = none → exec (.create d) s = .next s) ∧
    (s.dev.firmware.isSome = true →
      (partFieldsOk d = false → answer "BAD_RECORD") ∧
      (partFieldsOk d = true → ¬quads → answer "NO_QUADS") ∧
      (partFieldsOk d = true → quads → ¬banks → answer "NO_BANKS") ∧
      (partFieldsOk d = true → quads → banks → s.freeVf = none → answer "NO_QUADS") ∧
      (partFieldsOk d = true → quads → banks → s.freeVf ≠ none → s.framesOk d = false → answer "NO_FRAMES") ∧
      (∀ e, s.create d = .error e → answer e) ∧
      (∀ u, s.create d = .ok u → (∀ t ∈ s.tenants, t.id ≠ s.fresh) → Runs (.create d) s fun t =>
        let p := t.tenant s.fresh
        quads ∧ banks ∧ partFieldsOk d = true ∧
        p.life = .live ∧ p.tid = d.tenant ∧ p.banks = d.banks ∧ p.ptroot = BitVec.ofNat 64 d.ptroot ∧
        p.tvec = BitVec.ofNat 64 d.tvec ∧ p.cistern = BitVec.ofNat 64 d.cisBase ∧ p.cisterns = BitVec.ofNat 32 d.cisSize ∧
        p.awbase = BitVec.ofNat 64 d.awBase ∧ p.awsize = BitVec.ofNat 32 d.awSize ∧ p.allot = d.allot ∧
        p.deadline = d.deadline ∧ p.interval = d.interval ∧ p.keys = some d.keys ∧ p.pasid = d.pasid ∧
        1 ≤ p.vf ∧ p.vf ≤ 88 ∧ (∀ q ∈ s.tenants, q.vf = p.vf → q.life = .ending) ∧ p.vf ∉ t.dev.insecure ∧ (∀ q, q ∈ p.quads ↔ q ∈ d.quads) ∧
        (∀ f, (f ∈ p.used ∨ f ∈ p.free) ↔ f ∈ d.frames) ∧ (∃ r ∈ p.held, r.kind = 4 ∧ r.seq = 0) ∧
        (∀ b ∈ p.basins, some b.defn = d.basin0) ∧ p.basins.length = 1 ∧
        (∀ q ∈ d.quads, ∀ k, k < 4 → ∃ g ∈ t.groups, g.tn = s.fresh ∧ g.core = 4 * q + k ∧ g.role = .service ∧ g.mode = .t1 ∧
          g.path.pc = BitVec.ofNat 64 d.tvec + 0x200 ∧ g.path.mask = BitVec.allOnes 32 ∧ g.v = [] ∧ g.s = [] ∧ g.ltime = 0) ∧
        (∃ n ∈ t.nodes, n.tn = s.fresh ∧ n.depth = 0 ∧ n.start = 0 ∧ n.recVa = BitVec.ofNat 64 d.dispatch ∧ n.visible = true ∧
          ∃ e ∈ t.pool, e.tn = s.fresh ∧ e.node = n.id ∧ e.lo = 0 ∧ e.hi = n.total ∧ (∃ q ∈ d.quads, e.die = q / 11) ∧
            (∀ q ∈ d.quads, e.die ≤ q / 11) ∧
            (MemoryOk s → n.slot = none → ∀ (i page : Nat), d.imgPages[i]? = some page →
              t.hbm.getList (page * 4096) 4096 = s.dev.host.getList (d.imgAt + 4096 * i) 4096)) ∧
        (MemoryOk s → d.backQuad + 2 * d.quads.length ≤ d.backBank ∨ d.backBank + d.banks.length ≤ d.backQuad →
          t.dev.host.getList d.backQuad (2 * d.quads.length) =
            (d.quads.flatMap fun q => [BitVec.ofNat 8 (s.stopOf q).1, BitVec.ofNat 8 (s.stopOf q).2]) ∧
          t.dev.host.getList d.backBank d.banks.length = d.banks.map fun b => BitVec.ofNat 8 b.1) ∧
        t.dev.outs.getLast? = some (.ready s.fresh (d.quads.map s.stopOf)))) ∧
    (partFieldsOk d = true → d.quads ≠ [] ∧ d.quads.Nodup ∧ (∀ q ∈ d.quads, q < 88) ∧ 10 ≤ d.deadline ∧ d.deadline ≤ 500 ∧
      100 ≤ d.interval ∧ d.interval ≤ 60000 ∧ d.interval % 100 = 0 ∧ 16 ≤ d.winBits ∧ d.winBits ≤ 36 ∧ d.cisBase % 65536 = 0 ∧
      d.cisSize % 65536 = 0 ∧ 0 < d.cisSize ∧ d.tvec % 4 = 0 ∧ d.ptroot % 4096 = 0 ∧ 1 ≤ d.wHbm ∧ d.wHbm ≤ 255 ∧
      d.thrash.toNat / 2 ^ 8 % 2 ^ 12 ≠ 0 ∧ d.thrash.toNat / 2 ^ 20 ≠ 0 ∧ ∀ b ∈ d.flash, b * 4096 < 32 * 10 ^ 12)

/-- TEARDOWN and the return of quads, banks and frames (R23, R228, R311): issue stops at once, and crews and service
groups lose their lanes; when what outlives them has performed and no invalidation of the VF is outstanding, nothing
of the partition's work, lines or keys is left and its final record is made; what firmware has back reads 0. What the
manual leaves open here is the model's choice of logs 47, 53 and 97. -/
def Obligations.TeardownAndReturns : Prop :=
  (∀ (s : State) (tn : Nat) (t0 : Tenant), s.tenants.find? (·.id == tn) = some t0 →
    let busy := fun (t : State) => (∃ i ∈ t.flow.invs, i.tn = tn) ∨ (∃ a ∈ t.flow.accs, a.tn = tn) ∨
      (∃ x ∈ t.flow.xfers, x.tn = tn) ∨ (∃ c ∈ t.crews, c.tn = tn) ∨ ∃ g ∈ t.allGroups, g.tn = tn
    let ended := fun (t : State) =>
      let p := t.tenant tn
      p.life = .ending ∧ p.arenas = [] ∧ p.basins = [] ∧ p.stc = [] ∧ p.saves = [] ∧ p.keys = none ∧
      (∀ h ∈ t.flow.homes, h.key.tn ≠ tn) ∧ (∀ c ∈ t.cores, (∀ x ∈ c.tc, x.tn ≠ tn) ∧ ∀ l ∈ c.l1, l.key.tn ≠ tn) ∧
      (∀ g ∈ t.dev.grants, g.tn ≠ tn) ∧ (∃ r, p.held = t0.held ++ [r] ∧ r.kind = 3) ∧
      t.dev.outs.getLast? = some (.answer "TEARDOWN" "DONE")
    (t0.life = .ending → exec (.teardown tn) s = .next s) ∧
    (t0.life = .stopping → (busy s → exec (.teardown tn) s = .next s) ∧ (¬busy s → Runs (.teardown tn) s ended)) ∧
    (t0.life ≠ .ending → t0.life ≠ .stopping → Runs (.teardown tn) s fun t =>
      (∀ c ∈ s.crews, c.tn = tn → c.service = false → Shed s t c.id) ∧
      (∀ g ∈ s.allGroups, g.tn = tn → g.role = .service → Shed s t g.crew ∧ ∀ k ∈ t.allGroups, k.id = g.id → k.role ≠ .service) ∧
      (∀ n ∈ t.nodes, n.tn ≠ tn) ∧ (∀ e ∈ t.pool, e.tn ≠ tn) ∧ (∀ r ∈ t.resumed, r.tn ≠ tn) ∧
      (busy t → (t.tenant tn).life = .stopping) ∧ (¬busy t → ended t))) ∧
  (∀ (s : State) (tn q bank f : Nat),
    let ends := fun (has : Tenant → Prop) => ∃ t0, s.tenants.find? (fun t => t.id == tn && t.life == .ending) = some t0 ∧ has t0
    let now := fun (t : State) (P : Tenant → Tenant → Prop) => ∀ u ∈ t.tenants, u.id = tn → ∃ v ∈ s.tenants, v.id = tn ∧ P u v
    (ends (fun t0 => q ∈ t0.quads) → Runs (.quadReturn tn q) s fun t =>
      now t (fun u v => u.quads = v.quads.erase q) ∧ t.hbm = s.hbm ∧
      ∀ c ∈ t.cores, (c.num / 4 = q → c.sp = [] ∧ c.l1 = [] ∧ c.tc = [] ∧ c.wq = [] ∧ c.eng.oa = [] ∧ c.eng.wb = [] ∧
        c.eng.ta = [] ∧ c.owner = none) ∧ (c.num / 4 ≠ q → c ∈ s.cores)) ∧
    (ends (fun t0 => (t0.shareOn (bank / 64)).getLsbD (bank % 64) = true) → Runs (.bankReturn tn bank) s fun t =>
      now t (fun u _ => (u.shareOn (bank / 64)).getLsbD (bank % 64) = false) ∧ t.hbm = s.hbm ∧ t.cores = s.cores) ∧
    (ends (fun t0 => f ∈ t0.used ∨ f ∈ t0.free) → Runs (.frameReturn tn f) s fun t =>
      now t (fun u v => u.used = v.used.erase f ∧ u.free = v.free.erase f) ∧ t.cores = s.cores ∧
      ∀ j, t.hbm.get j = if j / 4096 = f then 0 else s.hbm.get j) ∧
    (¬ends (fun t0 => q ∈ t0.quads) → exec (.quadReturn tn q) s = .next s))

/-- The mailbox's other commands (R281, R283, R307, R308, R314): HALT sets bit 13 of the reason and makes one halt
record, INSPECT runs in the halt state alone, GRANT and REVOKE change the grant table, SETCAP takes 1,500 to 3,200 W.
Links, power and attestation (R304, R306, R314, R315, R317, R318): a failed port carries nothing, a peer without a
route is lost at its time-out; boot takes a sound image alone and forms the domain; in a cycle in which the power is
over the cap or a limit is passed firmware may stall issue and every partition's records tell of it, and readings past
R315's limits make it throttle or halt; attestation answers with the health record's digest. What the manual leaves
open here is the model's choice of logs 4, 47, 48, 49, 51, 52, 70 and 94. -/
def Obligations.MailboxLinksAndPower : Prop :=
  (∀ (s : State) (tn : Nat) (code : BitVec 13) (g : Grant) (watts : Nat) (t0 : Tenant),
     let ans := fun (i : Instr) (u : State) (cmd res : String) => exec i s = .next (u.answer cmd res)
     let dev := fun (f : Dev → Dev) => { s with dev := f s.dev }
     (s.busy tn = true → ans (.halt tn code) s "HALT" "BUSY" ∧ ans (.inspect tn) s "INSPECT" "BUSY") ∧
     (s.busy tn = false → s.tenants.find? (·.id == tn) = some t0 →
       (t0.life = .live → Runs (.halt tn code) s fun t =>
         (t.tenant tn).life = .halted ∧ (∃ r, (t.tenant tn).held = t0.held ++ [r] ∧ r.kind = 1 ∧ r.code = 0xC4 ∧
           r.reason.toNat = 0x2000 + code.toNat) ∧ (∀ k ∈ t.cores, k.num / 4 ∈ t0.quads → k.wq = []) ∧
         t.dev.outs = s.dev.outs ++ [.answer "HALT" "DONE"] ∧ t.groups = s.groups ∧ t.hbm = s.hbm) ∧
       (t0.life = .live → ans (.inspect tn) s "INSPECT" "NOT_HALTED") ∧
       (t0.life = .halted ∨ t0.life = .inspected → Runs (.inspect tn) s fun t => (t.tenant tn).life = .inspected ∧
         t.dev.outs = s.dev.outs ++ [.inspected tn, .answer "INSPECT" "DONE"] ∧ t.groups = s.groups ∧ t.hbm = s.hbm)) ∧
     (s.busy g.tn = true → ans (.grant g) s "GRANT" "BUSY" ∧ ans (.revoke g) s "REVOKE" "BUSY") ∧
     (s.busy g.tn = false →
       (s.grantOk g = true → ans (.grant g) (dev fun d => { d with grants := d.grants ++ [g] }) "GRANT" "DONE") ∧
       (s.grantOk g = false → ans (.grant g) s "GRANT" "BAD_RECORD") ∧
       (g ∈ s.dev.grants → exec (.revoke g) s =
         .next (dev fun d => { d with grants := d.grants.erase g, leaving := d.leaving ++ [g] })) ∧
       (g ∉ s.dev.grants → ans (.revoke g) s "REVOKE" "BAD_RECORD")) ∧
     (g ∈ s.dev.leaving → ans (.grantWithdrawn g) (dev fun d => { d with leaving := d.leaving.erase g }) "REVOKE" "DONE") ∧
     (g ∉ s.dev.leaving → exec (.grantWithdrawn g) s = .next s) ∧
     (1500 ≤ watts → watts ≤ 3200 → ans (.setcap watts) (dev fun d => { d with cap := watts }) "SETCAP" "DONE") ∧
     (watts < 1500 ∨ 3200 < watts → ans (.setcap watts) s "SETCAP" "BAD_RECORD")) ∧
  (∀ (s : State) (port peer fn : Nat) (img : FwImage) (su : Setup) (nonce : BitVec 256),
     let health := fun (f : Health → Health) => { s with dev := { s.dev with health := f s.dev.health } }
     let sound := Config.sha256 img.key = Config.fusedKey ∧ Config.verify img.key img.bytes img.signature = true ∧
       Config.antiRollback ≤ img.version
     exec (.mplLinkFail port) s = .next { s with dev := { s.dev with
       ports := s.dev.ports.filter (· ≠ port), routes := s.dev.routes.filter (·.1 ≠ port) } } ∧
     exec (.lostFlitRetry port) s = .next (health fun h => { h with flits := h.flits + 1 }) ∧
     (s.linked peer = true → exec (.peerRouteTimeout peer) s = .next s) ∧
     (s.linked peer = false → Runs (.peerRouteTimeout peer) s fun t => peer ∈ t.dev.refused ∧ t.hbm = s.hbm ∧ t.dev.host = s.dev.host) ∧
     (Runs (.ideIntegrityFail fn) s fun t => fn ∈ t.dev.insecure ∧ t.dev.health.ideErrors = s.dev.health.ideErrors + 1 ∧
       { t with dev := s.dev } = s ∧ t.dev.host = s.dev.host ∧ t.dev.outs = s.dev.outs) ∧
     (s.dev.power = true → s.dev.firmware.isSome = true → exec (.powerOn ⟨img, su⟩) s = .next s) ∧
     (s.dev.power = false ∨ s.dev.firmware = none →
       (sound → Runs (.powerOn ⟨img, su⟩) s fun t => t.dev.power = true ∧ t.dev.firmware = some (Config.sha256 img.bytes, img.version) ∧
         t.tenants = [] ∧ t.groups = [] ∧ t.hbm = State.reset.hbm ∧ t.dev.host = s.dev.host ∧ t.dev.cycle = 0 ∧ t.dev.grants = [] ∧
         t.dev.self = su.self ∧ (∀ m, m ∈ t.dev.domain ↔ m ∈ su.members ∧ m < 64) ∧ t.dev.recBase = su.recBase ∧
         t.dev.recSize = su.recSize) ∧
       (¬sound → Runs (.powerOn ⟨img, su⟩) s fun t => t.dev.power = false ∧ t.dev.firmware = none ∧ t.tenants = [])) ∧
     (∀ why, why = .input ∨ why = .junction115 → (s.tenants.map (·.id)).Nodup → Runs (.emergencyHalt why) s fun t =>
       t.dev.power = false ∧ t.hbm = s.hbm ∧ ∀ u ∈ t.tenants, u.life ≠ .live ∧ u.held = []) ∧
     (∀ why, why = .coolant ∨ why = .junction105 → exec (.emergencyHalt why) s = .next s ∧ Runs (.thermalThrottle why) s fun t =>
       why ∈ t.dev.health.throttle ∧
       (∀ w ∈ s.dev.health.throttle, w ∈ t.dev.health.throttle) ∧ (∀ u ∈ t.tenants, u.throttled = true) ∧ t.groups = s.groups ∧ t.hbm = s.hbm) ∧
     (∀ why, why = .input ∨ why = .junction115 → exec (.thermalThrottle why) s = .next s) ∧
     (let u := s.limitCycle
       let r := readingsAt s.dev.cycle
       let above := s.dev.cap < r.watts ∨ ∃ w, w ∈ s.dev.health.throttle ∧ r.within w = false
       u.dev.health.readings = r ∧ (∀ w, w ∈ u.dev.health.throttle ↔ w ∈ s.dev.health.throttle ∧ r.within w = false) ∧
       (u.dev.health.outFor = if 51300 ≤ r.input ∧ r.input ≤ 56700 then 0 else s.dev.health.outFor + 1) ∧
       (above → u.dev.stall = Config.stalls s.dev.cycle ∧ ∀ t ∈ u.tenants, t.throttled = true) ∧
       (¬above → u.dev.stall = false ∧ u.tenants = s.tenants)) ∧
     (let h := s.dev.health;
       (Instr.emergencyHalt .input ∈ s.mySteps ↔ 1250000 ≤ h.outFor) ∧
       (Instr.emergencyHalt .junction115 ∈ s.mySteps ↔ ∃ c ∈ h.readings.junction, 115 < c) ∧
       (Instr.thermalThrottle .junction105 ∈ s.mySteps ↔ (∃ c ∈ h.readings.junction, 105 < c) ∧ .junction105 ∉ h.throttle) ∧
       (Instr.thermalThrottle .coolant ∈ s.mySteps ↔ (45 < h.readings.inlet ∨ h.readings.flow < 1500) ∧ .coolant ∉ h.throttle)) ∧
     (s.dev.firmware = none → exec (.attestation fn nonce) s = .next s) ∧
     (∀ fw ver, s.dev.firmware = some (fw, ver) →
       (Runs (.attestation 0 nonce) s fun t => ∃ sig, t.dev.outs = s.dev.outs ++
         [.attested 0 nonce fw ver Config.antiRollback (Config.sha256 s.healthBytes) none sig] ∧ t.hbm = s.hbm) ∧
       (∀ t0, fn ≠ 0 → s.vf? fn = some t0 → Runs (.attestation fn nonce) s fun t => ∃ sig, t.dev.outs = s.dev.outs ++
         [.attested fn nonce fw ver Config.antiRollback (Config.sha256 s.healthBytes) (some t0.creation) sig])))

/-- Usage records (R312, R313): at its interval's end a partition makes an interval record with its meters; a record
that the host's buffer has room for goes out, and stands there, with the hash of its body over the chain value, which
the next record's body takes; a batch's last and a final record are followed by a signature. What the manual leaves
open here is the model's choice of logs 4, 63, 81 and 95. -/
def Obligations.UsageRecords : Prop :=
  ∀ (s : State) (tn : Nat) (t0 : Tenant), s.tenants.find? (·.id == tn) = some t0 → t0.life = .live →
    (s.dev.cycle < t0.nextRec → exec (.usageInterval tn) s = .next s) ∧
    (t0.nextRec ≤ s.dev.cycle → t0.held.length < 65536 → Runs (.usageInterval tn) s fun t =>
      let p := t.tenant tn
      p.nextRec = t0.nextRec + t0.interval * 1250000 ∧ p.seq = t0.seq + 1 ∧ p.lastRec = s.dev.cycle * 4 / 5 ∧
      p.throttled = false ∧ t.hbm = s.hbm ∧ t.groups = s.groups ∧ ∃ r, p.held = t0.held ++ [r] ∧ r.kind = 0 ∧ r.seq = t0.seq ∧
        r.from_ = t0.lastRec ∧ r.till = s.dev.cycle * 4 / 5 ∧ (r.flags.testBit 1 = true ↔ t0.throttled = true) ∧
        ∀ j, j < 11 → r.meters.getD j 0 = t0.meterOf j) ∧
    (t0.held = [] → Runs (.recordRelease tn) s fun t => t.dev = { s.dev with recRd := s.dev.recWr } ∧ t.tenant tn = t0 ∧
      t.hbm = s.hbm) ∧
    (∀ r rest, t0.held = r :: rest →
      let h := Config.sha256 (r.body t0.tid t0.hash)
      let out := Out.record tn { r with hash := h }
      let bytes := r.body t0.tid t0.hash ++ leBytes h.toNat 32
      let closes := r.seq % 64 = 63 ∨ r.kind = 3
      let room := 256 + (if closes then 17120 else 0) ≤ s.dev.recSize
      (¬room → Runs (.recordRelease tn) s fun t => t.dev = { s.dev with recRd := s.dev.recWr } ∧ t.tenant tn = t0) ∧
      (room → Runs (.recordRelease tn) s fun t => t.hbm = s.hbm ∧ ∃ more, t.dev.outs = s.dev.outs ++ out :: more) ∧
      (room → rest = [] → Runs (.recordRelease tn) s fun t => (t.tenant tn).held = [] ∧ (t.tenant tn).hash = h ∧
        (MemoryOk s → ∀ i, i < 256 → some (t.dev.host.get (s.dev.recBase + (s.dev.recWr + i) % s.dev.recSize)) = bytes[i]?) ∧
        (¬closes → t.dev.outs = s.dev.outs ++ [out] ∧ (t.tenant tn).signed = t0.signed) ∧
        (closes → (t.tenant tn).signed = r.seq + 1 ∧
          ∃ sig, t.dev.outs = s.dev.outs ++ [out, .signature tn (r.seq / 64 * 64) (r.seq % 64 + 1) sig])))

/-- The host window and peers (R249, R305, R307): reads return what the home holds, writes are then read there; an
offset without a leaf is an Unsupported Request or dropped and counted; a peer request without a grant is answered
with an error. What the manual leaves open here is the model's choice of log 50. -/
def Obligations.WindowAndPeerAccesses : Prop :=
  (∀ (s : State) (vf off len : Nat) (data : List Byte) (t0 : Tenant), s.vf? vf = some t0 →
    let va := t0.winBase + off
    let missed := { s with dev := { s.dev with health := { s.dev.health with winErrors := s.dev.health.winErrors + 1 } } }
    (2 ^ t0.winBits < off + len → exec (.hostWindowRead vf off len) s = .next (missed.emit (.unsupported vf))) ∧
    (2 ^ t0.winBits < off + data.length → exec (.hostWindowWrite vf off data) s = .next missed) ∧
    (0 < len → off + len ≤ 2 ^ t0.winBits → va % 4096 + len ≤ 4096 →
      (s.winPlace t0 va = none → exec (.hostWindowRead vf off len) s = .next (missed.emit (.unsupported vf))) ∧
      (∀ l, s.winPlace t0 va = some l → s.agentMay t0.id l len = true →
        let u := s.recallAt t0.id l len
        exec (.hostWindowRead vf off len) s = .next (u.emit (if u.badAt t0.id l len = true then .poisoned vf
          else .readData vf (u.fetchAt t0.id l len))))) ∧
    (data ≠ [] → off + data.length ≤ 2 ^ t0.winBits → va % 128 + data.length ≤ 128 →
      (s.winPlace t0 va = none → exec (.hostWindowWrite vf off data) s = .next missed) ∧
      (∀ l k, s.winPlace t0 va = some l → s.linesOf t0.id l.key.bs l.pa data.length = [k] → s.open_ k = true →
        Runs (.hostWindowWrite vf off data) s fun t => t.fetchAt t0.id l data.length = data ∧ t.dev.outs = s.dev.outs))) ∧
  (∀ (s : State) (r : PeerReq) (k : HomeKey),
    let l : Loc := ⟨.device, s.keyOf r.tn (s.frameBs r.tn (r.pa / 4096)) r.pa, r.pa, 0, 0, false, true, 0, 0⟩
    let u := fun n => s.recallAt r.tn l n
    (s.granted r = false → exec (.peerRequest r) s = .next (s.emit (.peerError r.srcDev))) ∧
    (s.granted r = true →
      (∀ n, r.op = .read n → s.agentMay r.tn l n = true → exec (.peerRequest r) s = .next ((u n).emit
        (if (u n).badAt r.tn l n = true then .peerError r.srcDev else .peerData r.srcDev ((u n).fetchAt r.tn l n)))) ∧
      (∀ d, r.op = .write d → d ≠ [] → s.linesOf r.tn l.key.bs l.pa d.length = [k] → s.open_ k = true →
        Runs (.peerRequest r) s fun t => t.fetchAt r.tn l d.length = d ∧ t.dev.outs.getLast? = some (.peerData r.srcDev [])) ∧
      (∀ fn a b rm fz, r.op = .atomic fn a b rm fz → fn.toNat < 14 →
        let n := if fn.toNat < 11 then 4 else 8
        s.linesOf r.tn l.key.bs l.pa n = [k] → s.open_ k = true → (u n).badAt r.tn l n = false →
        Runs (.peerRequest r) s fun t =>
          let old := (u n).fetchAt r.tn l n
          t.fetchAt r.tn l n = leBytes (atomFn fn rm fz (BitVec.ofNat 64 (leNat old)) a b).1.toNat n ∧
          ∃ bs, t.dev.outs.getLast? = some (.peerData r.srcDev bs))))

/-- CORRECTED_ERROR, UNCORRECTED_ERROR and CREW_FAILURE (R299, R300): a corrected error is only counted; lost data
becomes poison in its place and keeps every other byte; a crew that fails has lost its cores, its node counts it,
unless its lanes have all ended already, and will fill its future with 0xE1. That a poisoned engine buffer is poison
as a whole is the model's grain (log 33). CORE_RETIRE and BANK_RETIRE (R236, R301): the crews of the quad have lost
their cores, a bank's dirty lines are copied; a spare takes its place, else the quad or the bank is dead, with the
replace advisory and its tenant's event. What the manual leaves open here is the model's choice of logs 33, 54, 55,
56, 57, 84 and 97. -/
def Obligations.ErrorsAndRetirement : Prop :=
  ((∀ (s : State) (p : Place), exec (.correctedError p) s = .next
     { s with dev := { s.dev with health := { s.dev.health with corrected := s.dev.health.corrected + 1 } } }) ∧
   (∀ (s : State) (pa core buf crew off : Nat) (k : HomeKey),
     let marks := fun (at_ : Place) (now : Place) => Runs (.uncorrectedError at_) s fun t => now ∈ t.dev.poison ∧
       (∀ q ∈ s.dev.poison, q ∈ t.dev.poison) ∧ t.dev.health.uncorrected = s.dev.health.uncorrected + 1 ∧
       { t with dev := s.dev } = s ∧ t.dev.host = s.dev.host
     marks (.hbm pa) (.hbm (pa / 32 * 32)) ∧
     (k.bs ≠ 15 → (s.home? k).isSome = true → marks (.basin k) (.basin k)) ∧
     ((s.home? k).isSome = true → marks (.homeEntry k) (.homeEntry k)) ∧
     (∀ c ∈ s.crews, c.id = crew → off < c.scratch → marks (.scratch crew off) (.scratch crew off)) ∧
     (buf < 12 → Runs (.uncorrectedError (.engine core buf)) s fun t => buf ∈ (t.core core).eng.poisoned ∧ t.groups = s.groups ∧
       t.hbm = s.hbm) ∧
     (∀ g, s.grp? g.id = some g → g.role ≠ .service → Runs (.uncorrectedError (.group g.id)) s fun t =>
       ∀ c, s.crews.find? (fun c => c.id == g.crew && !c.service) = some c → Shed s t c.id)) ∧
   (∀ (s : State) (c : Crew) (nd : Node), s.crews.find? (fun k => k.id == c.id && !k.service) = some c → nd ∈ s.nodes →
     nd.id = c.node → (s.tenants.any (·.id == c.tn)) = true → Runs (.crewFailure c.id) s fun t =>
       Shed s t c.id ∧ (∀ g ∈ t.allGroups, g.crew = c.id → g.id ≠ 0 → g.slot = false) ∧
       (∃ n ∈ t.nodes, n.id = nd.id ∧ n.exited = nd.exited + (if c.life = .exited then 0 else 1) ∧ n.fill = 0xE1) ∧
       ∃ v, (Cause.rasUncorrected, v) ∈ (t.tenant c.tn).events)) ∧
  ((∀ (s : State) (core : Nat),
     let q := core / 4
     let spares := s.dev.health.spareQuads.getD (q / 11) 0
     (q ∈ s.dev.deadQ → exec (.coreRetire core) s = .next s) ∧
     (q ∉ s.dev.deadQ → (s.tenants.map (·.id)).Nodup → Runs (.coreRetire core) s fun t =>
       (∀ c ∈ s.crews, c.service = false → c.base / 4 = q → Shed s t c.id) ∧ core ∈ t.dev.health.deadCores ∧
       (∀ c ∈ t.cores, c.num / 4 = q → c.sp = [] ∧ c.tc = [] ∧ c.l1 = [] ∧ c.owner = none) ∧
       (∀ u ∈ t.tenants, q ∈ u.quads → ∃ v, (Cause.coreRetired, v) ∈ u.events) ∧
       (0 < spares → t.dev.health.spareQuads.getD (q / 11) 0 = spares - 1 ∧ t.dev.deadQ = s.dev.deadQ ∧
         ∀ k g, k < 4 → s.serviceOn (4 * q + k) = some g → ∃ h ∈ t.allGroups, h.id = g.id ∧ h.restart = some s.dev.cycle ∧ h.pend = []) ∧
       (spares = 0 → q ∈ t.dev.deadQ ∧ t.dev.health.advisory = true ∧
         (∀ g ∈ t.groups, g.id ≠ 0 → g.role = .service → g.core / 4 ≠ q) ∧
         ∀ u ∈ t.tenants, (∃ p ∈ u.quads, p / 11 = q / 11) → ∃ v, (Cause.replaceAdvisory, v) ∈ u.events))) ∧
   (∀ (s : State) (bank : Nat),
     let die := bank / 64
     let spares := s.dev.health.spareBanks.getD die 0
     (512 ≤ bank ∨ bank ∈ s.dev.deadB → exec (.bankRetire bank) s = .next s) ∧
     (bank < 512 → bank ∉ s.dev.deadB → Runs (.bankRetire bank) s fun t =>
       t.dev.health.deadBanks = bank :: s.dev.health.deadBanks ∧
       (0 < spares → t.dev.health.spareBanks.getD die 0 = spares - 1 ∧ t.dev.deadB = s.dev.deadB ∧
         ∀ h, s.home? h.key = some h → h.dirty = true → h.owner = none → Place.basin h.key ∉ s.dev.poison →
           Place.homeEntry h.key ∉ s.dev.poison → t.home? h.key = some h) ∧
       (spares = 0 → bank ∈ t.dev.deadB ∧ t.dev.health.advisory = true ∧
         ∀ t0, s.tenants.find? (fun u => (u.shareOn die).getLsbD (bank % 64)) = some t0 → ∃ u ∈ t.tenants, u.id = t0.id ∧
           (u.shareOn die).getLsbD (bank % 64) = false ∧ ∃ v, (Cause.bankLost, v) ∈ u.events))))

/-- ATS_COMPLETION, PRI_RESPONSE, ATS_INVALIDATION, INVALIDATION_COMPLETION and THRASH_THROTTLE_END (R245, R276, R280,
R304): a grant is stored for its page under the leaf that maps it now, a refusal becomes a page request while the
host's allocation has room, success asks again, failure charges the waiting lanes with ATS_DENIED at their word; an
invalidation drops the entries of the range's host leaves at once, waits for what used them, and completes when that
is done, in saved crews too. What the manual leaves open here is the model's choice of log 45. -/
def Obligations.HostTranslations : Prop :=
  (∀ (s : State) (r : HostReq) (hpa : Nat) (w : Bool), s.req? r.id = some r →
    let asks := fun (t : State) => t.dev.outs = s.dev.outs ++ [.priRequest r.tn r.page r.write] ∧
      ∃ q ∈ t.flow.reqs, q.id = r.id ∧ q.pri = true ∧ q.late = false
    let room := s.flow.reqs.countP (fun q => q.tn == r.tn && q.pri) < min 512 (Config.priAllocation (s.tenant r.tn).vf)
    let maps := (s.tcFind r.core r.tn r.user (r.vpn * 4096) <|> s.stcFind r.core r.tn (r.vpn * 4096)).filter fun x =>
      leafTY x.leaf == 1 && x.place (r.vpn * 4096) / 4096 == r.page
    (r.pri = false → r.late = false → r.again = false →
      (w = true ∨ r.write = false → (s.core r.core).tc.length < 2048 → Runs (.atsCompletion r.id (.granted hpa w)) s fun t =>
        (∀ q ∈ t.flow.reqs, q.id ≠ r.id) ∧ t.hbm = s.hbm ∧ t.groups = s.groups ∧ (maps = none → t.cores = s.cores) ∧
        ∀ x, maps = some x → ∃ y ∈ (t.core r.core).tc, y.tn = x.tn ∧ y.va = r.vpn * 4096 ∧ y.level = 0 ∧ y.user = r.user ∧
          leafTY y.leaf = 1 ∧ y.host = some (hpa / 4096 * 4096, w)) ∧
      (room → Runs (.atsCompletion r.id .refused) s asks) ∧
      (¬room → Runs (.atsCompletion r.id .refused) s fun t => t.dev.outs = s.dev.outs ∧
        ∃ q ∈ t.flow.reqs, q.id = r.id ∧ q.pri = false ∧ q.late = true) ∧
      (room → w = false → r.write = true → Runs (.atsCompletion r.id (.granted hpa w)) s asks)) ∧
    (r.pri = true ∨ r.late = true → exec (.atsCompletion r.id (.granted hpa w)) s = .next s) ∧
    (r.pri = true → (∀ q ∈ s.flow.reqs, q.late = false) →
      (Runs (.priResponse r.id true) s fun t => t.dev.outs = s.dev.outs ++ [.atsRequest r.tn r.page r.write] ∧
        (∃ q ∈ t.flow.reqs, q.id = r.id ∧ q.pri = false) ∧
        ∀ g ∈ t.groups, ∀ p ∈ g.sets, p.cond.waitsPri r.id = false) ∧
      (Runs (.priResponse r.id false) s fun t => (∀ q ∈ t.flow.reqs, q.id ≠ r.id) ∧ t.dev.outs = s.dev.outs ∧
        ∀ g ∈ s.groups, ∃ k ∈ t.groups, k.id = g.id ∧ k.path = g.path ∧
          ∀ p ∈ g.sets, (∀ ea, p.cond = .pri r.id ea → { p with cond := .fault .atsDenied ea } ∈ k.sets) ∧
            (p.cond.waitsPri r.id = false → p ∈ k.sets)) ∧
      (∀ ok, Runs (.priResponse r.id ok) s fun t => ∀ im, im ∈ t.resumed.map (·.image) ∨ im ∈ t.dev.sealed.map (·.image) →
        ∀ g ∈ im.groups, ∀ p ∈ g.sets, p.cond.waitsPri r.id = false))) ∧
  (∀ (s : State) (vf page count : Nat) (t0 : Tenant), s.vf? vf = some t0 →
    (32 ≤ s.flow.invs.countP (·.tn == t0.id) → exec (.atsInvalidation vf page count) s = .next s) ∧
    (s.flow.invs.countP (·.tn == t0.id) < 32 → Runs (.atsInvalidation vf page count) s fun t =>
      (∃ v, t.flow.invs = s.flow.invs ++ [v] ∧ v.tn = t0.id ∧
        (∀ a ∈ s.flow.accs, a.tn = t0.id → a.cls = .host → page ≤ a.hp → a.hp < page + count → a.id ∈ v.accs) ∧
        ∀ x ∈ s.flow.xfers, x.tn = t0.id → (∃ h ∈ x.hostPages, page ≤ h ∧ h < page + count) → x.id ∈ v.xfers) ∧
      t.hbm = s.hbm ∧ t.groups = s.groups ∧
      ∀ c ∈ t.cores, c.num / 4 ∈ t0.quads → ∀ x ∈ c.tc, x.hostIn t0.id page count = false)) ∧
  (∀ (s : State) (v : HostInv), s.flow.invs.find? (·.id == v.id) = some v →
    let done := s.gone v.accs v.xfers = true ∧ ∀ y ∈ s.imageWords v.tn, y.id ∉ v.xfers
    (done → Runs (.invalidationCompletion v.id) s fun t =>
      t.dev.outs = s.dev.outs ++ [.invalidated v.id] ∧ (∀ w ∈ t.flow.invs, w.id ≠ v.id) ∧ t.hbm = s.hbm) ∧
    (¬done → exec (.invalidationCompletion v.id) s = .next s)) ∧
  (∀ (s : State) (tn page : Nat), Runs (.thrashThrottleEnd tn page) s fun t => t.hbm = s.hbm ∧ t.groups = s.groups ∧
    (∀ u ∈ t.tenants, u.id = tn → ∀ p ∈ u.pages, p.vpn = page → p.till = 0 ∨ s.dev.cycle < p.till) ∧
    ∀ u ∈ t.tenants, u.id ≠ tn → u ∈ s.tenants)

/-! ## Issue -/

/-- What the checks of a chain come to at one of its words (R33, R71, R74, R77, R88): no decoding or a bad field, then
the packet, then mode, role, repetition, register budget and the format of a stroke, in this order; the first failing
word decides. The events of issue (R72, R77, R88, R285, R288): at the turn of a core's oldest group a failed check
faults with the charged word as value and its own address as saved PC; a pending cause of the lowest code is taken
instead of the chain; a fetch changes no register, and leaves the packet's three words. A word that faults after lanes
of its chain have left for flash data ends the chain before it, and faults when its path issues it again (log 86: the
model's choice). What the manual leaves open here is the model's choice of logs 15, 16, 17 and 86. -/
def Obligations.IssueChecksAndEvents : Prop :=
  ((∀ (s : State) (base : DWord) (pkt : List Word) (n j : Nat) (first : Bool) (f : Fit) (ws : List (Nat × Instr)),
     let go := s.checkChain base pkt (n + 1) j first f ws
     (instrAt pkt j = none → go = .bad j .illegalEnc) ∧
     (∀ w i, instrAt pkt j = some w → info w = some i →
       (packetBad pkt j first f i = true → go = .bad j .illegalPacket) ∧
       (∀ c, packetBad pkt j first f i = false → issueFault i (s.atWord base pkt j 0) = some c → go = .bad j c) ∧
       (packetBad pkt j first f i = false → issueFault i (s.atWord base pkt j 0) = none →
         chainBit pkt j = false → ∃ f', go = .good (ws ++ [(j, w)]) f'))) ∧
   (∀ (s : State) (i : Info),
     let g := s.cur
     let u := g.mode = .u
     let svc := g.role = .service
     let priv := (i.who = .tmode → ¬u) ∧ (i.who = .service → ¬u ∧ svc) ∧ (i.who = .uret ∨ i.who = .reform → u) ∧
       (i.who = .tret → g.mode = .t2 ∨ (g.mode = .t1 ∧ ¬svc)) ∧ (∀ n, i.csr = some n → csrUser n = true ∨ ¬u)
     let role := (i.who = .copy → g.role = .copy) ∧ (i.who = .matrix → g.role = .matrix) ∧
       (i.who = .vector ∨ i.who = .reform → g.role = .vector)
     let rep := ¬(i.noRep = true ∧ ∃ r, g.path.rep = some r ∧ r.pkt.toNat = s.ctx.pc.toNat / 4 * 4)
     let budget := ∀ n, n ∈ i.vr ∨ n ∈ i.vw → n < g.budget
     let fmt := ∀ e, i.ef = some e → e.toNat ≤ 10
     (¬priv → issueFault i s = some .priv) ∧
     (priv → ¬role → issueFault i s = some (if i.who = .reform then .reformRole else .role)) ∧
     (priv → role → ¬rep → issueFault i s = some .repNest) ∧
     (priv → role → rep → ¬budget → issueFault i s = some .regBudget) ∧
     (priv → role → rep → budget → ¬fmt → issueFault i s = some .mmaFormat) ∧
     (priv → role → rep → budget → fmt → issueFault i s = none))) ∧
  (∀ (s : State) (core : Nat),
     let enters := fun (s1 : State) (c : Cause) (pc val : DWord) (t : State) =>
       t.cur.mode = .t1 ∧ t.cur.path.pc = s1.tn.tvec ∧ t.cur.path.mask = s1.cur.path.mask ∧
       t.cur.t1trap = ⟨0#1 ++ c.code, BitVec.ofNat 64 (pc.toNat % 2 ^ 48), val⟩ ∧ t.cur.v = s1.cur.v ∧ t.cur.s = s1.cur.s ∧ t.cur.g = s1.cur.g ∧
       t.hbm = s1.hbm ∧ t.groups = s1.groups
     (∀ i c, (i = Instr.illegalEnc core ∧ c = Cause.illegalEnc) ∨ (i = .illegalPacket core ∧ c = .illegalPacket) →
       (∀ s1 j w, s.firstReady core = some (.bad s1 j c w) → s1.cur.mode = .u → s1.cur.path.mask ≠ 0 →
         Runs i s (enters s1 c (BitVec.ofNat 64 (s1.cur.path.pc.toNat / 4 * 4) + BitVec.ofNat 64 j) (w.setWidth 64))) ∧
       ((∀ s1 j w, s.firstReady core ≠ some (.bad s1 j c w)) → exec i s = .next s)) ∧
     (∀ s1 ws f pkt, s.firstReady core = some (.chain s1 ws f pkt) →
       (∀ e, s1.cur.lowestPend = some e → s1.cur.mode = .u → e.1.toUser = false → s1.cur.path.mask ≠ 0 →
         Runs (.pendingCauseDelivery core) s fun t => enters s1 e.1 s1.cur.path.pc e.2 t ∧
           t.cur.pend = s1.cur.pend.erase e ∧ e ∈ s1.cur.pend ∧ ∀ x ∈ s1.cur.pend, e.1.code.toNat ≤ x.1.code.toNat) ∧
       (s1.cur.pend = [] → exec (.pendingCauseDelivery core) s = .next s)) ∧
     (∀ g rest (l : Loc), s.pickable core = g :: rest → s.cur = g → g.csrw = none → g.path.pc.toNat % 4096 ≤ 4084 →
       (∀ p ∈ g.sets, p.cond ≠ .deferred) →
       s.xcheck { g with hold := none } rqFetch (pktOf g.path.pc) 4 = .ok l → l.cls = .host →
       l.va = (pktOf g.path.pc).toNat → Runs (.instructionFetch core) s fun t =>
         t.ctx.pkt = [0, 4, 8].map (fun o => BitVec.ofNat 32 (leNat (s.dev.host.getList (l.pa + o) 4))) ∧ t.ctx.stop = false ∧
         t.cur = { g with hold := none } ∧ t.hbm = s.hbm ∧ t.groups = s.groups) ∧
     (∀ c val, s.ctx.leave ≠ [] → let t := s.fault c val
       t.cur.mode = s.cur.mode ∧ t.cur.path = { s.cur.path with pc := s.ctx.pc } ∧ t.ctx.leave = s.ctx.leave ∧ t.ctx.stop = true ∧
         t.ctx.moved = true ∧ t.cur.v = s.cur.v ∧ t.groups = s.groups ∧ t.hbm = s.hbm))

/-! ## The whole machine -/

/-- Every well-formed instruction word decodes from its own encoding, with every operand at every value, and every
decoded word is the encoding of what it decodes to, so that no bit of a word is without meaning (R68 to R88, R118). -/
def Obligations.DecodeAndEncodeAgree : Prop :=
  (∀ i : Instr, i.wf = true → encode i ≠ [] → decodeWord (wordOf i) ((encode i).getD 1 0) = some i ∧
    ((encode i).length = 1 ∨ (encode i).length = 2) ∧ (takesLiteral (wordOf i) = true ↔ (encode i).length = 2)) ∧
  (∀ (w lit : Word) (i : Instr), decodeWord w lit = some i → i.wf = true ∧ wordOf i = w ∧
    encode i = (if takesLiteral w = true then [w, lit] else [w]))

/-- Words written out from the encoding rules decode to what they stand for, and undefined ones to nothing (R68, R69,
R83 to R88). -/
def Obligations.WordsDecodeAsEncoded : Prop :=
  decodeWord (0b1#1 ++ 0b011#3 ++ 4#6 ++ 0#4 ++ 7#6 ++ 8#6 ++ 9#6) 0 = some (.viaAdd ⟨true, 3⟩ 7 8 (.reg 9)) ∧
  decodeWord (0b0#1 ++ 0b000#3 ++ 4#6 ++ 1#4 ++ 7#6 ++ 8#6 ++ 63#6) 0x12345678 = some (.viaSub ⟨false, 0⟩ 7 8 (.lit 0x12345678)) ∧
  decodeWord 0 0 = some (.sysNop ⟨false, 0⟩) ∧ decodeWord (0#4 ++ 1#6 ++ 0#2 ++ 0xFFFFE#20) 0 = some (.bra ⟨false, 0⟩ 0xFFFFE) ∧
  decodeWord (0#4 ++ 4#6 ++ 15#4 ++ 7#6 ++ 8#6 ++ 1#6) 0 = none ∧
  decodeWord (0#4 ++ 4#6 ++ 12#4 ++ 7#6 ++ 8#6 ++ 10#6) 0 = none

/-- Every step keeps the canonical form of HBM, host, peer and flash memory: addresses rising, no entry of the value
that an unlisted address reads as. What the manual leaves open here is the model's choice of log 11. -/
def Obligations.MemoryFormKept : Prop :=
  ∀ s t : State, MemoryOk s → step s = .next t → MemoryOk t

/-- Right after reset the memories are in the canonical form, nothing is placed, and the module has power and no
firmware (R23, R317). What the manual leaves open here is the model's choice of logs 9, 10 and 11. -/
def Obligations.ResetState : Prop :=
  MemoryOk State.reset ∧ State.reset.tenants = [] ∧ State.reset.groups = [] ∧ State.reset.crews = [] ∧
    State.reset.dev.power = true ∧ State.reset.dev.firmware = none ∧ State.reset.dev.cycle = 0 ∧ State.reset.hbm = [] ∧
    State.reset.dev.passed = ([], [])

/-- A step takes the first turn of the agenda. A turn that issues on a core runs the word at the PC of its oldest
ready group: the word decoded from the fetched packet, by `exec`, then the path goes past it and the bookkeeping
follows (R34, R72, R330, R332). An event runs by `exec`, and a word is no event. Without power only POWER_ON runs, and
with nothing to come the step stops (R9). What the manual leaves open here is the model's choice of logs 1, 16 and 76.
-/
def Obligations.StepRunsDecoded : Prop :=
  ∀ (s : State) (rest : List Turn),
    let s0 := { s with agenda := rest }
    (∀ (core : Nat) (g : Group) (more : List Group) (s1 u : State) (j : Nat) (i : Instr) (f : Fit) (pkt : List Word)
        (got : List Pipe) (rs : List (Nat × Nat)), s.agenda = .issue core :: rest → s.dev.power = true →
      s0.pickable core = g :: more → (s0.select g.id).ready = .chain s1 [(j, i)] f pkt → s1.cur.lowestPend = none →
      (s0.core core).fits (infosOf [(j, i)]) = some (got, rs) →
      let base := pktOf s1.cur.path.pc
      s1 = (s0.select g.id).begin_.fetched ∧ pkt = s1.ctx.pkt ∧ j = s1.cur.path.pc.toNat % 4 ∧
      decodeWord (pkt.getD j 0) (pkt.getD (j + 1) 0) = some i ∧ i.wf = true ∧
      (exec i (s1.settleOwed.atWord base pkt j (pcPast base pkt j)) = .next u → u.ctx.stalled = false →
        step s = .next ((u.finish s1.cur.path.age).picked s1.cur got rs (holdsPipe (infosOf [(j, i)]))).tidy)) ∧
    (∀ i t, s.agenda = .event i :: rest → s.dev.power = true → info i = none → exec i s0 = .next t → step s = .next t.tidy) ∧
    (∀ i, s.agenda = .event i :: rest → s.dev.power = true → (info i).isSome = true → step s = .next s0.tidy) ∧
    (s.agenda = .cycle :: rest → s.dev.power = true → step s = .next s0.endCycle.tidy) ∧
    (∀ t, s.agenda = t :: rest → s.dev.power = false → t.powersOn = false → step s = .next s0) ∧
    (s.agenda = [] → s.dev.power = false → step s = .fault .moduleOff)

/-- `exec` answers a next state for every instruction in every state. A word whose issue checks fail faults with the
cause and the charged word as value and has no other effect; one whose guard is false in every active lane has none,
unless it redirects (R33, R80, R119, R285). What the manual leaves open here is the model's choice of log 106. -/
def Obligations.ExecutionAlwaysAnswers : Prop :=
  ∀ (i : Instr) (s : State),
    (∃ t, exec i s = .next t) ∧
    ∀ f, info i = some f →
      (∀ c, issueFault f s = some c → exec i s = .next (s.fault c (s.ctx.word.setWidth 64))) ∧
      (issueFault f s = none → s.cur.active &&& s.cur.getG f.guard = 0 →
        (∀ h o, i ≠ .bra h o ∧ i ≠ .braLk h o ∧ i ≠ .braUlk h o ∧ i ≠ .braUnf h o) →
        (∀ h d a n o, i ≠ .ctlJump h a n ∧ i ≠ .ctlCall h d a ∧ i ≠ .ctlCalli h d o ∧ i ≠ .ctlRet h a) →
        exec i s = .next s)

/-- What no word of mode U changes (R45, R46, R85, R147, R290): the tenant's tables, windows, permissions, vectors and
life; and the only control register write that it leaves pending is of a register of mode U. -/
def Obligations.UserModeConfined : Prop :=
  ∀ (i : Instr) (f : Info) (s t : State), info i = some f → s.cur.mode = .u → exec i s = .next t →
    let a := s.tenant s.cur.tn
    let b := t.tenant s.cur.tn
    b.life = a.life ∧ b.ptroot = a.ptroot ∧ b.cistern = a.cistern ∧ b.cisterns = a.cisterns ∧ b.awbase = a.awbase ∧
    b.awsize = a.awsize ∧ b.tperm = a.tperm ∧ b.tvec = a.tvec ∧ b.thrash = a.thrash ∧ b.soff = a.soff ∧ b.actbase = a.actbase ∧
    b.keyslot = a.keyslot ∧ b.deadline = a.deadline ∧ b.used = a.used ∧ b.free = a.free ∧ b.allot = a.allot ∧
    (∀ n x, t.cur.csrw = some (n, x) → s.cur.csrw = some (n, x) ∨ csrUser n = true) ∧
    (t.cur.mode ≠ .u → t.cur.mode = .t1 ∧ t.cur.path.pc = a.tvec)
end

