-- ==== Sys2Proof/Laws/Coding.lean ====
section
/-!
SUPPORT. Fields of words written as concatenations: the value of a concatenation, a field and the header by their values. With
these a word's decoding reduces to linear arithmetic.
-/

namespace Sys2Proof

theorem toNat_cat {m n : Nat} (x : BitVec m) (y : BitVec n) : (x ++ y).toNat = x.toNat * 2 ^ n + y.toNat := by
  rw [BitVec.toNat_append, ← Nat.shiftLeft_add_eq_or_of_lt y.isLt, Nat.shiftLeft_eq]

theorem fld_eq (w : Word) (lo n : Nat) (v : BitVec n) (h : w.toNat / 2 ^ lo % 2 ^ n = v.toNat) : fld w lo n = v := by
  apply BitVec.eq_of_toNat_eq
  simp [fld, BitVec.extractLsb', Nat.shiftRight_eq_div_pow, h]

theorem flag_eq (w : Word) (i : Nat) : flag w i = decide (w.toNat / 2 ^ i % 2 = 1) := by
  simp [flag, BitVec.getLsbD, Nat.testBit, Nat.shiftRight_eq_div_pow, Nat.and_comm 1, Bool.beq_eq_decide_eq]

theorem hdr_toNat (h : Hdr) : h.bits.toNat = (if h.chain then 8 else 0) + h.guard.toNat := by
  have := toNat_cat (BitVec.ofBool h.chain) h.guard
  cases hc : h.chain <;> simp_all [Hdr.bits]

theorem hdr_eq (w : Word) (h : Hdr) (e : w.toNat / 2 ^ 28 = h.bits.toNat) : hdr w = h := by
  have hg := h.guard.isLt
  rw [hdr_toNat] at e
  have h1 : fld w 28 3 = h.guard := fld_eq _ _ _ _ (by rw [e]; split <;> omega)
  have h2 : flag w 31 = h.chain := by
    rw [flag_eq]
    cases hc : h.chain <;> simp [hc] at e ⊢ <;> omega
  cases h; simp_all [hdr]

end Sys2Proof
end

