-- ==== Sys2Proof/Laws/Memory.lean ====
section
/-!
SUPPORT. What the operations of sparse storage do: the value read after a write, and that each keeps the canonical form.
-/

namespace Sys2Proof.Machine

variable {w : Nat}

theorem SMap.get_nil (k : Nat) : SMap.get ([] : SMap w) k = 0 := rfl

theorem SMap.get_erase (m : SMap w) (k j : Nat) : (m.erase k).get j = if j = k then 0 else m.get j := by
  induction m with
  | nil => simp [SMap.erase, SMap.get]
  | cons e t ih =>
    obtain ⟨a, x⟩ := e
    simp only [SMap.erase]
    by_cases hak : a = k
    · rw [if_pos hak, ih, SMap.get]
      by_cases hjk : j = k
      · simp [hjk]
      · rw [if_neg hjk, if_neg hjk, if_neg (fun e => hjk (e.trans hak))]
    · rw [if_neg hak, SMap.get, SMap.get, ih]
      by_cases hja : j = a
      · rw [if_pos hja, if_neg (fun e => hak (hja.symm.trans e)), if_pos hja]
      · rw [if_neg hja, if_neg hja]

/-- No entry of the map stands at the address. -/
theorem SMap.erase_no_key (m : SMap w) (k : Nat) : ∀ e ∈ m.erase k, e.1 ≠ k := by
  induction m with
  | nil => simp [SMap.erase]
  | cons e t ih =>
    obtain ⟨a, x⟩ := e
    simp only [SMap.erase]
    split
    · exact ih
    · rintro e he
      rcases List.mem_cons.1 he with rfl | he
      · assumption
      · exact ih e he

theorem SMap.get_insert (m : SMap w) (k j : Nat) (v : BitVec w) (h : ∀ e ∈ m, e.1 ≠ k) :
    (m.insert k v).get j = if j = k then v else m.get j := by
  induction m with
  | nil => simp [SMap.insert, SMap.get]
  | cons e t ih =>
    obtain ⟨a, x⟩ := e
    have hak : a ≠ k := h (a, x) (by simp)
    have ih' := ih fun e he => h e (by simp [he])
    by_cases hka : k < a
    · simp [SMap.insert, hka, SMap.get]
    · simp only [SMap.insert, hka, if_false, SMap.get, ih']
      by_cases hja : j = a
      · subst hja; simp [hak]
      · simp [hja]

/-- Reading after a write. -/
theorem SMap.get_set (m : SMap w) (k j : Nat) (v : BitVec w) : (m.set k v).get j = if j = k then v else m.get j := by
  unfold SMap.set
  split
  · subst v; exact SMap.get_erase m k j
  · rw [SMap.get_insert _ _ _ _ (SMap.erase_no_key m k), SMap.get_erase]; split <;> rfl

@[simp] theorem SMap.get_set_same (m : SMap w) (k : Nat) (v : BitVec w) : (m.set k v).get k = v := by
  simp [SMap.get_set]

theorem SMap.get_set_other (m : SMap w) (k j : Nat) (v : BitVec w) (h : j ≠ k) : (m.set k v).get j = m.get j := by
  simp [SMap.get_set, h]

/-- Reading after a run of writes. -/
theorem SMap.get_setList (m : SMap w) (k j : Nat) (vs : List (BitVec w)) :
    (m.setList k vs).get j = if k ≤ j ∧ j < k + vs.length then vs.getD (j - k) 0 else m.get j := by
  induction vs generalizing m k with
  | nil => simp [SMap.setList]
  | cons v vs ih =>
    rw [SMap.setList, ih, SMap.get_set]
    by_cases h1 : j = k
    · subst h1
      have : ¬ (j + 1 ≤ j ∧ j < j + 1 + vs.length) := by omega
      simp
    · by_cases h2 : k + 1 ≤ j ∧ j < k + 1 + vs.length
      · have h3 : k ≤ j ∧ j < k + (v :: vs).length := by simp only [List.length_cons]; omega
        obtain ⟨i, hi⟩ : ∃ i, j - k = i + 1 := ⟨j - k - 1, by omega⟩
        have h4 : j - (k + 1) = i := by omega
        simp only [h2, h3, hi, h4, List.getD_cons_succ]
        simp
      · have h3 : ¬ (k ≤ j ∧ j < k + (v :: vs).length) := by simp only [List.length_cons]; omega
        rw [if_neg h2, if_neg h1, if_neg h3]

/-- Reading after a range has been removed. -/
theorem SMap.get_clear (m : SMap w) (lo hi j : Nat) :
    (m.clear lo hi).get j = if lo ≤ j ∧ j < hi then 0 else m.get j := by
  induction m with
  | nil => simp [SMap.clear, SMap.get]
  | cons e t ih =>
    obtain ⟨a, x⟩ := e
    have ht : SMap.clear ((a, x) :: t) lo hi = if a < lo ∨ hi ≤ a then (a, x) :: SMap.clear t lo hi else SMap.clear t lo hi := by
      simp [SMap.clear, List.filter_cons]
    rw [ht]
    by_cases hin : a < lo ∨ hi ≤ a
    · rw [if_pos hin]
      by_cases hja : j = a
      · have h1 : ¬ (lo ≤ j ∧ j < hi) := by omega
        simp [SMap.get, hja]; omega
      · simp [SMap.get, hja, ih]
    · rw [if_neg hin, ih]
      by_cases hja : j = a
      · have h1 : lo ≤ j ∧ j < hi := by omega
        rw [if_pos h1, if_pos h1]
      · simp [SMap.get, hja]

/-! ## The canonical form -/

/-- The canonical form as a property of all entries. -/
theorem SMap.wf_cons (a : Nat) (x : BitVec w) (t : SMap w) :
    SMap.wf ((a, x) :: t) = true ↔ x ≠ 0 ∧ (∀ e ∈ t, a < e.1) ∧ SMap.wf t = true := by
  induction t generalizing a x with
  | nil => simp [SMap.wf]
  | cons e t ih =>
    obtain ⟨b, y⟩ := e
    rw [SMap.wf, Bool.and_eq_true, Bool.and_eq_true, decide_eq_true_eq, bne_iff_ne]
    constructor
    · rintro ⟨⟨hx, hab⟩, ht⟩
      refine ⟨hx, fun e he => ?_, ht⟩
      rcases List.mem_cons.1 he with rfl | he
      · exact hab
      · exact Nat.lt_trans hab (((ih b y).1 ht).2.1 e he)
    · rintro ⟨hx, hall, ht⟩
      exact ⟨⟨hx, hall (b, y) (by simp)⟩, ht⟩

theorem SMap.wf_nil : SMap.wf ([] : SMap w) = true := rfl

/-- Any part of a canonical map, its entries in order, is canonical. -/
theorem SMap.wf_sublist {m n : SMap w} (h : m.Sublist n) (hn : SMap.wf n = true) : SMap.wf m = true := by
  induction h with
  | slnil => rfl
  | cons e _ ih => exact ih ((SMap.wf_cons e.1 e.2 _).1 hn).2.2
  | cons_cons e hs ih =>
    obtain ⟨h1, h2, h3⟩ := (SMap.wf_cons e.1 e.2 _).1 hn
    exact (SMap.wf_cons e.1 e.2 _).2 ⟨h1, fun x hx => h2 x (hs.subset hx), ih h3⟩

theorem SMap.wf_clear (m : SMap w) (lo hi : Nat) (h : SMap.wf m = true) : SMap.wf (m.clear lo hi) = true :=
  SMap.wf_sublist List.filter_sublist h

theorem SMap.erase_sublist (m : SMap w) (k : Nat) : (m.erase k).Sublist m := by
  induction m with
  | nil => exact List.Sublist.slnil
  | cons e t ih =>
    obtain ⟨a, x⟩ := e
    simp only [SMap.erase]
    split
    · exact ih.cons _
    · exact ih.cons_cons _

theorem SMap.wf_erase (m : SMap w) (k : Nat) (h : SMap.wf m = true) : SMap.wf (m.erase k) = true :=
  SMap.wf_sublist (SMap.erase_sublist m k) h

theorem SMap.mem_insert (m : SMap w) (k : Nat) (v : BitVec w) (e : Nat × BitVec w) (h : e ∈ m.insert k v) :
    e = (k, v) ∨ e ∈ m := by
  induction m with
  | nil => simpa [SMap.insert] using h
  | cons f t ih =>
    obtain ⟨a, x⟩ := f
    simp only [SMap.insert] at h
    split at h
    · simpa using h
    · rcases List.mem_cons.1 h with rfl | h
      · simp
      · rcases ih h with h | h <;> simp [h]

theorem SMap.wf_insert (m : SMap w) (k : Nat) (v : BitVec w) (hv : v ≠ 0) (hk : ∀ e ∈ m, e.1 ≠ k)
    (h : SMap.wf m = true) : SMap.wf (m.insert k v) = true := by
  induction m with
  | nil => exact (SMap.wf_cons k v []).2 ⟨hv, by simp, rfl⟩
  | cons f t ih =>
    obtain ⟨a, x⟩ := f
    obtain ⟨h1, h2, h3⟩ := (SMap.wf_cons a x t).1 h
    have hak : a ≠ k := hk (a, x) (by simp)
    simp only [SMap.insert]
    split
    · rename_i hlt
      refine (SMap.wf_cons k v _).2 ⟨hv, fun e he => ?_, h⟩
      rcases List.mem_cons.1 he with rfl | he
      · exact hlt
      · exact Nat.lt_trans hlt (h2 e he)
    · rename_i hlt
      refine (SMap.wf_cons a x _).2 ⟨h1, fun e he => ?_, ih (fun e he => hk e (by simp [he])) h3⟩
      rcases SMap.mem_insert t k v e he with rfl | he
      · simp only; omega
      · exact h2 e he

/-- A write keeps the canonical form. -/
theorem SMap.wf_set (m : SMap w) (k : Nat) (v : BitVec w) (h : SMap.wf m = true) : SMap.wf (m.set k v) = true := by
  unfold SMap.set
  split
  · exact SMap.wf_erase m k h
  · rename_i hv
    exact SMap.wf_insert _ k v hv (SMap.erase_no_key m k) (SMap.wf_erase m k h)

/-- A run of writes keeps the canonical form. -/
theorem SMap.wf_setList (m : SMap w) (k : Nat) (vs : List (BitVec w)) (h : SMap.wf m = true) :
    SMap.wf (m.setList k vs) = true := by
  induction vs generalizing m k with
  | nil => exact h
  | cons v vs ih => exact ih _ _ (SMap.wf_set m k v h)

/-- Two canonical maps that read alike are the same data. -/
theorem SMap.ext_of_wf (m n : SMap w) (hm : SMap.wf m = true) (hn : SMap.wf n = true) (h : ∀ j, m.get j = n.get j) :
    m = n := by
  have low : ∀ (t : SMap w) (j : Nat), (∀ e ∈ t, j < e.1) → t.get j = 0 := by
    intro t j
    induction t with
    | nil => intro _; rfl
    | cons e t ih =>
      intro he
      have : j ≠ e.1 := Nat.ne_of_lt (he e (by simp))
      simp [SMap.get, this, ih fun e' h' => he e' (by simp [h'])]
  induction m generalizing n with
  | nil =>
    cases n with
    | nil => rfl
    | cons e t =>
      have := h e.1
      simp [SMap.get] at this
      exact absurd this.symm ((SMap.wf_cons e.1 e.2 t).1 hn).1
  | cons e t ih =>
    obtain ⟨a, x⟩ := e
    obtain ⟨hx, hlt, ht⟩ := (SMap.wf_cons a x t).1 hm
    cases n with
    | nil => have := h a; simp [SMap.get] at this; exact absurd this hx
    | cons f u =>
      obtain ⟨b, y⟩ := f
      obtain ⟨hy, hlu, hu⟩ := (SMap.wf_cons b y u).1 hn
      have hab : a = b := by
        rcases Nat.lt_trichotomy a b with hl | rfl | hl
        · have := h a
          rw [low ((b, y) :: u) a (by intro e he; rcases List.mem_cons.1 he with rfl | he; exact hl; exact Nat.lt_trans hl (hlu e he))] at this
          simp [SMap.get] at this; exact absurd this hx
        · rfl
        · have := h b
          rw [low ((a, x) :: t) b (by intro e he; rcases List.mem_cons.1 he with rfl | he; exact hl; exact Nat.lt_trans hl (hlt e he))] at this
          simp [SMap.get] at this; exact absurd this.symm hy
      subst hab
      have hxy : x = y := by simpa [SMap.get] using h a
      subst hxy
      rw [ih u ht hu fun j => ?_]
      by_cases hj : j = a
      · subst hj; rw [low t j hlt, low u j hlu]
      · simpa [SMap.get, hj] using h j

end Sys2Proof.Machine
end

