-- ==== Sys2Proof/Laws/PerInstr.lean ====
section
/-!
SUPPORT. One lemma for each constructor of `Instr`, by family. `HasEncoding`: an instruction is either a word, with an encoding
of one word and at most one literal and with issue facts, or a step of the machine, with neither.
-/

namespace Sys2Proof.Laws

open Sys2Proof.Machine

/-- The instruction is a word with an encoding and issue facts, or a step with neither. -/
def HasEncoding.Statement (i : Instr) : Prop :=
  (∃ w lits f, encode i = w :: lits ∧ lits.length ≤ 1 ∧ info i = some f) ∨ (encode i = [] ∧ info i = none)

/-- A word without a literal. -/
theorem HasEncoding.one {i : Instr} {w : Word} {f : Info} (h : encode i = [w]) (k : info i = some f) :
    HasEncoding.Statement i := .inl ⟨w, [], f, h, Nat.zero_le 1, k⟩

/-- A word with a vector operand that may be a literal. -/
theorem HasEncoding.vec {i : Instr} {w : Word} {b : VSrc} {f : Info} (h : encode i = [w] ++ b.litWords)
    (k : info i = some f) : HasEncoding.Statement i := .inl ⟨w, b.litWords, f, h, by cases b <;> simp [VSrc.litWords], k⟩

/-- A word with a scalar operand that may be a literal. -/
theorem HasEncoding.scalar {i : Instr} {w : Word} {b : SSrc} {f : Info} (h : encode i = [w] ++ b.litWords)
    (k : info i = some f) : HasEncoding.Statement i := .inl ⟨w, b.litWords, f, h, by cases b <;> simp [SSrc.litWords], k⟩

/-- A word that always takes a literal. -/
theorem HasEncoding.two {i : Instr} {w x : Word} {f : Info} (h : encode i = [w] ++ [x]) (k : info i = some f) :
    HasEncoding.Statement i := .inl ⟨w, [x], f, h, Nat.le_refl 1, k⟩

/-- A step of the machine. -/
theorem HasEncoding.step {i : Instr} (h : encode i = []) (k : info i = none) : HasEncoding.Statement i := .inr ⟨h, k⟩

theorem HasEncoding.sysNop (h : Hdr) :
    HasEncoding.Statement (.sysNop h) := HasEncoding.one rfl rfl
theorem HasEncoding.sysExit (h : Hdr) :
    HasEncoding.Statement (.sysExit h) := HasEncoding.one rfl rfl
theorem HasEncoding.sysYield (h : Hdr) :
    HasEncoding.Statement (.sysYield h) := HasEncoding.one rfl rfl
theorem HasEncoding.sysTrap (h : Hdr) (p : BitVec 8) :
    HasEncoding.Statement (.sysTrap h p) := HasEncoding.one rfl rfl
theorem HasEncoding.sysUret (h : Hdr) :
    HasEncoding.Statement (.sysUret h) := HasEncoding.one rfl rfl
theorem HasEncoding.sysTret (h : Hdr) :
    HasEncoding.Statement (.sysTret h) := HasEncoding.one rfl rfl
theorem HasEncoding.sysBrk (h : Hdr) (p : BitVec 14) :
    HasEncoding.Statement (.sysBrk h p) := HasEncoding.one rfl rfl
theorem HasEncoding.sysHalt (h : Hdr) (p : BitVec 13) :
    HasEncoding.Statement (.sysHalt h p) := HasEncoding.one rfl rfl
theorem HasEncoding.bra (h : Hdr) (o : BitVec 20) :
    HasEncoding.Statement (.bra h o) := HasEncoding.one rfl rfl
theorem HasEncoding.braLk (h : Hdr) (o : BitVec 20) :
    HasEncoding.Statement (.braLk h o) := HasEncoding.one rfl rfl
theorem HasEncoding.braUlk (h : Hdr) (o : BitVec 20) :
    HasEncoding.Statement (.braUlk h o) := HasEncoding.one rfl rfl
theorem HasEncoding.braUnf (h : Hdr) (o : BitVec 20) :
    HasEncoding.Statement (.braUnf h o) := HasEncoding.one rfl rfl
theorem HasEncoding.ctlJump (h : Hdr) (a : BitVec 6) (hx : BitVec 2) :
    HasEncoding.Statement (.ctlJump h a hx) := HasEncoding.one rfl rfl
theorem HasEncoding.ctlCall (h : Hdr) (d : BitVec 6) (a : BitVec 6) :
    HasEncoding.Statement (.ctlCall h d a) := HasEncoding.one rfl rfl
theorem HasEncoding.ctlCalli (h : Hdr) (d : BitVec 6) (off : Word) :
    HasEncoding.Statement (.ctlCalli h d off) := HasEncoding.two rfl rfl
theorem HasEncoding.ctlRet (h : Hdr) (a : BitVec 6) :
    HasEncoding.Statement (.ctlRet h a) := HasEncoding.one rfl rfl
theorem HasEncoding.ctlRep (h : Hdr) (a : SSrc) :
    HasEncoding.Statement (.ctlRep h a) := HasEncoding.scalar rfl rfl
theorem HasEncoding.ctlReform (h : Hdr) :
    HasEncoding.Statement (.ctlReform h) := HasEncoding.one rfl rfl
theorem HasEncoding.wait (h : Hdr) (l : BitVec 5) (s : BitVec 5) (p : BitVec 5) (t : BitVec 5) :
    HasEncoding.Statement (.wait h l s p t) := HasEncoding.one rfl rfl
theorem HasEncoding.viaAdd (h : Hdr) (d : BitVec 6) (a : BitVec 6) (b : VSrc) :
    HasEncoding.Statement (.viaAdd h d a b) := HasEncoding.vec rfl rfl
theorem HasEncoding.viaSub (h : Hdr) (d : BitVec 6) (a : BitVec 6) (b : VSrc) :
    HasEncoding.Statement (.viaSub h d a b) := HasEncoding.vec rfl rfl
theorem HasEncoding.viaMul (h : Hdr) (d : BitVec 6) (a : BitVec 6) (b : VSrc) :
    HasEncoding.Statement (.viaMul h d a b) := HasEncoding.vec rfl rfl
theorem HasEncoding.viaMulh (h : Hdr) (d : BitVec 6) (a : BitVec 6) (b : VSrc) :
    HasEncoding.Statement (.viaMulh h d a b) := HasEncoding.vec rfl rfl
theorem HasEncoding.viaMulhn (h : Hdr) (d : BitVec 6) (a : BitVec 6) (b : VSrc) :
    HasEncoding.Statement (.viaMulhn h d a b) := HasEncoding.vec rfl rfl
theorem HasEncoding.viaMad (h : Hdr) (d : BitVec 6) (a : BitVec 6) (b : VSrc) :
    HasEncoding.Statement (.viaMad h d a b) := HasEncoding.vec rfl rfl
theorem HasEncoding.viaMin (h : Hdr) (d : BitVec 6) (a : BitVec 6) (b : VSrc) :
    HasEncoding.Statement (.viaMin h d a b) := HasEncoding.vec rfl rfl
theorem HasEncoding.viaMax (h : Hdr) (d : BitVec 6) (a : BitVec 6) (b : VSrc) :
    HasEncoding.Statement (.viaMax h d a b) := HasEncoding.vec rfl rfl
theorem HasEncoding.viaMinn (h : Hdr) (d : BitVec 6) (a : BitVec 6) (b : VSrc) :
    HasEncoding.Statement (.viaMinn h d a b) := HasEncoding.vec rfl rfl
theorem HasEncoding.viaMaxn (h : Hdr) (d : BitVec 6) (a : BitVec 6) (b : VSrc) :
    HasEncoding.Statement (.viaMaxn h d a b) := HasEncoding.vec rfl rfl
theorem HasEncoding.viaAbs (h : Hdr) (d : BitVec 6) (a : BitVec 6) :
    HasEncoding.Statement (.viaAbs h d a) := HasEncoding.one rfl rfl
theorem HasEncoding.viaNeg (h : Hdr) (d : BitVec 6) (a : BitVec 6) :
    HasEncoding.Statement (.viaNeg h d a) := HasEncoding.one rfl rfl
theorem HasEncoding.viaAddc (h : Hdr) (d : BitVec 6) (a : BitVec 6) (b : VSrc) :
    HasEncoding.Statement (.viaAddc h d a b) := HasEncoding.vec rfl rfl
theorem HasEncoding.viaSubc (h : Hdr) (d : BitVec 6) (a : BitVec 6) (b : VSrc) :
    HasEncoding.Statement (.viaSubc h d a b) := HasEncoding.vec rfl rfl
theorem HasEncoding.viaClz (h : Hdr) (d : BitVec 6) (a : BitVec 6) :
    HasEncoding.Statement (.viaClz h d a) := HasEncoding.one rfl rfl
theorem HasEncoding.viaPopc (h : Hdr) (d : BitVec 6) (a : BitVec 6) :
    HasEncoding.Statement (.viaPopc h d a) := HasEncoding.one rfl rfl
theorem HasEncoding.vilAnd (h : Hdr) (d : BitVec 6) (a : BitVec 6) (b : VSrc) :
    HasEncoding.Statement (.vilAnd h d a b) := HasEncoding.vec rfl rfl
theorem HasEncoding.vilOr (h : Hdr) (d : BitVec 6) (a : BitVec 6) (b : VSrc) :
    HasEncoding.Statement (.vilOr h d a b) := HasEncoding.vec rfl rfl
theorem HasEncoding.vilXor (h : Hdr) (d : BitVec 6) (a : BitVec 6) (b : VSrc) :
    HasEncoding.Statement (.vilXor h d a b) := HasEncoding.vec rfl rfl
theorem HasEncoding.vilAndn (h : Hdr) (d : BitVec 6) (a : BitVec 6) (b : VSrc) :
    HasEncoding.Statement (.vilAndn h d a b) := HasEncoding.vec rfl rfl
theorem HasEncoding.vilNot (h : Hdr) (d : BitVec 6) (a : BitVec 6) :
    HasEncoding.Statement (.vilNot h d a) := HasEncoding.one rfl rfl
theorem HasEncoding.vilShl (h : Hdr) (d : BitVec 6) (a : BitVec 6) (b : VSrc) :
    HasEncoding.Statement (.vilShl h d a b) := HasEncoding.vec rfl rfl
theorem HasEncoding.vilShr (h : Hdr) (d : BitVec 6) (a : BitVec 6) (b : VSrc) :
    HasEncoding.Statement (.vilShr h d a b) := HasEncoding.vec rfl rfl
theorem HasEncoding.vilSra (h : Hdr) (d : BitVec 6) (a : BitVec 6) (b : VSrc) :
    HasEncoding.Statement (.vilSra h d a b) := HasEncoding.vec rfl rfl
theorem HasEncoding.vilRotl (h : Hdr) (d : BitVec 6) (a : BitVec 6) (b : VSrc) :
    HasEncoding.Statement (.vilRotl h d a b) := HasEncoding.vec rfl rfl
theorem HasEncoding.vilBrev (h : Hdr) (d : BitVec 6) (a : BitVec 6) :
    HasEncoding.Statement (.vilBrev h d a) := HasEncoding.one rfl rfl
theorem HasEncoding.vilBfx (h : Hdr) (d : BitVec 6) (a : BitVec 6) (b : VSrc) :
    HasEncoding.Statement (.vilBfx h d a b) := HasEncoding.vec rfl rfl
theorem HasEncoding.vilBfxn (h : Hdr) (d : BitVec 6) (a : BitVec 6) (b : VSrc) :
    HasEncoding.Statement (.vilBfxn h d a b) := HasEncoding.vec rfl rfl
theorem HasEncoding.vilBfi (h : Hdr) (d : BitVec 6) (a : BitVec 6) (b : VSrc) :
    HasEncoding.Statement (.vilBfi h d a b) := HasEncoding.vec rfl rfl
theorem HasEncoding.vilMov (h : Hdr) (d : BitVec 6) (a : BitVec 6) :
    HasEncoding.Statement (.vilMov h d a) := HasEncoding.one rfl rfl
theorem HasEncoding.vilBsel (h : Hdr) (d : BitVec 6) (a : BitVec 6) (b : VSrc) :
    HasEncoding.Statement (.vilBsel h d a b) := HasEncoding.vec rfl rfl
theorem HasEncoding.vicEq (h : Hdr) (k : BitVec 3) (n : BitVec 3) (a : BitVec 6) (b : BitVec 6) :
    HasEncoding.Statement (.vicEq h k n a b) := HasEncoding.one rfl rfl
theorem HasEncoding.vicNe (h : Hdr) (k : BitVec 3) (n : BitVec 3) (a : BitVec 6) (b : BitVec 6) :
    HasEncoding.Statement (.vicNe h k n a b) := HasEncoding.one rfl rfl
theorem HasEncoding.vicLt (h : Hdr) (k : BitVec 3) (n : BitVec 3) (a : BitVec 6) (b : BitVec 6) :
    HasEncoding.Statement (.vicLt h k n a b) := HasEncoding.one rfl rfl
theorem HasEncoding.vicLe (h : Hdr) (k : BitVec 3) (n : BitVec 3) (a : BitVec 6) (b : BitVec 6) :
    HasEncoding.Statement (.vicLe h k n a b) := HasEncoding.one rfl rfl
theorem HasEncoding.vicGt (h : Hdr) (k : BitVec 3) (n : BitVec 3) (a : BitVec 6) (b : BitVec 6) :
    HasEncoding.Statement (.vicGt h k n a b) := HasEncoding.one rfl rfl
theorem HasEncoding.vicGe (h : Hdr) (k : BitVec 3) (n : BitVec 3) (a : BitVec 6) (b : BitVec 6) :
    HasEncoding.Statement (.vicGe h k n a b) := HasEncoding.one rfl rfl
theorem HasEncoding.vicLtn (h : Hdr) (k : BitVec 3) (n : BitVec 3) (a : BitVec 6) (b : BitVec 6) :
    HasEncoding.Statement (.vicLtn h k n a b) := HasEncoding.one rfl rfl
theorem HasEncoding.vicLen (h : Hdr) (k : BitVec 3) (n : BitVec 3) (a : BitVec 6) (b : BitVec 6) :
    HasEncoding.Statement (.vicLen h k n a b) := HasEncoding.one rfl rfl
theorem HasEncoding.vicGtn (h : Hdr) (k : BitVec 3) (n : BitVec 3) (a : BitVec 6) (b : BitVec 6) :
    HasEncoding.Statement (.vicGtn h k n a b) := HasEncoding.one rfl rfl
theorem HasEncoding.vicGen (h : Hdr) (k : BitVec 3) (n : BitVec 3) (a : BitVec 6) (b : BitVec 6) :
    HasEncoding.Statement (.vicGen h k n a b) := HasEncoding.one rfl rfl
theorem HasEncoding.vicEq64 (h : Hdr) (k : BitVec 3) (n : BitVec 3) (a : BitVec 6) (b : BitVec 6) :
    HasEncoding.Statement (.vicEq64 h k n a b) := HasEncoding.one rfl rfl
theorem HasEncoding.vicLt64 (h : Hdr) (k : BitVec 3) (n : BitVec 3) (a : BitVec 6) (b : BitVec 6) :
    HasEncoding.Statement (.vicLt64 h k n a b) := HasEncoding.one rfl rfl
theorem HasEncoding.vicLtn64 (h : Hdr) (k : BitVec 3) (n : BitVec 3) (a : BitVec 6) (b : BitVec 6) :
    HasEncoding.Statement (.vicLtn64 h k n a b) := HasEncoding.one rfl rfl
theorem HasEncoding.addi (h : Hdr) (d : BitVec 6) (a : BitVec 6) (i : BitVec 10) :
    HasEncoding.Statement (.addi h d a i) := HasEncoding.one rfl rfl
theorem HasEncoding.andi (h : Hdr) (d : BitVec 6) (a : BitVec 6) (i : BitVec 10) :
    HasEncoding.Statement (.andi h d a i) := HasEncoding.one rfl rfl
theorem HasEncoding.ori (h : Hdr) (d : BitVec 6) (a : BitVec 6) (i : BitVec 10) :
    HasEncoding.Statement (.ori h d a i) := HasEncoding.one rfl rfl
theorem HasEncoding.xori (h : Hdr) (d : BitVec 6) (a : BitVec 6) (i : BitVec 10) :
    HasEncoding.Statement (.xori h d a i) := HasEncoding.one rfl rfl
theorem HasEncoding.shli (h : Hdr) (d : BitVec 6) (a : BitVec 6) (i : BitVec 5) :
    HasEncoding.Statement (.shli h d a i) := HasEncoding.one rfl rfl
theorem HasEncoding.shri (h : Hdr) (d : BitVec 6) (a : BitVec 6) (i : BitVec 5) :
    HasEncoding.Statement (.shri h d a i) := HasEncoding.one rfl rfl
theorem HasEncoding.srai (h : Hdr) (d : BitVec 6) (a : BitVec 6) (i : BitVec 5) :
    HasEncoding.Statement (.srai h d a i) := HasEncoding.one rfl rfl
theorem HasEncoding.muli (h : Hdr) (d : BitVec 6) (a : BitVec 6) (i : BitVec 10) :
    HasEncoding.Statement (.muli h d a i) := HasEncoding.one rfl rfl
theorem HasEncoding.movi (h : Hdr) (d : BitVec 6) (i : BitVec 16) :
    HasEncoding.Statement (.movi h d i) := HasEncoding.one rfl rfl
theorem HasEncoding.movhi (h : Hdr) (d : BitVec 6) (i : BitVec 16) :
    HasEncoding.Statement (.movhi h d i) := HasEncoding.one rfl rfl
theorem HasEncoding.vfFadd (h : Hdr) (d : BitVec 6) (a : BitVec 6) (b : VSrc) :
    HasEncoding.Statement (.vfFadd h d a b) := HasEncoding.vec rfl rfl
theorem HasEncoding.vfFsub (h : Hdr) (d : BitVec 6) (a : BitVec 6) (b : VSrc) :
    HasEncoding.Statement (.vfFsub h d a b) := HasEncoding.vec rfl rfl
theorem HasEncoding.vfFmul (h : Hdr) (d : BitVec 6) (a : BitVec 6) (b : VSrc) :
    HasEncoding.Statement (.vfFmul h d a b) := HasEncoding.vec rfl rfl
theorem HasEncoding.vfFfma (h : Hdr) (d : BitVec 6) (a : BitVec 6) (b : VSrc) :
    HasEncoding.Statement (.vfFfma h d a b) := HasEncoding.vec rfl rfl
theorem HasEncoding.vfFfms (h : Hdr) (d : BitVec 6) (a : BitVec 6) (b : VSrc) :
    HasEncoding.Statement (.vfFfms h d a b) := HasEncoding.vec rfl rfl
theorem HasEncoding.vfFmin (h : Hdr) (d : BitVec 6) (a : BitVec 6) (b : VSrc) :
    HasEncoding.Statement (.vfFmin h d a b) := HasEncoding.vec rfl rfl
theorem HasEncoding.vfFmax (h : Hdr) (d : BitVec 6) (a : BitVec 6) (b : VSrc) :
    HasEncoding.Statement (.vfFmax h d a b) := HasEncoding.vec rfl rfl
theorem HasEncoding.vfFabs (h : Hdr) (d : BitVec 6) (a : BitVec 6) :
    HasEncoding.Statement (.vfFabs h d a) := HasEncoding.one rfl rfl
theorem HasEncoding.vfFneg (h : Hdr) (d : BitVec 6) (a : BitVec 6) :
    HasEncoding.Statement (.vfFneg h d a) := HasEncoding.one rfl rfl
theorem HasEncoding.vfFcopys (h : Hdr) (d : BitVec 6) (a : BitVec 6) (b : VSrc) :
    HasEncoding.Statement (.vfFcopys h d a b) := HasEncoding.vec rfl rfl
theorem HasEncoding.vfFfloor (h : Hdr) (d : BitVec 6) (a : BitVec 6) :
    HasEncoding.Statement (.vfFfloor h d a) := HasEncoding.one rfl rfl
theorem HasEncoding.vfFceil (h : Hdr) (d : BitVec 6) (a : BitVec 6) :
    HasEncoding.Statement (.vfFceil h d a) := HasEncoding.one rfl rfl
theorem HasEncoding.vfFrint (h : Hdr) (d : BitVec 6) (a : BitVec 6) :
    HasEncoding.Statement (.vfFrint h d a) := HasEncoding.one rfl rfl
theorem HasEncoding.vfFtrunc (h : Hdr) (d : BitVec 6) (a : BitVec 6) :
    HasEncoding.Statement (.vfFtrunc h d a) := HasEncoding.one rfl rfl
theorem HasEncoding.vfFsat (h : Hdr) (d : BitVec 6) (a : BitVec 6) :
    HasEncoding.Statement (.vfFsat h d a) := HasEncoding.one rfl rfl
theorem HasEncoding.vfFscale (h : Hdr) (d : BitVec 6) (a : BitVec 6) (b : VSrc) :
    HasEncoding.Statement (.vfFscale h d a b) := HasEncoding.vec rfl rfl
theorem HasEncoding.vfcFeq (h : Hdr) (k : BitVec 3) (n : BitVec 3) (a : BitVec 6) (b : BitVec 6) :
    HasEncoding.Statement (.vfcFeq h k n a b) := HasEncoding.one rfl rfl
theorem HasEncoding.vfcFne (h : Hdr) (k : BitVec 3) (n : BitVec 3) (a : BitVec 6) (b : BitVec 6) :
    HasEncoding.Statement (.vfcFne h k n a b) := HasEncoding.one rfl rfl
theorem HasEncoding.vfcFlt (h : Hdr) (k : BitVec 3) (n : BitVec 3) (a : BitVec 6) (b : BitVec 6) :
    HasEncoding.Statement (.vfcFlt h k n a b) := HasEncoding.one rfl rfl
theorem HasEncoding.vfcFle (h : Hdr) (k : BitVec 3) (n : BitVec 3) (a : BitVec 6) (b : BitVec 6) :
    HasEncoding.Statement (.vfcFle h k n a b) := HasEncoding.one rfl rfl
theorem HasEncoding.vfcFgt (h : Hdr) (k : BitVec 3) (n : BitVec 3) (a : BitVec 6) (b : BitVec 6) :
    HasEncoding.Statement (.vfcFgt h k n a b) := HasEncoding.one rfl rfl
theorem HasEncoding.vfcFge (h : Hdr) (k : BitVec 3) (n : BitVec 3) (a : BitVec 6) (b : BitVec 6) :
    HasEncoding.Statement (.vfcFge h k n a b) := HasEncoding.one rfl rfl
theorem HasEncoding.vfcFun (h : Hdr) (k : BitVec 3) (n : BitVec 3) (a : BitVec 6) (b : BitVec 6) :
    HasEncoding.Statement (.vfcFun h k n a b) := HasEncoding.one rfl rfl
theorem HasEncoding.vfcFord (h : Hdr) (k : BitVec 3) (n : BitVec 3) (a : BitVec 6) (b : BitVec 6) :
    HasEncoding.Statement (.vfcFord h k n a b) := HasEncoding.one rfl rfl
theorem HasEncoding.vfcFclass (h : Hdr) (k : BitVec 3) (n : BitVec 3) (a : BitVec 6) (b : BitVec 6) :
    HasEncoding.Statement (.vfcFclass h k n a b) := HasEncoding.one rfl rfl
theorem HasEncoding.vhHadd (h : Hdr) (t : Bool) (d : BitVec 6) (a : BitVec 6) (b : VSrc) :
    HasEncoding.Statement (.vhHadd h t d a b) := HasEncoding.vec rfl rfl
theorem HasEncoding.vhHsub (h : Hdr) (t : Bool) (d : BitVec 6) (a : BitVec 6) (b : VSrc) :
    HasEncoding.Statement (.vhHsub h t d a b) := HasEncoding.vec rfl rfl
theorem HasEncoding.vhHmul (h : Hdr) (t : Bool) (d : BitVec 6) (a : BitVec 6) (b : VSrc) :
    HasEncoding.Statement (.vhHmul h t d a b) := HasEncoding.vec rfl rfl
theorem HasEncoding.vhHfma (h : Hdr) (t : Bool) (d : BitVec 6) (a : BitVec 6) (b : VSrc) :
    HasEncoding.Statement (.vhHfma h t d a b) := HasEncoding.vec rfl rfl
theorem HasEncoding.vhHmin (h : Hdr) (t : Bool) (d : BitVec 6) (a : BitVec 6) (b : VSrc) :
    HasEncoding.Statement (.vhHmin h t d a b) := HasEncoding.vec rfl rfl
theorem HasEncoding.vhHmax (h : Hdr) (t : Bool) (d : BitVec 6) (a : BitVec 6) (b : VSrc) :
    HasEncoding.Statement (.vhHmax h t d a b) := HasEncoding.vec rfl rfl
theorem HasEncoding.vhHneg (h : Hdr) (t : Bool) (d : BitVec 6) (a : BitVec 6) :
    HasEncoding.Statement (.vhHneg h t d a) := HasEncoding.one rfl rfl
theorem HasEncoding.vhHabs (h : Hdr) (t : Bool) (d : BitVec 6) (a : BitVec 6) :
    HasEncoding.Statement (.vhHabs h t d a) := HasEncoding.one rfl rfl
theorem HasEncoding.sfuFrcp (h : Hdr) (d : BitVec 6) (a : BitVec 6) :
    HasEncoding.Statement (.sfuFrcp h d a) := HasEncoding.one rfl rfl
theorem HasEncoding.sfuFrsq (h : Hdr) (d : BitVec 6) (a : BitVec 6) :
    HasEncoding.Statement (.sfuFrsq h d a) := HasEncoding.one rfl rfl
theorem HasEncoding.sfuFsqrt (h : Hdr) (d : BitVec 6) (a : BitVec 6) :
    HasEncoding.Statement (.sfuFsqrt h d a) := HasEncoding.one rfl rfl
theorem HasEncoding.sfuFexp2 (h : Hdr) (d : BitVec 6) (a : BitVec 6) :
    HasEncoding.Statement (.sfuFexp2 h d a) := HasEncoding.one rfl rfl
theorem HasEncoding.sfuFlog2 (h : Hdr) (d : BitVec 6) (a : BitVec 6) :
    HasEncoding.Statement (.sfuFlog2 h d a) := HasEncoding.one rfl rfl
theorem HasEncoding.sfuFsin (h : Hdr) (d : BitVec 6) (a : BitVec 6) :
    HasEncoding.Statement (.sfuFsin h d a) := HasEncoding.one rfl rfl
theorem HasEncoding.sfuFcos (h : Hdr) (d : BitVec 6) (a : BitVec 6) :
    HasEncoding.Statement (.sfuFcos h d a) := HasEncoding.one rfl rfl
theorem HasEncoding.sfuFtanh (h : Hdr) (d : BitVec 6) (a : BitVec 6) :
    HasEncoding.Statement (.sfuFtanh h d a) := HasEncoding.one rfl rfl
theorem HasEncoding.sfuFdiv (h : Hdr) (d : BitVec 6) (a : BitVec 6) (b : BitVec 6) :
    HasEncoding.Statement (.sfuFdiv h d a b) := HasEncoding.one rfl rfl
theorem HasEncoding.cvtF32I32 (h : Hdr) (d : BitVec 6) (a : BitVec 6) :
    HasEncoding.Statement (.cvtF32I32 h d a) := HasEncoding.one rfl rfl
theorem HasEncoding.cvtF32N32 (h : Hdr) (d : BitVec 6) (a : BitVec 6) :
    HasEncoding.Statement (.cvtF32N32 h d a) := HasEncoding.one rfl rfl
theorem HasEncoding.cvtI32F32 (h : Hdr) (d : BitVec 6) (a : BitVec 6) :
    HasEncoding.Statement (.cvtI32F32 h d a) := HasEncoding.one rfl rfl
theorem HasEncoding.cvtN32F32 (h : Hdr) (d : BitVec 6) (a : BitVec 6) :
    HasEncoding.Statement (.cvtN32F32 h d a) := HasEncoding.one rfl rfl
theorem HasEncoding.cvtF32F16 (h : Hdr) (d : BitVec 6) (a : BitVec 6) :
    HasEncoding.Statement (.cvtF32F16 h d a) := HasEncoding.one rfl rfl
theorem HasEncoding.cvtF16F32 (h : Hdr) (d : BitVec 6) (a : BitVec 6) :
    HasEncoding.Statement (.cvtF16F32 h d a) := HasEncoding.one rfl rfl
theorem HasEncoding.cvtF32Bf16 (h : Hdr) (d : BitVec 6) (a : BitVec 6) :
    HasEncoding.Statement (.cvtF32Bf16 h d a) := HasEncoding.one rfl rfl
theorem HasEncoding.cvtBf16F32 (h : Hdr) (d : BitVec 6) (a : BitVec 6) :
    HasEncoding.Statement (.cvtBf16F32 h d a) := HasEncoding.one rfl rfl
theorem HasEncoding.cvtF32E4m3 (h : Hdr) (d : BitVec 6) (a : BitVec 6) (s : BitVec 2) :
    HasEncoding.Statement (.cvtF32E4m3 h d a s) := HasEncoding.one rfl rfl
theorem HasEncoding.cvtE4m3F32 (h : Hdr) (d : BitVec 6) (a : BitVec 6) (s : BitVec 2) :
    HasEncoding.Statement (.cvtE4m3F32 h d a s) := HasEncoding.one rfl rfl
theorem HasEncoding.cvtF32E5m2 (h : Hdr) (d : BitVec 6) (a : BitVec 6) (s : BitVec 2) :
    HasEncoding.Statement (.cvtF32E5m2 h d a s) := HasEncoding.one rfl rfl
theorem HasEncoding.cvtE5m2F32 (h : Hdr) (d : BitVec 6) (a : BitVec 6) (s : BitVec 2) :
    HasEncoding.Statement (.cvtE5m2F32 h d a s) := HasEncoding.one rfl rfl
theorem HasEncoding.cvtF32E2m1 (h : Hdr) (d : BitVec 6) (a : BitVec 6) (s : BitVec 3) :
    HasEncoding.Statement (.cvtF32E2m1 h d a s) := HasEncoding.one rfl rfl
theorem HasEncoding.cvtE2m1F32 (h : Hdr) (d : BitVec 6) (a : BitVec 6) (s : BitVec 3) :
    HasEncoding.Statement (.cvtE2m1F32 h d a s) := HasEncoding.one rfl rfl
theorem HasEncoding.cvtF32S20 (h : Hdr) (d : BitVec 6) (a : BitVec 6) :
    HasEncoding.Statement (.cvtF32S20 h d a) := HasEncoding.one rfl rfl
theorem HasEncoding.cvtS20F32 (h : Hdr) (d : BitVec 6) (a : BitVec 6) :
    HasEncoding.Statement (.cvtS20F32 h d a) := HasEncoding.one rfl rfl
theorem HasEncoding.lanePick (h : Hdr) (d : BitVec 6) (a : BitVec 6) (b : BitVec 6) :
    HasEncoding.Statement (.lanePick h d a b) := HasEncoding.one rfl rfl
theorem HasEncoding.laneBack (h : Hdr) (d : BitVec 6) (a : BitVec 6) (b : BitVec 6) :
    HasEncoding.Statement (.laneBack h d a b) := HasEncoding.one rfl rfl
theorem HasEncoding.laneFwd (h : Hdr) (d : BitVec 6) (a : BitVec 6) (b : BitVec 6) :
    HasEncoding.Statement (.laneFwd h d a b) := HasEncoding.one rfl rfl
theorem HasEncoding.laneFlip (h : Hdr) (d : BitVec 6) (a : BitVec 6) (b : BitVec 6) :
    HasEncoding.Statement (.laneFlip h d a b) := HasEncoding.one rfl rfl
theorem HasEncoding.laneAny (h : Hdr) (d : BitVec 6) (a : BitVec 6) :
    HasEncoding.Statement (.laneAny h d a) := HasEncoding.one rfl rfl
theorem HasEncoding.laneEvery (h : Hdr) (d : BitVec 6) (a : BitVec 6) :
    HasEncoding.Statement (.laneEvery h d a) := HasEncoding.one rfl rfl
theorem HasEncoding.laneMask (h : Hdr) (d : BitVec 6) (a : BitVec 6) :
    HasEncoding.Statement (.laneMask h d a) := HasEncoding.one rfl rfl
theorem HasEncoding.laneSum (h : Hdr) (d : BitVec 6) (a : BitVec 6) :
    HasEncoding.Statement (.laneSum h d a) := HasEncoding.one rfl rfl
theorem HasEncoding.laneLeast (h : Hdr) (d : BitVec 6) (a : BitVec 6) :
    HasEncoding.Statement (.laneLeast h d a) := HasEncoding.one rfl rfl
theorem HasEncoding.laneMost (h : Hdr) (d : BitVec 6) (a : BitVec 6) :
    HasEncoding.Statement (.laneMost h d a) := HasEncoding.one rfl rfl
theorem HasEncoding.laneFsum (h : Hdr) (d : BitVec 6) (a : BitVec 6) :
    HasEncoding.Statement (.laneFsum h d a) := HasEncoding.one rfl rfl
theorem HasEncoding.laneFrom (h : Hdr) (d : BitVec 6) (a : BitVec 6) (n : BitVec 5) :
    HasEncoding.Statement (.laneFrom h d a n) := HasEncoding.one rfl rfl
theorem HasEncoding.saluSadd (h : Hdr) (d : BitVec 5) (a : BitVec 5) (b : SSrc) :
    HasEncoding.Statement (.saluSadd h d a b) := HasEncoding.scalar rfl rfl
theorem HasEncoding.saluSsub (h : Hdr) (d : BitVec 5) (a : BitVec 5) (b : SSrc) :
    HasEncoding.Statement (.saluSsub h d a b) := HasEncoding.scalar rfl rfl
theorem HasEncoding.saluSmul (h : Hdr) (d : BitVec 5) (a : BitVec 5) (b : SSrc) :
    HasEncoding.Statement (.saluSmul h d a b) := HasEncoding.scalar rfl rfl
theorem HasEncoding.saluSand (h : Hdr) (d : BitVec 5) (a : BitVec 5) (b : SSrc) :
    HasEncoding.Statement (.saluSand h d a b) := HasEncoding.scalar rfl rfl
theorem HasEncoding.saluSor (h : Hdr) (d : BitVec 5) (a : BitVec 5) (b : SSrc) :
    HasEncoding.Statement (.saluSor h d a b) := HasEncoding.scalar rfl rfl
theorem HasEncoding.saluSxor (h : Hdr) (d : BitVec 5) (a : BitVec 5) (b : SSrc) :
    HasEncoding.Statement (.saluSxor h d a b) := HasEncoding.scalar rfl rfl
theorem HasEncoding.saluSshl (h : Hdr) (d : BitVec 5) (a : BitVec 5) (b : SSrc) :
    HasEncoding.Statement (.saluSshl h d a b) := HasEncoding.scalar rfl rfl
theorem HasEncoding.saluSshr (h : Hdr) (d : BitVec 5) (a : BitVec 5) (b : SSrc) :
    HasEncoding.Statement (.saluSshr h d a b) := HasEncoding.scalar rfl rfl
theorem HasEncoding.saluSsra (h : Hdr) (d : BitVec 5) (a : BitVec 5) (b : SSrc) :
    HasEncoding.Statement (.saluSsra h d a b) := HasEncoding.scalar rfl rfl
theorem HasEncoding.saluSmin (h : Hdr) (d : BitVec 5) (a : BitVec 5) (b : SSrc) :
    HasEncoding.Statement (.saluSmin h d a b) := HasEncoding.scalar rfl rfl
theorem HasEncoding.saluSmax (h : Hdr) (d : BitVec 5) (a : BitVec 5) (b : SSrc) :
    HasEncoding.Statement (.saluSmax h d a b) := HasEncoding.scalar rfl rfl
theorem HasEncoding.saluSmov (h : Hdr) (d : BitVec 5) (a : BitVec 5) :
    HasEncoding.Statement (.saluSmov h d a) := HasEncoding.one rfl rfl
theorem HasEncoding.saluSaddc (h : Hdr) (d : BitVec 5) (a : BitVec 5) (b : SSrc) :
    HasEncoding.Statement (.saluSaddc h d a b) := HasEncoding.scalar rfl rfl
theorem HasEncoding.saluScmp (h : Hdr) (k : BitVec 2) (n : BitVec 3) (a : BitVec 5) (b : SSrc) (x : BitVec 3) :
    HasEncoding.Statement (.saluScmp h k n a b x) := HasEncoding.scalar rfl rfl
theorem HasEncoding.smovS2v (h : Hdr) (d : BitVec 6) (a : BitVec 6) :
    HasEncoding.Statement (.smovS2v h d a) := HasEncoding.one rfl rfl
theorem HasEncoding.smovV2s (h : Hdr) (d : BitVec 6) (a : BitVec 6) (n : BitVec 5) :
    HasEncoding.Statement (.smovV2s h d a n) := HasEncoding.one rfl rfl
theorem HasEncoding.grdGand (h : Hdr) (d : BitVec 3) (a : BitVec 3) (b : BitVec 3) :
    HasEncoding.Statement (.grdGand h d a b) := HasEncoding.one rfl rfl
theorem HasEncoding.grdGor (h : Hdr) (d : BitVec 3) (a : BitVec 3) (b : BitVec 3) :
    HasEncoding.Statement (.grdGor h d a b) := HasEncoding.one rfl rfl
theorem HasEncoding.grdGxor (h : Hdr) (d : BitVec 3) (a : BitVec 3) (b : BitVec 3) :
    HasEncoding.Statement (.grdGxor h d a b) := HasEncoding.one rfl rfl
theorem HasEncoding.grdGnot (h : Hdr) (d : BitVec 3) (a : BitVec 3) :
    HasEncoding.Statement (.grdGnot h d a) := HasEncoding.one rfl rfl
theorem HasEncoding.grdGmov (h : Hdr) (d : BitVec 3) (a : BitVec 3) :
    HasEncoding.Statement (.grdGmov h d a) := HasEncoding.one rfl rfl
theorem HasEncoding.grdGset (h : Hdr) (d : BitVec 3) (a : BitVec 6) (b : BitVec 5) :
    HasEncoding.Statement (.grdGset h d a b) := HasEncoding.one rfl rfl
theorem HasEncoding.grdGtov (h : Hdr) (d : BitVec 6) (a : BitVec 3) :
    HasEncoding.Statement (.grdGtov h d a) := HasEncoding.one rfl rfl
theorem HasEncoding.csrRdsr (h : Hdr) (d : BitVec 6) (a : BitVec 6) (b : BitVec 6) :
    HasEncoding.Statement (.csrRdsr h d a b) := HasEncoding.one rfl rfl
theorem HasEncoding.csrWrsr (h : Hdr) (d : BitVec 6) (a : BitVec 6) (b : BitVec 6) :
    HasEncoding.Statement (.csrWrsr h d a b) := HasEncoding.one rfl rfl
theorem HasEncoding.csrRdsrs (h : Hdr) (d : BitVec 6) (a : BitVec 6) (b : BitVec 6) :
    HasEncoding.Statement (.csrRdsrs h d a b) := HasEncoding.one rfl rfl
theorem HasEncoding.csrWrsrs (h : Hdr) (d : BitVec 6) (a : BitVec 6) (b : BitVec 6) :
    HasEncoding.Statement (.csrWrsrs h d a b) := HasEncoding.one rfl rfl
theorem HasEncoding.ldB8 (h : Hdr) (s : Bool) (d : BitVec 6) (a : BitVec 6) (o : BitVec 6) :
    HasEncoding.Statement (.ldB8 h s d a o) := HasEncoding.one rfl rfl
theorem HasEncoding.ldB8s (h : Hdr) (s : Bool) (d : BitVec 6) (a : BitVec 6) (o : BitVec 6) :
    HasEncoding.Statement (.ldB8s h s d a o) := HasEncoding.one rfl rfl
theorem HasEncoding.ldB16 (h : Hdr) (s : Bool) (d : BitVec 6) (a : BitVec 6) (o : BitVec 6) :
    HasEncoding.Statement (.ldB16 h s d a o) := HasEncoding.one rfl rfl
theorem HasEncoding.ldB16s (h : Hdr) (s : Bool) (d : BitVec 6) (a : BitVec 6) (o : BitVec 6) :
    HasEncoding.Statement (.ldB16s h s d a o) := HasEncoding.one rfl rfl
theorem HasEncoding.ldB32 (h : Hdr) (s : Bool) (d : BitVec 6) (a : BitVec 6) (o : BitVec 6) :
    HasEncoding.Statement (.ldB32 h s d a o) := HasEncoding.one rfl rfl
theorem HasEncoding.ldB64 (h : Hdr) (s : Bool) (d : BitVec 6) (a : BitVec 6) (o : BitVec 6) :
    HasEncoding.Statement (.ldB64 h s d a o) := HasEncoding.one rfl rfl
theorem HasEncoding.ldB128 (h : Hdr) (s : Bool) (d : BitVec 6) (a : BitVec 6) (o : BitVec 6) :
    HasEncoding.Statement (.ldB128 h s d a o) := HasEncoding.one rfl rfl
theorem HasEncoding.stB8 (h : Hdr) (d : BitVec 6) (a : BitVec 6) (o : BitVec 6) :
    HasEncoding.Statement (.stB8 h d a o) := HasEncoding.one rfl rfl
theorem HasEncoding.stB16 (h : Hdr) (d : BitVec 6) (a : BitVec 6) (o : BitVec 6) :
    HasEncoding.Statement (.stB16 h d a o) := HasEncoding.one rfl rfl
theorem HasEncoding.stB32 (h : Hdr) (d : BitVec 6) (a : BitVec 6) (o : BitVec 6) :
    HasEncoding.Statement (.stB32 h d a o) := HasEncoding.one rfl rfl
theorem HasEncoding.stB64 (h : Hdr) (d : BitVec 6) (a : BitVec 6) (o : BitVec 6) :
    HasEncoding.Statement (.stB64 h d a o) := HasEncoding.one rfl rfl
theorem HasEncoding.stB128 (h : Hdr) (d : BitVec 6) (a : BitVec 6) (o : BitVec 6) :
    HasEncoding.Statement (.stB128 h d a o) := HasEncoding.one rfl rfl
theorem HasEncoding.ldsB8 (h : Hdr) (d : BitVec 6) (a : BitVec 6) (o : BitVec 6) :
    HasEncoding.Statement (.ldsB8 h d a o) := HasEncoding.one rfl rfl
theorem HasEncoding.ldsB8s (h : Hdr) (d : BitVec 6) (a : BitVec 6) (o : BitVec 6) :
    HasEncoding.Statement (.ldsB8s h d a o) := HasEncoding.one rfl rfl
theorem HasEncoding.ldsB16 (h : Hdr) (d : BitVec 6) (a : BitVec 6) (o : BitVec 6) :
    HasEncoding.Statement (.ldsB16 h d a o) := HasEncoding.one rfl rfl
theorem HasEncoding.ldsB16s (h : Hdr) (d : BitVec 6) (a : BitVec 6) (o : BitVec 6) :
    HasEncoding.Statement (.ldsB16s h d a o) := HasEncoding.one rfl rfl
theorem HasEncoding.ldsB32 (h : Hdr) (d : BitVec 6) (a : BitVec 6) (o : BitVec 6) :
    HasEncoding.Statement (.ldsB32 h d a o) := HasEncoding.one rfl rfl
theorem HasEncoding.ldsB64 (h : Hdr) (d : BitVec 6) (a : BitVec 6) (o : BitVec 6) :
    HasEncoding.Statement (.ldsB64 h d a o) := HasEncoding.one rfl rfl
theorem HasEncoding.ldsB128 (h : Hdr) (d : BitVec 6) (a : BitVec 6) (o : BitVec 6) :
    HasEncoding.Statement (.ldsB128 h d a o) := HasEncoding.one rfl rfl
theorem HasEncoding.stsB8 (h : Hdr) (d : BitVec 6) (a : BitVec 6) (o : BitVec 6) :
    HasEncoding.Statement (.stsB8 h d a o) := HasEncoding.one rfl rfl
theorem HasEncoding.stsB16 (h : Hdr) (d : BitVec 6) (a : BitVec 6) (o : BitVec 6) :
    HasEncoding.Statement (.stsB16 h d a o) := HasEncoding.one rfl rfl
theorem HasEncoding.stsB32 (h : Hdr) (d : BitVec 6) (a : BitVec 6) (o : BitVec 6) :
    HasEncoding.Statement (.stsB32 h d a o) := HasEncoding.one rfl rfl
theorem HasEncoding.stsB64 (h : Hdr) (d : BitVec 6) (a : BitVec 6) (o : BitVec 6) :
    HasEncoding.Statement (.stsB64 h d a o) := HasEncoding.one rfl rfl
theorem HasEncoding.stsB128 (h : Hdr) (d : BitVec 6) (a : BitVec 6) (o : BitVec 6) :
    HasEncoding.Statement (.stsB128 h d a o) := HasEncoding.one rfl rfl
theorem HasEncoding.ldp (h : Hdr) (k : BitVec 3) (d : BitVec 6) (a : BitVec 6) (o : BitVec 6) :
    HasEncoding.Statement (.ldp h k d a o) := HasEncoding.one rfl rfl
theorem HasEncoding.ldpF32 (h : Hdr) (k : BitVec 3) (d : BitVec 6) (a : BitVec 6) (o : BitVec 6) :
    HasEncoding.Statement (.ldpF32 h k d a o) := HasEncoding.one rfl rfl
theorem HasEncoding.updAdd (h : Hdr) (d : BitVec 6) (a : BitVec 6) (o : BitVec 6) :
    HasEncoding.Statement (.updAdd h d a o) := HasEncoding.one rfl rfl
theorem HasEncoding.updFadd (h : Hdr) (d : BitVec 6) (a : BitVec 6) (o : BitVec 6) :
    HasEncoding.Statement (.updFadd h d a o) := HasEncoding.one rfl rfl
theorem HasEncoding.updMin (h : Hdr) (d : BitVec 6) (a : BitVec 6) (o : BitVec 6) :
    HasEncoding.Statement (.updMin h d a o) := HasEncoding.one rfl rfl
theorem HasEncoding.updMax (h : Hdr) (d : BitVec 6) (a : BitVec 6) (o : BitVec 6) :
    HasEncoding.Statement (.updMax h d a o) := HasEncoding.one rfl rfl
theorem HasEncoding.updMinn (h : Hdr) (d : BitVec 6) (a : BitVec 6) (o : BitVec 6) :
    HasEncoding.Statement (.updMinn h d a o) := HasEncoding.one rfl rfl
theorem HasEncoding.updMaxn (h : Hdr) (d : BitVec 6) (a : BitVec 6) (o : BitVec 6) :
    HasEncoding.Statement (.updMaxn h d a o) := HasEncoding.one rfl rfl
theorem HasEncoding.updAnd (h : Hdr) (d : BitVec 6) (a : BitVec 6) (o : BitVec 6) :
    HasEncoding.Statement (.updAnd h d a o) := HasEncoding.one rfl rfl
theorem HasEncoding.updOr (h : Hdr) (d : BitVec 6) (a : BitVec 6) (o : BitVec 6) :
    HasEncoding.Statement (.updOr h d a o) := HasEncoding.one rfl rfl
theorem HasEncoding.updXor (h : Hdr) (d : BitVec 6) (a : BitVec 6) (o : BitVec 6) :
    HasEncoding.Statement (.updXor h d a o) := HasEncoding.one rfl rfl
theorem HasEncoding.updSwap (h : Hdr) (d : BitVec 6) (a : BitVec 6) (o : BitVec 6) :
    HasEncoding.Statement (.updSwap h d a o) := HasEncoding.one rfl rfl
theorem HasEncoding.updCas (h : Hdr) (d : BitVec 6) (a : BitVec 6) (o : BitVec 6) :
    HasEncoding.Statement (.updCas h d a o) := HasEncoding.one rfl rfl
theorem HasEncoding.updAdd64 (h : Hdr) (d : BitVec 6) (a : BitVec 6) (o : BitVec 6) :
    HasEncoding.Statement (.updAdd64 h d a o) := HasEncoding.one rfl rfl
theorem HasEncoding.updSwap64 (h : Hdr) (d : BitVec 6) (a : BitVec 6) (o : BitVec 6) :
    HasEncoding.Statement (.updSwap64 h d a o) := HasEncoding.one rfl rfl
theorem HasEncoding.updCas64 (h : Hdr) (d : BitVec 6) (a : BitVec 6) (o : BitVec 6) :
    HasEncoding.Statement (.updCas64 h d a o) := HasEncoding.one rfl rfl
theorem HasEncoding.updcAdd (h : Hdr) (d : BitVec 6) (a : BitVec 6) (o : BitVec 6) :
    HasEncoding.Statement (.updcAdd h d a o) := HasEncoding.one rfl rfl
theorem HasEncoding.updcFadd (h : Hdr) (d : BitVec 6) (a : BitVec 6) (o : BitVec 6) :
    HasEncoding.Statement (.updcFadd h d a o) := HasEncoding.one rfl rfl
theorem HasEncoding.updcMin (h : Hdr) (d : BitVec 6) (a : BitVec 6) (o : BitVec 6) :
    HasEncoding.Statement (.updcMin h d a o) := HasEncoding.one rfl rfl
theorem HasEncoding.updcMax (h : Hdr) (d : BitVec 6) (a : BitVec 6) (o : BitVec 6) :
    HasEncoding.Statement (.updcMax h d a o) := HasEncoding.one rfl rfl
theorem HasEncoding.updcMinn (h : Hdr) (d : BitVec 6) (a : BitVec 6) (o : BitVec 6) :
    HasEncoding.Statement (.updcMinn h d a o) := HasEncoding.one rfl rfl
theorem HasEncoding.updcMaxn (h : Hdr) (d : BitVec 6) (a : BitVec 6) (o : BitVec 6) :
    HasEncoding.Statement (.updcMaxn h d a o) := HasEncoding.one rfl rfl
theorem HasEncoding.updcAnd (h : Hdr) (d : BitVec 6) (a : BitVec 6) (o : BitVec 6) :
    HasEncoding.Statement (.updcAnd h d a o) := HasEncoding.one rfl rfl
theorem HasEncoding.updcOr (h : Hdr) (d : BitVec 6) (a : BitVec 6) (o : BitVec 6) :
    HasEncoding.Statement (.updcOr h d a o) := HasEncoding.one rfl rfl
theorem HasEncoding.updcXor (h : Hdr) (d : BitVec 6) (a : BitVec 6) (o : BitVec 6) :
    HasEncoding.Statement (.updcXor h d a o) := HasEncoding.one rfl rfl
theorem HasEncoding.updcSwap (h : Hdr) (d : BitVec 6) (a : BitVec 6) (o : BitVec 6) :
    HasEncoding.Statement (.updcSwap h d a o) := HasEncoding.one rfl rfl
theorem HasEncoding.updcCas (h : Hdr) (d : BitVec 6) (a : BitVec 6) (o : BitVec 6) :
    HasEncoding.Statement (.updcCas h d a o) := HasEncoding.one rfl rfl
theorem HasEncoding.updcAdd64 (h : Hdr) (d : BitVec 6) (a : BitVec 6) (o : BitVec 6) :
    HasEncoding.Statement (.updcAdd64 h d a o) := HasEncoding.one rfl rfl
theorem HasEncoding.updcSwap64 (h : Hdr) (d : BitVec 6) (a : BitVec 6) (o : BitVec 6) :
    HasEncoding.Statement (.updcSwap64 h d a o) := HasEncoding.one rfl rfl
theorem HasEncoding.updcCas64 (h : Hdr) (d : BitVec 6) (a : BitVec 6) (o : BitVec 6) :
    HasEncoding.Statement (.updcCas64 h d a o) := HasEncoding.one rfl rfl
theorem HasEncoding.updnAdd (h : Hdr) (d : BitVec 6) (a : BitVec 6) (o : BitVec 6) :
    HasEncoding.Statement (.updnAdd h d a o) := HasEncoding.one rfl rfl
theorem HasEncoding.updnFadd (h : Hdr) (d : BitVec 6) (a : BitVec 6) (o : BitVec 6) :
    HasEncoding.Statement (.updnFadd h d a o) := HasEncoding.one rfl rfl
theorem HasEncoding.updnMin (h : Hdr) (d : BitVec 6) (a : BitVec 6) (o : BitVec 6) :
    HasEncoding.Statement (.updnMin h d a o) := HasEncoding.one rfl rfl
theorem HasEncoding.updnMax (h : Hdr) (d : BitVec 6) (a : BitVec 6) (o : BitVec 6) :
    HasEncoding.Statement (.updnMax h d a o) := HasEncoding.one rfl rfl
theorem HasEncoding.updnMinn (h : Hdr) (d : BitVec 6) (a : BitVec 6) (o : BitVec 6) :
    HasEncoding.Statement (.updnMinn h d a o) := HasEncoding.one rfl rfl
theorem HasEncoding.updnMaxn (h : Hdr) (d : BitVec 6) (a : BitVec 6) (o : BitVec 6) :
    HasEncoding.Statement (.updnMaxn h d a o) := HasEncoding.one rfl rfl
theorem HasEncoding.updnAnd (h : Hdr) (d : BitVec 6) (a : BitVec 6) (o : BitVec 6) :
    HasEncoding.Statement (.updnAnd h d a o) := HasEncoding.one rfl rfl
theorem HasEncoding.updnOr (h : Hdr) (d : BitVec 6) (a : BitVec 6) (o : BitVec 6) :
    HasEncoding.Statement (.updnOr h d a o) := HasEncoding.one rfl rfl
theorem HasEncoding.updnXor (h : Hdr) (d : BitVec 6) (a : BitVec 6) (o : BitVec 6) :
    HasEncoding.Statement (.updnXor h d a o) := HasEncoding.one rfl rfl
theorem HasEncoding.memFenceHost (h : Hdr) :
    HasEncoding.Statement (.memFenceHost h) := HasEncoding.one rfl rfl
theorem HasEncoding.memFencePeer (h : Hdr) :
    HasEncoding.Statement (.memFencePeer h) := HasEncoding.one rfl rfl
theorem HasEncoding.memFenceSys (h : Hdr) :
    HasEncoding.Statement (.memFenceSys h) := HasEncoding.one rfl rfl
theorem HasEncoding.memPref (h : Hdr) (a : BitVec 6) (o : BitVec 6) :
    HasEncoding.Statement (.memPref h a o) := HasEncoding.one rfl rfl
theorem HasEncoding.memBpref (h : Hdr) (d : BitVec 6) (n : BitVec 4) :
    HasEncoding.Statement (.memBpref h d n) := HasEncoding.one rfl rfl
theorem HasEncoding.monWaitcEq (h : Hdr) (d : BitVec 6) (a : BitVec 6) (o : BitVec 6) :
    HasEncoding.Statement (.monWaitcEq h d a o) := HasEncoding.one rfl rfl
theorem HasEncoding.monWaitcNe (h : Hdr) (d : BitVec 6) (a : BitVec 6) (o : BitVec 6) :
    HasEncoding.Statement (.monWaitcNe h d a o) := HasEncoding.one rfl rfl
theorem HasEncoding.monWaitcLt (h : Hdr) (d : BitVec 6) (a : BitVec 6) (o : BitVec 6) :
    HasEncoding.Statement (.monWaitcLt h d a o) := HasEncoding.one rfl rfl
theorem HasEncoding.monWaitcGe (h : Hdr) (d : BitVec 6) (a : BitVec 6) (o : BitVec 6) :
    HasEncoding.Statement (.monWaitcGe h d a o) := HasEncoding.one rfl rfl
theorem HasEncoding.monWaitcLtn (h : Hdr) (d : BitVec 6) (a : BitVec 6) (o : BitVec 6) :
    HasEncoding.Statement (.monWaitcLtn h d a o) := HasEncoding.one rfl rfl
theorem HasEncoding.monWaitcGen (h : Hdr) (d : BitVec 6) (a : BitVec 6) (o : BitVec 6) :
    HasEncoding.Statement (.monWaitcGen h d a o) := HasEncoding.one rfl rfl
theorem HasEncoding.monWaitcChg (h : Hdr) (a : BitVec 6) (o : BitVec 6) :
    HasEncoding.Statement (.monWaitcChg h a o) := HasEncoding.one rfl rfl
theorem HasEncoding.barInit (h : Hdr) (k : BitVec 10) (n : BitVec 4) :
    HasEncoding.Statement (.barInit h k n) := HasEncoding.one rfl rfl
theorem HasEncoding.barInitX (h : Hdr) (k : BitVec 10) (n : BitVec 4) :
    HasEncoding.Statement (.barInitX h k n) := HasEncoding.one rfl rfl
theorem HasEncoding.barArr (h : Hdr) (n : BitVec 4) :
    HasEncoding.Statement (.barArr h n) := HasEncoding.one rfl rfl
theorem HasEncoding.barDrop (h : Hdr) (n : BitVec 4) :
    HasEncoding.Statement (.barDrop h n) := HasEncoding.one rfl rfl
theorem HasEncoding.barWait (h : Hdr) (n : BitVec 4) :
    HasEncoding.Statement (.barWait h n) := HasEncoding.one rfl rfl
theorem HasEncoding.barTest (h : Hdr) (m : BitVec 3) (n : BitVec 4) :
    HasEncoding.Statement (.barTest h m n) := HasEncoding.one rfl rfl
theorem HasEncoding.barInval (h : Hdr) (m : BitVec 3) (n : BitVec 4) :
    HasEncoding.Statement (.barInval h m n) := HasEncoding.one rfl rfl
theorem HasEncoding.barArrw (h : Hdr) (n : BitVec 4) :
    HasEncoding.Statement (.barArrw h n) := HasEncoding.one rfl rfl
theorem HasEncoding.musSet (h : Hdr) (k : BitVec 11) (n : BitVec 3) :
    HasEncoding.Statement (.musSet h k n) := HasEncoding.one rfl rfl
theorem HasEncoding.musClr (h : Hdr) (n : BitVec 3) :
    HasEncoding.Statement (.musClr h n) := HasEncoding.one rfl rfl
theorem HasEncoding.ringInit (h : Hdr) (d : BitVec 4) (n : BitVec 3) :
    HasEncoding.Statement (.ringInit h d n) := HasEncoding.one rfl rfl
theorem HasEncoding.ringAcq (h : Hdr) (k : BitVec 5) (n : BitVec 3) :
    HasEncoding.Statement (.ringAcq h k n) := HasEncoding.one rfl rfl
theorem HasEncoding.ringRel (h : Hdr) (k : BitVec 5) (n : BitVec 3) :
    HasEncoding.Statement (.ringRel h k n) := HasEncoding.one rfl rfl
theorem HasEncoding.ringTake (h : Hdr) (k : BitVec 5) (n : BitVec 3) :
    HasEncoding.Statement (.ringTake h k n) := HasEncoding.one rfl rfl
theorem HasEncoding.ringFree (h : Hdr) (k : BitVec 5) (n : BitVec 3) :
    HasEncoding.Statement (.ringFree h k n) := HasEncoding.one rfl rfl
theorem HasEncoding.futFinit (h : Hdr) (a : BitVec 6) (o : BitVec 6) :
    HasEncoding.Statement (.futFinit h a o) := HasEncoding.one rfl rfl
theorem HasEncoding.futFput (h : Hdr) (d : BitVec 6) (a : BitVec 6) (o : BitVec 6) :
    HasEncoding.Statement (.futFput h d a o) := HasEncoding.one rfl rfl
theorem HasEncoding.futFget (h : Hdr) (d : BitVec 6) (a : BitVec 6) (o : BitVec 6) :
    HasEncoding.Statement (.futFget h d a o) := HasEncoding.one rfl rfl
theorem HasEncoding.futFpoll (h : Hdr) (d : BitVec 3) (a : BitVec 6) (o : BitVec 6) :
    HasEncoding.Statement (.futFpoll h d a o) := HasEncoding.one rfl rfl
theorem HasEncoding.cpyMm (h : Hdr) (z : BitVec 2) (d : BitVec 6) (a : BitVec 6) (b : BitVec 4) :
    HasEncoding.Statement (.cpyMm h z d a b) := HasEncoding.one rfl rfl
theorem HasEncoding.cpyMs (h : Hdr) (z : BitVec 2) (d : BitVec 6) (a : BitVec 6) (b : BitVec 4) :
    HasEncoding.Statement (.cpyMs h z d a b) := HasEncoding.one rfl rfl
theorem HasEncoding.cpySm (h : Hdr) (z : BitVec 2) (d : BitVec 6) (a : BitVec 6) (b : BitVec 4) :
    HasEncoding.Statement (.cpySm h z d a b) := HasEncoding.one rfl rfl
theorem HasEncoding.cpySs (h : Hdr) (z : BitVec 2) (d : BitVec 6) (a : BitVec 6) (b : BitVec 4) :
    HasEncoding.Statement (.cpySs h z d a b) := HasEncoding.one rfl rfl
theorem HasEncoding.tcpySp (h : Hdr) (r : Bool) (q : BitVec 3) (b : BitVec 4) (n : BitVec 5) :
    HasEncoding.Statement (.tcpySp h r q b n) := HasEncoding.one rfl rfl
theorem HasEncoding.tcpyOa (h : Hdr) (r : Bool) (q : BitVec 3) (b : BitVec 4) (n : BitVec 5) (x : BitVec 2) :
    HasEncoding.Statement (.tcpyOa h r q b n x) := HasEncoding.one rfl rfl
theorem HasEncoding.tcpyWb (h : Hdr) (r : Bool) (q : BitVec 3) (b : BitVec 4) (n : BitVec 5) (x : BitVec 2) :
    HasEncoding.Statement (.tcpyWb h r q b n x) := HasEncoding.one rfl rfl
theorem HasEncoding.tcpySt (h : Hdr) (r : Bool) (q : BitVec 3) (b : BitVec 4) (n : BitVec 5) :
    HasEncoding.Statement (.tcpySt h r q b n) := HasEncoding.one rfl rfl
theorem HasEncoding.tcpyGath (h : Hdr) (r : Bool) (q : BitVec 3) (b : BitVec 4) (n : BitVec 5) :
    HasEncoding.Statement (.tcpyGath h r q b n) := HasEncoding.one rfl rfl
theorem HasEncoding.tcpyScat (h : Hdr) (r : Bool) (q : BitVec 3) (b : BitVec 4) (n : BitVec 5) :
    HasEncoding.Statement (.tcpyScat h r q b n) := HasEncoding.one rfl rfl
theorem HasEncoding.tcpyZero (h : Hdr) (r : Bool) (q : BitVec 3) (n : BitVec 5) :
    HasEncoding.Statement (.tcpyZero h r q n) := HasEncoding.one rfl rfl
theorem HasEncoding.seal (h : Hdr) (m : BitVec 3) (k : BitVec 5) :
    HasEncoding.Statement (.seal h m k) := HasEncoding.one rfl rfl
theorem HasEncoding.unseal (h : Hdr) (k : BitVec 5) :
    HasEncoding.Statement (.unseal h k) := HasEncoding.one rfl rfl
theorem HasEncoding.mma (h : Hdr) (x : Bool) (y : Bool) (t : BitVec 2) (o : BitVec 2) (w : BitVec 2) (m : BitVec 3) (b : BitVec 4) (e : BitVec 5) :
    HasEncoding.Statement (.mma h x y t o w m b e) := HasEncoding.one rfl rfl
theorem HasEncoding.mmaz (h : Hdr) (x : Bool) (y : Bool) (t : BitVec 2) (o : BitVec 2) (w : BitVec 2) (m : BitVec 3) (b : BitVec 4) (e : BitVec 5) :
    HasEncoding.Statement (.mmaz h x y t o w m b e) := HasEncoding.one rfl rfl
theorem HasEncoding.mmag (h : Hdr) (x : Bool) (y : Bool) (t : BitVec 2) (o : BitVec 2) (w : BitVec 2) (m : BitVec 3) (b : BitVec 4) (e : BitVec 5) (lists : Word) :
    HasEncoding.Statement (.mmag h x y t o w m b e lists) := HasEncoding.two rfl rfl
theorem HasEncoding.mmagz (h : Hdr) (x : Bool) (y : Bool) (t : BitVec 2) (o : BitVec 2) (w : BitVec 2) (m : BitVec 3) (b : BitVec 4) (e : BitVec 5) (lists : Word) :
    HasEncoding.Statement (.mmagz h x y t o w m b e lists) := HasEncoding.two rfl rfl
theorem HasEncoding.taccTzero (h : Hdr) (t : BitVec 2) :
    HasEncoding.Statement (.taccTzero h t) := HasEncoding.one rfl rfl
theorem HasEncoding.taccTstSp (h : Hdr) (b : BitVec 4) (n : BitVec 5) (t : BitVec 2) :
    HasEncoding.Statement (.taccTstSp h b n t) := HasEncoding.one rfl rfl
theorem HasEncoding.taccTstMem (h : Hdr) (b : BitVec 4) (n : BitVec 5) (t : BitVec 2) :
    HasEncoding.Statement (.taccTstMem h b n t) := HasEncoding.one rfl rfl
theorem HasEncoding.taccTld (h : Hdr) (b : BitVec 4) (n : BitVec 5) (t : BitVec 2) :
    HasEncoding.Statement (.taccTld h b n t) := HasEncoding.one rfl rfl
theorem HasEncoding.taccTscale (h : Hdr) (x : Bool) (k : BitVec 5) (t : BitVec 2) :
    HasEncoding.Statement (.taccTscale h x k t) := HasEncoding.one rfl rfl
theorem HasEncoding.taccTbias (h : Hdr) (k : BitVec 5) (t : BitVec 2) :
    HasEncoding.Statement (.taccTbias h k t) := HasEncoding.one rfl rfl
theorem HasEncoding.qntPi8 (h : Hdr) (d : BitVec 6) (a : BitVec 6) :
    HasEncoding.Statement (.qntPi8 h d a) := HasEncoding.one rfl rfl
theorem HasEncoding.qntE2m1 (h : Hdr) (d : BitVec 6) (a : BitVec 6) :
    HasEncoding.Statement (.qntE2m1 h d a) := HasEncoding.one rfl rfl
theorem HasEncoding.taskSpawn (h : Hdr) (e : BitVec 5) (k : BitVec 5) :
    HasEncoding.Statement (.taskSpawn h e k) := HasEncoding.one rfl rfl
theorem HasEncoding.taskLaunch (h : Hdr) (e : BitVec 5) (k : BitVec 5) :
    HasEncoding.Statement (.taskLaunch h e k) := HasEncoding.one rfl rfl
theorem HasEncoding.arenaNew (h : Hdr) (e : BitVec 5) (k : BitVec 5) :
    HasEncoding.Statement (.arenaNew h e k) := HasEncoding.one rfl rfl
theorem HasEncoding.arenaEnd (h : Hdr) (k : BitVec 5) :
    HasEncoding.Statement (.arenaEnd h k) := HasEncoding.one rfl rfl
theorem HasEncoding.arenaChk (h : Hdr) (m : BitVec 3) (k : BitVec 5) :
    HasEncoding.Statement (.arenaChk h m k) := HasEncoding.one rfl rfl
theorem HasEncoding.bsnDef (h : Hdr) (k : BitVec 5) :
    HasEncoding.Statement (.bsnDef h k) := HasEncoding.one rfl rfl
theorem HasEncoding.bsnResize (h : Hdr) (b : BitVec 4) (k : BitVec 5) :
    HasEncoding.Statement (.bsnResize h b k) := HasEncoding.one rfl rfl
theorem HasEncoding.bsnDrop (h : Hdr) (b : BitVec 4) (k : BitVec 5) :
    HasEncoding.Statement (.bsnDrop h b k) := HasEncoding.one rfl rfl
theorem HasEncoding.bsnStat (h : Hdr) (e : BitVec 5) (k : BitVec 5) :
    HasEncoding.Statement (.bsnStat h e k) := HasEncoding.one rfl rfl
theorem HasEncoding.pgBsn (h : Hdr) (b : BitVec 4) (i : BitVec 4) (k : BitVec 5) :
    HasEncoding.Statement (.pgBsn h b i k) := HasEncoding.one rfl rfl
theorem HasEncoding.tsysInvVa (h : Hdr) (k : BitVec 5) :
    HasEncoding.Statement (.tsysInvVa h k) := HasEncoding.one rfl rfl
theorem HasEncoding.tsysInvAll (h : Hdr) :
    HasEncoding.Statement (.tsysInvAll h) := HasEncoding.one rfl rfl
theorem HasEncoding.tsysWqpop (h : Hdr) (m : BitVec 3) (d : BitVec 6) :
    HasEncoding.Statement (.tsysWqpop h m d) := HasEncoding.one rfl rfl
theorem HasEncoding.tsysWqdone (h : Hdr) (d : BitVec 6) :
    HasEncoding.Statement (.tsysWqdone h d) := HasEncoding.one rfl rfl
theorem HasEncoding.tsysPtld (h : Hdr) (a : BitVec 6) (d : BitVec 6) :
    HasEncoding.Statement (.tsysPtld h a d) := HasEncoding.one rfl rfl
theorem HasEncoding.tsysFrmTake (h : Hdr) (z : Bool) (m : BitVec 3) (d : BitVec 6) :
    HasEncoding.Statement (.tsysFrmTake h z m d) := HasEncoding.one rfl rfl
theorem HasEncoding.tsysFrmGive (h : Hdr) (z : Bool) (a : BitVec 6) :
    HasEncoding.Statement (.tsysFrmGive h z a) := HasEncoding.one rfl rfl
theorem HasEncoding.tsysMzero (h : Hdr) (z : Bool) (a : BitVec 6) :
    HasEncoding.Statement (.tsysMzero h z a) := HasEncoding.one rfl rfl
theorem HasEncoding.tsysMcopy (h : Hdr) (z : Bool) (a : BitVec 6) (d : BitVec 6) :
    HasEncoding.Statement (.tsysMcopy h z a d) := HasEncoding.one rfl rfl
theorem HasEncoding.tsysMeterRd (h : Hdr) (e : BitVec 5) (k : BitVec 5) :
    HasEncoding.Statement (.tsysMeterRd h e k) := HasEncoding.one rfl rfl
theorem HasEncoding.tsysPsaveDone (h : Hdr) :
    HasEncoding.Statement (.tsysPsaveDone h) := HasEncoding.one rfl rfl
theorem HasEncoding.tsysFaultPost (h : Hdr) (d : BitVec 6) :
    HasEncoding.Statement (.tsysFaultPost h d) := HasEncoding.one rfl rfl
theorem HasEncoding.performLoad (a : Nat) :
    HasEncoding.Statement (.performLoad a) := HasEncoding.step rfl rfl
theorem HasEncoding.renew (a : Nat) :
    HasEncoding.Statement (.renew a) := HasEncoding.step rfl rfl
theorem HasEncoding.streamLoad (a : Nat) :
    HasEncoding.Statement (.streamLoad a) := HasEncoding.step rfl rfl
theorem HasEncoding.prefetch (a : Nat) :
    HasEncoding.Statement (.prefetch a) := HasEncoding.step rfl rfl
theorem HasEncoding.baseDieAccess (a : Nat) :
    HasEncoding.Statement (.baseDieAccess a) := HasEncoding.step rfl rfl
theorem HasEncoding.performStore (a : Nat) :
    HasEncoding.Statement (.performStore a) := HasEncoding.step rfl rfl
theorem HasEncoding.performAtomic (a : Nat) (excl : Bool) :
    HasEncoding.Statement (.performAtomic a excl) := HasEncoding.step rfl rfl
theorem HasEncoding.recall (k : HomeKey) :
    HasEncoding.Statement (.recall k) := HasEncoding.step rfl rfl
theorem HasEncoding.land (x : Nat) :
    HasEncoding.Statement (.land x) := HasEncoding.step rfl rfl
theorem HasEncoding.spAccess (a : Nat) :
    HasEncoding.Statement (.spAccess a) := HasEncoding.step rfl rfl
theorem HasEncoding.enqueueHost (a : Nat) :
    HasEncoding.Statement (.enqueueHost a) := HasEncoding.step rfl rfl
theorem HasEncoding.enqueuePeer (a : Nat) :
    HasEncoding.Statement (.enqueuePeer a) := HasEncoding.step rfl rfl
theorem HasEncoding.drainHost (grp : Nat) :
    HasEncoding.Statement (.drainHost grp) := HasEncoding.step rfl rfl
theorem HasEncoding.drainPeer (grp : Nat) (peer : Nat) :
    HasEncoding.Statement (.drainPeer grp peer) := HasEncoding.step rfl rfl
theorem HasEncoding.readHost (a : Nat) :
    HasEncoding.Statement (.readHost a) := HasEncoding.step rfl rfl
theorem HasEncoding.readPeer (a : Nat) :
    HasEncoding.Statement (.readPeer a) := HasEncoding.step rfl rfl
theorem HasEncoding.wake (m : Nat) :
    HasEncoding.Statement (.wake m) := HasEncoding.step rfl rfl
theorem HasEncoding.signal (sg : Nat) :
    HasEncoding.Statement (.signal sg) := HasEncoding.step rfl rfl
theorem HasEncoding.tick (grp : Nat) :
    HasEncoding.Statement (.tick grp) := HasEncoding.step rfl rfl
theorem HasEncoding.recover (k : HomeKey) :
    HasEncoding.Statement (.recover k) := HasEncoding.step rfl rfl
theorem HasEncoding.loadWriteback (wd : Nat) :
    HasEncoding.Statement (.loadWriteback wd) := HasEncoding.step rfl rfl
theorem HasEncoding.flashData (a : Nat) :
    HasEncoding.Statement (.flashData a) := HasEncoding.step rfl rfl
theorem HasEncoding.remoteErrorCompletion (a : Nat) :
    HasEncoding.Statement (.remoteErrorCompletion a) := HasEncoding.step rfl rfl
theorem HasEncoding.pendingCauseDelivery (core : Nat) :
    HasEncoding.Statement (.pendingCauseDelivery core) := HasEncoding.step rfl rfl
theorem HasEncoding.atsCompletion (rq : Nat) (ans : AtsAnswer) :
    HasEncoding.Statement (.atsCompletion rq ans) := HasEncoding.step rfl rfl
theorem HasEncoding.priResponse (rq : Nat) (ok : Bool) :
    HasEncoding.Statement (.priResponse rq ok) := HasEncoding.step rfl rfl
theorem HasEncoding.atsInvalidation (vf : Nat) (page : Nat) (count : Nat) :
    HasEncoding.Statement (.atsInvalidation vf page count) := HasEncoding.step rfl rfl
theorem HasEncoding.invalidationCompletion (iv : Nat) :
    HasEncoding.Statement (.invalidationCompletion iv) := HasEncoding.step rfl rfl
theorem HasEncoding.strokeStep (x : Nat) :
    HasEncoding.Statement (.strokeStep x) := HasEncoding.step rfl rfl
theorem HasEncoding.monitorPoll (m : Nat) :
    HasEncoding.Statement (.monitorPoll m) := HasEncoding.step rfl rfl
theorem HasEncoding.rotation (grp : Nat) :
    HasEncoding.Statement (.rotation grp) := HasEncoding.step rfl rfl
theorem HasEncoding.binDraw (crew : Nat) (bin : Nat) :
    HasEncoding.Statement (.binDraw crew bin) := HasEncoding.step rfl rfl
theorem HasEncoding.placement (tn : Nat) (die : Nat) :
    HasEncoding.Statement (.placement tn die) := HasEncoding.step rfl rfl
theorem HasEncoding.steal (tn : Nat) (die : Nat) :
    HasEncoding.Statement (.steal tn die) := HasEncoding.step rfl rfl
theorem HasEncoding.poolAgeLimit (tn : Nat) (die : Nat) :
    HasEncoding.Statement (.poolAgeLimit tn die) := HasEncoding.step rfl rfl
theorem HasEncoding.swapOut (grp : Nat) :
    HasEncoding.Statement (.swapOut grp) := HasEncoding.step rfl rfl
theorem HasEncoding.swapIn (grp : Nat) :
    HasEncoding.Statement (.swapIn grp) := HasEncoding.step rfl rfl
theorem HasEncoding.nodeRetire (nd : Nat) :
    HasEncoding.Statement (.nodeRetire nd) := HasEncoding.step rfl rfl
theorem HasEncoding.arenaDeath (tn : Nat) (slot : Nat) :
    HasEncoding.Statement (.arenaDeath tn slot) := HasEncoding.step rfl rfl
theorem HasEncoding.resizeLineMove (k : HomeKey) :
    HasEncoding.Statement (.resizeLineMove k) := HasEncoding.step rfl rfl
theorem HasEncoding.bsnDropComplete (x : Nat) :
    HasEncoding.Statement (.bsnDropComplete x) := HasEncoding.step rfl rfl
theorem HasEncoding.pgBsnComplete (x : Nat) :
    HasEncoding.Statement (.pgBsnComplete x) := HasEncoding.step rfl rfl
theorem HasEncoding.frameWorkComplete (x : Nat) :
    HasEncoding.Statement (.frameWorkComplete x) := HasEncoding.step rfl rfl
theorem HasEncoding.bprefComplete (x : Nat) :
    HasEncoding.Statement (.bprefComplete x) := HasEncoding.step rfl rfl
theorem HasEncoding.serviceRestart (grp : Nat) :
    HasEncoding.Statement (.serviceRestart grp) := HasEncoding.step rfl rfl
theorem HasEncoding.saveHandlerEntry (crew : Nat) :
    HasEncoding.Statement (.saveHandlerEntry crew) := HasEncoding.step rfl rfl
theorem HasEncoding.saveDeadline (crew : Nat) :
    HasEncoding.Statement (.saveDeadline crew) := HasEncoding.step rfl rfl
theorem HasEncoding.timeQuantum (tn : Nat) (crews : List Nat) :
    HasEncoding.Statement (.timeQuantum tn crews) := HasEncoding.step rfl rfl
theorem HasEncoding.create (d : PartDesc) :
    HasEncoding.Statement (.create d) := HasEncoding.step rfl rfl
theorem HasEncoding.teardown (tn : Nat) :
    HasEncoding.Statement (.teardown tn) := HasEncoding.step rfl rfl
theorem HasEncoding.quadReturn (tn : Nat) (quad : Nat) :
    HasEncoding.Statement (.quadReturn tn quad) := HasEncoding.step rfl rfl
theorem HasEncoding.bankReturn (tn : Nat) (bank : Nat) :
    HasEncoding.Statement (.bankReturn tn bank) := HasEncoding.step rfl rfl
theorem HasEncoding.frameReturn (tn : Nat) (frame : Nat) :
    HasEncoding.Statement (.frameReturn tn frame) := HasEncoding.step rfl rfl
theorem HasEncoding.preempt (tn : Nat) (crews : List Nat) :
    HasEncoding.Statement (.preempt tn crews) := HasEncoding.step rfl rfl
theorem HasEncoding.halt (tn : Nat) (code : BitVec 13) :
    HasEncoding.Statement (.halt tn code) := HasEncoding.step rfl rfl
theorem HasEncoding.inspect (tn : Nat) :
    HasEncoding.Statement (.inspect tn) := HasEncoding.step rfl rfl
theorem HasEncoding.grant (gr : Grant) :
    HasEncoding.Statement (.grant gr) := HasEncoding.step rfl rfl
theorem HasEncoding.revoke (gr : Grant) :
    HasEncoding.Statement (.revoke gr) := HasEncoding.step rfl rfl
theorem HasEncoding.grantWithdrawn (gr : Grant) :
    HasEncoding.Statement (.grantWithdrawn gr) := HasEncoding.step rfl rfl
theorem HasEncoding.setcap (watts : Nat) :
    HasEncoding.Statement (.setcap watts) := HasEncoding.step rfl rfl
theorem HasEncoding.usageInterval (tn : Nat) :
    HasEncoding.Statement (.usageInterval tn) := HasEncoding.step rfl rfl
theorem HasEncoding.recordRelease (tn : Nat) :
    HasEncoding.Statement (.recordRelease tn) := HasEncoding.step rfl rfl
theorem HasEncoding.hostWindowRead (vf : Nat) (off : Nat) (len : Nat) :
    HasEncoding.Statement (.hostWindowRead vf off len) := HasEncoding.step rfl rfl
theorem HasEncoding.hostWindowWrite (vf : Nat) (off : Nat) (data : List Byte) :
    HasEncoding.Statement (.hostWindowWrite vf off data) := HasEncoding.step rfl rfl
theorem HasEncoding.peerRequest (rq : PeerReq) :
    HasEncoding.Statement (.peerRequest rq) := HasEncoding.step rfl rfl
theorem HasEncoding.mplLinkFail (port : Nat) :
    HasEncoding.Statement (.mplLinkFail port) := HasEncoding.step rfl rfl
theorem HasEncoding.peerRouteTimeout (peer : Nat) :
    HasEncoding.Statement (.peerRouteTimeout peer) := HasEncoding.step rfl rfl
theorem HasEncoding.ideIntegrityFail (fn : Nat) :
    HasEncoding.Statement (.ideIntegrityFail fn) := HasEncoding.step rfl rfl
theorem HasEncoding.attestation (fn : Nat) (nonce : BitVec 256) :
    HasEncoding.Statement (.attestation fn nonce) := HasEncoding.step rfl rfl
theorem HasEncoding.powerOn (boot : Boot) :
    HasEncoding.Statement (.powerOn boot) := HasEncoding.step rfl rfl
theorem HasEncoding.emergencyHalt (why : Limit) :
    HasEncoding.Statement (.emergencyHalt why) := HasEncoding.step rfl rfl
theorem HasEncoding.thermalThrottle (why : Limit) :
    HasEncoding.Statement (.thermalThrottle why) := HasEncoding.step rfl rfl
theorem HasEncoding.correctedError (at_ : Place) :
    HasEncoding.Statement (.correctedError at_) := HasEncoding.step rfl rfl
theorem HasEncoding.uncorrectedError (at_ : Place) :
    HasEncoding.Statement (.uncorrectedError at_) := HasEncoding.step rfl rfl
theorem HasEncoding.crewFailure (crew : Nat) :
    HasEncoding.Statement (.crewFailure crew) := HasEncoding.step rfl rfl
theorem HasEncoding.coreRetire (core : Nat) :
    HasEncoding.Statement (.coreRetire core) := HasEncoding.step rfl rfl
theorem HasEncoding.bankRetire (bank : Nat) :
    HasEncoding.Statement (.bankRetire bank) := HasEncoding.step rfl rfl
theorem HasEncoding.fflagsWrite (grp : Nat) :
    HasEncoding.Statement (.fflagsWrite grp) := HasEncoding.step rfl rfl
theorem HasEncoding.ptrootWrite (grp : Nat) :
    HasEncoding.Statement (.ptrootWrite grp) := HasEncoding.step rfl rfl
theorem HasEncoding.awindowWrite (grp : Nat) :
    HasEncoding.Statement (.awindowWrite grp) := HasEncoding.step rfl rfl
theorem HasEncoding.thrashWrite (grp : Nat) :
    HasEncoding.Statement (.thrashWrite grp) := HasEncoding.step rfl rfl
theorem HasEncoding.csrWrite (grp : Nat) :
    HasEncoding.Statement (.csrWrite grp) := HasEncoding.step rfl rfl
theorem HasEncoding.illegalEnc (core : Nat) :
    HasEncoding.Statement (.illegalEnc core) := HasEncoding.step rfl rfl
theorem HasEncoding.illegalPacket (core : Nat) :
    HasEncoding.Statement (.illegalPacket core) := HasEncoding.step rfl rfl
theorem HasEncoding.instructionFetch (core : Nat) :
    HasEncoding.Statement (.instructionFetch core) := HasEncoding.step rfl rfl
theorem HasEncoding.taccComplete (x : Nat) :
    HasEncoding.Statement (.taccComplete x) := HasEncoding.step rfl rfl
theorem HasEncoding.thrashThrottleEnd (tn : Nat) (page : Nat) :
    HasEncoding.Statement (.thrashThrottleEnd tn page) := HasEncoding.step rfl rfl
theorem HasEncoding.lostFlitRetry (port : Nat) :
    HasEncoding.Statement (.lostFlitRetry port) := HasEncoding.step rfl rfl

end Sys2Proof.Laws
end

