-- ==== Sys2Proof/Laws/Registers.lean ====
section
/-!
SUPPORT. What the register operations of a group do, in terms of its readers: one lemma for each writer and reader, and
the shared issue of a word.
-/

namespace Sys2Proof.Machine

open Sys2Proof

/-! ## Masks -/

theorem mem_lanesOf (m : Mask) (l : Nat) : l ∈ lanesOf m ↔ l < 32 ∧ inMask m l = true := by
  simp [lanesOf, lanes]

theorem inMask_ge (m : Mask) (l : Nat) (h : 32 ≤ l) : inMask m l = false := BitVec.getLsbD_of_ge m l h

theorem inMask_and (m n : Mask) (l : Nat) : inMask (m &&& n) l = (inMask m l && inMask n l) := BitVec.getLsbD_and ..

theorem inMask_or (m n : Mask) (l : Nat) : inMask (m ||| n) l = (inMask m l || inMask n l) := BitVec.getLsbD_or ..

theorem inMask_xor (m n : Mask) (l : Nat) : inMask (m ^^^ n) l = (inMask m l != inMask n l) := by
  simp [inMask]

theorem inMask_not (m : Mask) (l : Nat) (h : l < 32) : inMask (~~~m) l = !inMask m l := by
  simp [inMask, h]

theorem inMask_allOnes (l : Nat) (h : l < 32) : inMask (BitVec.allOnes 32) l = true := by
  rw [inMask, BitVec.getLsbD_allOnes]; simp [h]

theorem inMask_zero (l : Nat) : inMask 0 l = false := by simp [inMask]

/-- Two masks with the same lanes are equal. -/
theorem mask_ext (m n : Mask) (h : ∀ l, l < 32 → inMask m l = inMask n l) : m = n :=
  BitVec.eq_of_getLsbD_eq fun l hl => h l hl

/-- A mask that is not empty has a lane. -/
theorem exists_lane (m : Mask) (h : m ≠ 0) : ∃ l, l < 32 ∧ inMask m l = true := by
  by_contra hc
  refine h (mask_ext m 0 fun l hl => ?_)
  rw [inMask_zero]
  by_contra hl'
  exact hc ⟨l, hl, by simpa using hl'⟩

/-- The number that `maskOf` sums for the first `n` lanes, and its bits. -/
theorem sumBits (p : Nat → Bool) (n : Nat) :
    ((List.range n).filter p).foldl (fun a l => a + 2 ^ l) 0 < 2 ^ n ∧
      ∀ l, Nat.testBit (((List.range n).filter p).foldl (fun a l => a + 2 ^ l) 0) l = (decide (l < n) && p l) := by
  induction n with
  | zero => simp
  | succ n ih =>
    obtain ⟨hlt, hb⟩ := ih
    rw [List.range_succ, List.filter_append, List.foldl_append]
    generalize ((List.range n).filter p).foldl (fun a l => a + 2 ^ l) 0 = x at hlt hb
    by_cases hp : p n = true
    · simp only [List.filter_cons, hp, if_true, List.filter_nil, List.foldl_cons, List.foldl_nil]
      refine ⟨by rw [Nat.pow_succ]; omega, fun l => ?_⟩
      rw [Nat.add_comm]
      rcases Nat.lt_trichotomy l n with h | h | h
      · rw [Nat.testBit_two_pow_add_gt h, hb]
        simp [h, Nat.lt_succ_of_lt h]
      · subst h
        rw [Nat.testBit_two_pow_add_eq, hb]
        simp [hp]
      · rw [Nat.testBit_lt_two_pow (Nat.lt_of_lt_of_le (by omega) (Nat.pow_le_pow_right (by omega) h : 2 ^ (n + 1) ≤ 2 ^ l))]
        have : ¬ l < n + 1 := by omega
        simp [this]
    · simp only [List.filter_cons, hp, List.filter_nil]
      refine ⟨by rw [Nat.pow_succ]; simp; omega, fun l => ?_⟩
      simp only [Bool.false_eq_true, if_false, List.foldl_nil, hb]
      by_cases hl : l = n
      · subst hl; simp [hp]
      · have : decide (l < n + 1) = decide (l < n) := by simp; omega
        rw [this]

/-- `maskOf` holds the lanes that satisfy the predicate. -/
theorem inMask_maskOf (p : Nat → Bool) (l : Nat) (h : l < 32) : inMask (maskOf p) l = p l := by
  have hs := (sumBits p 32).2 l
  simp only [inMask, maskOf, lanes, BitVec.getLsbD_ofNat, hs]
  simp [h]

theorem lanesOf_zero : lanesOf 0 = [] := by
  unfold lanesOf
  exact List.filter_eq_nil_iff.2 fun l _ => by rw [inMask_zero]; simp

/-! ## Vector registers -/

/-- A fold of writes at the places of a register, read at one place. -/
theorem foldl_set_get (r : SMap 32) (ls : List Nat) (n : Nat) (f : Nat → Word) (j : Nat) (hn : ∀ l ∈ ls, l < 32) :
    SMap.get (ls.foldl (fun r l => r.set (32 * n + l) (f l)) r) j =
      if j / 32 = n ∧ j % 32 ∈ ls then f (j % 32) else r.get j := by
  induction ls generalizing r with
  | nil => simp
  | cons a t ih =>
    rw [List.foldl_cons, ih _ fun l hl => hn l (by simp [hl])]
    have ha := hn a (by simp)
    by_cases hj : j / 32 = n ∧ j % 32 ∈ t
    · rw [if_pos hj, if_pos ⟨hj.1, by simp [hj.2]⟩]
    · rw [if_neg hj, SMap.get_set]
      by_cases hja : j = 32 * n + a
      · have h1 : j / 32 = n := by omega
        have h2 : j % 32 = a := by omega
        rw [if_pos hja, if_pos ⟨h1, by simp [h2]⟩, h2]
      · rw [if_neg hja, if_neg]
        rintro ⟨h1, h2⟩
        rcases List.mem_cons.1 h2 with h2 | h2
        · exact hja (by omega)
        · exact hj ⟨h1, h2⟩

/-- v(k) of a lane after v(n) has been written in the lanes of a mask. -/
theorem Group.getV_setV (g : Group) (n : Nat) (m : Mask) (f : Nat → Word) (k l : Nat) (h : l < 32) :
    (g.setV n m f).getV k l = if k = n ∧ inMask m l = true then f l else g.getV k l := by
  simp only [Group.getV, Group.setV]
  rw [foldl_set_get _ _ _ _ _ fun l hl => ((mem_lanesOf m l).1 hl).1]
  have h1 : (32 * k + l) / 32 = k := by omega
  have h2 : (32 * k + l) % 32 = l := by omega
  simp only [h1, h2, mem_lanesOf, h, true_and]

theorem Group.getV_putV (g : Group) (n m : Nat) (x : Word) (k l : Nat) (h : l < 32) (hm : m < 32) :
    (g.putV n m x).getV k l = if k = n ∧ l = m then x else g.getV k l := by
  simp only [Group.getV, Group.putV, SMap.get_set]
  by_cases hc : k = n ∧ l = m
  · simp [hc]
  · rw [if_neg hc, if_neg (by omega)]

theorem lo32_toNat (x : DWord) : lo32 x = BitVec.ofNat 32 x.toNat := by
  apply BitVec.eq_of_toNat_eq; simp [lo32, BitVec.extractLsb']

theorem hi32_toNat (x : DWord) : hi32 x = BitVec.ofNat 32 (x.toNat / 2 ^ 32) := by
  apply BitVec.eq_of_toNat_eq; simp [hi32, BitVec.extractLsb', Nat.shiftRight_eq_div_pow]

/-- v(k) of a lane after a pair has been written. -/
theorem Group.getV_setV2 (g : Group) (n : Nat) (m : Mask) (f : Nat → DWord) (k l : Nat) (h : l < 32) :
    (g.setV2 n m f).getV k l =
      if k = n ∧ inMask m l = true then lo32 (f l)
      else if k = n + 1 ∧ inMask m l = true then hi32 (f l) else g.getV k l := by
  simp only [Group.setV2, Group.getV_setV _ _ _ _ _ _ h]
  by_cases h1 : k = n + 1 ∧ inMask m l = true
  · rw [if_pos h1, if_neg (by omega), if_pos h1]
  · rw [if_neg h1]; split <;> rfl

theorem Group.setV_rest (g : Group) (n : Nat) (m : Mask) (f : Nat → Word) : { g.setV n m f with v := g.v } = g := rfl

theorem Group.setV2_rest (g : Group) (n : Nat) (m : Mask) (f : Nat → DWord) : { g.setV2 n m f with v := g.v } = g := rfl

/-- The 64-bit number of a pair (R49). -/
theorem pair64_toNat (lo hi : Word) : (pair64 lo hi).toNat = lo.toNat + 2 ^ 32 * hi.toNat := by
  have := lo.isLt
  rw [pair64, BitVec.toNat_append, ← Nat.shiftLeft_add_eq_or_of_lt this, Nat.shiftLeft_eq]; omega

/-! ## Scalar and guard registers -/

theorem Group.getS_zero (g : Group) : g.getS 0 = 0 := rfl

theorem Group.getS_setS (g : Group) (n : Nat) (x : Word) (k : Nat) :
    (g.setS n x).getS k = if k = n ∧ n ≠ 0 then x else g.getS k := by
  unfold Group.setS
  by_cases hn : n = 0
  · simp [hn]
  · rw [if_neg hn]
    simp only [Group.getS, SMap.get_set]
    by_cases hk : k = n
    · simp [hk, hn]
    · simp [hk]

theorem Group.setS_rest (g : Group) (n : Nat) (x : Word) : { g.setS n x with s := g.s } = g := by
  unfold Group.setS; split <;> rfl

theorem Group.getG_zero (g : Group) : g.getG 0 = BitVec.allOnes 32 := rfl

/-- g(k) of a lane after g(n) has been written in the lanes of a mask. -/
theorem Group.getG_setG (g : Group) (n : Nat) (m x : Mask) (k l : Nat) (h : l < 32) :
    inMask ((g.setG n m x).getG k) l =
      if k = n ∧ n ≠ 0 ∧ inMask m l = true then inMask x l else inMask (g.getG k) l := by
  unfold Group.setG
  by_cases hn : n = 0
  · simp [hn]
  · rw [if_neg hn]
    by_cases hk : k = n
    · subst hk
      simp only [Group.getG, if_neg hn, SMap.get_set_same, inMask_or, inMask_and, inMask_not _ _ h]
      cases inMask m l <;> simp [hn]
    · simp only [Group.getG, SMap.get_set_other _ _ _ _ hk]
      simp [hk]

theorem Group.setG_rest (g : Group) (n : Nat) (m x : Mask) : { g.setG n m x with g := g.g } = g := by
  unfold Group.setG; split <;> rfl

/-! ## The issue of a word -/

/-- A word that has passed its checks has its effect on P, and none when P is empty (R80). -/
theorem runWord_pass (i : Info) (s : State) (eff : Mask → State → State) (h : issueFault i s = none) :
    runWord i s eff = .next (if guardMask i s = 0 then s else eff (guardMask i s) s) := by
  simp only [runWord, h]; split <;> rfl

/-- A redirecting word that has passed its checks has its effect whatever P is (R119). -/
theorem runBranch_pass (i : Info) (s : State) (eff : Mask → State → State) (h : issueFault i s = none) :
    runBranch i s eff = .next (eff (guardMask i s) s) := by
  unfold runBranch; rw [h]

/-- A word that fails a check faults, its value the word itself (R33). -/
theorem runWord_fault (i : Info) (s : State) (eff : Mask → State → State) (c : Cause) (h : issueFault i s = some c) :
    runWord i s eff = .next (s.fault c (s.ctx.word.setWidth 64)) := by
  unfold runWord; rw [h]

theorem runBranch_fault (i : Info) (s : State) (eff : Mask → State → State) (c : Cause) (h : issueFault i s = some c) :
    runBranch i s eff = .next (s.fault c (s.ctx.word.setWidth 64)) := by
  unfold runBranch; rw [h]

/-- Every word answers a next state. -/
theorem runWord_next (i : Info) (s : State) (eff : Mask → State → State) : ∃ t, runWord i s eff = .next t := by
  unfold runWord; split
  · exact ⟨_, rfl⟩
  · split <;> exact ⟨_, rfl⟩

theorem runBranch_next (i : Info) (s : State) (eff : Mask → State → State) : ∃ t, runBranch i s eff = .next t := by
  unfold runBranch; split <;> exact ⟨_, rfl⟩

end Sys2Proof.Machine
end

