-- ==== Sys2Proof/Laws/State.lean ====
section
/-!
SUPPORT. The fields of the state after each of its updates: one lemma for each field and update.
-/

namespace Sys2Proof.Machine

variable (s : State)


@[simp] theorem State.onCur_dev (f : Group → Group) : (s.onCur f).dev = s.dev := rfl
@[simp] theorem State.onCur_hbm (f : Group → Group) : (s.onCur f).hbm = s.hbm := rfl
@[simp] theorem State.onCur_flow (f : Group → Group) : (s.onCur f).flow = s.flow := rfl
@[simp] theorem State.onCur_tenants (f : Group → Group) : (s.onCur f).tenants = s.tenants := rfl
@[simp] theorem State.onCur_nodes (f : Group → Group) : (s.onCur f).nodes = s.nodes := rfl
@[simp] theorem State.onCur_pool (f : Group → Group) : (s.onCur f).pool = s.pool := rfl
@[simp] theorem State.onCur_resumed (f : Group → Group) : (s.onCur f).resumed = s.resumed := rfl
@[simp] theorem State.onCur_crews (f : Group → Group) : (s.onCur f).crews = s.crews := rfl
@[simp] theorem State.onCur_cores (f : Group → Group) : (s.onCur f).cores = s.cores := rfl
@[simp] theorem State.onCur_cur (f : Group → Group) : (s.onCur f).cur = f s.cur := rfl
@[simp] theorem State.onCur_groups (f : Group → Group) : (s.onCur f).groups = s.groups := rfl
@[simp] theorem State.onCur_ctx (f : Group → Group) : (s.onCur f).ctx = s.ctx := rfl
@[simp] theorem State.onCur_agenda (f : Group → Group) : (s.onCur f).agenda = s.agenda := rfl
@[simp] theorem State.onCur_fresh (f : Group → Group) : (s.onCur f).fresh = s.fresh := rfl
@[simp] theorem State.onCur_free (f : Group → Group) : (s.onCur f).free = s.free := rfl

@[simp] theorem State.onDev_dev (f : Dev → Dev) : (s.onDev f).dev = f s.dev := rfl
@[simp] theorem State.onDev_hbm (f : Dev → Dev) : (s.onDev f).hbm = s.hbm := rfl
@[simp] theorem State.onDev_flow (f : Dev → Dev) : (s.onDev f).flow = s.flow := rfl
@[simp] theorem State.onDev_tenants (f : Dev → Dev) : (s.onDev f).tenants = s.tenants := rfl
@[simp] theorem State.onDev_nodes (f : Dev → Dev) : (s.onDev f).nodes = s.nodes := rfl
@[simp] theorem State.onDev_pool (f : Dev → Dev) : (s.onDev f).pool = s.pool := rfl
@[simp] theorem State.onDev_resumed (f : Dev → Dev) : (s.onDev f).resumed = s.resumed := rfl
@[simp] theorem State.onDev_crews (f : Dev → Dev) : (s.onDev f).crews = s.crews := rfl
@[simp] theorem State.onDev_cores (f : Dev → Dev) : (s.onDev f).cores = s.cores := rfl
@[simp] theorem State.onDev_cur (f : Dev → Dev) : (s.onDev f).cur = s.cur := rfl
@[simp] theorem State.onDev_groups (f : Dev → Dev) : (s.onDev f).groups = s.groups := rfl
@[simp] theorem State.onDev_ctx (f : Dev → Dev) : (s.onDev f).ctx = s.ctx := rfl
@[simp] theorem State.onDev_agenda (f : Dev → Dev) : (s.onDev f).agenda = s.agenda := rfl
@[simp] theorem State.onDev_fresh (f : Dev → Dev) : (s.onDev f).fresh = s.fresh := rfl
@[simp] theorem State.onDev_free (f : Dev → Dev) : (s.onDev f).free = s.free := rfl

@[simp] theorem State.onFlow_dev (f : Flow → Flow) : (s.onFlow f).dev = s.dev := rfl
@[simp] theorem State.onFlow_hbm (f : Flow → Flow) : (s.onFlow f).hbm = s.hbm := rfl
@[simp] theorem State.onFlow_flow (f : Flow → Flow) : (s.onFlow f).flow = f s.flow := rfl
@[simp] theorem State.onFlow_tenants (f : Flow → Flow) : (s.onFlow f).tenants = s.tenants := rfl
@[simp] theorem State.onFlow_nodes (f : Flow → Flow) : (s.onFlow f).nodes = s.nodes := rfl
@[simp] theorem State.onFlow_pool (f : Flow → Flow) : (s.onFlow f).pool = s.pool := rfl
@[simp] theorem State.onFlow_resumed (f : Flow → Flow) : (s.onFlow f).resumed = s.resumed := rfl
@[simp] theorem State.onFlow_crews (f : Flow → Flow) : (s.onFlow f).crews = s.crews := rfl
@[simp] theorem State.onFlow_cores (f : Flow → Flow) : (s.onFlow f).cores = s.cores := rfl
@[simp] theorem State.onFlow_cur (f : Flow → Flow) : (s.onFlow f).cur = s.cur := rfl
@[simp] theorem State.onFlow_groups (f : Flow → Flow) : (s.onFlow f).groups = s.groups := rfl
@[simp] theorem State.onFlow_ctx (f : Flow → Flow) : (s.onFlow f).ctx = s.ctx := rfl
@[simp] theorem State.onFlow_agenda (f : Flow → Flow) : (s.onFlow f).agenda = s.agenda := rfl
@[simp] theorem State.onFlow_fresh (f : Flow → Flow) : (s.onFlow f).fresh = s.fresh := rfl
@[simp] theorem State.onFlow_free (f : Flow → Flow) : (s.onFlow f).free = s.free := rfl

@[simp] theorem State.mapTenant_dev (id : Nat) (f : Tenant → Tenant) : (s.mapTenant id f).dev = s.dev := rfl
@[simp] theorem State.mapTenant_hbm (id : Nat) (f : Tenant → Tenant) : (s.mapTenant id f).hbm = s.hbm := rfl
@[simp] theorem State.mapTenant_flow (id : Nat) (f : Tenant → Tenant) : (s.mapTenant id f).flow = s.flow := rfl
@[simp] theorem State.mapTenant_tenants (id : Nat) (f : Tenant → Tenant) : (s.mapTenant id f).tenants = s.tenants.map fun t => if t.id == id then f t else t := rfl
@[simp] theorem State.mapTenant_nodes (id : Nat) (f : Tenant → Tenant) : (s.mapTenant id f).nodes = s.nodes := rfl
@[simp] theorem State.mapTenant_pool (id : Nat) (f : Tenant → Tenant) : (s.mapTenant id f).pool = s.pool := rfl
@[simp] theorem State.mapTenant_resumed (id : Nat) (f : Tenant → Tenant) : (s.mapTenant id f).resumed = s.resumed := rfl
@[simp] theorem State.mapTenant_crews (id : Nat) (f : Tenant → Tenant) : (s.mapTenant id f).crews = s.crews := rfl
@[simp] theorem State.mapTenant_cores (id : Nat) (f : Tenant → Tenant) : (s.mapTenant id f).cores = s.cores := rfl
@[simp] theorem State.mapTenant_cur (id : Nat) (f : Tenant → Tenant) : (s.mapTenant id f).cur = s.cur := rfl
@[simp] theorem State.mapTenant_groups (id : Nat) (f : Tenant → Tenant) : (s.mapTenant id f).groups = s.groups := rfl
@[simp] theorem State.mapTenant_ctx (id : Nat) (f : Tenant → Tenant) : (s.mapTenant id f).ctx = s.ctx := rfl
@[simp] theorem State.mapTenant_agenda (id : Nat) (f : Tenant → Tenant) : (s.mapTenant id f).agenda = s.agenda := rfl
@[simp] theorem State.mapTenant_fresh (id : Nat) (f : Tenant → Tenant) : (s.mapTenant id f).fresh = s.fresh := rfl
@[simp] theorem State.mapTenant_free (id : Nat) (f : Tenant → Tenant) : (s.mapTenant id f).free = s.free := rfl

@[simp] theorem State.mapCrew_dev (id : Nat) (f : Crew → Crew) : (s.mapCrew id f).dev = s.dev := rfl
@[simp] theorem State.mapCrew_hbm (id : Nat) (f : Crew → Crew) : (s.mapCrew id f).hbm = s.hbm := rfl
@[simp] theorem State.mapCrew_flow (id : Nat) (f : Crew → Crew) : (s.mapCrew id f).flow = s.flow := rfl
@[simp] theorem State.mapCrew_tenants (id : Nat) (f : Crew → Crew) : (s.mapCrew id f).tenants = s.tenants := rfl
@[simp] theorem State.mapCrew_nodes (id : Nat) (f : Crew → Crew) : (s.mapCrew id f).nodes = s.nodes := rfl
@[simp] theorem State.mapCrew_pool (id : Nat) (f : Crew → Crew) : (s.mapCrew id f).pool = s.pool := rfl
@[simp] theorem State.mapCrew_resumed (id : Nat) (f : Crew → Crew) : (s.mapCrew id f).resumed = s.resumed := rfl
@[simp] theorem State.mapCrew_crews (id : Nat) (f : Crew → Crew) : (s.mapCrew id f).crews = s.crews.map fun c => if c.id == id then f c else c := rfl
@[simp] theorem State.mapCrew_cores (id : Nat) (f : Crew → Crew) : (s.mapCrew id f).cores = s.cores := rfl
@[simp] theorem State.mapCrew_cur (id : Nat) (f : Crew → Crew) : (s.mapCrew id f).cur = s.cur := rfl
@[simp] theorem State.mapCrew_groups (id : Nat) (f : Crew → Crew) : (s.mapCrew id f).groups = s.groups := rfl
@[simp] theorem State.mapCrew_ctx (id : Nat) (f : Crew → Crew) : (s.mapCrew id f).ctx = s.ctx := rfl
@[simp] theorem State.mapCrew_agenda (id : Nat) (f : Crew → Crew) : (s.mapCrew id f).agenda = s.agenda := rfl
@[simp] theorem State.mapCrew_fresh (id : Nat) (f : Crew → Crew) : (s.mapCrew id f).fresh = s.fresh := rfl
@[simp] theorem State.mapCrew_free (id : Nat) (f : Crew → Crew) : (s.mapCrew id f).free = s.free := rfl

@[simp] theorem State.mapNode_dev (id : Nat) (f : Node → Node) : (s.mapNode id f).dev = s.dev := rfl
@[simp] theorem State.mapNode_hbm (id : Nat) (f : Node → Node) : (s.mapNode id f).hbm = s.hbm := rfl
@[simp] theorem State.mapNode_flow (id : Nat) (f : Node → Node) : (s.mapNode id f).flow = s.flow := rfl
@[simp] theorem State.mapNode_tenants (id : Nat) (f : Node → Node) : (s.mapNode id f).tenants = s.tenants := rfl
@[simp] theorem State.mapNode_nodes (id : Nat) (f : Node → Node) : (s.mapNode id f).nodes = s.nodes.map fun n => if n.id == id then f n else n := rfl
@[simp] theorem State.mapNode_pool (id : Nat) (f : Node → Node) : (s.mapNode id f).pool = s.pool := rfl
@[simp] theorem State.mapNode_resumed (id : Nat) (f : Node → Node) : (s.mapNode id f).resumed = s.resumed := rfl
@[simp] theorem State.mapNode_crews (id : Nat) (f : Node → Node) : (s.mapNode id f).crews = s.crews := rfl
@[simp] theorem State.mapNode_cores (id : Nat) (f : Node → Node) : (s.mapNode id f).cores = s.cores := rfl
@[simp] theorem State.mapNode_cur (id : Nat) (f : Node → Node) : (s.mapNode id f).cur = s.cur := rfl
@[simp] theorem State.mapNode_groups (id : Nat) (f : Node → Node) : (s.mapNode id f).groups = s.groups := rfl
@[simp] theorem State.mapNode_ctx (id : Nat) (f : Node → Node) : (s.mapNode id f).ctx = s.ctx := rfl
@[simp] theorem State.mapNode_agenda (id : Nat) (f : Node → Node) : (s.mapNode id f).agenda = s.agenda := rfl
@[simp] theorem State.mapNode_fresh (id : Nat) (f : Node → Node) : (s.mapNode id f).fresh = s.fresh := rfl
@[simp] theorem State.mapNode_free (id : Nat) (f : Node → Node) : (s.mapNode id f).free = s.free := rfl

@[simp] theorem State.mapGrp_dev (id : Nat) (f : Group → Group) : (s.mapGrp id f).dev = s.dev := rfl
@[simp] theorem State.mapGrp_hbm (id : Nat) (f : Group → Group) : (s.mapGrp id f).hbm = s.hbm := rfl
@[simp] theorem State.mapGrp_flow (id : Nat) (f : Group → Group) : (s.mapGrp id f).flow = s.flow := rfl
@[simp] theorem State.mapGrp_tenants (id : Nat) (f : Group → Group) : (s.mapGrp id f).tenants = s.tenants := rfl
@[simp] theorem State.mapGrp_nodes (id : Nat) (f : Group → Group) : (s.mapGrp id f).nodes = s.nodes := rfl
@[simp] theorem State.mapGrp_pool (id : Nat) (f : Group → Group) : (s.mapGrp id f).pool = s.pool := rfl
@[simp] theorem State.mapGrp_resumed (id : Nat) (f : Group → Group) : (s.mapGrp id f).resumed = s.resumed := rfl
@[simp] theorem State.mapGrp_crews (id : Nat) (f : Group → Group) : (s.mapGrp id f).crews = s.crews := rfl
@[simp] theorem State.mapGrp_cores (id : Nat) (f : Group → Group) : (s.mapGrp id f).cores = s.cores := rfl
@[simp] theorem State.mapGrp_cur (id : Nat) (f : Group → Group) : (s.mapGrp id f).cur = if s.cur.id == id then f s.cur else s.cur := rfl
@[simp] theorem State.mapGrp_groups (id : Nat) (f : Group → Group) : (s.mapGrp id f).groups = s.groups.map fun g => if g.id == id then f g else g := rfl
@[simp] theorem State.mapGrp_ctx (id : Nat) (f : Group → Group) : (s.mapGrp id f).ctx = s.ctx := rfl
@[simp] theorem State.mapGrp_agenda (id : Nat) (f : Group → Group) : (s.mapGrp id f).agenda = s.agenda := rfl
@[simp] theorem State.mapGrp_fresh (id : Nat) (f : Group → Group) : (s.mapGrp id f).fresh = s.fresh := rfl
@[simp] theorem State.mapGrp_free (id : Nat) (f : Group → Group) : (s.mapGrp id f).free = s.free := rfl

@[simp] theorem State.mapGrps_dev (f : Group → Group) : (s.mapGrps f).dev = s.dev := rfl
@[simp] theorem State.mapGrps_hbm (f : Group → Group) : (s.mapGrps f).hbm = s.hbm := rfl
@[simp] theorem State.mapGrps_flow (f : Group → Group) : (s.mapGrps f).flow = s.flow := rfl
@[simp] theorem State.mapGrps_tenants (f : Group → Group) : (s.mapGrps f).tenants = s.tenants := rfl
@[simp] theorem State.mapGrps_nodes (f : Group → Group) : (s.mapGrps f).nodes = s.nodes := rfl
@[simp] theorem State.mapGrps_pool (f : Group → Group) : (s.mapGrps f).pool = s.pool := rfl
@[simp] theorem State.mapGrps_resumed (f : Group → Group) : (s.mapGrps f).resumed = s.resumed := rfl
@[simp] theorem State.mapGrps_crews (f : Group → Group) : (s.mapGrps f).crews = s.crews := rfl
@[simp] theorem State.mapGrps_cores (f : Group → Group) : (s.mapGrps f).cores = s.cores := rfl
@[simp] theorem State.mapGrps_cur (f : Group → Group) : (s.mapGrps f).cur = f s.cur := rfl
@[simp] theorem State.mapGrps_groups (f : Group → Group) : (s.mapGrps f).groups = s.groups.map f := rfl
@[simp] theorem State.mapGrps_ctx (f : Group → Group) : (s.mapGrps f).ctx = s.ctx := rfl
@[simp] theorem State.mapGrps_agenda (f : Group → Group) : (s.mapGrps f).agenda = s.agenda := rfl
@[simp] theorem State.mapGrps_fresh (f : Group → Group) : (s.mapGrps f).fresh = s.fresh := rfl
@[simp] theorem State.mapGrps_free (f : Group → Group) : (s.mapGrps f).free = s.free := rfl

@[simp] theorem State.emit_dev (o : Out) : (s.emit o).dev = { s.dev with outs := s.dev.outs ++ [o] } := rfl
@[simp] theorem State.emit_hbm (o : Out) : (s.emit o).hbm = s.hbm := rfl
@[simp] theorem State.emit_flow (o : Out) : (s.emit o).flow = s.flow := rfl
@[simp] theorem State.emit_tenants (o : Out) : (s.emit o).tenants = s.tenants := rfl
@[simp] theorem State.emit_nodes (o : Out) : (s.emit o).nodes = s.nodes := rfl
@[simp] theorem State.emit_pool (o : Out) : (s.emit o).pool = s.pool := rfl
@[simp] theorem State.emit_resumed (o : Out) : (s.emit o).resumed = s.resumed := rfl
@[simp] theorem State.emit_crews (o : Out) : (s.emit o).crews = s.crews := rfl
@[simp] theorem State.emit_cores (o : Out) : (s.emit o).cores = s.cores := rfl
@[simp] theorem State.emit_cur (o : Out) : (s.emit o).cur = s.cur := rfl
@[simp] theorem State.emit_groups (o : Out) : (s.emit o).groups = s.groups := rfl
@[simp] theorem State.emit_ctx (o : Out) : (s.emit o).ctx = s.ctx := rfl
@[simp] theorem State.emit_agenda (o : Out) : (s.emit o).agenda = s.agenda := rfl
@[simp] theorem State.emit_fresh (o : Out) : (s.emit o).fresh = s.fresh := rfl
@[simp] theorem State.emit_free (o : Out) : (s.emit o).free = s.free := rfl

@[simp] theorem State.meter_dev (tn idx n : Nat) : (s.meter tn idx n).dev = s.dev := rfl
@[simp] theorem State.meter_hbm (tn idx n : Nat) : (s.meter tn idx n).hbm = s.hbm := rfl
@[simp] theorem State.meter_flow (tn idx n : Nat) : (s.meter tn idx n).flow = s.flow := rfl
@[simp] theorem State.meter_nodes (tn idx n : Nat) : (s.meter tn idx n).nodes = s.nodes := rfl
@[simp] theorem State.meter_pool (tn idx n : Nat) : (s.meter tn idx n).pool = s.pool := rfl
@[simp] theorem State.meter_resumed (tn idx n : Nat) : (s.meter tn idx n).resumed = s.resumed := rfl
@[simp] theorem State.meter_crews (tn idx n : Nat) : (s.meter tn idx n).crews = s.crews := rfl
@[simp] theorem State.meter_cores (tn idx n : Nat) : (s.meter tn idx n).cores = s.cores := rfl
@[simp] theorem State.meter_cur (tn idx n : Nat) : (s.meter tn idx n).cur = s.cur := rfl
@[simp] theorem State.meter_groups (tn idx n : Nat) : (s.meter tn idx n).groups = s.groups := rfl
@[simp] theorem State.meter_ctx (tn idx n : Nat) : (s.meter tn idx n).ctx = s.ctx := rfl
@[simp] theorem State.meter_agenda (tn idx n : Nat) : (s.meter tn idx n).agenda = s.agenda := rfl
@[simp] theorem State.meter_fresh (tn idx n : Nat) : (s.meter tn idx n).fresh = s.fresh := rfl
@[simp] theorem State.meter_free (tn idx n : Nat) : (s.meter tn idx n).free = s.free := rfl

@[simp] theorem State.stopChain_dev : (s.stopChain).dev = s.dev := rfl
@[simp] theorem State.stopChain_hbm : (s.stopChain).hbm = s.hbm := rfl
@[simp] theorem State.stopChain_flow : (s.stopChain).flow = s.flow := rfl
@[simp] theorem State.stopChain_tenants : (s.stopChain).tenants = s.tenants := rfl
@[simp] theorem State.stopChain_nodes : (s.stopChain).nodes = s.nodes := rfl
@[simp] theorem State.stopChain_pool : (s.stopChain).pool = s.pool := rfl
@[simp] theorem State.stopChain_resumed : (s.stopChain).resumed = s.resumed := rfl
@[simp] theorem State.stopChain_crews : (s.stopChain).crews = s.crews := rfl
@[simp] theorem State.stopChain_cores : (s.stopChain).cores = s.cores := rfl
@[simp] theorem State.stopChain_cur : (s.stopChain).cur = s.cur := rfl
@[simp] theorem State.stopChain_groups : (s.stopChain).groups = s.groups := rfl
@[simp] theorem State.stopChain_ctx : (s.stopChain).ctx = { s.ctx with stop := true, moved := true } := rfl
@[simp] theorem State.stopChain_agenda : (s.stopChain).agenda = s.agenda := rfl
@[simp] theorem State.stopChain_fresh : (s.stopChain).fresh = s.fresh := rfl
@[simp] theorem State.stopChain_free : (s.stopChain).free = s.free := rfl

@[simp] theorem State.stallWord_dev : (s.stallWord).dev = s.dev := rfl
@[simp] theorem State.stallWord_hbm : (s.stallWord).hbm = s.hbm := rfl
@[simp] theorem State.stallWord_flow : (s.stallWord).flow = s.flow := rfl
@[simp] theorem State.stallWord_tenants : (s.stallWord).tenants = s.tenants := rfl
@[simp] theorem State.stallWord_nodes : (s.stallWord).nodes = s.nodes := rfl
@[simp] theorem State.stallWord_pool : (s.stallWord).pool = s.pool := rfl
@[simp] theorem State.stallWord_resumed : (s.stallWord).resumed = s.resumed := rfl
@[simp] theorem State.stallWord_crews : (s.stallWord).crews = s.crews := rfl
@[simp] theorem State.stallWord_cores : (s.stallWord).cores = s.cores := rfl
@[simp] theorem State.stallWord_cur : (s.stallWord).cur = s.cur := rfl
@[simp] theorem State.stallWord_groups : (s.stallWord).groups = s.groups := rfl
@[simp] theorem State.stallWord_ctx : (s.stallWord).ctx = { s.ctx with stop := true, moved := true, stalled := true } := rfl
@[simp] theorem State.stallWord_agenda : (s.stallWord).agenda = s.agenda := rfl
@[simp] theorem State.stallWord_fresh : (s.stallWord).fresh = s.fresh := rfl
@[simp] theorem State.stallWord_free : (s.stallWord).free = s.free := rfl

@[simp] theorem State.stallChain_dev : (s.stallChain).dev = s.dev := rfl
@[simp] theorem State.stallChain_hbm : (s.stallChain).hbm = s.hbm := rfl
@[simp] theorem State.stallChain_flow : (s.stallChain).flow = s.flow := rfl
@[simp] theorem State.stallChain_tenants : (s.stallChain).tenants = s.tenants := rfl
@[simp] theorem State.stallChain_nodes : (s.stallChain).nodes = s.nodes := rfl
@[simp] theorem State.stallChain_pool : (s.stallChain).pool = s.pool := rfl
@[simp] theorem State.stallChain_resumed : (s.stallChain).resumed = s.resumed := rfl
@[simp] theorem State.stallChain_crews : (s.stallChain).crews = s.crews := rfl
@[simp] theorem State.stallChain_cores : (s.stallChain).cores = s.cores := rfl
@[simp] theorem State.stallChain_cur : (s.stallChain).cur = s.cur := rfl
@[simp] theorem State.stallChain_groups : (s.stallChain).groups = s.groups := rfl
@[simp] theorem State.stallChain_ctx : (s.stallChain).ctx = { s.ctx with stop := true, moved := true, stalled := true, whole := true } := rfl
@[simp] theorem State.stallChain_agenda : (s.stallChain).agenda = s.agenda := rfl
@[simp] theorem State.stallChain_fresh : (s.stallChain).fresh = s.fresh := rfl
@[simp] theorem State.stallChain_free : (s.stallChain).free = s.free := rfl

@[simp] theorem State.addRecord_dev (tn kind : Nat) (code : BitVec 8) (reason : BitVec 16) (core : Nat) (pc : DWord) : (s.addRecord tn kind code reason core pc).dev = s.dev := rfl
@[simp] theorem State.addRecord_hbm (tn kind : Nat) (code : BitVec 8) (reason : BitVec 16) (core : Nat) (pc : DWord) : (s.addRecord tn kind code reason core pc).hbm = s.hbm := rfl
@[simp] theorem State.addRecord_flow (tn kind : Nat) (code : BitVec 8) (reason : BitVec 16) (core : Nat) (pc : DWord) : (s.addRecord tn kind code reason core pc).flow = s.flow := rfl
@[simp] theorem State.addRecord_nodes (tn kind : Nat) (code : BitVec 8) (reason : BitVec 16) (core : Nat) (pc : DWord) : (s.addRecord tn kind code reason core pc).nodes = s.nodes := rfl
@[simp] theorem State.addRecord_pool (tn kind : Nat) (code : BitVec 8) (reason : BitVec 16) (core : Nat) (pc : DWord) : (s.addRecord tn kind code reason core pc).pool = s.pool := rfl
@[simp] theorem State.addRecord_resumed (tn kind : Nat) (code : BitVec 8) (reason : BitVec 16) (core : Nat) (pc : DWord) : (s.addRecord tn kind code reason core pc).resumed = s.resumed := rfl
@[simp] theorem State.addRecord_crews (tn kind : Nat) (code : BitVec 8) (reason : BitVec 16) (core : Nat) (pc : DWord) : (s.addRecord tn kind code reason core pc).crews = s.crews := rfl
@[simp] theorem State.addRecord_cores (tn kind : Nat) (code : BitVec 8) (reason : BitVec 16) (core : Nat) (pc : DWord) : (s.addRecord tn kind code reason core pc).cores = s.cores := rfl
@[simp] theorem State.addRecord_cur (tn kind : Nat) (code : BitVec 8) (reason : BitVec 16) (core : Nat) (pc : DWord) : (s.addRecord tn kind code reason core pc).cur = s.cur := rfl
@[simp] theorem State.addRecord_groups (tn kind : Nat) (code : BitVec 8) (reason : BitVec 16) (core : Nat) (pc : DWord) : (s.addRecord tn kind code reason core pc).groups = s.groups := rfl
@[simp] theorem State.addRecord_ctx (tn kind : Nat) (code : BitVec 8) (reason : BitVec 16) (core : Nat) (pc : DWord) : (s.addRecord tn kind code reason core pc).ctx = s.ctx := rfl
@[simp] theorem State.addRecord_agenda (tn kind : Nat) (code : BitVec 8) (reason : BitVec 16) (core : Nat) (pc : DWord) : (s.addRecord tn kind code reason core pc).agenda = s.agenda := rfl
@[simp] theorem State.addRecord_fresh (tn kind : Nat) (code : BitVec 8) (reason : BitVec 16) (core : Nat) (pc : DWord) : (s.addRecord tn kind code reason core pc).fresh = s.fresh := rfl
@[simp] theorem State.addRecord_free (tn kind : Nat) (code : BitVec 8) (reason : BitVec 16) (core : Nat) (pc : DWord) : (s.addRecord tn kind code reason core pc).free = s.free := rfl

@[simp] theorem State.enterT1_dev (c : Cause) (val pc : DWord) : (s.enterT1 c val pc).dev = s.dev := rfl
@[simp] theorem State.enterT1_hbm (c : Cause) (val pc : DWord) : (s.enterT1 c val pc).hbm = s.hbm := rfl
@[simp] theorem State.enterT1_flow (c : Cause) (val pc : DWord) : (s.enterT1 c val pc).flow = s.flow := rfl
@[simp] theorem State.enterT1_tenants (c : Cause) (val pc : DWord) : (s.enterT1 c val pc).tenants = s.tenants := rfl
@[simp] theorem State.enterT1_nodes (c : Cause) (val pc : DWord) : (s.enterT1 c val pc).nodes = s.nodes := rfl
@[simp] theorem State.enterT1_pool (c : Cause) (val pc : DWord) : (s.enterT1 c val pc).pool = s.pool := rfl
@[simp] theorem State.enterT1_resumed (c : Cause) (val pc : DWord) : (s.enterT1 c val pc).resumed = s.resumed := rfl
@[simp] theorem State.enterT1_crews (c : Cause) (val pc : DWord) : (s.enterT1 c val pc).crews = s.crews := rfl
@[simp] theorem State.enterT1_cores (c : Cause) (val pc : DWord) : (s.enterT1 c val pc).cores = s.cores := rfl
@[simp] theorem State.enterT1_groups (c : Cause) (val pc : DWord) : (s.enterT1 c val pc).groups = s.groups := rfl
@[simp] theorem State.enterT1_ctx (c : Cause) (val pc : DWord) : (s.enterT1 c val pc).ctx = { s.ctx with stop := true, moved := true } := rfl
@[simp] theorem State.enterT1_agenda (c : Cause) (val pc : DWord) : (s.enterT1 c val pc).agenda = s.agenda := rfl
@[simp] theorem State.enterT1_fresh (c : Cause) (val pc : DWord) : (s.enterT1 c val pc).fresh = s.fresh := rfl
@[simp] theorem State.enterT1_free (c : Cause) (val pc : DWord) : (s.enterT1 c val pc).free = s.free := rfl

@[simp] theorem State.enterT2_dev (c : Cause) (val pc : DWord) : (s.enterT2 c val pc).dev = s.dev := rfl
@[simp] theorem State.enterT2_hbm (c : Cause) (val pc : DWord) : (s.enterT2 c val pc).hbm = s.hbm := rfl
@[simp] theorem State.enterT2_flow (c : Cause) (val pc : DWord) : (s.enterT2 c val pc).flow = s.flow := rfl
@[simp] theorem State.enterT2_tenants (c : Cause) (val pc : DWord) : (s.enterT2 c val pc).tenants = s.tenants := rfl
@[simp] theorem State.enterT2_nodes (c : Cause) (val pc : DWord) : (s.enterT2 c val pc).nodes = s.nodes := rfl
@[simp] theorem State.enterT2_pool (c : Cause) (val pc : DWord) : (s.enterT2 c val pc).pool = s.pool := rfl
@[simp] theorem State.enterT2_resumed (c : Cause) (val pc : DWord) : (s.enterT2 c val pc).resumed = s.resumed := rfl
@[simp] theorem State.enterT2_crews (c : Cause) (val pc : DWord) : (s.enterT2 c val pc).crews = s.crews := rfl
@[simp] theorem State.enterT2_cores (c : Cause) (val pc : DWord) : (s.enterT2 c val pc).cores = s.cores := rfl
@[simp] theorem State.enterT2_groups (c : Cause) (val pc : DWord) : (s.enterT2 c val pc).groups = s.groups := rfl
@[simp] theorem State.enterT2_ctx (c : Cause) (val pc : DWord) : (s.enterT2 c val pc).ctx = { s.ctx with stop := true, moved := true } := rfl
@[simp] theorem State.enterT2_agenda (c : Cause) (val pc : DWord) : (s.enterT2 c val pc).agenda = s.agenda := rfl
@[simp] theorem State.enterT2_fresh (c : Cause) (val pc : DWord) : (s.enterT2 c val pc).fresh = s.fresh := rfl
@[simp] theorem State.enterT2_free (c : Cause) (val pc : DWord) : (s.enterT2 c val pc).free = s.free := rfl

@[simp] theorem State.enterU_dev (c : Cause) (val pc : DWord) : (s.enterU c val pc).dev = s.dev := rfl
@[simp] theorem State.enterU_hbm (c : Cause) (val pc : DWord) : (s.enterU c val pc).hbm = s.hbm := rfl
@[simp] theorem State.enterU_flow (c : Cause) (val pc : DWord) : (s.enterU c val pc).flow = s.flow := rfl
@[simp] theorem State.enterU_tenants (c : Cause) (val pc : DWord) : (s.enterU c val pc).tenants = s.tenants := rfl
@[simp] theorem State.enterU_nodes (c : Cause) (val pc : DWord) : (s.enterU c val pc).nodes = s.nodes := rfl
@[simp] theorem State.enterU_pool (c : Cause) (val pc : DWord) : (s.enterU c val pc).pool = s.pool := rfl
@[simp] theorem State.enterU_resumed (c : Cause) (val pc : DWord) : (s.enterU c val pc).resumed = s.resumed := rfl
@[simp] theorem State.enterU_crews (c : Cause) (val pc : DWord) : (s.enterU c val pc).crews = s.crews := rfl
@[simp] theorem State.enterU_cores (c : Cause) (val pc : DWord) : (s.enterU c val pc).cores = s.cores := rfl
@[simp] theorem State.enterU_groups (c : Cause) (val pc : DWord) : (s.enterU c val pc).groups = s.groups := rfl
@[simp] theorem State.enterU_ctx (c : Cause) (val pc : DWord) : (s.enterU c val pc).ctx = { s.ctx with stop := true, moved := true } := rfl
@[simp] theorem State.enterU_agenda (c : Cause) (val pc : DWord) : (s.enterU c val pc).agenda = s.agenda := rfl
@[simp] theorem State.enterU_fresh (c : Cause) (val pc : DWord) : (s.enterU c val pc).fresh = s.fresh := rfl
@[simp] theorem State.enterU_free (c : Cause) (val pc : DWord) : (s.enterU c val pc).free = s.free := rfl

@[simp] theorem State.blockPast_dev (c : Cond) : (s.blockPast c).dev = s.dev := rfl
@[simp] theorem State.blockPast_hbm (c : Cond) : (s.blockPast c).hbm = s.hbm := rfl
@[simp] theorem State.blockPast_flow (c : Cond) : (s.blockPast c).flow = s.flow := rfl
@[simp] theorem State.blockPast_tenants (c : Cond) : (s.blockPast c).tenants = s.tenants := rfl
@[simp] theorem State.blockPast_nodes (c : Cond) : (s.blockPast c).nodes = s.nodes := rfl
@[simp] theorem State.blockPast_pool (c : Cond) : (s.blockPast c).pool = s.pool := rfl
@[simp] theorem State.blockPast_resumed (c : Cond) : (s.blockPast c).resumed = s.resumed := rfl
@[simp] theorem State.blockPast_crews (c : Cond) : (s.blockPast c).crews = s.crews := rfl
@[simp] theorem State.blockPast_cores (c : Cond) : (s.blockPast c).cores = s.cores := rfl
@[simp] theorem State.blockPast_groups (c : Cond) : (s.blockPast c).groups = s.groups := rfl
@[simp] theorem State.blockPast_ctx (c : Cond) : (s.blockPast c).ctx = { s.ctx with stop := true, moved := true } := rfl
@[simp] theorem State.blockPast_agenda (c : Cond) : (s.blockPast c).agenda = s.agenda := rfl
@[simp] theorem State.blockPast_fresh (c : Cond) : (s.blockPast c).fresh = s.fresh := rfl
@[simp] theorem State.blockPast_free (c : Cond) : (s.blockPast c).free = s.free := rfl

@[simp] theorem State.blockAt_dev (c : Cond) : (s.blockAt c).dev = s.dev := rfl
@[simp] theorem State.blockAt_hbm (c : Cond) : (s.blockAt c).hbm = s.hbm := rfl
@[simp] theorem State.blockAt_flow (c : Cond) : (s.blockAt c).flow = s.flow := rfl
@[simp] theorem State.blockAt_tenants (c : Cond) : (s.blockAt c).tenants = s.tenants := rfl
@[simp] theorem State.blockAt_nodes (c : Cond) : (s.blockAt c).nodes = s.nodes := rfl
@[simp] theorem State.blockAt_pool (c : Cond) : (s.blockAt c).pool = s.pool := rfl
@[simp] theorem State.blockAt_resumed (c : Cond) : (s.blockAt c).resumed = s.resumed := rfl
@[simp] theorem State.blockAt_crews (c : Cond) : (s.blockAt c).crews = s.crews := rfl
@[simp] theorem State.blockAt_cores (c : Cond) : (s.blockAt c).cores = s.cores := rfl
@[simp] theorem State.blockAt_groups (c : Cond) : (s.blockAt c).groups = s.groups := rfl
@[simp] theorem State.blockAt_ctx (c : Cond) : (s.blockAt c).ctx = { s.ctx with stop := true, moved := true } := rfl
@[simp] theorem State.blockAt_agenda (c : Cond) : (s.blockAt c).agenda = s.agenda := rfl
@[simp] theorem State.blockAt_fresh (c : Cond) : (s.blockAt c).fresh = s.fresh := rfl
@[simp] theorem State.blockAt_free (c : Cond) : (s.blockAt c).free = s.free := rfl

@[simp] theorem State.blockLanes_dev (m : Mask) (c : Cond) (past : Bool) (owed : List Nat) : (s.blockLanes m c past owed).dev = s.dev := rfl
@[simp] theorem State.blockLanes_hbm (m : Mask) (c : Cond) (past : Bool) (owed : List Nat) : (s.blockLanes m c past owed).hbm = s.hbm := rfl
@[simp] theorem State.blockLanes_flow (m : Mask) (c : Cond) (past : Bool) (owed : List Nat) : (s.blockLanes m c past owed).flow = s.flow := rfl
@[simp] theorem State.blockLanes_tenants (m : Mask) (c : Cond) (past : Bool) (owed : List Nat) : (s.blockLanes m c past owed).tenants = s.tenants := rfl
@[simp] theorem State.blockLanes_nodes (m : Mask) (c : Cond) (past : Bool) (owed : List Nat) : (s.blockLanes m c past owed).nodes = s.nodes := rfl
@[simp] theorem State.blockLanes_pool (m : Mask) (c : Cond) (past : Bool) (owed : List Nat) : (s.blockLanes m c past owed).pool = s.pool := rfl
@[simp] theorem State.blockLanes_resumed (m : Mask) (c : Cond) (past : Bool) (owed : List Nat) : (s.blockLanes m c past owed).resumed = s.resumed := rfl
@[simp] theorem State.blockLanes_crews (m : Mask) (c : Cond) (past : Bool) (owed : List Nat) : (s.blockLanes m c past owed).crews = s.crews := rfl
@[simp] theorem State.blockLanes_cores (m : Mask) (c : Cond) (past : Bool) (owed : List Nat) : (s.blockLanes m c past owed).cores = s.cores := rfl
@[simp] theorem State.blockLanes_groups (m : Mask) (c : Cond) (past : Bool) (owed : List Nat) : (s.blockLanes m c past owed).groups = s.groups := rfl
@[simp] theorem State.blockLanes_ctx (m : Mask) (c : Cond) (past : Bool) (owed : List Nat) : (s.blockLanes m c past owed).ctx = s.ctx := rfl
@[simp] theorem State.blockLanes_agenda (m : Mask) (c : Cond) (past : Bool) (owed : List Nat) : (s.blockLanes m c past owed).agenda = s.agenda := rfl
@[simp] theorem State.blockLanes_fresh (m : Mask) (c : Cond) (past : Bool) (owed : List Nat) : (s.blockLanes m c past owed).fresh = s.fresh := rfl
@[simp] theorem State.blockLanes_free (m : Mask) (c : Cond) (past : Bool) (owed : List Nat) : (s.blockLanes m c past owed).free = s.free := rfl

@[simp] theorem State.settle_dev : (s.settle).dev = s.dev := rfl
@[simp] theorem State.settle_hbm : (s.settle).hbm = s.hbm := rfl
@[simp] theorem State.settle_flow : (s.settle).flow = s.flow := rfl
@[simp] theorem State.settle_tenants : (s.settle).tenants = s.tenants := rfl
@[simp] theorem State.settle_nodes : (s.settle).nodes = s.nodes := rfl
@[simp] theorem State.settle_pool : (s.settle).pool = s.pool := rfl
@[simp] theorem State.settle_resumed : (s.settle).resumed = s.resumed := rfl
@[simp] theorem State.settle_crews : (s.settle).crews = s.crews := rfl
@[simp] theorem State.settle_cores : (s.settle).cores = s.cores := rfl
@[simp] theorem State.settle_ctx : (s.settle).ctx = s.ctx := rfl
@[simp] theorem State.settle_agenda : (s.settle).agenda = s.agenda := rfl
@[simp] theorem State.settle_fresh : (s.settle).fresh = s.fresh := rfl
@[simp] theorem State.settle_free : (s.settle).free = s.free := rfl

variable (g : Group)

@[simp] theorem Group.putV_id (n l : Nat) (x : Word) : (g.putV n l x).id = g.id := rfl
@[simp] theorem Group.putV_tn (n l : Nat) (x : Word) : (g.putV n l x).tn = g.tn := rfl
@[simp] theorem Group.putV_crew (n l : Nat) (x : Word) : (g.putV n l x).crew = g.crew := rfl
@[simp] theorem Group.putV_num (n l : Nat) (x : Word) : (g.putV n l x).num = g.num := rfl
@[simp] theorem Group.putV_core (n l : Nat) (x : Word) : (g.putV n l x).core = g.core := rfl
@[simp] theorem Group.putV_slot (n l : Nat) (x : Word) : (g.putV n l x).slot = g.slot := rfl
@[simp] theorem Group.putV_role (n l : Nat) (x : Word) : (g.putV n l x).role = g.role := rfl
@[simp] theorem Group.putV_budget (n l : Nat) (x : Word) : (g.putV n l x).budget = g.budget := rfl
@[simp] theorem Group.putV_mode (n l : Nat) (x : Word) : (g.putV n l x).mode = g.mode := rfl
@[simp] theorem Group.putV_depth (n l : Nat) (x : Word) : (g.putV n l x).depth = g.depth := rfl
@[simp] theorem Group.putV_lanes (n l : Nat) (x : Word) : (g.putV n l x).lanes = g.lanes := rfl
@[simp] theorem Group.putV_ended (n l : Nat) (x : Word) : (g.putV n l x).ended = g.ended := rfl
@[simp] theorem Group.putV_s (n l : Nat) (x : Word) : (g.putV n l x).s = g.s := rfl
@[simp] theorem Group.putV_g (n l : Nat) (x : Word) : (g.putV n l x).g = g.g := rfl
@[simp] theorem Group.putV_path (n l : Nat) (x : Word) : (g.putV n l x).path = g.path := rfl
@[simp] theorem Group.putV_sets (n l : Nat) (x : Word) : (g.putV n l x).sets = g.sets := rfl
@[simp] theorem Group.putV_saves (n l : Nat) (x : Word) : (g.putV n l x).saves = g.saves := rfl
@[simp] theorem Group.putV_ld (n l : Nat) (x : Word) : (g.putV n l x).ld = g.ld := rfl
@[simp] theorem Group.putV_st (n l : Nat) (x : Word) : (g.putV n l x).st = g.st := rfl
@[simp] theorem Group.putV_cp (n l : Nat) (x : Word) : (g.putV n l x).cp = g.cp := rfl
@[simp] theorem Group.putV_tl (n l : Nat) (x : Word) : (g.putV n l x).tl = g.tl := rfl
@[simp] theorem Group.putV_ltime (n l : Nat) (x : Word) : (g.putV n l x).ltime = g.ltime := rfl
@[simp] theorem Group.putV_due (n l : Nat) (x : Word) : (g.putV n l x).due = g.due := rfl
@[simp] theorem Group.putV_fmode (n l : Nat) (x : Word) : (g.putV n l x).fmode = g.fmode := rfl
@[simp] theorem Group.putV_fflags (n l : Nat) (x : Word) : (g.putV n l x).fflags = g.fflags := rfl
@[simp] theorem Group.putV_utvec (n l : Nat) (x : Word) : (g.putV n l x).utvec = g.utvec := rfl
@[simp] theorem Group.putV_utrap (n l : Nat) (x : Word) : (g.putV n l x).utrap = g.utrap := rfl
@[simp] theorem Group.putV_t1trap (n l : Nat) (x : Word) : (g.putV n l x).t1trap = g.t1trap := rfl
@[simp] theorem Group.putV_t2trap (n l : Nat) (x : Word) : (g.putV n l x).t2trap = g.t2trap := rfl
@[simp] theorem Group.putV_pend (n l : Nat) (x : Word) : (g.putV n l x).pend = g.pend := rfl
@[simp] theorem Group.putV_dropped (n l : Nat) (x : Word) : (g.putV n l x).dropped = g.dropped := rfl
@[simp] theorem Group.putV_csrw (n l : Nat) (x : Word) : (g.putV n l x).csrw = g.csrw := rfl
@[simp] theorem Group.putV_hold (n l : Nat) (x : Word) : (g.putV n l x).hold = g.hold := rfl
@[simp] theorem Group.putV_charge (n l : Nat) (x : Word) : (g.putV n l x).charge = g.charge := rfl
@[simp] theorem Group.putV_hostQ (n l : Nat) (x : Word) : (g.putV n l x).hostQ = g.hostQ := rfl
@[simp] theorem Group.putV_peerQ (n l : Nat) (x : Word) : (g.putV n l x).peerQ = g.peerQ := rfl
@[simp] theorem Group.putV_age (n l : Nat) (x : Word) : (g.putV n l x).age = g.age := rfl
@[simp] theorem Group.putV_ages (n l : Nat) (x : Word) : (g.putV n l x).ages = g.ages := rfl
@[simp] theorem Group.putV_seq (n l : Nat) (x : Word) : (g.putV n l x).seq = g.seq := rfl
@[simp] theorem Group.putV_notTill (n l : Nat) (x : Word) : (g.putV n l x).notTill = g.notTill := rfl
@[simp] theorem Group.putV_since (n l : Nat) (x : Word) : (g.putV n l x).since = g.since := rfl
@[simp] theorem Group.putV_saving (n l : Nat) (x : Word) : (g.putV n l x).saving = g.saving := rfl
@[simp] theorem Group.putV_deadAt (n l : Nat) (x : Word) : (g.putV n l x).deadAt = g.deadAt := rfl
@[simp] theorem Group.putV_restart (n l : Nat) (x : Word) : (g.putV n l x).restart = g.restart := rfl
@[simp] theorem Group.putV_stopped (n l : Nat) (x : Word) : (g.putV n l x).stopped = g.stopped := rfl

@[simp] theorem Group.setV_id (n : Nat) (m : Mask) (f : Nat → Word) : (g.setV n m f).id = g.id := rfl
@[simp] theorem Group.setV_tn (n : Nat) (m : Mask) (f : Nat → Word) : (g.setV n m f).tn = g.tn := rfl
@[simp] theorem Group.setV_crew (n : Nat) (m : Mask) (f : Nat → Word) : (g.setV n m f).crew = g.crew := rfl
@[simp] theorem Group.setV_num (n : Nat) (m : Mask) (f : Nat → Word) : (g.setV n m f).num = g.num := rfl
@[simp] theorem Group.setV_core (n : Nat) (m : Mask) (f : Nat → Word) : (g.setV n m f).core = g.core := rfl
@[simp] theorem Group.setV_slot (n : Nat) (m : Mask) (f : Nat → Word) : (g.setV n m f).slot = g.slot := rfl
@[simp] theorem Group.setV_role (n : Nat) (m : Mask) (f : Nat → Word) : (g.setV n m f).role = g.role := rfl
@[simp] theorem Group.setV_budget (n : Nat) (m : Mask) (f : Nat → Word) : (g.setV n m f).budget = g.budget := rfl
@[simp] theorem Group.setV_mode (n : Nat) (m : Mask) (f : Nat → Word) : (g.setV n m f).mode = g.mode := rfl
@[simp] theorem Group.setV_depth (n : Nat) (m : Mask) (f : Nat → Word) : (g.setV n m f).depth = g.depth := rfl
@[simp] theorem Group.setV_lanes (n : Nat) (m : Mask) (f : Nat → Word) : (g.setV n m f).lanes = g.lanes := rfl
@[simp] theorem Group.setV_ended (n : Nat) (m : Mask) (f : Nat → Word) : (g.setV n m f).ended = g.ended := rfl
@[simp] theorem Group.setV_s (n : Nat) (m : Mask) (f : Nat → Word) : (g.setV n m f).s = g.s := rfl
@[simp] theorem Group.setV_g (n : Nat) (m : Mask) (f : Nat → Word) : (g.setV n m f).g = g.g := rfl
@[simp] theorem Group.setV_path (n : Nat) (m : Mask) (f : Nat → Word) : (g.setV n m f).path = g.path := rfl
@[simp] theorem Group.setV_sets (n : Nat) (m : Mask) (f : Nat → Word) : (g.setV n m f).sets = g.sets := rfl
@[simp] theorem Group.setV_saves (n : Nat) (m : Mask) (f : Nat → Word) : (g.setV n m f).saves = g.saves := rfl
@[simp] theorem Group.setV_ld (n : Nat) (m : Mask) (f : Nat → Word) : (g.setV n m f).ld = g.ld := rfl
@[simp] theorem Group.setV_st (n : Nat) (m : Mask) (f : Nat → Word) : (g.setV n m f).st = g.st := rfl
@[simp] theorem Group.setV_cp (n : Nat) (m : Mask) (f : Nat → Word) : (g.setV n m f).cp = g.cp := rfl
@[simp] theorem Group.setV_tl (n : Nat) (m : Mask) (f : Nat → Word) : (g.setV n m f).tl = g.tl := rfl
@[simp] theorem Group.setV_ltime (n : Nat) (m : Mask) (f : Nat → Word) : (g.setV n m f).ltime = g.ltime := rfl
@[simp] theorem Group.setV_due (n : Nat) (m : Mask) (f : Nat → Word) : (g.setV n m f).due = g.due := rfl
@[simp] theorem Group.setV_fmode (n : Nat) (m : Mask) (f : Nat → Word) : (g.setV n m f).fmode = g.fmode := rfl
@[simp] theorem Group.setV_fflags (n : Nat) (m : Mask) (f : Nat → Word) : (g.setV n m f).fflags = g.fflags := rfl
@[simp] theorem Group.setV_utvec (n : Nat) (m : Mask) (f : Nat → Word) : (g.setV n m f).utvec = g.utvec := rfl
@[simp] theorem Group.setV_utrap (n : Nat) (m : Mask) (f : Nat → Word) : (g.setV n m f).utrap = g.utrap := rfl
@[simp] theorem Group.setV_t1trap (n : Nat) (m : Mask) (f : Nat → Word) : (g.setV n m f).t1trap = g.t1trap := rfl
@[simp] theorem Group.setV_t2trap (n : Nat) (m : Mask) (f : Nat → Word) : (g.setV n m f).t2trap = g.t2trap := rfl
@[simp] theorem Group.setV_pend (n : Nat) (m : Mask) (f : Nat → Word) : (g.setV n m f).pend = g.pend := rfl
@[simp] theorem Group.setV_dropped (n : Nat) (m : Mask) (f : Nat → Word) : (g.setV n m f).dropped = g.dropped := rfl
@[simp] theorem Group.setV_csrw (n : Nat) (m : Mask) (f : Nat → Word) : (g.setV n m f).csrw = g.csrw := rfl
@[simp] theorem Group.setV_hold (n : Nat) (m : Mask) (f : Nat → Word) : (g.setV n m f).hold = g.hold := rfl
@[simp] theorem Group.setV_charge (n : Nat) (m : Mask) (f : Nat → Word) : (g.setV n m f).charge = g.charge := rfl
@[simp] theorem Group.setV_hostQ (n : Nat) (m : Mask) (f : Nat → Word) : (g.setV n m f).hostQ = g.hostQ := rfl
@[simp] theorem Group.setV_peerQ (n : Nat) (m : Mask) (f : Nat → Word) : (g.setV n m f).peerQ = g.peerQ := rfl
@[simp] theorem Group.setV_age (n : Nat) (m : Mask) (f : Nat → Word) : (g.setV n m f).age = g.age := rfl
@[simp] theorem Group.setV_ages (n : Nat) (m : Mask) (f : Nat → Word) : (g.setV n m f).ages = g.ages := rfl
@[simp] theorem Group.setV_seq (n : Nat) (m : Mask) (f : Nat → Word) : (g.setV n m f).seq = g.seq := rfl
@[simp] theorem Group.setV_notTill (n : Nat) (m : Mask) (f : Nat → Word) : (g.setV n m f).notTill = g.notTill := rfl
@[simp] theorem Group.setV_since (n : Nat) (m : Mask) (f : Nat → Word) : (g.setV n m f).since = g.since := rfl
@[simp] theorem Group.setV_saving (n : Nat) (m : Mask) (f : Nat → Word) : (g.setV n m f).saving = g.saving := rfl
@[simp] theorem Group.setV_deadAt (n : Nat) (m : Mask) (f : Nat → Word) : (g.setV n m f).deadAt = g.deadAt := rfl
@[simp] theorem Group.setV_restart (n : Nat) (m : Mask) (f : Nat → Word) : (g.setV n m f).restart = g.restart := rfl
@[simp] theorem Group.setV_stopped (n : Nat) (m : Mask) (f : Nat → Word) : (g.setV n m f).stopped = g.stopped := rfl

@[simp] theorem Group.setV2_id (n : Nat) (m : Mask) (f : Nat → DWord) : (g.setV2 n m f).id = g.id := rfl
@[simp] theorem Group.setV2_tn (n : Nat) (m : Mask) (f : Nat → DWord) : (g.setV2 n m f).tn = g.tn := rfl
@[simp] theorem Group.setV2_crew (n : Nat) (m : Mask) (f : Nat → DWord) : (g.setV2 n m f).crew = g.crew := rfl
@[simp] theorem Group.setV2_num (n : Nat) (m : Mask) (f : Nat → DWord) : (g.setV2 n m f).num = g.num := rfl
@[simp] theorem Group.setV2_core (n : Nat) (m : Mask) (f : Nat → DWord) : (g.setV2 n m f).core = g.core := rfl
@[simp] theorem Group.setV2_slot (n : Nat) (m : Mask) (f : Nat → DWord) : (g.setV2 n m f).slot = g.slot := rfl
@[simp] theorem Group.setV2_role (n : Nat) (m : Mask) (f : Nat → DWord) : (g.setV2 n m f).role = g.role := rfl
@[simp] theorem Group.setV2_budget (n : Nat) (m : Mask) (f : Nat → DWord) : (g.setV2 n m f).budget = g.budget := rfl
@[simp] theorem Group.setV2_mode (n : Nat) (m : Mask) (f : Nat → DWord) : (g.setV2 n m f).mode = g.mode := rfl
@[simp] theorem Group.setV2_depth (n : Nat) (m : Mask) (f : Nat → DWord) : (g.setV2 n m f).depth = g.depth := rfl
@[simp] theorem Group.setV2_lanes (n : Nat) (m : Mask) (f : Nat → DWord) : (g.setV2 n m f).lanes = g.lanes := rfl
@[simp] theorem Group.setV2_ended (n : Nat) (m : Mask) (f : Nat → DWord) : (g.setV2 n m f).ended = g.ended := rfl
@[simp] theorem Group.setV2_s (n : Nat) (m : Mask) (f : Nat → DWord) : (g.setV2 n m f).s = g.s := rfl
@[simp] theorem Group.setV2_g (n : Nat) (m : Mask) (f : Nat → DWord) : (g.setV2 n m f).g = g.g := rfl
@[simp] theorem Group.setV2_path (n : Nat) (m : Mask) (f : Nat → DWord) : (g.setV2 n m f).path = g.path := rfl
@[simp] theorem Group.setV2_sets (n : Nat) (m : Mask) (f : Nat → DWord) : (g.setV2 n m f).sets = g.sets := rfl
@[simp] theorem Group.setV2_saves (n : Nat) (m : Mask) (f : Nat → DWord) : (g.setV2 n m f).saves = g.saves := rfl
@[simp] theorem Group.setV2_ld (n : Nat) (m : Mask) (f : Nat → DWord) : (g.setV2 n m f).ld = g.ld := rfl
@[simp] theorem Group.setV2_st (n : Nat) (m : Mask) (f : Nat → DWord) : (g.setV2 n m f).st = g.st := rfl
@[simp] theorem Group.setV2_cp (n : Nat) (m : Mask) (f : Nat → DWord) : (g.setV2 n m f).cp = g.cp := rfl
@[simp] theorem Group.setV2_tl (n : Nat) (m : Mask) (f : Nat → DWord) : (g.setV2 n m f).tl = g.tl := rfl
@[simp] theorem Group.setV2_ltime (n : Nat) (m : Mask) (f : Nat → DWord) : (g.setV2 n m f).ltime = g.ltime := rfl
@[simp] theorem Group.setV2_due (n : Nat) (m : Mask) (f : Nat → DWord) : (g.setV2 n m f).due = g.due := rfl
@[simp] theorem Group.setV2_fmode (n : Nat) (m : Mask) (f : Nat → DWord) : (g.setV2 n m f).fmode = g.fmode := rfl
@[simp] theorem Group.setV2_fflags (n : Nat) (m : Mask) (f : Nat → DWord) : (g.setV2 n m f).fflags = g.fflags := rfl
@[simp] theorem Group.setV2_utvec (n : Nat) (m : Mask) (f : Nat → DWord) : (g.setV2 n m f).utvec = g.utvec := rfl
@[simp] theorem Group.setV2_utrap (n : Nat) (m : Mask) (f : Nat → DWord) : (g.setV2 n m f).utrap = g.utrap := rfl
@[simp] theorem Group.setV2_t1trap (n : Nat) (m : Mask) (f : Nat → DWord) : (g.setV2 n m f).t1trap = g.t1trap := rfl
@[simp] theorem Group.setV2_t2trap (n : Nat) (m : Mask) (f : Nat → DWord) : (g.setV2 n m f).t2trap = g.t2trap := rfl
@[simp] theorem Group.setV2_pend (n : Nat) (m : Mask) (f : Nat → DWord) : (g.setV2 n m f).pend = g.pend := rfl
@[simp] theorem Group.setV2_dropped (n : Nat) (m : Mask) (f : Nat → DWord) : (g.setV2 n m f).dropped = g.dropped := rfl
@[simp] theorem Group.setV2_csrw (n : Nat) (m : Mask) (f : Nat → DWord) : (g.setV2 n m f).csrw = g.csrw := rfl
@[simp] theorem Group.setV2_hold (n : Nat) (m : Mask) (f : Nat → DWord) : (g.setV2 n m f).hold = g.hold := rfl
@[simp] theorem Group.setV2_charge (n : Nat) (m : Mask) (f : Nat → DWord) : (g.setV2 n m f).charge = g.charge := rfl
@[simp] theorem Group.setV2_hostQ (n : Nat) (m : Mask) (f : Nat → DWord) : (g.setV2 n m f).hostQ = g.hostQ := rfl
@[simp] theorem Group.setV2_peerQ (n : Nat) (m : Mask) (f : Nat → DWord) : (g.setV2 n m f).peerQ = g.peerQ := rfl
@[simp] theorem Group.setV2_age (n : Nat) (m : Mask) (f : Nat → DWord) : (g.setV2 n m f).age = g.age := rfl
@[simp] theorem Group.setV2_ages (n : Nat) (m : Mask) (f : Nat → DWord) : (g.setV2 n m f).ages = g.ages := rfl
@[simp] theorem Group.setV2_seq (n : Nat) (m : Mask) (f : Nat → DWord) : (g.setV2 n m f).seq = g.seq := rfl
@[simp] theorem Group.setV2_notTill (n : Nat) (m : Mask) (f : Nat → DWord) : (g.setV2 n m f).notTill = g.notTill := rfl
@[simp] theorem Group.setV2_since (n : Nat) (m : Mask) (f : Nat → DWord) : (g.setV2 n m f).since = g.since := rfl
@[simp] theorem Group.setV2_saving (n : Nat) (m : Mask) (f : Nat → DWord) : (g.setV2 n m f).saving = g.saving := rfl
@[simp] theorem Group.setV2_deadAt (n : Nat) (m : Mask) (f : Nat → DWord) : (g.setV2 n m f).deadAt = g.deadAt := rfl
@[simp] theorem Group.setV2_restart (n : Nat) (m : Mask) (f : Nat → DWord) : (g.setV2 n m f).restart = g.restart := rfl
@[simp] theorem Group.setV2_stopped (n : Nat) (m : Mask) (f : Nat → DWord) : (g.setV2 n m f).stopped = g.stopped := rfl

/-! Writes that register 0 discards leave the other fields in either case. -/


@[simp] theorem Group.setS_id (n : Nat) (x : Word) : (g.setS n x).id = g.id := by unfold Group.setS; split <;> rfl
@[simp] theorem Group.setS_tn (n : Nat) (x : Word) : (g.setS n x).tn = g.tn := by unfold Group.setS; split <;> rfl
@[simp] theorem Group.setS_crew (n : Nat) (x : Word) : (g.setS n x).crew = g.crew := by unfold Group.setS; split <;> rfl
@[simp] theorem Group.setS_num (n : Nat) (x : Word) : (g.setS n x).num = g.num := by unfold Group.setS; split <;> rfl
@[simp] theorem Group.setS_core (n : Nat) (x : Word) : (g.setS n x).core = g.core := by unfold Group.setS; split <;> rfl
@[simp] theorem Group.setS_slot (n : Nat) (x : Word) : (g.setS n x).slot = g.slot := by unfold Group.setS; split <;> rfl
@[simp] theorem Group.setS_role (n : Nat) (x : Word) : (g.setS n x).role = g.role := by unfold Group.setS; split <;> rfl
@[simp] theorem Group.setS_budget (n : Nat) (x : Word) : (g.setS n x).budget = g.budget := by unfold Group.setS; split <;> rfl
@[simp] theorem Group.setS_mode (n : Nat) (x : Word) : (g.setS n x).mode = g.mode := by unfold Group.setS; split <;> rfl
@[simp] theorem Group.setS_depth (n : Nat) (x : Word) : (g.setS n x).depth = g.depth := by unfold Group.setS; split <;> rfl
@[simp] theorem Group.setS_lanes (n : Nat) (x : Word) : (g.setS n x).lanes = g.lanes := by unfold Group.setS; split <;> rfl
@[simp] theorem Group.setS_ended (n : Nat) (x : Word) : (g.setS n x).ended = g.ended := by unfold Group.setS; split <;> rfl
@[simp] theorem Group.setS_v (n : Nat) (x : Word) : (g.setS n x).v = g.v := by unfold Group.setS; split <;> rfl
@[simp] theorem Group.setS_g (n : Nat) (x : Word) : (g.setS n x).g = g.g := by unfold Group.setS; split <;> rfl
@[simp] theorem Group.setS_path (n : Nat) (x : Word) : (g.setS n x).path = g.path := by unfold Group.setS; split <;> rfl
@[simp] theorem Group.setS_sets (n : Nat) (x : Word) : (g.setS n x).sets = g.sets := by unfold Group.setS; split <;> rfl
@[simp] theorem Group.setS_saves (n : Nat) (x : Word) : (g.setS n x).saves = g.saves := by unfold Group.setS; split <;> rfl
@[simp] theorem Group.setS_ld (n : Nat) (x : Word) : (g.setS n x).ld = g.ld := by unfold Group.setS; split <;> rfl
@[simp] theorem Group.setS_st (n : Nat) (x : Word) : (g.setS n x).st = g.st := by unfold Group.setS; split <;> rfl
@[simp] theorem Group.setS_cp (n : Nat) (x : Word) : (g.setS n x).cp = g.cp := by unfold Group.setS; split <;> rfl
@[simp] theorem Group.setS_tl (n : Nat) (x : Word) : (g.setS n x).tl = g.tl := by unfold Group.setS; split <;> rfl
@[simp] theorem Group.setS_ltime (n : Nat) (x : Word) : (g.setS n x).ltime = g.ltime := by unfold Group.setS; split <;> rfl
@[simp] theorem Group.setS_due (n : Nat) (x : Word) : (g.setS n x).due = g.due := by unfold Group.setS; split <;> rfl
@[simp] theorem Group.setS_fmode (n : Nat) (x : Word) : (g.setS n x).fmode = g.fmode := by unfold Group.setS; split <;> rfl
@[simp] theorem Group.setS_fflags (n : Nat) (x : Word) : (g.setS n x).fflags = g.fflags := by unfold Group.setS; split <;> rfl
@[simp] theorem Group.setS_utvec (n : Nat) (x : Word) : (g.setS n x).utvec = g.utvec := by unfold Group.setS; split <;> rfl
@[simp] theorem Group.setS_utrap (n : Nat) (x : Word) : (g.setS n x).utrap = g.utrap := by unfold Group.setS; split <;> rfl
@[simp] theorem Group.setS_t1trap (n : Nat) (x : Word) : (g.setS n x).t1trap = g.t1trap := by unfold Group.setS; split <;> rfl
@[simp] theorem Group.setS_t2trap (n : Nat) (x : Word) : (g.setS n x).t2trap = g.t2trap := by unfold Group.setS; split <;> rfl
@[simp] theorem Group.setS_pend (n : Nat) (x : Word) : (g.setS n x).pend = g.pend := by unfold Group.setS; split <;> rfl
@[simp] theorem Group.setS_dropped (n : Nat) (x : Word) : (g.setS n x).dropped = g.dropped := by unfold Group.setS; split <;> rfl
@[simp] theorem Group.setS_csrw (n : Nat) (x : Word) : (g.setS n x).csrw = g.csrw := by unfold Group.setS; split <;> rfl
@[simp] theorem Group.setS_hold (n : Nat) (x : Word) : (g.setS n x).hold = g.hold := by unfold Group.setS; split <;> rfl
@[simp] theorem Group.setS_charge (n : Nat) (x : Word) : (g.setS n x).charge = g.charge := by unfold Group.setS; split <;> rfl
@[simp] theorem Group.setS_hostQ (n : Nat) (x : Word) : (g.setS n x).hostQ = g.hostQ := by unfold Group.setS; split <;> rfl
@[simp] theorem Group.setS_peerQ (n : Nat) (x : Word) : (g.setS n x).peerQ = g.peerQ := by unfold Group.setS; split <;> rfl
@[simp] theorem Group.setS_age (n : Nat) (x : Word) : (g.setS n x).age = g.age := by unfold Group.setS; split <;> rfl
@[simp] theorem Group.setS_ages (n : Nat) (x : Word) : (g.setS n x).ages = g.ages := by unfold Group.setS; split <;> rfl
@[simp] theorem Group.setS_seq (n : Nat) (x : Word) : (g.setS n x).seq = g.seq := by unfold Group.setS; split <;> rfl
@[simp] theorem Group.setS_notTill (n : Nat) (x : Word) : (g.setS n x).notTill = g.notTill := by unfold Group.setS; split <;> rfl
@[simp] theorem Group.setS_since (n : Nat) (x : Word) : (g.setS n x).since = g.since := by unfold Group.setS; split <;> rfl
@[simp] theorem Group.setS_saving (n : Nat) (x : Word) : (g.setS n x).saving = g.saving := by unfold Group.setS; split <;> rfl
@[simp] theorem Group.setS_deadAt (n : Nat) (x : Word) : (g.setS n x).deadAt = g.deadAt := by unfold Group.setS; split <;> rfl
@[simp] theorem Group.setS_restart (n : Nat) (x : Word) : (g.setS n x).restart = g.restart := by unfold Group.setS; split <;> rfl
@[simp] theorem Group.setS_stopped (n : Nat) (x : Word) : (g.setS n x).stopped = g.stopped := by unfold Group.setS; split <;> rfl

@[simp] theorem Group.setG_id (n : Nat) (m x : Mask) : (g.setG n m x).id = g.id := by unfold Group.setG; split <;> rfl
@[simp] theorem Group.setG_tn (n : Nat) (m x : Mask) : (g.setG n m x).tn = g.tn := by unfold Group.setG; split <;> rfl
@[simp] theorem Group.setG_crew (n : Nat) (m x : Mask) : (g.setG n m x).crew = g.crew := by unfold Group.setG; split <;> rfl
@[simp] theorem Group.setG_num (n : Nat) (m x : Mask) : (g.setG n m x).num = g.num := by unfold Group.setG; split <;> rfl
@[simp] theorem Group.setG_core (n : Nat) (m x : Mask) : (g.setG n m x).core = g.core := by unfold Group.setG; split <;> rfl
@[simp] theorem Group.setG_slot (n : Nat) (m x : Mask) : (g.setG n m x).slot = g.slot := by unfold Group.setG; split <;> rfl
@[simp] theorem Group.setG_role (n : Nat) (m x : Mask) : (g.setG n m x).role = g.role := by unfold Group.setG; split <;> rfl
@[simp] theorem Group.setG_budget (n : Nat) (m x : Mask) : (g.setG n m x).budget = g.budget := by unfold Group.setG; split <;> rfl
@[simp] theorem Group.setG_mode (n : Nat) (m x : Mask) : (g.setG n m x).mode = g.mode := by unfold Group.setG; split <;> rfl
@[simp] theorem Group.setG_depth (n : Nat) (m x : Mask) : (g.setG n m x).depth = g.depth := by unfold Group.setG; split <;> rfl
@[simp] theorem Group.setG_lanes (n : Nat) (m x : Mask) : (g.setG n m x).lanes = g.lanes := by unfold Group.setG; split <;> rfl
@[simp] theorem Group.setG_ended (n : Nat) (m x : Mask) : (g.setG n m x).ended = g.ended := by unfold Group.setG; split <;> rfl
@[simp] theorem Group.setG_v (n : Nat) (m x : Mask) : (g.setG n m x).v = g.v := by unfold Group.setG; split <;> rfl
@[simp] theorem Group.setG_s (n : Nat) (m x : Mask) : (g.setG n m x).s = g.s := by unfold Group.setG; split <;> rfl
@[simp] theorem Group.setG_path (n : Nat) (m x : Mask) : (g.setG n m x).path = g.path := by unfold Group.setG; split <;> rfl
@[simp] theorem Group.setG_sets (n : Nat) (m x : Mask) : (g.setG n m x).sets = g.sets := by unfold Group.setG; split <;> rfl
@[simp] theorem Group.setG_saves (n : Nat) (m x : Mask) : (g.setG n m x).saves = g.saves := by unfold Group.setG; split <;> rfl
@[simp] theorem Group.setG_ld (n : Nat) (m x : Mask) : (g.setG n m x).ld = g.ld := by unfold Group.setG; split <;> rfl
@[simp] theorem Group.setG_st (n : Nat) (m x : Mask) : (g.setG n m x).st = g.st := by unfold Group.setG; split <;> rfl
@[simp] theorem Group.setG_cp (n : Nat) (m x : Mask) : (g.setG n m x).cp = g.cp := by unfold Group.setG; split <;> rfl
@[simp] theorem Group.setG_tl (n : Nat) (m x : Mask) : (g.setG n m x).tl = g.tl := by unfold Group.setG; split <;> rfl
@[simp] theorem Group.setG_ltime (n : Nat) (m x : Mask) : (g.setG n m x).ltime = g.ltime := by unfold Group.setG; split <;> rfl
@[simp] theorem Group.setG_due (n : Nat) (m x : Mask) : (g.setG n m x).due = g.due := by unfold Group.setG; split <;> rfl
@[simp] theorem Group.setG_fmode (n : Nat) (m x : Mask) : (g.setG n m x).fmode = g.fmode := by unfold Group.setG; split <;> rfl
@[simp] theorem Group.setG_fflags (n : Nat) (m x : Mask) : (g.setG n m x).fflags = g.fflags := by unfold Group.setG; split <;> rfl
@[simp] theorem Group.setG_utvec (n : Nat) (m x : Mask) : (g.setG n m x).utvec = g.utvec := by unfold Group.setG; split <;> rfl
@[simp] theorem Group.setG_utrap (n : Nat) (m x : Mask) : (g.setG n m x).utrap = g.utrap := by unfold Group.setG; split <;> rfl
@[simp] theorem Group.setG_t1trap (n : Nat) (m x : Mask) : (g.setG n m x).t1trap = g.t1trap := by unfold Group.setG; split <;> rfl
@[simp] theorem Group.setG_t2trap (n : Nat) (m x : Mask) : (g.setG n m x).t2trap = g.t2trap := by unfold Group.setG; split <;> rfl
@[simp] theorem Group.setG_pend (n : Nat) (m x : Mask) : (g.setG n m x).pend = g.pend := by unfold Group.setG; split <;> rfl
@[simp] theorem Group.setG_dropped (n : Nat) (m x : Mask) : (g.setG n m x).dropped = g.dropped := by unfold Group.setG; split <;> rfl
@[simp] theorem Group.setG_csrw (n : Nat) (m x : Mask) : (g.setG n m x).csrw = g.csrw := by unfold Group.setG; split <;> rfl
@[simp] theorem Group.setG_hold (n : Nat) (m x : Mask) : (g.setG n m x).hold = g.hold := by unfold Group.setG; split <;> rfl
@[simp] theorem Group.setG_charge (n : Nat) (m x : Mask) : (g.setG n m x).charge = g.charge := by unfold Group.setG; split <;> rfl
@[simp] theorem Group.setG_hostQ (n : Nat) (m x : Mask) : (g.setG n m x).hostQ = g.hostQ := by unfold Group.setG; split <;> rfl
@[simp] theorem Group.setG_peerQ (n : Nat) (m x : Mask) : (g.setG n m x).peerQ = g.peerQ := by unfold Group.setG; split <;> rfl
@[simp] theorem Group.setG_age (n : Nat) (m x : Mask) : (g.setG n m x).age = g.age := by unfold Group.setG; split <;> rfl
@[simp] theorem Group.setG_ages (n : Nat) (m x : Mask) : (g.setG n m x).ages = g.ages := by unfold Group.setG; split <;> rfl
@[simp] theorem Group.setG_seq (n : Nat) (m x : Mask) : (g.setG n m x).seq = g.seq := by unfold Group.setG; split <;> rfl
@[simp] theorem Group.setG_notTill (n : Nat) (m x : Mask) : (g.setG n m x).notTill = g.notTill := by unfold Group.setG; split <;> rfl
@[simp] theorem Group.setG_since (n : Nat) (m x : Mask) : (g.setG n m x).since = g.since := by unfold Group.setG; split <;> rfl
@[simp] theorem Group.setG_saving (n : Nat) (m x : Mask) : (g.setG n m x).saving = g.saving := by unfold Group.setG; split <;> rfl
@[simp] theorem Group.setG_deadAt (n : Nat) (m x : Mask) : (g.setG n m x).deadAt = g.deadAt := by unfold Group.setG; split <;> rfl
@[simp] theorem Group.setG_restart (n : Nat) (m x : Mask) : (g.setG n m x).restart = g.restart := by unfold Group.setG; split <;> rfl
@[simp] theorem Group.setG_stopped (n : Nat) (m x : Mask) : (g.setG n m x).stopped = g.stopped := by unfold Group.setG; split <;> rfl

/-! ## Lookups -/

/-- What a changed core holds; the other cores are as before. -/
@[simp] theorem State.mapCore_hbm (n : Nat) (f : Core → Core) : (s.mapCore n f).hbm = s.hbm := by unfold State.mapCore; split <;> rfl
@[simp] theorem State.mapCore_dev (n : Nat) (f : Core → Core) : (s.mapCore n f).dev = s.dev := by unfold State.mapCore; split <;> rfl
@[simp] theorem State.mapCore_flow (n : Nat) (f : Core → Core) : (s.mapCore n f).flow = s.flow := by unfold State.mapCore; split <;> rfl
@[simp] theorem State.mapCore_cur (n : Nat) (f : Core → Core) : (s.mapCore n f).cur = s.cur := by unfold State.mapCore; split <;> rfl
@[simp] theorem State.mapCore_groups (n : Nat) (f : Core → Core) : (s.mapCore n f).groups = s.groups := by
  unfold State.mapCore; split <;> rfl
@[simp] theorem State.mapCore_tenants (n : Nat) (f : Core → Core) : (s.mapCore n f).tenants = s.tenants := by
  unfold State.mapCore; split <;> rfl
@[simp] theorem State.mapCore_crews (n : Nat) (f : Core → Core) : (s.mapCore n f).crews = s.crews := by
  unfold State.mapCore; split <;> rfl
@[simp] theorem State.mapCore_nodes (n : Nat) (f : Core → Core) : (s.mapCore n f).nodes = s.nodes := by
  unfold State.mapCore; split <;> rfl
@[simp] theorem State.mapCore_ctx (n : Nat) (f : Core → Core) : (s.mapCore n f).ctx = s.ctx := by unfold State.mapCore; split <;> rfl
@[simp] theorem State.mapCore_agenda (n : Nat) (f : Core → Core) : (s.mapCore n f).agenda = s.agenda := by
  unfold State.mapCore; split <;> rfl

/-- Finding by a key in a list changed at one key by a change that keeps keys. -/
theorem find_map_key {α : Type} (l : List α) (key : α → Nat) (id : Nat) (f : α → α) (hk : ∀ x, key (f x) = key x) (j : Nat) :
    (l.map fun x => if key x == id then f x else x).find? (key · == j) =
      if j = id then (l.find? (key · == j)).map f else l.find? (key · == j) := by
  induction l with
  | nil => simp
  | cons a t ih =>
    simp only [List.map_cons, List.find?_cons]
    have hka : key (if key a == id then f a else a) = key a := by split <;> simp [hk]
    rw [hka]
    by_cases h1 : key a == j
    · simp only [h1]
      have : key a = j := by simpa using h1
      by_cases h2 : j = id
      · simp [this, h2]
      · simp [this, h2]
    · simp only [h1]
      exact ih

/-- The tenant found after one tenant has changed. -/
theorem State.tenant_mapTenant (id : Nat) (f : Tenant → Tenant) (hk : ∀ t, (f t).id = t.id) (j : Nat) :
    (s.mapTenant id f).tenant j =
      if j = id then ((s.tenants.find? (·.id == j)).map f).getD Tenant.blank else s.tenant j := by
  unfold State.tenant
  rw [State.mapTenant_tenants, find_map_key s.tenants (·.id) id f hk j]
  split <;> rfl

/-- The crew found after one crew has changed. -/
theorem State.crew_mapCrew (id : Nat) (f : Crew → Crew) (hk : ∀ t, (f t).id = t.id) (j : Nat) :
    (s.mapCrew id f).crew j = if j = id then ((s.crews.find? (·.id == j)).map f).getD Crew.blank else s.crew j := by
  unfold State.crew
  rw [State.mapCrew_crews, find_map_key s.crews (·.id) id f hk j]
  split <;> rfl

/-- The node found after one node has changed. -/
theorem State.node_mapNode (id : Nat) (f : Node → Node) (hk : ∀ t, (f t).id = t.id) (j : Nat) :
    (s.mapNode id f).node j = if j = id then ((s.nodes.find? (·.id == j)).map f).getD Node.blank else s.node j := by
  unfold State.node
  rw [State.mapNode_nodes, find_map_key s.nodes (·.id) id f hk j]
  split <;> rfl

/-- The core found after one core has changed. -/
theorem State.core_mapCore (n : Nat) (f : Core → Core) (hk : ∀ c, (f c).num = c.num) (j : Nat) :
    (s.mapCore n f).core j = if j = n then f (s.core j) else s.core j := by
  unfold State.mapCore State.core
  split
  · rename_i h
    rw [show ({ s with cores := s.cores.map fun c => if c.num == n then f c else c } : State).cores =
      s.cores.map fun c => if c.num == n then f c else c from rfl, find_map_key s.cores (·.num) n f hk j]
    by_cases hj : j = n
    · subst hj
      obtain ⟨c, hc⟩ : ∃ c, s.cores.find? (·.num == j) = some c := by
        obtain ⟨c, hm, hc⟩ := List.any_eq_true.1 h
        exact Option.isSome_iff_exists.1 (List.find?_isSome.2 ⟨c, hm, hc⟩)
      simp [hc]
    · simp [hj]
  · rename_i h
    have hn : s.cores.find? (·.num == n) = none := by
      rw [List.find?_eq_none]
      intro c hc hcn
      exact h (List.any_eq_true.2 ⟨c, hc, hcn⟩)
    rw [List.find?_append]
    by_cases hj : j = n
    · subst hj
      rw [hn]
      have h0 : (f (Core.empty j)).num = j := by rw [hk]; rfl
      simp [h0]
    · have h0 : (f (Core.empty n)).num = n := by rw [hk]; rfl
      have : ¬ n = j := fun e => hj e.symm
      cases hf : s.cores.find? (·.num == j) <;> simp [h0, hj, this]

end Sys2Proof.Machine
end

