-- ==== Sys2Proof/Laws/Updates.lean ====
section
/-!
SUPPORT. The fields of the state after the updates of homes, words, requests, basins, barriers, rings, images and the health record:
one lemma for each field that an update leaves, and what it makes of the others.
-/

namespace Sys2Proof.Machine

variable (s : State)

@[simp] theorem State.mapHome_dev (k : HomeKey) (f : Home → Home) : (s.mapHome k f).dev = s.dev := rfl
@[simp] theorem State.mapHome_hbm (k : HomeKey) (f : Home → Home) : (s.mapHome k f).hbm = s.hbm := rfl
@[simp] theorem State.mapHome_tenants (k : HomeKey) (f : Home → Home) : (s.mapHome k f).tenants = s.tenants := rfl
@[simp] theorem State.mapHome_nodes (k : HomeKey) (f : Home → Home) : (s.mapHome k f).nodes = s.nodes := rfl
@[simp] theorem State.mapHome_pool (k : HomeKey) (f : Home → Home) : (s.mapHome k f).pool = s.pool := rfl
@[simp] theorem State.mapHome_resumed (k : HomeKey) (f : Home → Home) : (s.mapHome k f).resumed = s.resumed := rfl
@[simp] theorem State.mapHome_crews (k : HomeKey) (f : Home → Home) : (s.mapHome k f).crews = s.crews := rfl
@[simp] theorem State.mapHome_cores (k : HomeKey) (f : Home → Home) : (s.mapHome k f).cores = s.cores := rfl
@[simp] theorem State.mapHome_cur (k : HomeKey) (f : Home → Home) : (s.mapHome k f).cur = s.cur := rfl
@[simp] theorem State.mapHome_groups (k : HomeKey) (f : Home → Home) : (s.mapHome k f).groups = s.groups := rfl
@[simp] theorem State.mapHome_ctx (k : HomeKey) (f : Home → Home) : (s.mapHome k f).ctx = s.ctx := rfl
@[simp] theorem State.mapHome_agenda (k : HomeKey) (f : Home → Home) : (s.mapHome k f).agenda = s.agenda := rfl
@[simp] theorem State.mapHome_fresh (k : HomeKey) (f : Home → Home) : (s.mapHome k f).fresh = s.fresh := rfl
@[simp] theorem State.mapHome_free (k : HomeKey) (f : Home → Home) : (s.mapHome k f).free = s.free := rfl

@[simp] theorem State.mapWord_dev (id : Nat) (f : PendWord → PendWord) : (s.mapWord id f).dev = s.dev := rfl
@[simp] theorem State.mapWord_hbm (id : Nat) (f : PendWord → PendWord) : (s.mapWord id f).hbm = s.hbm := rfl
@[simp] theorem State.mapWord_tenants (id : Nat) (f : PendWord → PendWord) : (s.mapWord id f).tenants = s.tenants := rfl
@[simp] theorem State.mapWord_nodes (id : Nat) (f : PendWord → PendWord) : (s.mapWord id f).nodes = s.nodes := rfl
@[simp] theorem State.mapWord_pool (id : Nat) (f : PendWord → PendWord) : (s.mapWord id f).pool = s.pool := rfl
@[simp] theorem State.mapWord_resumed (id : Nat) (f : PendWord → PendWord) : (s.mapWord id f).resumed = s.resumed := rfl
@[simp] theorem State.mapWord_crews (id : Nat) (f : PendWord → PendWord) : (s.mapWord id f).crews = s.crews := rfl
@[simp] theorem State.mapWord_cores (id : Nat) (f : PendWord → PendWord) : (s.mapWord id f).cores = s.cores := rfl
@[simp] theorem State.mapWord_cur (id : Nat) (f : PendWord → PendWord) : (s.mapWord id f).cur = s.cur := rfl
@[simp] theorem State.mapWord_groups (id : Nat) (f : PendWord → PendWord) : (s.mapWord id f).groups = s.groups := rfl
@[simp] theorem State.mapWord_ctx (id : Nat) (f : PendWord → PendWord) : (s.mapWord id f).ctx = s.ctx := rfl
@[simp] theorem State.mapWord_agenda (id : Nat) (f : PendWord → PendWord) : (s.mapWord id f).agenda = s.agenda := rfl
@[simp] theorem State.mapWord_fresh (id : Nat) (f : PendWord → PendWord) : (s.mapWord id f).fresh = s.fresh := rfl
@[simp] theorem State.mapWord_free (id : Nat) (f : PendWord → PendWord) : (s.mapWord id f).free = s.free := rfl

@[simp] theorem State.mapReq_dev (id : Nat) (f : HostReq → HostReq) : (s.mapReq id f).dev = s.dev := rfl
@[simp] theorem State.mapReq_hbm (id : Nat) (f : HostReq → HostReq) : (s.mapReq id f).hbm = s.hbm := rfl
@[simp] theorem State.mapReq_tenants (id : Nat) (f : HostReq → HostReq) : (s.mapReq id f).tenants = s.tenants := rfl
@[simp] theorem State.mapReq_nodes (id : Nat) (f : HostReq → HostReq) : (s.mapReq id f).nodes = s.nodes := rfl
@[simp] theorem State.mapReq_pool (id : Nat) (f : HostReq → HostReq) : (s.mapReq id f).pool = s.pool := rfl
@[simp] theorem State.mapReq_resumed (id : Nat) (f : HostReq → HostReq) : (s.mapReq id f).resumed = s.resumed := rfl
@[simp] theorem State.mapReq_crews (id : Nat) (f : HostReq → HostReq) : (s.mapReq id f).crews = s.crews := rfl
@[simp] theorem State.mapReq_cores (id : Nat) (f : HostReq → HostReq) : (s.mapReq id f).cores = s.cores := rfl
@[simp] theorem State.mapReq_cur (id : Nat) (f : HostReq → HostReq) : (s.mapReq id f).cur = s.cur := rfl
@[simp] theorem State.mapReq_groups (id : Nat) (f : HostReq → HostReq) : (s.mapReq id f).groups = s.groups := rfl
@[simp] theorem State.mapReq_ctx (id : Nat) (f : HostReq → HostReq) : (s.mapReq id f).ctx = s.ctx := rfl
@[simp] theorem State.mapReq_agenda (id : Nat) (f : HostReq → HostReq) : (s.mapReq id f).agenda = s.agenda := rfl
@[simp] theorem State.mapReq_fresh (id : Nat) (f : HostReq → HostReq) : (s.mapReq id f).fresh = s.fresh := rfl
@[simp] theorem State.mapReq_free (id : Nat) (f : HostReq → HostReq) : (s.mapReq id f).free = s.free := rfl

@[simp] theorem State.mapBasin_dev (tn bs : Nat) (f : Basin → Basin) : (s.mapBasin tn bs f).dev = s.dev := rfl
@[simp] theorem State.mapBasin_hbm (tn bs : Nat) (f : Basin → Basin) : (s.mapBasin tn bs f).hbm = s.hbm := rfl
@[simp] theorem State.mapBasin_flow (tn bs : Nat) (f : Basin → Basin) : (s.mapBasin tn bs f).flow = s.flow := rfl
@[simp] theorem State.mapBasin_nodes (tn bs : Nat) (f : Basin → Basin) : (s.mapBasin tn bs f).nodes = s.nodes := rfl
@[simp] theorem State.mapBasin_pool (tn bs : Nat) (f : Basin → Basin) : (s.mapBasin tn bs f).pool = s.pool := rfl
@[simp] theorem State.mapBasin_resumed (tn bs : Nat) (f : Basin → Basin) : (s.mapBasin tn bs f).resumed = s.resumed := rfl
@[simp] theorem State.mapBasin_crews (tn bs : Nat) (f : Basin → Basin) : (s.mapBasin tn bs f).crews = s.crews := rfl
@[simp] theorem State.mapBasin_cores (tn bs : Nat) (f : Basin → Basin) : (s.mapBasin tn bs f).cores = s.cores := rfl
@[simp] theorem State.mapBasin_cur (tn bs : Nat) (f : Basin → Basin) : (s.mapBasin tn bs f).cur = s.cur := rfl
@[simp] theorem State.mapBasin_groups (tn bs : Nat) (f : Basin → Basin) : (s.mapBasin tn bs f).groups = s.groups := rfl
@[simp] theorem State.mapBasin_ctx (tn bs : Nat) (f : Basin → Basin) : (s.mapBasin tn bs f).ctx = s.ctx := rfl
@[simp] theorem State.mapBasin_agenda (tn bs : Nat) (f : Basin → Basin) : (s.mapBasin tn bs f).agenda = s.agenda := rfl
@[simp] theorem State.mapBasin_fresh (tn bs : Nat) (f : Basin → Basin) : (s.mapBasin tn bs f).fresh = s.fresh := rfl
@[simp] theorem State.mapBasin_free (tn bs : Nat) (f : Basin → Basin) : (s.mapBasin tn bs f).free = s.free := rfl

@[simp] theorem State.mapBar_dev (crew n : Nat) (f : Barrier → Barrier) : (s.mapBar crew n f).dev = s.dev := rfl
@[simp] theorem State.mapBar_hbm (crew n : Nat) (f : Barrier → Barrier) : (s.mapBar crew n f).hbm = s.hbm := rfl
@[simp] theorem State.mapBar_flow (crew n : Nat) (f : Barrier → Barrier) : (s.mapBar crew n f).flow = s.flow := rfl
@[simp] theorem State.mapBar_tenants (crew n : Nat) (f : Barrier → Barrier) : (s.mapBar crew n f).tenants = s.tenants := rfl
@[simp] theorem State.mapBar_nodes (crew n : Nat) (f : Barrier → Barrier) : (s.mapBar crew n f).nodes = s.nodes := rfl
@[simp] theorem State.mapBar_pool (crew n : Nat) (f : Barrier → Barrier) : (s.mapBar crew n f).pool = s.pool := rfl
@[simp] theorem State.mapBar_resumed (crew n : Nat) (f : Barrier → Barrier) : (s.mapBar crew n f).resumed = s.resumed := rfl
@[simp] theorem State.mapBar_cores (crew n : Nat) (f : Barrier → Barrier) : (s.mapBar crew n f).cores = s.cores := rfl
@[simp] theorem State.mapBar_cur (crew n : Nat) (f : Barrier → Barrier) : (s.mapBar crew n f).cur = s.cur := rfl
@[simp] theorem State.mapBar_groups (crew n : Nat) (f : Barrier → Barrier) : (s.mapBar crew n f).groups = s.groups := rfl
@[simp] theorem State.mapBar_ctx (crew n : Nat) (f : Barrier → Barrier) : (s.mapBar crew n f).ctx = s.ctx := rfl
@[simp] theorem State.mapBar_agenda (crew n : Nat) (f : Barrier → Barrier) : (s.mapBar crew n f).agenda = s.agenda := rfl
@[simp] theorem State.mapBar_fresh (crew n : Nat) (f : Barrier → Barrier) : (s.mapBar crew n f).fresh = s.fresh := rfl
@[simp] theorem State.mapBar_free (crew n : Nat) (f : Barrier → Barrier) : (s.mapBar crew n f).free = s.free := rfl

@[simp] theorem State.mapRing_dev (crew n : Nat) (f : Ring → Ring) : (s.mapRing crew n f).dev = s.dev := rfl
@[simp] theorem State.mapRing_hbm (crew n : Nat) (f : Ring → Ring) : (s.mapRing crew n f).hbm = s.hbm := rfl
@[simp] theorem State.mapRing_flow (crew n : Nat) (f : Ring → Ring) : (s.mapRing crew n f).flow = s.flow := rfl
@[simp] theorem State.mapRing_tenants (crew n : Nat) (f : Ring → Ring) : (s.mapRing crew n f).tenants = s.tenants := rfl
@[simp] theorem State.mapRing_nodes (crew n : Nat) (f : Ring → Ring) : (s.mapRing crew n f).nodes = s.nodes := rfl
@[simp] theorem State.mapRing_pool (crew n : Nat) (f : Ring → Ring) : (s.mapRing crew n f).pool = s.pool := rfl
@[simp] theorem State.mapRing_resumed (crew n : Nat) (f : Ring → Ring) : (s.mapRing crew n f).resumed = s.resumed := rfl
@[simp] theorem State.mapRing_cores (crew n : Nat) (f : Ring → Ring) : (s.mapRing crew n f).cores = s.cores := rfl
@[simp] theorem State.mapRing_cur (crew n : Nat) (f : Ring → Ring) : (s.mapRing crew n f).cur = s.cur := rfl
@[simp] theorem State.mapRing_groups (crew n : Nat) (f : Ring → Ring) : (s.mapRing crew n f).groups = s.groups := rfl
@[simp] theorem State.mapRing_ctx (crew n : Nat) (f : Ring → Ring) : (s.mapRing crew n f).ctx = s.ctx := rfl
@[simp] theorem State.mapRing_agenda (crew n : Nat) (f : Ring → Ring) : (s.mapRing crew n f).agenda = s.agenda := rfl
@[simp] theorem State.mapRing_fresh (crew n : Nat) (f : Ring → Ring) : (s.mapRing crew n f).fresh = s.fresh := rfl
@[simp] theorem State.mapRing_free (crew n : Nat) (f : Ring → Ring) : (s.mapRing crew n f).free = s.free := rfl

@[simp] theorem State.mapImages_hbm (f : Image → Image) : (s.mapImages f).hbm = s.hbm := rfl
@[simp] theorem State.mapImages_flow (f : Image → Image) : (s.mapImages f).flow = s.flow := rfl
@[simp] theorem State.mapImages_tenants (f : Image → Image) : (s.mapImages f).tenants = s.tenants := rfl
@[simp] theorem State.mapImages_nodes (f : Image → Image) : (s.mapImages f).nodes = s.nodes := rfl
@[simp] theorem State.mapImages_pool (f : Image → Image) : (s.mapImages f).pool = s.pool := rfl
@[simp] theorem State.mapImages_crews (f : Image → Image) : (s.mapImages f).crews = s.crews := rfl
@[simp] theorem State.mapImages_cores (f : Image → Image) : (s.mapImages f).cores = s.cores := rfl
@[simp] theorem State.mapImages_cur (f : Image → Image) : (s.mapImages f).cur = s.cur := rfl
@[simp] theorem State.mapImages_groups (f : Image → Image) : (s.mapImages f).groups = s.groups := rfl
@[simp] theorem State.mapImages_ctx (f : Image → Image) : (s.mapImages f).ctx = s.ctx := rfl
@[simp] theorem State.mapImages_agenda (f : Image → Image) : (s.mapImages f).agenda = s.agenda := rfl
@[simp] theorem State.mapImages_fresh (f : Image → Image) : (s.mapImages f).fresh = s.fresh := rfl
@[simp] theorem State.mapImages_free (f : Image → Image) : (s.mapImages f).free = s.free := rfl

@[simp] theorem State.onHealth_hbm (f : Health → Health) : (s.onHealth f).hbm = s.hbm := rfl
@[simp] theorem State.onHealth_flow (f : Health → Health) : (s.onHealth f).flow = s.flow := rfl
@[simp] theorem State.onHealth_tenants (f : Health → Health) : (s.onHealth f).tenants = s.tenants := rfl
@[simp] theorem State.onHealth_nodes (f : Health → Health) : (s.onHealth f).nodes = s.nodes := rfl
@[simp] theorem State.onHealth_pool (f : Health → Health) : (s.onHealth f).pool = s.pool := rfl
@[simp] theorem State.onHealth_resumed (f : Health → Health) : (s.onHealth f).resumed = s.resumed := rfl
@[simp] theorem State.onHealth_crews (f : Health → Health) : (s.onHealth f).crews = s.crews := rfl
@[simp] theorem State.onHealth_cores (f : Health → Health) : (s.onHealth f).cores = s.cores := rfl
@[simp] theorem State.onHealth_cur (f : Health → Health) : (s.onHealth f).cur = s.cur := rfl
@[simp] theorem State.onHealth_groups (f : Health → Health) : (s.onHealth f).groups = s.groups := rfl
@[simp] theorem State.onHealth_ctx (f : Health → Health) : (s.onHealth f).ctx = s.ctx := rfl
@[simp] theorem State.onHealth_agenda (f : Health → Health) : (s.onHealth f).agenda = s.agenda := rfl
@[simp] theorem State.onHealth_fresh (f : Health → Health) : (s.onHealth f).fresh = s.fresh := rfl
@[simp] theorem State.onHealth_free (f : Health → Health) : (s.onHealth f).free = s.free := rfl

@[simp] theorem State.mapHome_homes (k : HomeKey) (f : Home → Home) :
    (s.mapHome k f).flow.homes = s.flow.homes.map fun h => if h.key == k then f h else h := rfl
@[simp] theorem State.mapHome_accs (k : HomeKey) (f : Home → Home) : (s.mapHome k f).flow.accs = s.flow.accs := rfl
@[simp] theorem State.mapHome_words (k : HomeKey) (f : Home → Home) : (s.mapHome k f).flow.words = s.flow.words := rfl
@[simp] theorem State.mapHome_xfers (k : HomeKey) (f : Home → Home) : (s.mapHome k f).flow.xfers = s.flow.xfers := rfl
@[simp] theorem State.mapWord_words (id : Nat) (f : PendWord → PendWord) :
    (s.mapWord id f).flow.words = s.flow.words.map fun w => if w.id == id then f w else w := rfl
@[simp] theorem State.mapWord_accs (id : Nat) (f : PendWord → PendWord) : (s.mapWord id f).flow.accs = s.flow.accs := rfl
@[simp] theorem State.mapWord_homes (id : Nat) (f : PendWord → PendWord) : (s.mapWord id f).flow.homes = s.flow.homes := rfl
@[simp] theorem State.mapReq_reqs (id : Nat) (f : HostReq → HostReq) :
    (s.mapReq id f).flow.reqs = s.flow.reqs.map fun r => if r.id == id then f r else r := rfl
@[simp] theorem State.mapImages_resumed (f : Image → Image) :
    (s.mapImages f).resumed = s.resumed.map fun r => { r with image := f r.image } := rfl
@[simp] theorem State.mapImages_sealed (f : Image → Image) :
    (s.mapImages f).dev.sealed = s.dev.sealed.map fun x => { x with image := f x.image } := rfl
@[simp] theorem State.onHealth_health (f : Health → Health) : (s.onHealth f).dev.health = f s.dev.health := rfl
@[simp] theorem State.onHealth_power (f : Health → Health) : (s.onHealth f).dev.power = s.dev.power := rfl

@[simp] theorem State.catchUp_dev (grp tn : Nat) : (s.catchUp grp tn).dev = s.dev := rfl
@[simp] theorem State.catchUp_hbm (grp tn : Nat) : (s.catchUp grp tn).hbm = s.hbm := rfl
@[simp] theorem State.catchUp_tenants (grp tn : Nat) : (s.catchUp grp tn).tenants = s.tenants := rfl
@[simp] theorem State.catchUp_nodes (grp tn : Nat) : (s.catchUp grp tn).nodes = s.nodes := rfl
@[simp] theorem State.catchUp_pool (grp tn : Nat) : (s.catchUp grp tn).pool = s.pool := rfl
@[simp] theorem State.catchUp_resumed (grp tn : Nat) : (s.catchUp grp tn).resumed = s.resumed := rfl
@[simp] theorem State.catchUp_crews (grp tn : Nat) : (s.catchUp grp tn).crews = s.crews := rfl
@[simp] theorem State.catchUp_cores (grp tn : Nat) : (s.catchUp grp tn).cores = s.cores := rfl
@[simp] theorem State.catchUp_ctx (grp tn : Nat) : (s.catchUp grp tn).ctx = s.ctx := rfl
@[simp] theorem State.catchUp_agenda (grp tn : Nat) : (s.catchUp grp tn).agenda = s.agenda := rfl
@[simp] theorem State.catchUp_fresh (grp tn : Nat) : (s.catchUp grp tn).fresh = s.fresh := rfl
@[simp] theorem State.catchUp_free (grp tn : Nat) : (s.catchUp grp tn).free = s.free := rfl
@[simp] theorem State.catchUp_flow (grp tn : Nat) : (s.catchUp grp tn).flow = s.flow := rfl

@[simp] theorem State.raiseNodes_dev (p : Signal → Bool) (t : Nat) : (s.raiseNodes p t).dev = s.dev := rfl
@[simp] theorem State.raiseNodes_hbm (p : Signal → Bool) (t : Nat) : (s.raiseNodes p t).hbm = s.hbm := rfl
@[simp] theorem State.raiseNodes_tenants (p : Signal → Bool) (t : Nat) : (s.raiseNodes p t).tenants = s.tenants := rfl
@[simp] theorem State.raiseNodes_nodes (p : Signal → Bool) (t : Nat) : (s.raiseNodes p t).nodes = s.nodes := rfl
@[simp] theorem State.raiseNodes_pool (p : Signal → Bool) (t : Nat) : (s.raiseNodes p t).pool = s.pool := rfl
@[simp] theorem State.raiseNodes_resumed (p : Signal → Bool) (t : Nat) : (s.raiseNodes p t).resumed = s.resumed := rfl
@[simp] theorem State.raiseNodes_crews (p : Signal → Bool) (t : Nat) : (s.raiseNodes p t).crews = s.crews := rfl
@[simp] theorem State.raiseNodes_cores (p : Signal → Bool) (t : Nat) : (s.raiseNodes p t).cores = s.cores := rfl
@[simp] theorem State.raiseNodes_ctx (p : Signal → Bool) (t : Nat) : (s.raiseNodes p t).ctx = s.ctx := rfl
@[simp] theorem State.raiseNodes_agenda (p : Signal → Bool) (t : Nat) : (s.raiseNodes p t).agenda = s.agenda := rfl
@[simp] theorem State.raiseNodes_fresh (p : Signal → Bool) (t : Nat) : (s.raiseNodes p t).fresh = s.fresh := rfl
@[simp] theorem State.raiseNodes_free (p : Signal → Bool) (t : Nat) : (s.raiseNodes p t).free = s.free := rfl
@[simp] theorem State.raiseNodes_cur (p : Signal → Bool) (t : Nat) : (s.raiseNodes p t).cur = s.cur := rfl
@[simp] theorem State.raiseNodes_groups (p : Signal → Bool) (t : Nat) : (s.raiseNodes p t).groups = s.groups := rfl

@[simp] theorem State.loseRead_dev (grp : Nat) : (s.loseRead grp).dev = s.dev := rfl
@[simp] theorem State.loseRead_hbm (grp : Nat) : (s.loseRead grp).hbm = s.hbm := rfl
@[simp] theorem State.loseRead_tenants (grp : Nat) : (s.loseRead grp).tenants = s.tenants := rfl
@[simp] theorem State.loseRead_nodes (grp : Nat) : (s.loseRead grp).nodes = s.nodes := rfl
@[simp] theorem State.loseRead_pool (grp : Nat) : (s.loseRead grp).pool = s.pool := rfl
@[simp] theorem State.loseRead_resumed (grp : Nat) : (s.loseRead grp).resumed = s.resumed := rfl
@[simp] theorem State.loseRead_crews (grp : Nat) : (s.loseRead grp).crews = s.crews := rfl
@[simp] theorem State.loseRead_cores (grp : Nat) : (s.loseRead grp).cores = s.cores := rfl
@[simp] theorem State.loseRead_ctx (grp : Nat) : (s.loseRead grp).ctx = s.ctx := rfl
@[simp] theorem State.loseRead_agenda (grp : Nat) : (s.loseRead grp).agenda = s.agenda := rfl
@[simp] theorem State.loseRead_fresh (grp : Nat) : (s.loseRead grp).fresh = s.fresh := rfl
@[simp] theorem State.loseRead_free (grp : Nat) : (s.loseRead grp).free = s.free := rfl
@[simp] theorem State.loseRead_cur (grp : Nat) : (s.loseRead grp).cur = s.cur := rfl
@[simp] theorem State.loseRead_groups (grp : Nat) : (s.loseRead grp).groups = s.groups := rfl

/-- A group that catches up has a time no lower than any write that a lease copy of its tenant does not show. -/
theorem State.catchUp_time (grp tn : Nat) (hid : s.cur.id = grp) : s.overtaken tn ≤ (s.catchUp grp tn).cur.ltime := by
  simp only [State.catchUp, State.joinGrp, State.mapGrp, hid, beq_self_eq_true, if_true, Group.join]
  exact Nat.le_max_right _ _

/-- A running maximum over a list is no lower than where it starts, nor than what any element that counts gives. -/
theorem foldl_max_ge {α : Type} (p : α → Bool) (f : α → Nat) (xs : List α) (m : Nat) :
    m ≤ xs.foldl (fun m x => if p x then max m (f x) else m) m ∧
      ∀ x ∈ xs, p x = true → f x ≤ xs.foldl (fun m x => if p x then max m (f x) else m) m := by
  induction xs generalizing m with
  | nil => simp
  | cons y ys ih =>
    have h := ih (if p y then max m (f y) else m)
    simp only [List.foldl_cons, List.mem_cons]
    refine ⟨le_trans ?_ h.1, ?_⟩
    · split <;> omega
    · rintro x (rfl | hx) hp
      · refine le_trans ?_ h.1
        simp [hp]
      · exact h.2 x hx hp

/-- No write that some lease copy of a tenant does not show is later than `overtaken` (R261). -/
theorem State.le_overtaken (tn : Nat) (c : Core) (x : L1Line) (hc : c ∈ s.cores) (hx : x ∈ c.l1) (ht : x.key.tn = tn)
    (he : x.excl = false) (hf : x.flash = false) (hw : x.wts < s.lastWts x.key) : s.lastWts x.key ≤ s.overtaken tn := by
  refine (foldl_max_ge (fun x : L1Line => x.key.tn == tn && !x.excl && !x.flash && decide (x.wts < s.lastWts x.key))
    (fun x => s.lastWts x.key) (s.cores.flatMap (·.l1)) 0).2 x (List.mem_flatMap.2 ⟨c, hc, hx⟩) ?_
  simp [ht, he, hf, hw]

end Sys2Proof.Machine
end

