-- ==== Sys2Proof/Laws/Words.lean ====
section
/-!
SUPPORT. What each shared form of a register word does, in the vocabulary of Safety: one lemma for each form, to be
cited with the word's own meaning, issue facts and lane function.
-/

namespace Sys2Proof.Machine

open Sys2Proof

/-- The P of a word whose issue facts carry its header's guard. -/
theorem guardMask_eq (f : Info) (h : Hdr) (s : State) (hg : f.guard = h.guard.toNat) : guardMask f s = s.cur.lanesP h := by
  simp [guardMask, Group.lanesP, hg]

theorem inMask_lanesP_zero (s : State) (h : Hdr) (h0 : s.cur.lanesP h = 0) (l : Nat) : inMask (s.cur.lanesP h) l = false := by
  rw [h0, inMask_zero]

/-- A word that changes the group in issue alone, on P. -/
theorem runs_onCur (i : Instr) (f : Info) (h : Hdr) (s : State) (e : Mask → Group → Group) (Q : State → Prop)
    (hx : exec i s = runWord f s fun P s => s.onCur (e P)) (hi : info i = some f) (hg : f.guard = h.guard.toNat)
    (hp : Passes i s) (h0 : s.cur.lanesP h = 0 → Q s)
    (h1 : s.cur.lanesP h ≠ 0 → Q (s.onCur (e (s.cur.lanesP h)))) : Runs i s Q := by
  obtain ⟨f', hf, hn⟩ := hp
  rw [hi] at hf; cases hf
  refine ⟨_, by rw [hx, runWord_pass _ _ _ hn], ?_⟩
  rw [guardMask_eq f h s hg]
  split
  · exact h0 ‹_›
  · exact h1 ‹_›

/-- A word that writes v(d) in the lanes of P from the group at issue. -/
theorem vecResult_of (i : Instr) (f : Info) (h : Hdr) (d : BitVec 6) (fn : Mask → Group → Nat → Word)
    (ref : Group → Nat → Word)
    (hx : ∀ s, exec i s = runWord f s fun P s => s.onCur fun g => g.setV d.toNat P (fn P g)) (hi : info i = some f)
    (hg : f.guard = h.guard.toNat) (hr : ∀ g l, l < 32 → inMask (g.lanesP h) l = true → fn (g.lanesP h) g l = ref g l) :
    VecResult i h d ref := by
  intro s hp
  refine runs_onCur i f h s (fun P g => g.setV d.toNat P (fn P g)) _ (hx s) hi hg hp (fun h0 => ?_) fun _ => ?_
  · refine ⟨fun k l _ => ?_, rfl⟩
    rw [inMask_lanesP_zero s h h0]; simp
  · refine ⟨fun k l hl => ?_, rfl⟩
    rw [State.onCur_cur, Group.getV_setV _ _ _ _ _ _ hl]
    by_cases hc : k = d.toNat ∧ inMask (s.cur.lanesP h) l = true
    · rw [if_pos hc, if_pos hc, hr _ _ hl hc.2]
    · rw [if_neg hc, if_neg hc]

/-- A word that writes the pair at v(d) in the lanes of P. -/
theorem pairResult_of (i : Instr) (f : Info) (h : Hdr) (d : BitVec 6) (fn ref : Group → Nat → DWord)
    (hx : ∀ s, exec i s = runWord f s fun P s => s.onCur fun g => g.setV2 d.toNat P (fn g)) (hi : info i = some f)
    (hg : f.guard = h.guard.toNat) (hr : ∀ g l, fn g l = ref g l) : PairResult i h d ref := by
  intro s hp
  refine runs_onCur i f h s (fun P g => g.setV2 d.toNat P (fn g)) _ (hx s) hi hg hp (fun h0 => ?_) fun _ => ?_
  · refine ⟨fun k l _ => ?_, rfl⟩
    rw [inMask_lanesP_zero s h h0]; simp
  · refine ⟨fun k l hl => ?_, rfl⟩
    rw [State.onCur_cur, Group.getV_setV2 _ _ _ _ _ _ hl, hr, lo32_toNat, hi32_toNat]

theorem combine_eq (k : Nat) (x y : Bool) : combine k x y = Combined k x y := by
  unfold combine Combined
  rcases k with _ | _ | k <;> simp

/-- A word that combines a condition into g(n) in the lanes of P. -/
theorem cmpResult_of (i : Instr) (f : Info) (h : Hdr) (k n : BitVec 3) (fn ref : Group → Nat → Bool)
    (hx : ∀ s, exec i s = runWord f s fun P s => s.onCur fun g => g.combineG k.toNat n.toNat P (fn g))
    (hi : info i = some f) (hg : f.guard = h.guard.toNat) (hr : ∀ g l, fn g l = ref g l) : CmpResult i h k n ref := by
  intro s hp
  refine runs_onCur i f h s (fun P g => g.combineG k.toNat n.toNat P (fn g)) _ (hx s) hi hg hp (fun h0 => ?_) fun _ => ?_
  · refine ⟨fun j l _ => ?_, rfl⟩
    rw [inMask_lanesP_zero s h h0]; simp
  · refine ⟨fun j l hl => ?_, ?_⟩
    · rw [State.onCur_cur, Group.combineG, Group.getG_setG _ _ _ _ _ _ hl, inMask_maskOf _ _ hl, combine_eq, hr]
    · rw [State.onCur_cur, Group.combineG, Group.setG_rest]; rfl

/-- A word that writes g(d) in the lanes of P. -/
theorem guardResult_of (i : Instr) (f : Info) (h : Hdr) (d : BitVec 3) (fn : Group → Mask) (ref : Group → Nat → Bool)
    (hx : ∀ s, exec i s = runWord f s fun P s => s.onCur fun g => g.setG d.toNat P (fn g))
    (hi : info i = some f) (hg : f.guard = h.guard.toNat) (hr : ∀ g l, l < 32 → inMask (fn g) l = ref g l) :
    GuardResult i h d ref := by
  intro s hp
  refine runs_onCur i f h s (fun P g => g.setG d.toNat P (fn g)) _ (hx s) hi hg hp (fun h0 => ?_) fun _ => ?_
  · refine ⟨fun j l _ => ?_, rfl⟩
    rw [inMask_lanesP_zero s h h0]; simp
  · refine ⟨fun j l hl => ?_, ?_⟩
    · rw [State.onCur_cur, Group.getG_setG _ _ _ _ _ _ hl, hr _ _ hl]
    · rw [State.onCur_cur, Group.setG_rest]; rfl

/-- A word that writes s(d) when P is not empty. -/
theorem scalarResult_of (i : Instr) (f : Info) (h : Hdr) (d : Nat) (fn : State → Mask → Word) (ref : State → Mask → Word)
    (hx : ∀ s, exec i s = runWord f s fun P s => s.onCur fun g => g.setS d (fn s P))
    (hi : info i = some f) (hg : f.guard = h.guard.toNat) (hr : ∀ s P, fn s P = ref s P) : ScalarResult i h d ref := by
  intro s hp
  obtain ⟨f', hf, hn⟩ := hp
  rw [hi] at hf; cases hf
  refine ⟨_, by rw [hx, runWord_pass _ _ _ hn], ?_⟩
  rw [guardMask_eq f h s hg]
  by_cases h0 : s.cur.lanesP h = 0
  · rw [if_pos h0, h0]
    exact ⟨fun k => by simp, rfl⟩
  · rw [if_neg h0]
    refine ⟨fun k => ?_, ?_⟩
    · rw [State.onCur_cur, Group.getS_setS, hr]
      have hb : (s.cur.lanesP h != 0) = true := bne_iff_ne.2 h0
      rw [hb]; simp
    · rw [State.onCur_cur, Group.setS_rest]; rfl

/-- A word that changes the group in issue alone leaves every memory and everything but that group. -/
theorem sameBut_onCur (s : State) (f : Group → Group) : SameBut s (s.onCur f) := rfl

end Sys2Proof.Machine
end

