-- ==== Sys2Proof/Tests/Slice0.lean ====
section
/-!
SUPPORT. Tests. Words are written out from the encodings of the manual (R68, R81, R86) and shown to decode to what they stand
for; ill-formed terms are refused by each field check; every hypothesis of a statement of Certificates/Slice0 is met by a concrete
state; and a few single steps give the manual's own values.
-/

set_option Elab.async false

namespace Sys2Proof.Tests

open Sys2Proof Sys2Proof.Machine

/-! ## Decoding: the words of each family, bit by bit from the manual's encodings, with the instructions they stand for -/

/-- Words of `sys`. -/
noncomputable def sysAWords : List (Word × Instr) :=
  [(0xA0000000, .sysNop ⟨true, 2⟩),
   (0x30004000, .sysExit ⟨false, 3⟩),
   (0x80008000, .sysYield ⟨true, 0⟩),
   (0x5000C05A, .sysTrap ⟨false, 5⟩ 90),
   (0xE0010000, .sysUret ⟨true, 6⟩),
   (0x00014000, .sysTret ⟨false, 0⟩),
   (0x90019696, .sysBrk ⟨true, 1⟩ 5782),
   (0x2001CB4B, .sysHalt ⟨false, 2⟩ 2891),
   (0x8045A5A5, .bra ⟨true, 0⟩ 370085),
   (0x4055A5A5, .braLk ⟨false, 4⟩ 370085),
   (0xD065A5A5, .braUlk ⟨true, 5⟩ 370085),
   (0x0075A5A5, .braUnf ⟨false, 0⟩ 370085),
   (0xF0800302, .ctlJump ⟨true, 7⟩ 12 2),
   (0x10848300, .ctlCall ⟨false, 1⟩ 8 12),
   (0x80888000, .ctlCalli ⟨true, 0⟩ 8 0x12345678),
   (0x308C0300, .ctlRet ⟨false, 3⟩ 12)]

theorem test_decode_sysA : ∀ p ∈ sysAWords, decodeWord p.1 0x12345678 = some p.2 := by
  decide +kernel

/-- Words of `sys`. -/
noncomputable def sysBWords : List (Word × Instr) :=
  [(0xC0900300, .ctlRep ⟨true, 4⟩ (.reg 12)),
   (0x00940000, .ctlReform ⟨false, 0⟩),
   (0xE0D08420, .wait ⟨true, 6⟩ 8 8 8 8)]

theorem test_decode_sysB : ∀ p ∈ sysBWords, decodeWord p.1 0x12345678 = some p.2 := by
  decide +kernel

/-- Words of `via`. -/
noncomputable def viaWords : List (Word × Instr) :=
  [(0x71008314, .viaAdd ⟨false, 7⟩ 8 12 (.reg 20)),
   (0x81048314, .viaSub ⟨true, 0⟩ 8 12 (.reg 20)),
   (0x21088314, .viaMul ⟨false, 2⟩ 8 12 (.reg 20)),
   (0xB10C8314, .viaMulh ⟨true, 3⟩ 8 12 (.reg 20)),
   (0x01108314, .viaMulhn ⟨false, 0⟩ 8 12 (.reg 20)),
   (0xD1148314, .viaMad ⟨true, 5⟩ 8 12 (.reg 20)),
   (0x61188314, .viaMin ⟨false, 6⟩ 8 12 (.reg 20)),
   (0x811C8314, .viaMax ⟨true, 0⟩ 8 12 (.reg 20)),
   (0x11208314, .viaMinn ⟨false, 1⟩ 8 12 (.reg 20)),
   (0xA1248314, .viaMaxn ⟨true, 2⟩ 8 12 (.reg 20)),
   (0x01288300, .viaAbs ⟨false, 0⟩ 8 12),
   (0xC12C8300, .viaNeg ⟨true, 4⟩ 8 12),
   (0x51308314, .viaAddc ⟨false, 5⟩ 8 12 (.reg 20)),
   (0x81348314, .viaSubc ⟨true, 0⟩ 8 12 (.reg 20)),
   (0x71388300, .viaClz ⟨false, 7⟩ 8 12),
   (0x913C8300, .viaPopc ⟨true, 1⟩ 8 12)]

theorem test_decode_via : ∀ p ∈ viaWords, decodeWord p.1 0x12345678 = some p.2 := by
  decide +kernel

/-- Words of `vil`. -/
noncomputable def vilWords : List (Word × Instr) :=
  [(0x01408314, .vilAnd ⟨false, 0⟩ 8 12 (.reg 20)),
   (0xB1448314, .vilOr ⟨true, 3⟩ 8 12 (.reg 20)),
   (0x41488314, .vilXor ⟨false, 4⟩ 8 12 (.reg 20)),
   (0x814C8314, .vilAndn ⟨true, 0⟩ 8 12 (.reg 20)),
   (0x61508300, .vilNot ⟨false, 6⟩ 8 12),
   (0xF1548314, .vilShl ⟨true, 7⟩ 8 12 (.reg 20)),
   (0x01588314, .vilShr ⟨false, 0⟩ 8 12 (.reg 20)),
   (0xA15C8314, .vilSra ⟨true, 2⟩ 8 12 (.reg 20)),
   (0x31608314, .vilRotl ⟨false, 3⟩ 8 12 (.reg 20)),
   (0x81648300, .vilBrev ⟨true, 0⟩ 8 12),
   (0x51688314, .vilBfx ⟨false, 5⟩ 8 12 (.reg 20)),
   (0xE16C8314, .vilBfxn ⟨true, 6⟩ 8 12 (.reg 20)),
   (0x01708314, .vilBfi ⟨false, 0⟩ 8 12 (.reg 20)),
   (0x91748300, .vilMov ⟨true, 1⟩ 8 12),
   (0x21788314, .vilBsel ⟨false, 2⟩ 8 12 (.reg 20))]

theorem test_decode_vil : ∀ p ∈ vilWords, decodeWord p.1 0x12345678 = some p.2 := by
  decide +kernel

/-- Words of `vic`. -/
noncomputable def vicWords : List (Word × Instr) :=
  [(0x8180D314, .vicEq ⟨true, 0⟩ 1 5 12 20),
   (0x4184D314, .vicNe ⟨false, 4⟩ 1 5 12 20),
   (0xD188D314, .vicLt ⟨true, 5⟩ 1 5 12 20),
   (0x018CD314, .vicLe ⟨false, 0⟩ 1 5 12 20),
   (0xF190D314, .vicGt ⟨true, 7⟩ 1 5 12 20),
   (0x1194D314, .vicGe ⟨false, 1⟩ 1 5 12 20),
   (0x8198D314, .vicLtn ⟨true, 0⟩ 1 5 12 20),
   (0x319CD314, .vicLen ⟨false, 3⟩ 1 5 12 20),
   (0xC1A0D314, .vicGtn ⟨true, 4⟩ 1 5 12 20),
   (0x01A4D314, .vicGen ⟨false, 0⟩ 1 5 12 20),
   (0xE1A8D314, .vicEq64 ⟨true, 6⟩ 1 5 12 20),
   (0x71ACD314, .vicLt64 ⟨false, 7⟩ 1 5 12 20),
   (0x81B0D314, .vicLtn64 ⟨true, 0⟩ 1 5 12 20)]

theorem test_decode_vic : ∀ p ∈ vicWords, decodeWord p.1 0x12345678 = some p.2 := by
  decide +kernel

/-- Words of `immediate`. -/
noncomputable def immediateWords : List (Word × Instr) :=
  [(0x21C83169, .addi ⟨false, 2⟩ 8 12 361),
   (0xB2083169, .andi ⟨true, 3⟩ 8 12 361),
   (0x02483169, .ori ⟨false, 0⟩ 8 12 361),
   (0xD2883169, .xori ⟨true, 5⟩ 8 12 361),
   (0x62C83008, .shli ⟨false, 6⟩ 8 12 8),
   (0x83083008, .shri ⟨true, 0⟩ 8 12 8),
   (0x13483008, .srai ⟨false, 1⟩ 8 12 8),
   (0xA3883169, .muli ⟨true, 2⟩ 8 12 361),
   (0x03C85A5A, .movi ⟨false, 0⟩ 8 23130),
   (0xC4085A5A, .movhi ⟨true, 4⟩ 8 23130)]

theorem test_decode_immediate : ∀ p ∈ immediateWords, decodeWord p.1 0x12345678 = some p.2 := by
  decide +kernel

/-- Words of `vf`. -/
noncomputable def vfWords : List (Word × Instr) :=
  [(0x54408314, .vfFadd ⟨false, 5⟩ 8 12 (.reg 20)),
   (0x84448314, .vfFsub ⟨true, 0⟩ 8 12 (.reg 20)),
   (0x74488314, .vfFmul ⟨false, 7⟩ 8 12 (.reg 20)),
   (0x944C8314, .vfFfma ⟨true, 1⟩ 8 12 (.reg 20)),
   (0x04508314, .vfFfms ⟨false, 0⟩ 8 12 (.reg 20)),
   (0xB4548314, .vfFmin ⟨true, 3⟩ 8 12 (.reg 20)),
   (0x44588314, .vfFmax ⟨false, 4⟩ 8 12 (.reg 20)),
   (0x845C8300, .vfFabs ⟨true, 0⟩ 8 12),
   (0x64608300, .vfFneg ⟨false, 6⟩ 8 12),
   (0xF4648314, .vfFcopys ⟨true, 7⟩ 8 12 (.reg 20)),
   (0x04688300, .vfFfloor ⟨false, 0⟩ 8 12),
   (0xA46C8300, .vfFceil ⟨true, 2⟩ 8 12),
   (0x34708300, .vfFrint ⟨false, 3⟩ 8 12),
   (0x84748300, .vfFtrunc ⟨true, 0⟩ 8 12),
   (0x54788300, .vfFsat ⟨false, 5⟩ 8 12),
   (0xE47C8314, .vfFscale ⟨true, 6⟩ 8 12 (.reg 20))]

theorem test_decode_vf : ∀ p ∈ vfWords, decodeWord p.1 0x12345678 = some p.2 := by
  decide +kernel

/-- Words of `vfc`. -/
noncomputable def vfcWords : List (Word × Instr) :=
  [(0x0480D314, .vfcFeq ⟨false, 0⟩ 1 5 12 20),
   (0x9484D314, .vfcFne ⟨true, 1⟩ 1 5 12 20),
   (0x2488D314, .vfcFlt ⟨false, 2⟩ 1 5 12 20),
   (0x848CD314, .vfcFle ⟨true, 0⟩ 1 5 12 20),
   (0x4490D314, .vfcFgt ⟨false, 4⟩ 1 5 12 20),
   (0xD494D314, .vfcFge ⟨true, 5⟩ 1 5 12 20),
   (0x0498D314, .vfcFun ⟨false, 0⟩ 1 5 12 20),
   (0xF49CD314, .vfcFord ⟨true, 7⟩ 1 5 12 20),
   (0x14A0D314, .vfcFclass ⟨false, 1⟩ 1 5 12 20)]

theorem test_decode_vfc : ∀ p ∈ vfcWords, decodeWord p.1 0x12345678 = some p.2 := by
  decide +kernel

/-- Words of `vh`. -/
noncomputable def vhWords : List (Word × Instr) :=
  [(0x84E08314, .vhHadd ⟨true, 0⟩ true 8 12 (.reg 20)),
   (0x34E48314, .vhHsub ⟨false, 3⟩ true 8 12 (.reg 20)),
   (0xC4E88314, .vhHmul ⟨true, 4⟩ true 8 12 (.reg 20)),
   (0x04EC8314, .vhHfma ⟨false, 0⟩ true 8 12 (.reg 20)),
   (0xE4F08314, .vhHmin ⟨true, 6⟩ true 8 12 (.reg 20)),
   (0x74F48314, .vhHmax ⟨false, 7⟩ true 8 12 (.reg 20)),
   (0x84F88300, .vhHneg ⟨true, 0⟩ true 8 12),
   (0x24FC8300, .vhHabs ⟨false, 2⟩ true 8 12)]

theorem test_decode_vh : ∀ p ∈ vhWords, decodeWord p.1 0x12345678 = some p.2 := by
  decide +kernel

/-- Words of `sfu`. -/
noncomputable def sfuWords : List (Word × Instr) :=
  [(0xB5008300, .sfuFrcp ⟨true, 3⟩ 8 12),
   (0x05048300, .sfuFrsq ⟨false, 0⟩ 8 12),
   (0xD5088300, .sfuFsqrt ⟨true, 5⟩ 8 12),
   (0x650C8300, .sfuFexp2 ⟨false, 6⟩ 8 12),
   (0x85108300, .sfuFlog2 ⟨true, 0⟩ 8 12),
   (0x15148300, .sfuFsin ⟨false, 1⟩ 8 12),
   (0xA5188300, .sfuFcos ⟨true, 2⟩ 8 12),
   (0x051C8300, .sfuFtanh ⟨false, 0⟩ 8 12),
   (0xC5208314, .sfuFdiv ⟨true, 4⟩ 8 12 20)]

theorem test_decode_sfu : ∀ p ∈ sfuWords, decodeWord p.1 0x12345678 = some p.2 := by
  decide +kernel

/-- Words of `cvt`. -/
noncomputable def cvtWords : List (Word × Instr) :=
  [(0x55408300, .cvtF32I32 ⟨false, 5⟩ 8 12),
   (0x85448300, .cvtF32N32 ⟨true, 0⟩ 8 12),
   (0x75488300, .cvtI32F32 ⟨false, 7⟩ 8 12),
   (0x954C8300, .cvtN32F32 ⟨true, 1⟩ 8 12),
   (0x05508300, .cvtF32F16 ⟨false, 0⟩ 8 12),
   (0xB5548300, .cvtF16F32 ⟨true, 3⟩ 8 12),
   (0x45588300, .cvtF32Bf16 ⟨false, 4⟩ 8 12),
   (0x855C8300, .cvtBf16F32 ⟨true, 0⟩ 8 12),
   (0x65608302, .cvtF32E4m3 ⟨false, 6⟩ 8 12 2),
   (0xF5648302, .cvtE4m3F32 ⟨true, 7⟩ 8 12 2),
   (0x05688302, .cvtF32E5m2 ⟨false, 0⟩ 8 12 2),
   (0xA56C8302, .cvtE5m2F32 ⟨true, 2⟩ 8 12 2),
   (0x35708303, .cvtF32E2m1 ⟨false, 3⟩ 8 12 3),
   (0x85748303, .cvtE2m1F32 ⟨true, 0⟩ 8 12 3),
   (0x55788300, .cvtF32S20 ⟨false, 5⟩ 8 12),
   (0xE57C8300, .cvtS20F32 ⟨true, 6⟩ 8 12)]

theorem test_decode_cvt : ∀ p ∈ cvtWords, decodeWord p.1 0x12345678 = some p.2 := by
  decide +kernel

/-- Words of `lane`. -/
noncomputable def laneWords : List (Word × Instr) :=
  [(0x05808314, .lanePick ⟨false, 0⟩ 8 12 20),
   (0x95848314, .laneBack ⟨true, 1⟩ 8 12 20),
   (0x25888314, .laneFwd ⟨false, 2⟩ 8 12 20),
   (0x858C8314, .laneFlip ⟨true, 0⟩ 8 12 20),
   (0x45908300, .laneAny ⟨false, 4⟩ 8 12),
   (0xD5948300, .laneEvery ⟨true, 5⟩ 8 12),
   (0x05988300, .laneMask ⟨false, 0⟩ 8 12),
   (0xF59C8300, .laneSum ⟨true, 7⟩ 8 12),
   (0x15A08300, .laneLeast ⟨false, 1⟩ 8 12),
   (0x85A48300, .laneMost ⟨true, 0⟩ 8 12),
   (0x35A88300, .laneFsum ⟨false, 3⟩ 8 12),
   (0xC5AC8308, .laneFrom ⟨true, 4⟩ 8 12 8)]

theorem test_decode_lane : ∀ p ∈ laneWords, decodeWord p.1 0x12345678 = some p.2 := by
  decide +kernel

/-- Words of `scalar`. -/
noncomputable def scalarAWords : List (Word × Instr) :=
  [(0x05C14C40, .saluSadd ⟨false, 0⟩ 10 12 (.reg 8)),
   (0xE5C54C40, .saluSsub ⟨true, 6⟩ 10 12 (.reg 8)),
   (0x75C94C40, .saluSmul ⟨false, 7⟩ 10 12 (.reg 8)),
   (0x85CD4C40, .saluSand ⟨true, 0⟩ 10 12 (.reg 8)),
   (0x25D14C40, .saluSor ⟨false, 2⟩ 10 12 (.reg 8)),
   (0xB5D54C40, .saluSxor ⟨true, 3⟩ 10 12 (.reg 8)),
   (0x05D94C40, .saluSshl ⟨false, 0⟩ 10 12 (.reg 8)),
   (0xD5DD4C40, .saluSshr ⟨true, 5⟩ 10 12 (.reg 8)),
   (0x65E14C40, .saluSsra ⟨false, 6⟩ 10 12 (.reg 8)),
   (0x85E54C40, .saluSmin ⟨true, 0⟩ 10 12 (.reg 8)),
   (0x15E94C40, .saluSmax ⟨false, 1⟩ 10 12 (.reg 8)),
   (0xA5ED4C00, .saluSmov ⟨true, 2⟩ 10 12),
   (0x05F14C40, .saluSaddc ⟨false, 0⟩ 10 12 (.reg 8)),
   (0xC5F6AC43, .saluScmp ⟨true, 4⟩ 2 5 12 (.reg 8) 3),
   (0x56008300, .smovS2v ⟨false, 5⟩ 8 12),
   (0x86048308, .smovV2s ⟨true, 0⟩ 8 12 8)]

theorem test_decode_scalarA : ∀ p ∈ scalarAWords, decodeWord p.1 0x12345678 = some p.2 := by
  decide +kernel

/-- Words of `scalar`. -/
noncomputable def scalarBWords : List (Word × Instr) :=
  [(0x764030C3, .grdGand ⟨false, 7⟩ 3 3 3),
   (0x964430C3, .grdGor ⟨true, 1⟩ 3 3 3),
   (0x064830C3, .grdGxor ⟨false, 0⟩ 3 3 3),
   (0xB64C30C0, .grdGnot ⟨true, 3⟩ 3 3),
   (0x465030C0, .grdGmov ⟨false, 4⟩ 3 3),
   (0x86543308, .grdGset ⟨true, 0⟩ 3 12 8),
   (0x665880C0, .grdGtov ⟨false, 6⟩ 8 3),
   (0xF6808011, .csrRdsr ⟨true, 7⟩ 8 0 17),
   (0x06848011, .csrWrsr ⟨false, 0⟩ 8 0 17),
   (0xA6888011, .csrRdsrs ⟨true, 2⟩ 8 0 17),
   (0x368C8011, .csrWrsrs ⟨false, 3⟩ 8 0 17)]

theorem test_decode_scalarB : ∀ p ∈ scalarBWords, decodeWord p.1 0x12345678 = some p.2 := by
  decide +kernel

/-- Words of `memory`. -/
noncomputable def memoryAWords : List (Word × Instr) :=
  [(0x86E08335, .ldB8 ⟨true, 0⟩ true 8 12 53),
   (0x56E48335, .ldB8s ⟨false, 5⟩ true 8 12 53),
   (0xE6E88335, .ldB16 ⟨true, 6⟩ true 8 12 53),
   (0x06EC8335, .ldB16s ⟨false, 0⟩ true 8 12 53),
   (0x96F08335, .ldB32 ⟨true, 1⟩ true 8 12 53),
   (0x26F48335, .ldB64 ⟨false, 2⟩ true 8 12 53),
   (0x86F88335, .ldB128 ⟨true, 0⟩ true 8 12 53),
   (0x47008335, .stB8 ⟨false, 4⟩ 8 12 53),
   (0xD7088335, .stB16 ⟨true, 5⟩ 8 12 53),
   (0x07108335, .stB32 ⟨false, 0⟩ 8 12 53),
   (0xF7148335, .stB64 ⟨true, 7⟩ 8 12 53),
   (0x17188335, .stB128 ⟨false, 1⟩ 8 12 53),
   (0x87408335, .ldsB8 ⟨true, 0⟩ 8 12 53),
   (0x37448335, .ldsB8s ⟨false, 3⟩ 8 12 53),
   (0xC7488335, .ldsB16 ⟨true, 4⟩ 8 12 53),
   (0x074C8335, .ldsB16s ⟨false, 0⟩ 8 12 53)]

theorem test_decode_memoryA : ∀ p ∈ memoryAWords, decodeWord p.1 0x12345678 = some p.2 := by
  decide +kernel

/-- Words of `memory`. -/
noncomputable def memoryBWords : List (Word × Instr) :=
  [(0xE7508335, .ldsB32 ⟨true, 6⟩ 8 12 53),
   (0x77548335, .ldsB64 ⟨false, 7⟩ 8 12 53),
   (0x87588335, .ldsB128 ⟨true, 0⟩ 8 12 53),
   (0x27808335, .stsB8 ⟨false, 2⟩ 8 12 53),
   (0xB7888335, .stsB16 ⟨true, 3⟩ 8 12 53),
   (0x07908335, .stsB32 ⟨false, 0⟩ 8 12 53),
   (0xD7948335, .stsB64 ⟨true, 5⟩ 8 12 53),
   (0x67988335, .stsB128 ⟨false, 6⟩ 8 12 53),
   (0x87C48335, .ldp ⟨true, 0⟩ 1 8 12 53),
   (0x17E48335, .ldpF32 ⟨false, 1⟩ 1 8 12 53)]

theorem test_decode_memoryB : ∀ p ∈ memoryBWords, decodeWord p.1 0x12345678 = some p.2 := by
  decide +kernel

/-- Words of `upd`. -/
noncomputable def updWords : List (Word × Instr) :=
  [(0xA8008335, .updAdd ⟨true, 2⟩ 8 12 53),
   (0x08048335, .updFadd ⟨false, 0⟩ 8 12 53),
   (0xC8088335, .updMin ⟨true, 4⟩ 8 12 53),
   (0x580C8335, .updMax ⟨false, 5⟩ 8 12 53),
   (0x88108335, .updMinn ⟨true, 0⟩ 8 12 53),
   (0x78148335, .updMaxn ⟨false, 7⟩ 8 12 53),
   (0x98188335, .updAnd ⟨true, 1⟩ 8 12 53),
   (0x081C8335, .updOr ⟨false, 0⟩ 8 12 53),
   (0xB8208335, .updXor ⟨true, 3⟩ 8 12 53),
   (0x48248335, .updSwap ⟨false, 4⟩ 8 12 53),
   (0x88288335, .updCas ⟨true, 0⟩ 8 12 53),
   (0x682C8335, .updAdd64 ⟨false, 6⟩ 8 12 53),
   (0xF8308335, .updSwap64 ⟨true, 7⟩ 8 12 53),
   (0x08348335, .updCas64 ⟨false, 0⟩ 8 12 53)]

theorem test_decode_upd : ∀ p ∈ updWords, decodeWord p.1 0x12345678 = some p.2 := by
  decide +kernel

/-- Words of `updc`. -/
noncomputable def updcWords : List (Word × Instr) :=
  [(0xA8408335, .updcAdd ⟨true, 2⟩ 8 12 53),
   (0x38448335, .updcFadd ⟨false, 3⟩ 8 12 53),
   (0x88488335, .updcMin ⟨true, 0⟩ 8 12 53),
   (0x584C8335, .updcMax ⟨false, 5⟩ 8 12 53),
   (0xE8508335, .updcMinn ⟨true, 6⟩ 8 12 53),
   (0x08548335, .updcMaxn ⟨false, 0⟩ 8 12 53),
   (0x98588335, .updcAnd ⟨true, 1⟩ 8 12 53),
   (0x285C8335, .updcOr ⟨false, 2⟩ 8 12 53),
   (0x88608335, .updcXor ⟨true, 0⟩ 8 12 53),
   (0x48648335, .updcSwap ⟨false, 4⟩ 8 12 53),
   (0xD8688335, .updcCas ⟨true, 5⟩ 8 12 53),
   (0x086C8335, .updcAdd64 ⟨false, 0⟩ 8 12 53),
   (0xF8708335, .updcSwap64 ⟨true, 7⟩ 8 12 53),
   (0x18748335, .updcCas64 ⟨false, 1⟩ 8 12 53)]

theorem test_decode_updc : ∀ p ∈ updcWords, decodeWord p.1 0x12345678 = some p.2 := by
  decide +kernel

/-- Words of `updn`. -/
noncomputable def updnWords : List (Word × Instr) :=
  [(0x88808335, .updnAdd ⟨true, 0⟩ 8 12 53),
   (0x38848335, .updnFadd ⟨false, 3⟩ 8 12 53),
   (0xC8888335, .updnMin ⟨true, 4⟩ 8 12 53),
   (0x088C8335, .updnMax ⟨false, 0⟩ 8 12 53),
   (0xE8908335, .updnMinn ⟨true, 6⟩ 8 12 53),
   (0x78948335, .updnMaxn ⟨false, 7⟩ 8 12 53),
   (0x88988335, .updnAnd ⟨true, 0⟩ 8 12 53),
   (0x289C8335, .updnOr ⟨false, 2⟩ 8 12 53),
   (0xB8A08335, .updnXor ⟨true, 3⟩ 8 12 53)]

theorem test_decode_updn : ∀ p ∈ updnWords, decodeWord p.1 0x12345678 = some p.2 := by
  decide +kernel

/-- Words of `sync`. -/
noncomputable def syncAWords : List (Word × Instr) :=
  [(0x08C00000, .memFenceHost ⟨false, 0⟩),
   (0xD8C40000, .memFencePeer ⟨true, 5⟩),
   (0x68C80000, .memFenceSys ⟨false, 6⟩),
   (0x88CC0335, .memPref ⟨true, 0⟩ 12 53),
   (0x18D08240, .memBpref ⟨false, 1⟩ 8 9),
   (0xA9008335, .monWaitcEq ⟨true, 2⟩ 8 12 53),
   (0x09048335, .monWaitcNe ⟨false, 0⟩ 8 12 53),
   (0xC9088335, .monWaitcLt ⟨true, 4⟩ 8 12 53),
   (0x590C8335, .monWaitcGe ⟨false, 5⟩ 8 12 53),
   (0x89108335, .monWaitcLtn ⟨true, 0⟩ 8 12 53),
   (0x79148335, .monWaitcGen ⟨false, 7⟩ 8 12 53),
   (0x99180335, .monWaitcChg ⟨true, 1⟩ 12 53),
   (0x09401699, .barInit ⟨false, 0⟩ 361 9),
   (0xB9405699, .barInitX ⟨true, 3⟩ 361 9),
   (0x49408009, .barArr ⟨false, 4⟩ 9),
   (0x8940C009, .barDrop ⟨true, 0⟩ 9)]

theorem test_decode_syncA : ∀ p ∈ syncAWords, decodeWord p.1 0x12345678 = some p.2 := by
  decide +kernel

/-- Words of `sync`. -/
noncomputable def syncBWords : List (Word × Instr) :=
  [(0x69410009, .barWait ⟨false, 6⟩ 9),
   (0xF9414039, .barTest ⟨true, 7⟩ 3 9),
   (0x09418039, .barInval ⟨false, 0⟩ 3 9),
   (0xA941C009, .barArrw ⟨true, 2⟩ 9),
   (0x39801695, .musSet ⟨false, 3⟩ 722 5),
   (0x89804005, .musClr ⟨true, 0⟩ 5),
   (0x59C00045, .ringInit ⟨false, 5⟩ 8 5),
   (0xE9C04205, .ringAcq ⟨true, 6⟩ 4 5),
   (0x09C08205, .ringRel ⟨false, 0⟩ 4 5),
   (0x99C0C205, .ringTake ⟨true, 1⟩ 4 5),
   (0x29C10205, .ringFree ⟨false, 2⟩ 4 5),
   (0x8A000335, .futFinit ⟨true, 0⟩ 12 53),
   (0x4A048335, .futFput ⟨false, 4⟩ 8 12 53),
   (0xDA088335, .futFget ⟨true, 5⟩ 8 12 53),
   (0x0A0C3335, .futFpoll ⟨false, 0⟩ 3 12 53)]

theorem test_decode_syncB : ∀ p ∈ syncBWords, decodeWord p.1 0x12345678 = some p.2 := by
  decide +kernel

/-- Words of `copy`. -/
noncomputable def copyWords : List (Word × Instr) :=
  [(0xFA488309, .cpyMm ⟨true, 7⟩ 2 8 12 9),
   (0x1A588309, .cpyMs ⟨false, 1⟩ 2 8 12 9),
   (0x8A688309, .cpySm ⟨true, 0⟩ 2 8 12 9),
   (0x3A788309, .cpySs ⟨false, 3⟩ 2 8 12 9),
   (0xCAA01CA0, .tcpySp ⟨true, 4⟩ true 3 9 8),
   (0x0AA05CA2, .tcpyOa ⟨false, 0⟩ true 3 9 8 2),
   (0xEAA09CA2, .tcpyWb ⟨true, 6⟩ true 3 9 8 2),
   (0x7AA0DCA0, .tcpySt ⟨false, 7⟩ true 3 9 8),
   (0x8AA11CA0, .tcpyGath ⟨true, 0⟩ true 3 9 8),
   (0x2AA15CA0, .tcpyScat ⟨false, 2⟩ true 3 9 8),
   (0xBAA19820, .tcpyZero ⟨true, 3⟩ true 3 8)]

theorem test_decode_copy : ∀ p ∈ copyWords, decodeWord p.1 0x12345678 = some p.2 := by
  decide +kernel

/-- Words of `tsys`. -/
noncomputable def tsysWords : List (Word × Instr) :=
  [(0x0AC00064, .seal ⟨false, 0⟩ 3 4),
   (0xDAC04004, .unseal ⟨true, 5⟩ 4),
   (0x0CC00004, .tsysInvVa ⟨false, 0⟩ 4),
   (0x9CC04000, .tsysInvAll ⟨true, 1⟩),
   (0x2CC080C8, .tsysWqpop ⟨false, 2⟩ 3 8),
   (0x8CC0C008, .tsysWqdone ⟨true, 0⟩ 8),
   (0x4CC10308, .tsysPtld ⟨false, 4⟩ 12 8),
   (0xDCC142C8, .tsysFrmTake ⟨true, 5⟩ true 3 8),
   (0x0CC1820C, .tsysFrmGive ⟨false, 0⟩ true 12),
   (0xFCC1C20C, .tsysMzero ⟨true, 7⟩ true 12),
   (0x1CC21308, .tsysMcopy ⟨false, 1⟩ true 12 8),
   (0x8CC24204, .tsysMeterRd ⟨true, 0⟩ 16 4),
   (0x3CC28000, .tsysPsaveDone ⟨false, 3⟩),
   (0xCCC2C008, .tsysFaultPost ⟨true, 4⟩ 8)]

theorem test_decode_tsys : ∀ p ∈ tsysWords, decodeWord p.1 0x12345678 = some p.2 := by
  decide +kernel

/-- Words of `stroke`. -/
noncomputable def strokeWords : List (Word × Instr) :=
  [(0x6B1AA727, .mma ⟨false, 6⟩ true true 2 2 2 3 9 7),
   (0x8B1EA727, .mmaz ⟨true, 0⟩ true true 2 2 2 3 9 7),
   (0x1B5AA727, .mmag ⟨false, 1⟩ true true 2 2 2 3 9 7 0x12345678),
   (0xAB5EA727, .mmagz ⟨true, 2⟩ true true 2 2 2 3 9 7 0x12345678)]

theorem test_decode_stroke : ∀ p ∈ strokeWords, decodeWord p.1 0x12345678 = some p.2 := by
  decide +kernel

/-- Words of `tacc`. -/
noncomputable def taccWords : List (Word × Instr) :=
  [(0x0B800002, .taccTzero ⟨false, 0⟩ 2),
   (0xCB8044A2, .taccTstSp ⟨true, 4⟩ 9 8 2),
   (0x5B8084A2, .taccTstMem ⟨false, 5⟩ 9 8 2),
   (0x8B80C4A2, .taccTld ⟨true, 0⟩ 9 8 2),
   (0x7B810812, .taccTscale ⟨false, 7⟩ true 4 2),
   (0x9B814012, .taccTbias ⟨true, 1⟩ 4 2),
   (0x0BC08300, .qntPi8 ⟨false, 0⟩ 8 12),
   (0xBBC48300, .qntE2m1 ⟨true, 3⟩ 8 12)]

theorem test_decode_tacc : ∀ p ∈ taccWords, decodeWord p.1 0x12345678 = some p.2 := by
  decide +kernel

/-- Words of `task`. -/
noncomputable def taskWords : List (Word × Instr) :=
  [(0x4C000204, .taskSpawn ⟨false, 4⟩ 16 4),
   (0x8C004204, .taskLaunch ⟨true, 0⟩ 16 4),
   (0x6C400204, .arenaNew ⟨false, 6⟩ 16 4),
   (0xFC404004, .arenaEnd ⟨true, 7⟩ 4),
   (0x0C408064, .arenaChk ⟨false, 0⟩ 3 4),
   (0xAC800004, .bsnDef ⟨true, 2⟩ 4),
   (0x3C804124, .bsnResize ⟨false, 3⟩ 9 4),
   (0x8C808124, .bsnDrop ⟨true, 0⟩ 9 4),
   (0x5C80C204, .bsnStat ⟨false, 5⟩ 16 4),
   (0xEC811324, .pgBsn ⟨true, 6⟩ 9 9 4)]

theorem test_decode_task : ∀ p ∈ taskWords, decodeWord p.1 0x12345678 = some p.2 := by
  decide +kernel

/-- B = 63 takes the literal word of R83, in a vector word, a scalar word and `ctl.rep`. -/
theorem test_decode_literals :
    decodeWord 0x0100863F 0x12345678 = some (.viaAdd ⟨false, 0⟩ 8 24 (.lit 0x12345678)) ∧
    decodeWord 0x05C08EF8 0xFFFFFFFF = some (.saluSadd ⟨false, 0⟩ 4 14 (.lit 0xFFFFFFFF)) ∧
    decodeWord 0x00900FC0 7 = some (.ctlRep ⟨false, 0⟩ (.lit 7)) := by
  decide +kernel

/-! ## Ill-formed terms: one for each field check of each word; the check refuses the term and the decoder its word -/

theorem test_ill_formed_sys :
    (.ctlJump ⟨true, 7⟩ 13 2 : Instr).wf = false ∧ decodeWord 0xF0800342 0 = none ∧
    (.ctlCall ⟨false, 1⟩ 8 13 : Instr).wf = false ∧ decodeWord 0x10848340 0 = none ∧
    (.ctlCall ⟨false, 1⟩ 9 12 : Instr).wf = false ∧ decodeWord 0x10849300 0 = none ∧
    (.ctlCalli ⟨true, 0⟩ 9 0x12345678 : Instr).wf = false ∧ decodeWord 0x80889000 0 = none ∧
    (.ctlRet ⟨false, 3⟩ 13 : Instr).wf = false ∧ decodeWord 0x308C0340 0 = none := by
  decide +kernel

theorem test_ill_formed_via0 :
    (.viaAdd ⟨false, 7⟩ 8 12 (.reg 63) : Instr).wf = false ∧
    (.viaSub ⟨true, 0⟩ 8 12 (.reg 63) : Instr).wf = false ∧
    (.viaMul ⟨false, 2⟩ 8 12 (.reg 63) : Instr).wf = false ∧
    (.viaMulh ⟨true, 3⟩ 8 12 (.reg 63) : Instr).wf = false ∧
    (.viaMulhn ⟨false, 0⟩ 8 12 (.reg 63) : Instr).wf = false ∧
    (.viaMad ⟨true, 5⟩ 8 12 (.reg 63) : Instr).wf = false ∧
    (.viaMin ⟨false, 6⟩ 8 12 (.reg 63) : Instr).wf = false ∧
    (.viaMax ⟨true, 0⟩ 8 12 (.reg 63) : Instr).wf = false ∧
    (.viaMinn ⟨false, 1⟩ 8 12 (.reg 63) : Instr).wf = false ∧
    (.viaMaxn ⟨true, 2⟩ 8 12 (.reg 63) : Instr).wf = false ∧
    (.viaAddc ⟨false, 5⟩ 8 12 (.reg 63) : Instr).wf = false ∧
    (.viaAddc ⟨false, 5⟩ 9 12 (.reg 20) : Instr).wf = false ∧ decodeWord 0x51309314 0 = none ∧
    (.viaAddc ⟨false, 5⟩ 8 13 (.reg 20) : Instr).wf = false ∧ decodeWord 0x51308354 0 = none ∧
    (.viaAddc ⟨false, 5⟩ 8 12 (.reg 21) : Instr).wf = false ∧ decodeWord 0x51308315 0 = none ∧
    (.viaSubc ⟨true, 0⟩ 8 12 (.reg 63) : Instr).wf = false ∧
    (.viaSubc ⟨true, 0⟩ 9 12 (.reg 20) : Instr).wf = false ∧ decodeWord 0x81349314 0 = none := by
  decide +kernel

theorem test_ill_formed_via1 :
    (.viaSubc ⟨true, 0⟩ 8 13 (.reg 20) : Instr).wf = false ∧ decodeWord 0x81348354 0 = none ∧
    (.viaSubc ⟨true, 0⟩ 8 12 (.reg 21) : Instr).wf = false ∧ decodeWord 0x81348315 0 = none := by
  decide +kernel

theorem test_ill_formed_vil :
    (.vilAnd ⟨false, 0⟩ 8 12 (.reg 63) : Instr).wf = false ∧
    (.vilOr ⟨true, 3⟩ 8 12 (.reg 63) : Instr).wf = false ∧
    (.vilXor ⟨false, 4⟩ 8 12 (.reg 63) : Instr).wf = false ∧
    (.vilAndn ⟨true, 0⟩ 8 12 (.reg 63) : Instr).wf = false ∧
    (.vilShl ⟨true, 7⟩ 8 12 (.reg 63) : Instr).wf = false ∧
    (.vilShr ⟨false, 0⟩ 8 12 (.reg 63) : Instr).wf = false ∧
    (.vilSra ⟨true, 2⟩ 8 12 (.reg 63) : Instr).wf = false ∧
    (.vilRotl ⟨false, 3⟩ 8 12 (.reg 63) : Instr).wf = false ∧
    (.vilBfx ⟨false, 5⟩ 8 12 (.reg 63) : Instr).wf = false ∧
    (.vilBfxn ⟨true, 6⟩ 8 12 (.reg 63) : Instr).wf = false ∧
    (.vilBfi ⟨false, 0⟩ 8 12 (.reg 63) : Instr).wf = false ∧
    (.vilBsel ⟨false, 2⟩ 8 12 (.reg 63) : Instr).wf = false := by
  decide +kernel

theorem test_ill_formed_vic0 :
    (.vicEq ⟨true, 0⟩ 3 5 12 20 : Instr).wf = false ∧ decodeWord 0x8181D314 0 = none ∧
    (.vicEq ⟨true, 0⟩ 1 0 12 20 : Instr).wf = false ∧ decodeWord 0x81808314 0 = none ∧
    (.vicNe ⟨false, 4⟩ 3 5 12 20 : Instr).wf = false ∧ decodeWord 0x4185D314 0 = none ∧
    (.vicNe ⟨false, 4⟩ 1 0 12 20 : Instr).wf = false ∧ decodeWord 0x41848314 0 = none ∧
    (.vicLt ⟨true, 5⟩ 3 5 12 20 : Instr).wf = false ∧ decodeWord 0xD189D314 0 = none ∧
    (.vicLt ⟨true, 5⟩ 1 0 12 20 : Instr).wf = false ∧ decodeWord 0xD1888314 0 = none ∧
    (.vicLe ⟨false, 0⟩ 3 5 12 20 : Instr).wf = false ∧ decodeWord 0x018DD314 0 = none ∧
    (.vicLe ⟨false, 0⟩ 1 0 12 20 : Instr).wf = false ∧ decodeWord 0x018C8314 0 = none ∧
    (.vicGt ⟨true, 7⟩ 3 5 12 20 : Instr).wf = false ∧ decodeWord 0xF191D314 0 = none ∧
    (.vicGt ⟨true, 7⟩ 1 0 12 20 : Instr).wf = false ∧ decodeWord 0xF1908314 0 = none ∧
    (.vicGe ⟨false, 1⟩ 3 5 12 20 : Instr).wf = false ∧ decodeWord 0x1195D314 0 = none ∧
    (.vicGe ⟨false, 1⟩ 1 0 12 20 : Instr).wf = false ∧ decodeWord 0x11948314 0 = none ∧
    (.vicLtn ⟨true, 0⟩ 3 5 12 20 : Instr).wf = false ∧ decodeWord 0x8199D314 0 = none ∧
    (.vicLtn ⟨true, 0⟩ 1 0 12 20 : Instr).wf = false ∧ decodeWord 0x81988314 0 = none ∧
    (.vicLen ⟨false, 3⟩ 3 5 12 20 : Instr).wf = false ∧ decodeWord 0x319DD314 0 = none ∧
    (.vicLen ⟨false, 3⟩ 1 0 12 20 : Instr).wf = false ∧ decodeWord 0x319C8314 0 = none := by
  decide +kernel

theorem test_ill_formed_vic1 :
    (.vicGtn ⟨true, 4⟩ 3 5 12 20 : Instr).wf = false ∧ decodeWord 0xC1A1D314 0 = none ∧
    (.vicGtn ⟨true, 4⟩ 1 0 12 20 : Instr).wf = false ∧ decodeWord 0xC1A08314 0 = none ∧
    (.vicGen ⟨false, 0⟩ 3 5 12 20 : Instr).wf = false ∧ decodeWord 0x01A5D314 0 = none ∧
    (.vicGen ⟨false, 0⟩ 1 0 12 20 : Instr).wf = false ∧ decodeWord 0x01A48314 0 = none ∧
    (.vicEq64 ⟨true, 6⟩ 1 5 13 20 : Instr).wf = false ∧ decodeWord 0xE1A8D354 0 = none ∧
    (.vicEq64 ⟨true, 6⟩ 1 5 12 21 : Instr).wf = false ∧ decodeWord 0xE1A8D315 0 = none ∧
    (.vicEq64 ⟨true, 6⟩ 3 5 12 20 : Instr).wf = false ∧ decodeWord 0xE1A9D314 0 = none ∧
    (.vicEq64 ⟨true, 6⟩ 1 0 12 20 : Instr).wf = false ∧ decodeWord 0xE1A88314 0 = none ∧
    (.vicLt64 ⟨false, 7⟩ 1 5 13 20 : Instr).wf = false ∧ decodeWord 0x71ACD354 0 = none ∧
    (.vicLt64 ⟨false, 7⟩ 1 5 12 21 : Instr).wf = false ∧ decodeWord 0x71ACD315 0 = none ∧
    (.vicLt64 ⟨false, 7⟩ 3 5 12 20 : Instr).wf = false ∧ decodeWord 0x71ADD314 0 = none ∧
    (.vicLt64 ⟨false, 7⟩ 1 0 12 20 : Instr).wf = false ∧ decodeWord 0x71AC8314 0 = none ∧
    (.vicLtn64 ⟨true, 0⟩ 1 5 13 20 : Instr).wf = false ∧ decodeWord 0x81B0D354 0 = none ∧
    (.vicLtn64 ⟨true, 0⟩ 1 5 12 21 : Instr).wf = false ∧ decodeWord 0x81B0D315 0 = none ∧
    (.vicLtn64 ⟨true, 0⟩ 3 5 12 20 : Instr).wf = false ∧ decodeWord 0x81B1D314 0 = none ∧
    (.vicLtn64 ⟨true, 0⟩ 1 0 12 20 : Instr).wf = false ∧ decodeWord 0x81B08314 0 = none := by
  decide +kernel

theorem test_ill_formed_vf :
    (.vfFadd ⟨false, 5⟩ 8 12 (.reg 63) : Instr).wf = false ∧
    (.vfFsub ⟨true, 0⟩ 8 12 (.reg 63) : Instr).wf = false ∧
    (.vfFmul ⟨false, 7⟩ 8 12 (.reg 63) : Instr).wf = false ∧
    (.vfFfma ⟨true, 1⟩ 8 12 (.reg 63) : Instr).wf = false ∧
    (.vfFfms ⟨false, 0⟩ 8 12 (.reg 63) : Instr).wf = false ∧
    (.vfFmin ⟨true, 3⟩ 8 12 (.reg 63) : Instr).wf = false ∧
    (.vfFmax ⟨false, 4⟩ 8 12 (.reg 63) : Instr).wf = false ∧
    (.vfFcopys ⟨true, 7⟩ 8 12 (.reg 63) : Instr).wf = false ∧
    (.vfFscale ⟨true, 6⟩ 8 12 (.reg 63) : Instr).wf = false := by
  decide +kernel

theorem test_ill_formed_vfc0 :
    (.vfcFeq ⟨false, 0⟩ 3 5 12 20 : Instr).wf = false ∧ decodeWord 0x0481D314 0 = none ∧
    (.vfcFeq ⟨false, 0⟩ 1 0 12 20 : Instr).wf = false ∧ decodeWord 0x04808314 0 = none ∧
    (.vfcFne ⟨true, 1⟩ 3 5 12 20 : Instr).wf = false ∧ decodeWord 0x9485D314 0 = none ∧
    (.vfcFne ⟨true, 1⟩ 1 0 12 20 : Instr).wf = false ∧ decodeWord 0x94848314 0 = none ∧
    (.vfcFlt ⟨false, 2⟩ 3 5 12 20 : Instr).wf = false ∧ decodeWord 0x2489D314 0 = none ∧
    (.vfcFlt ⟨false, 2⟩ 1 0 12 20 : Instr).wf = false ∧ decodeWord 0x24888314 0 = none ∧
    (.vfcFle ⟨true, 0⟩ 3 5 12 20 : Instr).wf = false ∧ decodeWord 0x848DD314 0 = none ∧
    (.vfcFle ⟨true, 0⟩ 1 0 12 20 : Instr).wf = false ∧ decodeWord 0x848C8314 0 = none ∧
    (.vfcFgt ⟨false, 4⟩ 3 5 12 20 : Instr).wf = false ∧ decodeWord 0x4491D314 0 = none ∧
    (.vfcFgt ⟨false, 4⟩ 1 0 12 20 : Instr).wf = false ∧ decodeWord 0x44908314 0 = none ∧
    (.vfcFge ⟨true, 5⟩ 3 5 12 20 : Instr).wf = false ∧ decodeWord 0xD495D314 0 = none ∧
    (.vfcFge ⟨true, 5⟩ 1 0 12 20 : Instr).wf = false ∧ decodeWord 0xD4948314 0 = none ∧
    (.vfcFun ⟨false, 0⟩ 3 5 12 20 : Instr).wf = false ∧ decodeWord 0x0499D314 0 = none ∧
    (.vfcFun ⟨false, 0⟩ 1 0 12 20 : Instr).wf = false ∧ decodeWord 0x04988314 0 = none ∧
    (.vfcFord ⟨true, 7⟩ 3 5 12 20 : Instr).wf = false ∧ decodeWord 0xF49DD314 0 = none ∧
    (.vfcFord ⟨true, 7⟩ 1 0 12 20 : Instr).wf = false ∧ decodeWord 0xF49C8314 0 = none := by
  decide +kernel

theorem test_ill_formed_vfc1 :
    (.vfcFclass ⟨false, 1⟩ 3 5 12 20 : Instr).wf = false ∧ decodeWord 0x14A1D314 0 = none ∧
    (.vfcFclass ⟨false, 1⟩ 1 0 12 20 : Instr).wf = false ∧ decodeWord 0x14A08314 0 = none := by
  decide +kernel

theorem test_ill_formed_vh :
    (.vhHadd ⟨true, 0⟩ true 8 12 (.reg 63) : Instr).wf = false ∧
    (.vhHsub ⟨false, 3⟩ true 8 12 (.reg 63) : Instr).wf = false ∧
    (.vhHmul ⟨true, 4⟩ true 8 12 (.reg 63) : Instr).wf = false ∧
    (.vhHfma ⟨false, 0⟩ true 8 12 (.reg 63) : Instr).wf = false ∧
    (.vhHmin ⟨true, 6⟩ true 8 12 (.reg 63) : Instr).wf = false ∧
    (.vhHmax ⟨false, 7⟩ true 8 12 (.reg 63) : Instr).wf = false := by
  decide +kernel

theorem test_ill_formed_scalar0 :
    (.saluSadd ⟨false, 0⟩ 10 12 (.reg 31) : Instr).wf = false ∧
    (.saluSsub ⟨true, 6⟩ 10 12 (.reg 31) : Instr).wf = false ∧
    (.saluSmul ⟨false, 7⟩ 10 12 (.reg 31) : Instr).wf = false ∧
    (.saluSand ⟨true, 0⟩ 10 12 (.reg 31) : Instr).wf = false ∧
    (.saluSor ⟨false, 2⟩ 10 12 (.reg 31) : Instr).wf = false ∧
    (.saluSxor ⟨true, 3⟩ 10 12 (.reg 31) : Instr).wf = false ∧
    (.saluSshl ⟨false, 0⟩ 10 12 (.reg 31) : Instr).wf = false ∧
    (.saluSshr ⟨true, 5⟩ 10 12 (.reg 31) : Instr).wf = false ∧
    (.saluSsra ⟨false, 6⟩ 10 12 (.reg 31) : Instr).wf = false ∧
    (.saluSmin ⟨true, 0⟩ 10 12 (.reg 31) : Instr).wf = false ∧
    (.saluSmax ⟨false, 1⟩ 10 12 (.reg 31) : Instr).wf = false ∧
    (.saluSaddc ⟨false, 0⟩ 10 12 (.reg 31) : Instr).wf = false ∧
    (.saluSaddc ⟨false, 0⟩ 11 12 (.reg 8) : Instr).wf = false ∧ decodeWord 0x05F16C40 0 = none ∧
    (.saluSaddc ⟨false, 0⟩ 10 13 (.reg 8) : Instr).wf = false ∧ decodeWord 0x05F14D40 0 = none ∧
    (.saluSaddc ⟨false, 0⟩ 10 12 (.reg 9) : Instr).wf = false ∧ decodeWord 0x05F14C48 0 = none ∧
    (.saluScmp ⟨true, 4⟩ 2 5 12 (.reg 31) 3 : Instr).wf = false := by
  decide +kernel

theorem test_ill_formed_scalar1 :
    (.saluScmp ⟨true, 4⟩ 3 5 12 (.reg 8) 3 : Instr).wf = false ∧ decodeWord 0xC5F7AC43 0 = none ∧
    (.saluScmp ⟨true, 4⟩ 2 0 12 (.reg 8) 3 : Instr).wf = false ∧ decodeWord 0xC5F60C43 0 = none ∧
    (.smovS2v ⟨false, 5⟩ 8 32 : Instr).wf = false ∧ decodeWord 0x56008800 0 = none ∧
    (.smovV2s ⟨true, 0⟩ 32 12 8 : Instr).wf = false ∧ decodeWord 0x86060308 0 = none ∧
    (.grdGand ⟨false, 7⟩ 0 3 3 : Instr).wf = false ∧ decodeWord 0x764000C3 0 = none ∧
    (.grdGor ⟨true, 1⟩ 0 3 3 : Instr).wf = false ∧ decodeWord 0x964400C3 0 = none ∧
    (.grdGxor ⟨false, 0⟩ 0 3 3 : Instr).wf = false ∧ decodeWord 0x064800C3 0 = none ∧
    (.grdGnot ⟨true, 3⟩ 0 3 : Instr).wf = false ∧ decodeWord 0xB64C00C0 0 = none ∧
    (.grdGmov ⟨false, 4⟩ 0 3 : Instr).wf = false ∧ decodeWord 0x465000C0 0 = none ∧
    (.grdGset ⟨true, 0⟩ 0 12 8 : Instr).wf = false ∧ decodeWord 0x86540308 0 = none ∧
    (.csrRdsr ⟨true, 7⟩ 8 0 63 : Instr).wf = false ∧ decodeWord 0xF680803F 0 = none ∧
    (.csrWrsr ⟨false, 0⟩ 8 0 63 : Instr).wf = false ∧ decodeWord 0x0684803F 0 = none ∧
    (.csrRdsrs ⟨true, 2⟩ 32 0 17 : Instr).wf = false ∧ decodeWord 0xA68A0011 0 = none ∧
    (.csrRdsrs ⟨true, 2⟩ 8 0 63 : Instr).wf = false ∧ decodeWord 0xA688803F 0 = none ∧
    (.csrWrsrs ⟨false, 3⟩ 32 0 17 : Instr).wf = false ∧ decodeWord 0x368E0011 0 = none ∧
    (.csrWrsrs ⟨false, 3⟩ 8 0 63 : Instr).wf = false ∧ decodeWord 0x368C803F 0 = none := by
  decide +kernel

theorem test_ill_formed_memory0 :
    (.ldB8 ⟨true, 0⟩ true 8 13 53 : Instr).wf = false ∧ decodeWord 0x86E08375 0 = none ∧
    (.ldB8s ⟨false, 5⟩ true 8 13 53 : Instr).wf = false ∧ decodeWord 0x56E48375 0 = none ∧
    (.ldB16 ⟨true, 6⟩ true 8 13 53 : Instr).wf = false ∧ decodeWord 0xE6E88375 0 = none ∧
    (.ldB16s ⟨false, 0⟩ true 8 13 53 : Instr).wf = false ∧ decodeWord 0x06EC8375 0 = none ∧
    (.ldB32 ⟨true, 1⟩ true 8 13 53 : Instr).wf = false ∧ decodeWord 0x96F08375 0 = none ∧
    (.ldB64 ⟨false, 2⟩ true 8 13 53 : Instr).wf = false ∧ decodeWord 0x26F48375 0 = none ∧
    (.ldB64 ⟨false, 2⟩ true 9 12 53 : Instr).wf = false ∧ decodeWord 0x26F49335 0 = none ∧
    (.ldB128 ⟨true, 0⟩ true 8 13 53 : Instr).wf = false ∧ decodeWord 0x86F88375 0 = none ∧
    (.ldB128 ⟨true, 0⟩ true 10 12 53 : Instr).wf = false ∧ decodeWord 0x86F8A335 0 = none ∧
    (.stB8 ⟨false, 4⟩ 8 13 53 : Instr).wf = false ∧ decodeWord 0x47008375 0 = none ∧
    (.stB16 ⟨true, 5⟩ 8 13 53 : Instr).wf = false ∧ decodeWord 0xD7088375 0 = none ∧
    (.stB32 ⟨false, 0⟩ 8 13 53 : Instr).wf = false ∧ decodeWord 0x07108375 0 = none ∧
    (.stB64 ⟨true, 7⟩ 8 13 53 : Instr).wf = false ∧ decodeWord 0xF7148375 0 = none ∧
    (.stB64 ⟨true, 7⟩ 9 12 53 : Instr).wf = false ∧ decodeWord 0xF7149335 0 = none ∧
    (.stB128 ⟨false, 1⟩ 8 13 53 : Instr).wf = false ∧ decodeWord 0x17188375 0 = none ∧
    (.stB128 ⟨false, 1⟩ 10 12 53 : Instr).wf = false ∧ decodeWord 0x1718A335 0 = none := by
  decide +kernel

theorem test_ill_formed_memory1 :
    (.ldsB64 ⟨false, 7⟩ 9 12 53 : Instr).wf = false ∧ decodeWord 0x77549335 0 = none ∧
    (.ldsB128 ⟨true, 0⟩ 10 12 53 : Instr).wf = false ∧ decodeWord 0x8758A335 0 = none ∧
    (.stsB64 ⟨true, 5⟩ 9 12 53 : Instr).wf = false ∧ decodeWord 0xD7949335 0 = none ∧
    (.stsB128 ⟨false, 6⟩ 10 12 53 : Instr).wf = false ∧ decodeWord 0x6798A335 0 = none ∧
    (.ldp ⟨true, 0⟩ 1 8 13 53 : Instr).wf = false ∧ decodeWord 0x87C48375 0 = none ∧
    (.ldpF32 ⟨false, 1⟩ 1 8 13 53 : Instr).wf = false ∧ decodeWord 0x17E48375 0 = none := by
  decide +kernel

theorem test_ill_formed_upd0 :
    (.updAdd ⟨true, 2⟩ 8 13 53 : Instr).wf = false ∧ decodeWord 0xA8008375 0 = none ∧
    (.updFadd ⟨false, 0⟩ 8 13 53 : Instr).wf = false ∧ decodeWord 0x08048375 0 = none ∧
    (.updMin ⟨true, 4⟩ 8 13 53 : Instr).wf = false ∧ decodeWord 0xC8088375 0 = none ∧
    (.updMax ⟨false, 5⟩ 8 13 53 : Instr).wf = false ∧ decodeWord 0x580C8375 0 = none ∧
    (.updMinn ⟨true, 0⟩ 8 13 53 : Instr).wf = false ∧ decodeWord 0x88108375 0 = none ∧
    (.updMaxn ⟨false, 7⟩ 8 13 53 : Instr).wf = false ∧ decodeWord 0x78148375 0 = none ∧
    (.updAnd ⟨true, 1⟩ 8 13 53 : Instr).wf = false ∧ decodeWord 0x98188375 0 = none ∧
    (.updOr ⟨false, 0⟩ 8 13 53 : Instr).wf = false ∧ decodeWord 0x081C8375 0 = none ∧
    (.updXor ⟨true, 3⟩ 8 13 53 : Instr).wf = false ∧ decodeWord 0xB8208375 0 = none ∧
    (.updSwap ⟨false, 4⟩ 8 13 53 : Instr).wf = false ∧ decodeWord 0x48248375 0 = none ∧
    (.updCas ⟨true, 0⟩ 8 13 53 : Instr).wf = false ∧ decodeWord 0x88288375 0 = none ∧
    (.updCas ⟨true, 0⟩ 9 12 53 : Instr).wf = false ∧ decodeWord 0x88289335 0 = none ∧
    (.updAdd64 ⟨false, 6⟩ 8 13 53 : Instr).wf = false ∧ decodeWord 0x682C8375 0 = none ∧
    (.updAdd64 ⟨false, 6⟩ 9 12 53 : Instr).wf = false ∧ decodeWord 0x682C9335 0 = none ∧
    (.updSwap64 ⟨true, 7⟩ 8 13 53 : Instr).wf = false ∧ decodeWord 0xF8308375 0 = none ∧
    (.updSwap64 ⟨true, 7⟩ 9 12 53 : Instr).wf = false ∧ decodeWord 0xF8309335 0 = none := by
  decide +kernel

theorem test_ill_formed_upd1 :
    (.updCas64 ⟨false, 0⟩ 8 13 53 : Instr).wf = false ∧ decodeWord 0x08348375 0 = none ∧
    (.updCas64 ⟨false, 0⟩ 10 12 53 : Instr).wf = false ∧ decodeWord 0x0834A335 0 = none := by
  decide +kernel

theorem test_ill_formed_updc0 :
    (.updcAdd ⟨true, 2⟩ 8 13 53 : Instr).wf = false ∧ decodeWord 0xA8408375 0 = none ∧
    (.updcFadd ⟨false, 3⟩ 8 13 53 : Instr).wf = false ∧ decodeWord 0x38448375 0 = none ∧
    (.updcMin ⟨true, 0⟩ 8 13 53 : Instr).wf = false ∧ decodeWord 0x88488375 0 = none ∧
    (.updcMax ⟨false, 5⟩ 8 13 53 : Instr).wf = false ∧ decodeWord 0x584C8375 0 = none ∧
    (.updcMinn ⟨true, 6⟩ 8 13 53 : Instr).wf = false ∧ decodeWord 0xE8508375 0 = none ∧
    (.updcMaxn ⟨false, 0⟩ 8 13 53 : Instr).wf = false ∧ decodeWord 0x08548375 0 = none ∧
    (.updcAnd ⟨true, 1⟩ 8 13 53 : Instr).wf = false ∧ decodeWord 0x98588375 0 = none ∧
    (.updcOr ⟨false, 2⟩ 8 13 53 : Instr).wf = false ∧ decodeWord 0x285C8375 0 = none ∧
    (.updcXor ⟨true, 0⟩ 8 13 53 : Instr).wf = false ∧ decodeWord 0x88608375 0 = none ∧
    (.updcSwap ⟨false, 4⟩ 8 13 53 : Instr).wf = false ∧ decodeWord 0x48648375 0 = none ∧
    (.updcCas ⟨true, 5⟩ 8 13 53 : Instr).wf = false ∧ decodeWord 0xD8688375 0 = none ∧
    (.updcCas ⟨true, 5⟩ 9 12 53 : Instr).wf = false ∧ decodeWord 0xD8689335 0 = none ∧
    (.updcAdd64 ⟨false, 0⟩ 8 13 53 : Instr).wf = false ∧ decodeWord 0x086C8375 0 = none ∧
    (.updcAdd64 ⟨false, 0⟩ 9 12 53 : Instr).wf = false ∧ decodeWord 0x086C9335 0 = none ∧
    (.updcSwap64 ⟨true, 7⟩ 8 13 53 : Instr).wf = false ∧ decodeWord 0xF8708375 0 = none ∧
    (.updcSwap64 ⟨true, 7⟩ 9 12 53 : Instr).wf = false ∧ decodeWord 0xF8709335 0 = none := by
  decide +kernel

theorem test_ill_formed_updc1 :
    (.updcCas64 ⟨false, 1⟩ 8 13 53 : Instr).wf = false ∧ decodeWord 0x18748375 0 = none ∧
    (.updcCas64 ⟨false, 1⟩ 10 12 53 : Instr).wf = false ∧ decodeWord 0x1874A335 0 = none := by
  decide +kernel

theorem test_ill_formed_updn :
    (.updnAdd ⟨true, 0⟩ 8 13 53 : Instr).wf = false ∧ decodeWord 0x88808375 0 = none ∧
    (.updnFadd ⟨false, 3⟩ 8 13 53 : Instr).wf = false ∧ decodeWord 0x38848375 0 = none ∧
    (.updnMin ⟨true, 4⟩ 8 13 53 : Instr).wf = false ∧ decodeWord 0xC8888375 0 = none ∧
    (.updnMax ⟨false, 0⟩ 8 13 53 : Instr).wf = false ∧ decodeWord 0x088C8375 0 = none ∧
    (.updnMinn ⟨true, 6⟩ 8 13 53 : Instr).wf = false ∧ decodeWord 0xE8908375 0 = none ∧
    (.updnMaxn ⟨false, 7⟩ 8 13 53 : Instr).wf = false ∧ decodeWord 0x78948375 0 = none ∧
    (.updnAnd ⟨true, 0⟩ 8 13 53 : Instr).wf = false ∧ decodeWord 0x88988375 0 = none ∧
    (.updnOr ⟨false, 2⟩ 8 13 53 : Instr).wf = false ∧ decodeWord 0x289C8375 0 = none ∧
    (.updnXor ⟨true, 3⟩ 8 13 53 : Instr).wf = false ∧ decodeWord 0xB8A08375 0 = none := by
  decide +kernel

theorem test_ill_formed_sync0 :
    (.memPref ⟨true, 0⟩ 13 53 : Instr).wf = false ∧ decodeWord 0x88CC0375 0 = none ∧
    (.memBpref ⟨false, 1⟩ 9 9 : Instr).wf = false ∧ decodeWord 0x18D09240 0 = none ∧
    (.memBpref ⟨false, 1⟩ 30 9 : Instr).wf = false ∧ decodeWord 0x18D1E240 0 = none ∧
    (.monWaitcEq ⟨true, 2⟩ 8 13 53 : Instr).wf = false ∧ decodeWord 0xA9008375 0 = none ∧
    (.monWaitcNe ⟨false, 0⟩ 8 13 53 : Instr).wf = false ∧ decodeWord 0x09048375 0 = none ∧
    (.monWaitcLt ⟨true, 4⟩ 8 13 53 : Instr).wf = false ∧ decodeWord 0xC9088375 0 = none ∧
    (.monWaitcGe ⟨false, 5⟩ 8 13 53 : Instr).wf = false ∧ decodeWord 0x590C8375 0 = none ∧
    (.monWaitcLtn ⟨true, 0⟩ 8 13 53 : Instr).wf = false ∧ decodeWord 0x89108375 0 = none ∧
    (.monWaitcGen ⟨false, 7⟩ 8 13 53 : Instr).wf = false ∧ decodeWord 0x79148375 0 = none ∧
    (.monWaitcChg ⟨true, 1⟩ 13 53 : Instr).wf = false ∧ decodeWord 0x99180375 0 = none ∧
    (.barInit ⟨false, 0⟩ 0 9 : Instr).wf = false ∧ decodeWord 0x09400009 0 = none ∧
    (.barInitX ⟨true, 3⟩ 0 9 : Instr).wf = false ∧ decodeWord 0xB9404009 0 = none ∧
    (.barTest ⟨true, 7⟩ 0 9 : Instr).wf = false ∧ decodeWord 0xF9414009 0 = none ∧
    (.barInval ⟨false, 0⟩ 0 9 : Instr).wf = false ∧ decodeWord 0x09418009 0 = none ∧
    (.musSet ⟨false, 3⟩ 0 5 : Instr).wf = false ∧ decodeWord 0x39800005 0 = none ∧
    (.ringInit ⟨false, 5⟩ 0 5 : Instr).wf = false ∧ decodeWord 0x59C00005 0 = none := by
  decide +kernel

theorem test_ill_formed_sync1 :
    (.ringInit ⟨false, 5⟩ 9 5 : Instr).wf = false ∧ decodeWord 0x59C0004D 0 = none ∧
    (.futFinit ⟨true, 0⟩ 13 53 : Instr).wf = false ∧ decodeWord 0x8A000375 0 = none ∧
    (.futFput ⟨false, 4⟩ 8 13 53 : Instr).wf = false ∧ decodeWord 0x4A048375 0 = none ∧
    (.futFput ⟨false, 4⟩ 9 12 53 : Instr).wf = false ∧ decodeWord 0x4A049335 0 = none ∧
    (.futFget ⟨true, 5⟩ 8 13 53 : Instr).wf = false ∧ decodeWord 0xDA088375 0 = none ∧
    (.futFget ⟨true, 5⟩ 9 12 53 : Instr).wf = false ∧ decodeWord 0xDA089335 0 = none ∧
    (.futFpoll ⟨false, 0⟩ 3 13 53 : Instr).wf = false ∧ decodeWord 0x0A0C3375 0 = none ∧
    (.futFpoll ⟨false, 0⟩ 0 12 53 : Instr).wf = false ∧ decodeWord 0x0A0C0335 0 = none := by
  decide +kernel

theorem test_ill_formed_copy0 :
    (.cpyMm ⟨true, 7⟩ 3 8 12 9 : Instr).wf = false ∧ decodeWord 0xFA4C8309 0 = none ∧
    (.cpyMm ⟨true, 7⟩ 2 9 12 9 : Instr).wf = false ∧ decodeWord 0xFA489309 0 = none ∧
    (.cpyMm ⟨true, 7⟩ 2 8 13 9 : Instr).wf = false ∧ decodeWord 0xFA488349 0 = none ∧
    (.cpyMs ⟨false, 1⟩ 3 8 12 9 : Instr).wf = false ∧ decodeWord 0x1A5C8309 0 = none ∧
    (.cpyMs ⟨false, 1⟩ 2 9 12 9 : Instr).wf = false ∧ decodeWord 0x1A589309 0 = none ∧
    (.cpySm ⟨true, 0⟩ 3 8 12 9 : Instr).wf = false ∧ decodeWord 0x8A6C8309 0 = none ∧
    (.cpySm ⟨true, 0⟩ 2 8 13 9 : Instr).wf = false ∧ decodeWord 0x8A688349 0 = none ∧
    (.cpySs ⟨false, 3⟩ 3 8 12 9 : Instr).wf = false ∧ decodeWord 0x3A7C8309 0 = none ∧
    (.tcpySp ⟨true, 4⟩ false 1 9 8 : Instr).wf = false ∧ decodeWord 0xCA800CA0 0 = none ∧
    (.tcpySp ⟨true, 4⟩ true 3 9 25 : Instr).wf = false ∧ decodeWord 0xCAA01CE4 0 = none ∧
    (.tcpyOa ⟨false, 0⟩ false 1 9 8 2 : Instr).wf = false ∧ decodeWord 0x0A804CA2 0 = none ∧
    (.tcpyOa ⟨false, 0⟩ true 3 9 25 2 : Instr).wf = false ∧ decodeWord 0x0AA05CE6 0 = none ∧
    (.tcpyWb ⟨true, 6⟩ false 1 9 8 2 : Instr).wf = false ∧ decodeWord 0xEA808CA2 0 = none ∧
    (.tcpyWb ⟨true, 6⟩ true 3 9 25 2 : Instr).wf = false ∧ decodeWord 0xEAA09CE6 0 = none ∧
    (.tcpySt ⟨false, 7⟩ false 1 9 8 : Instr).wf = false ∧ decodeWord 0x7A80CCA0 0 = none ∧
    (.tcpySt ⟨false, 7⟩ true 3 9 25 : Instr).wf = false ∧ decodeWord 0x7AA0DCE4 0 = none := by
  decide +kernel

theorem test_ill_formed_copy1 :
    (.tcpyGath ⟨true, 0⟩ false 1 9 8 : Instr).wf = false ∧ decodeWord 0x8A810CA0 0 = none ∧
    (.tcpyGath ⟨true, 0⟩ true 3 9 25 : Instr).wf = false ∧ decodeWord 0x8AA11CE4 0 = none ∧
    (.tcpyScat ⟨false, 2⟩ false 1 9 8 : Instr).wf = false ∧ decodeWord 0x2A814CA0 0 = none ∧
    (.tcpyScat ⟨false, 2⟩ true 3 9 25 : Instr).wf = false ∧ decodeWord 0x2AA15CE4 0 = none ∧
    (.tcpyZero ⟨true, 3⟩ false 1 8 : Instr).wf = false ∧ decodeWord 0xBA818820 0 = none ∧
    (.tcpyZero ⟨true, 3⟩ true 3 25 : Instr).wf = false ∧ decodeWord 0xBAA19864 0 = none := by
  decide +kernel

theorem test_ill_formed_tsys0 :
    (.seal ⟨false, 0⟩ 3 5 : Instr).wf = false ∧ decodeWord 0x0AC00065 0 = none ∧
    (.seal ⟨false, 0⟩ 3 30 : Instr).wf = false ∧ decodeWord 0x0AC0007E 0 = none ∧
    (.seal ⟨false, 0⟩ 0 4 : Instr).wf = false ∧ decodeWord 0x0AC00004 0 = none ∧
    (.unseal ⟨true, 5⟩ 5 : Instr).wf = false ∧ decodeWord 0xDAC04005 0 = none ∧
    (.unseal ⟨true, 5⟩ 30 : Instr).wf = false ∧ decodeWord 0xDAC0401E 0 = none ∧
    (.tsysInvVa ⟨false, 0⟩ 5 : Instr).wf = false ∧ decodeWord 0x0CC00005 0 = none ∧
    (.tsysInvVa ⟨false, 0⟩ 30 : Instr).wf = false ∧ decodeWord 0x0CC0001E 0 = none ∧
    (.tsysWqpop ⟨false, 2⟩ 0 8 : Instr).wf = false ∧ decodeWord 0x2CC08008 0 = none ∧
    (.tsysWqpop ⟨false, 2⟩ 3 10 : Instr).wf = false ∧ decodeWord 0x2CC080CA 0 = none ∧
    (.tsysWqdone ⟨true, 0⟩ 10 : Instr).wf = false ∧ decodeWord 0x8CC0C00A 0 = none ∧
    (.tsysPtld ⟨false, 4⟩ 12 9 : Instr).wf = false ∧ decodeWord 0x4CC10309 0 = none ∧
    (.tsysPtld ⟨false, 4⟩ 13 8 : Instr).wf = false ∧ decodeWord 0x4CC10348 0 = none ∧
    (.tsysFrmTake ⟨true, 5⟩ true 0 8 : Instr).wf = false ∧ decodeWord 0xDCC14208 0 = none ∧
    (.tsysFrmTake ⟨true, 5⟩ true 3 9 : Instr).wf = false ∧ decodeWord 0xDCC142C9 0 = none ∧
    (.tsysFrmGive ⟨false, 0⟩ true 13 : Instr).wf = false ∧ decodeWord 0x0CC1820D 0 = none ∧
    (.tsysMzero ⟨true, 7⟩ true 13 : Instr).wf = false ∧ decodeWord 0xFCC1C20D 0 = none := by
  decide +kernel

theorem test_ill_formed_tsys1 :
    (.tsysMcopy ⟨false, 1⟩ true 12 9 : Instr).wf = false ∧ decodeWord 0x1CC21309 0 = none ∧
    (.tsysMcopy ⟨false, 1⟩ true 13 8 : Instr).wf = false ∧ decodeWord 0x1CC21348 0 = none ∧
    (.tsysMeterRd ⟨true, 0⟩ 17 4 : Instr).wf = false ∧ decodeWord 0x8CC24224 0 = none ∧
    (.tsysFaultPost ⟨true, 4⟩ 10 : Instr).wf = false ∧ decodeWord 0xCCC2C00A 0 = none := by
  decide +kernel

theorem test_ill_formed_stroke :
    (.mma ⟨false, 6⟩ true false 2 2 2 1 9 7 : Instr).wf = false ∧ decodeWord 0x6B12A327 0 = none ∧
    (.mma ⟨false, 6⟩ false true 2 2 2 3 1 7 : Instr).wf = false ∧ decodeWord 0x6B0AA627 0 = none ∧
    (.mmaz ⟨true, 0⟩ true false 2 2 2 1 9 7 : Instr).wf = false ∧ decodeWord 0x8B16A327 0 = none ∧
    (.mmaz ⟨true, 0⟩ false true 2 2 2 3 1 7 : Instr).wf = false ∧ decodeWord 0x8B0EA627 0 = none ∧
    (.mmag ⟨false, 1⟩ true false 2 2 2 1 9 7 0x12345678 : Instr).wf = false ∧ decodeWord 0x1B52A327 0 = none ∧
    (.mmag ⟨false, 1⟩ false true 2 2 2 3 1 7 0x12345678 : Instr).wf = false ∧ decodeWord 0x1B4AA627 0 = none ∧
    (.mmagz ⟨true, 2⟩ true false 2 2 2 1 9 7 0x12345678 : Instr).wf = false ∧ decodeWord 0xAB56A327 0 = none ∧
    (.mmagz ⟨true, 2⟩ false true 2 2 2 3 1 7 0x12345678 : Instr).wf = false ∧ decodeWord 0xAB4EA627 0 = none := by
  decide +kernel

theorem test_ill_formed_tacc :
    (.taccTstSp ⟨true, 4⟩ 9 25 2 : Instr).wf = false ∧ decodeWord 0xCB8044E6 0 = none ∧
    (.taccTstMem ⟨false, 5⟩ 9 25 2 : Instr).wf = false ∧ decodeWord 0x5B8084E6 0 = none ∧
    (.taccTld ⟨true, 0⟩ 9 25 2 : Instr).wf = false ∧ decodeWord 0x8B80C4E6 0 = none ∧
    (.taccTbias ⟨true, 1⟩ 31 2 : Instr).wf = false ∧ decodeWord 0x9B81407E 0 = none ∧
    (.qntPi8 ⟨false, 0⟩ 63 12 : Instr).wf = false ∧ decodeWord 0x0BC3F300 0 = none ∧
    (.qntE2m1 ⟨true, 3⟩ 63 12 : Instr).wf = false ∧ decodeWord 0xBBC7F300 0 = none := by
  decide +kernel

theorem test_ill_formed_task :
    (.taskSpawn ⟨false, 4⟩ 17 4 : Instr).wf = false ∧ decodeWord 0x4C000224 0 = none ∧
    (.taskSpawn ⟨false, 4⟩ 16 5 : Instr).wf = false ∧ decodeWord 0x4C000205 0 = none ∧
    (.taskLaunch ⟨true, 0⟩ 17 4 : Instr).wf = false ∧ decodeWord 0x8C004224 0 = none ∧
    (.taskLaunch ⟨true, 0⟩ 16 5 : Instr).wf = false ∧ decodeWord 0x8C004205 0 = none ∧
    (.arenaNew ⟨false, 6⟩ 17 4 : Instr).wf = false ∧ decodeWord 0x6C400224 0 = none ∧
    (.arenaNew ⟨false, 6⟩ 30 4 : Instr).wf = false ∧ decodeWord 0x6C4003C4 0 = none ∧
    (.arenaChk ⟨false, 0⟩ 0 4 : Instr).wf = false ∧ decodeWord 0x0C408004 0 = none ∧
    (.arenaChk ⟨false, 0⟩ 3 5 : Instr).wf = false ∧ decodeWord 0x0C408065 0 = none ∧
    (.bsnDef ⟨true, 2⟩ 5 : Instr).wf = false ∧ decodeWord 0xAC800005 0 = none ∧
    (.bsnResize ⟨false, 3⟩ 9 5 : Instr).wf = false ∧ decodeWord 0x3C804125 0 = none ∧
    (.bsnStat ⟨false, 5⟩ 30 4 : Instr).wf = false ∧ decodeWord 0x5C80C3C4 0 = none ∧
    (.pgBsn ⟨true, 6⟩ 9 9 5 : Instr).wf = false ∧ decodeWord 0xEC811325 0 = none ∧
    (.pgBsn ⟨true, 6⟩ 9 9 30 : Instr).wf = false ∧ decodeWord 0xEC81133E 0 = none := by
  decide +kernel

/-! ## Words that pass their issue checks -/

/-- A partition placed for a word: its group is in the mode and role that the word asks for, all its lanes stand at the word and
g1 to g7 are true. -/
noncomputable def wit (i : Instr) : State :=
  let s := State.reset.place 32 (wordOf i).toNat
  { s with
    cur := { s.cur with g := (List.range 7).map fun k => (k + 1, BitVec.allOnes 32), depth := 1,
                        path := { s.cur.path with tag := ⟨s.cur.mode, 1⟩ } }
    ctx := { Ctx.blank with pc := 0x10000, next := 0x10001, word := wordOf i, pkt := [wordOf i, 0, 0] } }

/-- The word passes its checks in `s`, and some lane executes it. -/
def ready (i : Instr) (s : State) : Bool :=
  match info i with
  | some f => decide (issueFault f s = none) && decide (s.cur.active &&& s.cur.getG f.guard ≠ 0)
  | none => false

theorem passes_of_ready {i : Instr} {s : State} (h : ready i s = true) : Passes i s := by
  unfold ready at h
  split at h
  · next f hf => exact ⟨f, hf, by simp_all⟩
  · cases h

theorem test_passes_sysA : ∀ p ∈ sysAWords, ready p.2 (wit p.2) = true := by decide +kernel

theorem test_passes_sysB : ∀ p ∈ sysBWords, ready p.2 (wit p.2) = true := by decide +kernel

theorem test_passes_via : ∀ p ∈ viaWords, ready p.2 (wit p.2) = true := by decide +kernel

theorem test_passes_vil : ∀ p ∈ vilWords, ready p.2 (wit p.2) = true := by decide +kernel

theorem test_passes_vic : ∀ p ∈ vicWords, ready p.2 (wit p.2) = true := by decide +kernel

theorem test_passes_immediate : ∀ p ∈ immediateWords, ready p.2 (wit p.2) = true := by decide +kernel

theorem test_passes_vf : ∀ p ∈ vfWords, ready p.2 (wit p.2) = true := by decide +kernel

theorem test_passes_vfc : ∀ p ∈ vfcWords, ready p.2 (wit p.2) = true := by decide +kernel

theorem test_passes_vh : ∀ p ∈ vhWords, ready p.2 (wit p.2) = true := by decide +kernel

theorem test_passes_sfu : ∀ p ∈ sfuWords, ready p.2 (wit p.2) = true := by decide +kernel

theorem test_passes_cvt : ∀ p ∈ cvtWords, ready p.2 (wit p.2) = true := by decide +kernel

theorem test_passes_lane : ∀ p ∈ laneWords, ready p.2 (wit p.2) = true := by decide +kernel

theorem test_passes_scalarA : ∀ p ∈ scalarAWords, ready p.2 (wit p.2) = true := by decide +kernel

theorem test_passes_scalarB : ∀ p ∈ scalarBWords, ready p.2 (wit p.2) = true := by decide +kernel

theorem test_passes_memoryA : ∀ p ∈ memoryAWords, ready p.2 (wit p.2) = true := by decide +kernel

theorem test_passes_memoryB : ∀ p ∈ memoryBWords, ready p.2 (wit p.2) = true := by decide +kernel

theorem test_passes_upd : ∀ p ∈ updWords, ready p.2 (wit p.2) = true := by decide +kernel

theorem test_passes_updc : ∀ p ∈ updcWords, ready p.2 (wit p.2) = true := by decide +kernel

theorem test_passes_updn : ∀ p ∈ updnWords, ready p.2 (wit p.2) = true := by decide +kernel

theorem test_passes_syncA : ∀ p ∈ syncAWords, ready p.2 (wit p.2) = true := by decide +kernel

theorem test_passes_syncB : ∀ p ∈ syncBWords, ready p.2 (wit p.2) = true := by decide +kernel

theorem test_passes_copy : ∀ p ∈ copyWords, ready p.2 (wit p.2) = true := by decide +kernel

theorem test_passes_tsys : ∀ p ∈ tsysWords, ready p.2 (wit p.2) = true := by decide +kernel

theorem test_passes_stroke : ∀ p ∈ strokeWords, ready p.2 (wit p.2) = true := by decide +kernel

theorem test_passes_tacc : ∀ p ∈ taccWords, ready p.2 (wit p.2) = true := by decide +kernel

theorem test_passes_task : ∀ p ∈ taskWords, ready p.2 (wit p.2) = true := by decide +kernel

/-! ## Hypotheses of the statements are met: registers, floating words, lanes, exceptions

The statements about register words, compares, guards, scalars and conversions ask of a state only that the word passes its
checks there, which `test_passes_…` shows for every word. The theorems below meet the other hypotheses, clause by clause. -/

/-- A state with its group changed. -/
def withCur (s : State) (f : Group → Group) : State := { s with cur := f s.cur }

/-- v(n) = x in lane 0. -/
def lane0 (n : Nat) (x : Word) (g : Group) : Group := g.putV n 0 x

/-- ArithmeticResults, LogicShiftImmediateResults, FieldResults, CompareAndGuardResults, LaneResults, ScalarResults,
FloatArithmeticResults, SpecialFunctionResults and ConversionResults: for each a word of it that passes. -/
theorem test_witness_register_words :
    Passes (.viaAdd ⟨false, 0⟩ 7 8 (.reg 9)) (wit (.viaAdd ⟨false, 0⟩ 7 8 (.reg 9))) ∧
    Passes (.vilShl ⟨false, 0⟩ 7 8 (.reg 9)) (wit (.vilShl ⟨false, 0⟩ 7 8 (.reg 9))) ∧
    Passes (.vilBfi ⟨false, 0⟩ 7 8 (.reg 9)) (wit (.vilBfi ⟨false, 0⟩ 7 8 (.reg 9))) ∧
    Passes (.vicLt ⟨false, 0⟩ 1 0 8 9) (wit (.vicLt ⟨false, 0⟩ 1 0 8 9)) ∧
    Passes (.laneSum ⟨false, 0⟩ 7 8) (wit (.laneSum ⟨false, 0⟩ 7 8)) ∧
    Passes (.saluSadd ⟨false, 0⟩ 0 0 (.reg 30)) (wit (.saluSadd ⟨false, 0⟩ 0 0 (.reg 30))) ∧
    Passes (.vfFadd ⟨false, 0⟩ 7 8 (.reg 9)) (wit (.vfFadd ⟨false, 0⟩ 7 8 (.reg 9))) ∧
    Passes (.sfuFdiv ⟨false, 0⟩ 7 8 9) (wit (.sfuFdiv ⟨false, 0⟩ 7 8 9)) ∧
    Passes (.cvtF32E2m1 ⟨false, 0⟩ 7 8 4) (wit (.cvtF32E2m1 ⟨false, 0⟩ 7 8 4)) := by
  refine ⟨?_, ?_, ?_, ?_, ?_, ?_, ?_, ?_, ?_⟩ <;> exact passes_of_ready (by decide +kernel)

/-- RoundingAndFormats: the least subnormal, the largest finite value, and a result without overflow. -/
theorem test_witness_RoundingAndFormats :
    f32.decode 1 = .fin false 1 (-149) ∧ f32.decode 0xFF7FFFFF = .fin true 16777215 104 ∧
    e4m3.decode 0x7E = .fin false 14 5 ∧ (f32.round .rne false false true 3 (-150)).2.getLsbD 2 = false ∧
    (f16.round .rup false false false 1 (-30)).2.getLsbD 2 = false ∧ e2m1.decode 7 = .fin false 3 1 := by
  decide +kernel

/-- Floating words: no enabled exception is raised; and NV enabled and raised by a signalling NaN, the lowest one raised. -/
theorem test_witness_floating_traps :
    let i := Instr.vfFadd ⟨false, 0⟩ 7 8 (.reg 9)
    let s := withCur (wit i) fun g => { lane0 8 0x7F800001 g with fmode := 0x08 }
    ready i s = true ∧ TrapOn s.cur.fmode 0 = true ∧
      (f32.add (rmOf s.cur.fmode) (fzOf s.cur.fmode) (opF s 8 0) (opB s (.reg 9) 0)).2.getLsbD 0 = true ∧
      ((List.range 32).all fun l => (List.range 6).all fun e => e == 0 || l == 0 ||
        !(f32.add (rmOf s.cur.fmode) (fzOf s.cur.fmode) (opF s 8 l) (opB s (.reg 9) l)).2.getLsbD e) = true := by
  decide +kernel

/-- FlagsAreSticky: a raised flag. -/
theorem test_witness_FloatCompareResults :
    (withCur (wit (.sysNop ⟨false, 0⟩)) fun g => { g with fflags := 0x10 }).cur.fflags.getLsbD 4 = true := by
  decide +kernel

/-- LanesSentByBranches: good targets at the two ends of the code space and beside the word, bad ones with word index 3 and
above 2^48, and an unf split. -/
theorem test_witness_LanesSentByBranches :
    pcOk 0 = true ∧ pcOk 0xFFFFFFFFFFFE = true ∧ pcOk 0x10003 = false ∧ pcOk 0x1000000000000 = false ∧
    pcOk (BitVec.ofInt 64 ((0x10000 : Nat) + 12 * (1 : BitVec 20).toInt)) = true ∧
    (let i := Instr.braUnf ⟨false, 1⟩ 2
     let s := withCur (wit i) fun g => { g with g := [(1, 1)] }
     ready i s = true ∧ inMask s.cur.active 1 = true ∧ inMask (s.cur.lanesP ⟨false, 1⟩) 0 = true ∧
       inMask (s.cur.lanesP ⟨false, 1⟩) 1 = false) ∧
    (let i := Instr.ctlJump ⟨false, 0⟩ 4 3
     let s := withCur (wit i) fun g => lane0 4 3 g
     ready i s = true ∧ pcOk (s.cur.getV2 4 0) = false ∧ pcOk (s.cur.getV2 4 1) = true) ∧
    (let i := Instr.ctlJump ⟨false, 0⟩ 4 3
     let s := withCur (wit i) fun g => lane0 4 4 g
     ready i s = true ∧ inMask s.cur.active 0 = true ∧ inMask s.cur.active 1 = true ∧ pcOk (s.cur.getV2 4 0) = true ∧
       pcOk (s.cur.getV2 4 1) = true ∧ s.cur.getV2 4 0 ≠ s.cur.getV2 4 1) := by
  decide +kernel

/-- SystemAndRepetitionWords, `sys.yield`: alone, and with another set ready. -/
theorem test_witness_yield :
    let i := Instr.sysYield ⟨false, 0⟩
    let s := wit i
    let p : Machine.PSet := { path := { s.cur.path with mask := 2, pc := 0x20000, age := 0 }, cond := .deferred, data := [], backPc := 0, backRep := none }
    let t := withCur s fun g => { g with path := { g.path with mask := 1 }, sets := [p], ages := 1 }
    ready i s = true ∧ s.cur.path.tag = ⟨s.cur.mode, s.cur.depth⟩ ∧ s.cur.sets = [] ∧
      ready i t = true ∧ t.cur.sets.find? t.cur.canRun = some p ∧ p.path.age < t.cur.ages ∧ p.path.pc ≠ t.ctx.next := by
  decide +kernel

/-- `wait`: met, unmet. -/
theorem test_witness_wait :
    let i := Instr.wait ⟨false, 0⟩ 0 31 31 31
    let s := withCur (wit i) fun g => { g with ld := 1 }
    ready i s = true ∧ s.cur.saving = none ∧ ¬s.cur.ld ≤ 0 ∧ (wit i).cur.ld ≤ 0 := by
  decide +kernel

/-- `ctl.rep`: a packet whose later words are nops, with and without a repetition in progress; and the passes of one. -/
theorem test_witness_rep :
    let i := Instr.ctlRep ⟨false, 0⟩ (.reg 4)
    let s := wit i
    ready i s = true ∧ restNop s.ctx.pkt (idxOf s.ctx.pc) = true ∧ s.cur.path.rep = none ∧
      restNop [wordOf i, 1, 0] 0 = false ∧ (0x10000 : DWord).toNat % 4 = 0 ∧
      ({ s.cur.path with rep := some ⟨0x10000, 2⟩ } : Path).rep = some ⟨0x10000, 2⟩ := by
  decide +kernel

/-- `ctl.reform`: with a load outstanding, and with nothing outstanding and empty bins. -/
theorem test_witness_reform :
    let i := Instr.ctlReform ⟨false, 1⟩
    let s := wit i
    ready i s = true ∧ s.cur.ld + s.cur.st + s.cur.cp + s.cur.tl = 0 ∧
      (s.crews.find? (·.id == s.cur.crew)).map (·.bins) = some [] ∧ ready i (withCur s fun g => { g with ld := 63 }) = true := by
  decide +kernel

/-- ExceptionEntry: mode U with a handler, without one and with a bad one, T1, T2. -/
theorem test_witness_ExceptionEntry :
    let s := wit (.viaAdd ⟨false, 0⟩ 1 2 (.reg 3))
    let t := wit (.sysHalt ⟨false, 0⟩ 1)
    s.cur.mode = .u ∧ s.cur.utvec = 0 ∧ (withCur s fun g => { g with utvec := 0x400 }).cur.utvec ≠ 0 ∧ pcOk 0x400 = true ∧
      pcOk 0x403 = false ∧ t.cur.mode = .t1 ∧ (withCur t fun g => { g with mode := .t2 }).cur.mode = .t2 := by
  decide +kernel

/-- TrapAndHaltWords: the words with lanes in P and with none, a user return, returns from T1 and T2 with good and bad saved
PCs, and a halt of a tenant with room for its record. -/
theorem test_witness_TrapAndHaltWords :
    let off := fun (i : Instr) => withCur (wit i) fun g => { g with g := [] }
    let u := Instr.sysUret ⟨false, 0⟩
    let r := Instr.sysTret ⟨false, 0⟩
    let x := Instr.sysHalt ⟨false, 0⟩ 0x1FFF
    ready (.sysTrap ⟨false, 0⟩ 0xFF) (wit (.sysTrap ⟨false, 0⟩ 0xFF)) = true ∧
    ready (.sysBrk ⟨false, 0⟩ 0x3FFF) (wit (.sysBrk ⟨false, 0⟩ 0x3FFF)) = true ∧
    (off (.sysTrap ⟨false, 1⟩ 0)).cur.lanesP ⟨false, 1⟩ = 0 ∧ (off (.sysBrk ⟨false, 1⟩ 0)).cur.lanesP ⟨false, 1⟩ = 0 ∧
    ready u (wit u) = true ∧ pcOk (wit u).cur.utrap.epc = true ∧ ready r (wit r) = true ∧ (wit r).cur.mode = .t1 ∧
    ready r (withCur (wit r) fun g => { g with mode := .t2 }) = true ∧ pcOk 0x10003 = false ∧
    ready x (wit x) = true ∧
    ((wit x).tenants.find? (·.id == (wit x).cur.tn)).map (fun t => decide (t.held.length < 65536)) = some true := by
  decide +kernel

/-- ControlRegisters: a pending write of each kind at a group whose tenant is known. -/
theorem test_witness_ControlRegisters :
    let s := withCur (wit (.sysNop ⟨false, 0⟩)) fun g => { g with csrw := some (0x04F, 0x20000) }
    s.cur.id = 4 ∧ s.cur.csrw = some (0x04F, 0x20000) ∧ s.groups = [] ∧
    (s.tenants.find? (·.id == s.cur.tn)).map (fun t => decide (t.arenas = [] ∧ t.awbase.toNat + 0x20000 ≤ 2 ^ 48 ∧
      (t.awbase.toNat + 0x20000 ≤ t.cistern.toNat ∨ t.cistern.toNat + t.cisterns.toNat ≤ t.awbase.toNat))) = some false ∧
    (s.tenants.find? (·.id == s.cur.tn)).map (fun t => decide (t.awbase.toNat + 0x10000 ≤ t.cistern.toNat)) = some true ∧
    (0x048 : BitVec 12) ∉ [0x04D, 0x04E, 0x04F] := by
  decide +kernel

/-! ## Hypotheses of the statements on memory words and on the ordering machine -/

/-- The state of `wit` with lane 0 alone in P, v12:v13 of that lane the placed page, whose leaf is `leaf`, and a basin 0 of one
bank of die 0. -/
noncomputable def memState (leaf : DWord) (i : Instr) : State :=
  let s := wit i
  { s with
    cur := { s.cur.putV 12 0 0x10000 with g := [(1, 1)] }
    cores := s.cores.map fun k => { k with tc := k.tc.map fun x => { x with leaf := leaf, level := if leaf.getLsbD 58 then 1 else 0 } }
    tenants := s.tenants.map fun t => { t with used := List.range 16, basins := [⟨⟨0, 1, 8, 0, 0, 0, 1, 1, false⟩, none, false, false⟩] } }

/-- A valid, writable, user, dirty leaf of frame 1 in basin 0, and the same in basin 15. -/
def leaf0 : DWord := 0x000000000000105F
def leaf15 : DWord := 0x03C000000000105F

/-- A lane's address passes its checks. -/
def placed (r : XRes) : Bool := match r with | .ok _ => true | _ => false

/-- MemoryWordsIssue: every load, store and atomic form has a place for its lane, a counter below 63 and lanes in P. -/
theorem test_witness_MemoryWordsIssue :
    let s := memState leaf0 (.sysNop ⟨false, 0⟩)
    let sp := { s with crews := s.crews.map fun c => { c with scratch := 4096 } }
    let h : Hdr := ⟨false, 1⟩
    (∀ f ∈ loadForms h true 8 12 0, ready f.i s = true ∧ placed (s.xcheck s.cur rqLoad (effAddr s.cur 12 0 f.size 0) f.size) = true) ∧
    (∀ f ∈ storeForms h 8 12 0, ready f.i s = true ∧ placed (s.xcheck s.cur rqStore (effAddr s.cur 12 0 f.size 0) f.size) = true) ∧
    (∀ f ∈ updForms h 8 12 0 ++ updcForms h 8 12 0 ++ updnForms h 8 12 0,
      ready f.i s = true ∧ placed (s.xcheck s.cur rqAtomic (effAddr s.cur 12 0 f.size 0) f.size) = true) ∧
    (∀ f ∈ spLoadForms h 8 16 0 ++ spStoreForms h 8 16 0,
      ready f.i sp = true ∧ placed (sp.spCheck sp.cur (spOff sp.cur 16 0 f.size 0) f.size .align) = true) ∧
    s.cur.ld < 63 ∧ s.cur.lanesP h = 1 := by
  decide +kernel

/-- Plane reads of a PI8 page, plain and dequantising, at one plane and at eight. -/
theorem test_witness_plane_reads :
    let s := memState 0x040000000000005F (.sysNop ⟨false, 0⟩)
    ready (.ldp ⟨false, 1⟩ 0 8 12 0) s = true ∧ ready (.ldpF32 ⟨false, 1⟩ 7 8 12 0) s = true ∧
    ((s.planeCheck s.cur 8 true (effAddr s.cur 12 0 1 0)).all placed) = true ∧
    (s.planeCheck s.cur 1 false (effAddr s.cur 12 0 1 0)).length = 1 := by
  decide +kernel

/-- MemoryWordsHeldOrFaulting: a counter at 63, a translation outstanding, and a failed check of the lowest lane. -/
theorem test_witness_MemoryWordsHeldOrFaulting :
    let i := Instr.ldB32 ⟨false, 1⟩ false 8 12 0
    let s := memState leaf15 i
    let open_ := withCur s fun g => g.putV 12 0 0x20000
    let bad := withCur s fun g => g.putV 12 0 0x10002
    ready i s = true ∧ s.cur.sets = [] ∧ (withCur s fun g : Group => { g with ld := 63 }).cur.ld = 63 ∧
      (open_.xcheck open_.cur rqLoad (effAddr open_.cur 12 0 4 0) 4).open = true ∧
      bad.xcheck bad.cur rqLoad (effAddr bad.cur 12 0 4 0) 4 = .fail .align 0x10002 := by
  decide +kernel

/-- AddressChecks: each clause at an address on the edge of its range. -/
theorem test_witness_AddressChecks :
    let s := memState leaf15 (.sysNop ⟨false, 0⟩)
    let w : State := { s with tenants := s.tenants.map fun t => { t with awbase := 0x40000, awsize := 0x10000 } }
    let g := { s.cur with mode := .t1 }
    (s.tenant s.cur.tn).inCistern 0x1FFFF = true ∧ (s.tenant s.cur.tn).inCistern 0x20000 = false ∧
    s.xcheck s.cur rqLoad 0x10001 2 = .fail .align 0x10001 ∧ s.xcheck g rqLoad 0x20000 4 = .fail .cisternMiss 0x20000 ∧
    w.xcheck w.cur rqLoad 0x40000 4 = .fail .arenaTag 0x40000 ∧
    w.xcheck w.cur rqLoad 0x100000000FFFC 4 = .fail .arenaTag 0x100000000FFFC ∧
    w.xcheck w.cur rqLoad 0x100000004FFFC 4 = .fail .arenaDead 0x100000004FFFC ∧
    s.retargeting 1 0x20000 = false ∧ s.xfind s.cur false 0x20000 = none ∧
    (∀ p ∈ [(0x2005F, XRes.fail .otherTenant 0x10FFC), (0x00C000000000105F, .fail .basinUndefined 0x10FFC),
        (0x100000000000105F, .fail .formatMismatch 0x10FFC), (0x105B, .fail .protection 0x10FFC), (0x104F, .fail .protection 0x10FFC)],
      let s := memState p.1 (.sysNop ⟨false, 0⟩)
      (s.xfind s.cur true 0x10FFC).map (·.leaf) = some p.1 ∧ s.xcheck s.cur rqStore 0x10FFC 4 = p.2) ∧
    (s.crew s.cur.crew).scratch = 0 ∧ ({ s with crews := s.crews.map fun c => { c with scratch := 4096 } } : State).spCheck s.cur 4092 4 .align =
      .ok ⟨.scratch, ⟨s.cur.crew, 15, 4092⟩, 4092, 0, 0, false, false, 4092, 0⟩ := by
  decide +kernel

/-- One access of group 4 in flight, with its word. -/
def access (kind : AKind) (cls : Cls) (key : HomeKey) (els : List El) : Access :=
  { id := 50, word := 60, grp := 4, core := 0, tn := 1, seq := 1, lanes := 1, kind := kind, cls := cls, key := key, pa := 0x1000,
    els := els, vpn := 16, user := true, pin := false, va := 0x10000, hp := 0 }
def pending (kind : WKind) : PendWord :=
  { id := 60, grp := 4, seq := 1, kind := kind, ctr := .ld, mask := 1, got := [], fails := 0, flags := [], ticket := 60, away := 0 }

/-- The state of `memState` with that access in flight. -/
noncomputable def flying (a : Access) (k : WKind) : State :=
  let s := memState leaf0 (.sysNop ⟨false, 0⟩)
  { s with cur := { s.cur with ld := 1, st := 1, seq := 1 }, flow := { s.flow with accs := [a], words := [pending k] } }

/-- The access is in flight and may perform. -/
def inFlight (s : State) (a : Access) : Bool :=
  decide (s.acc? a.id = some a) && (s.grp? a.grp).isSome && (s.word? a.word).isSome && s.mayPerform a

/-- Its line has a home that no L1 holds and that is open. -/
def atHome (s : State) (a : Access) : Bool :=
  s.open_ a.key && (s.ownerOf a.key).isNone && (s.liveBasin a.key.tn a.key.bs).isSome && (((s.missed a).allocate a.key).home? a.key).isSome

def line0 : HomeKey := ⟨1, 0, 0x1000⟩
def line15 : HomeKey := ⟨1, 15, 0x1000⟩
def word0 : List El := [⟨0, 0, 0x107C, 4, .load⟩]

/-- The state in which the line is also in the core's L1. -/
noncomputable def cached (a : Access) (k : WKind) (x : L1Line) : State :=
  let s := flying a k
  { s with cores := s.cores.map fun c => { c with l1 := [x] } }

/-- LoadsPerform: a hit, a RENEW and a STREAM_LOAD at a home, on the last word of a line. -/
theorem test_witness_LoadsPerform :
    let a := access .load .device line0 word0
    let b := access .stream .device line0 word0
    let s := flying a (.load 8 4 false)
    let t := flying b (.load 8 4 false)
    let c := cached a (.load 8 4 false) ⟨line0, 0x1000, [], 0, 16, 0, false, false, 0⟩
    inFlight s a = true ∧ s.hit a = false ∧ atHome s a = true ∧ inFlight t b = true ∧ t.hit b = false ∧ atHome t b = true ∧
      inFlight c a = true ∧ c.hit a = true ∧ 0x107C % s.chunkLen line0 + 4 ≤ s.chunkLen line0 ∧
      ((s.missed a).allocate line0).homePoison line0 0x1000 (s.lineLen line0) = false ∧
      (((s.missed a).allocate line0).core 0).l1 = [] := by
  decide +kernel

/-- Prefetches of a flash line, of a base-die line and of a line with a home. -/
theorem test_witness_prefetches :
    let a := access .pref .device line0 [⟨0, 0, 0x1000, 128, .load⟩]
    let f := access .pref .flash ⟨1, 15, 0x1000⟩ [⟨0, 0, 0x1000, 128, .load⟩]
    let b := access .pref .device line15 [⟨0, 0, 0x1000, 128, .load⟩]
    let s := flying a .none
    inFlight s a = true ∧ s.open_ a.key = true ∧ s.ownerOf a.key = none ∧ ((s.allocate a.key).home? a.key).isSome = true ∧
      (s.liveBasin 1 0).isSome = true ∧ inFlight (flying f .none) f = true ∧ inFlight (flying b .none) b = true ∧
      (flying b .none).liveBasin 1 15 = none := by
  decide +kernel

/-- StoresAndAtomicsPerform: a store and an atomic at a resident line. -/
theorem test_witness_StoresAndAtomicsPerform :
    let a := access .store .device line0 [⟨0, 0, 0x107C, 4, .store [1, 2, 3, 4]⟩]
    let b := access .atomic .device line0 [⟨0, 0, 0x1000, 4, .atomic 0 5 0 0 false⟩]
    let home : Home := ⟨line0, [(0x1000, 7)], false, 3, 9, none, 0, false⟩
    let put := fun s : State => { s with flow := { s.flow with homes := [home] } }
    let s := put (flying a .store)
    let t := put (flying b (.atomic 8 4 false))
    inFlight s a = true ∧ s.open_ a.key = true ∧ s.ownerOf a.key = none ∧ (s.liveBasin 1 0).isSome = true ∧
      ((s.missed a).home? line0).isSome = true ∧ s.hit a = false ∧
      inFlight t b = true ∧ t.open_ b.key = true ∧ t.ownerOf b.key = none ∧ t.capAcc b = true ∧
      ((t.missed b).home? line0).isSome = true ∧ t.hit b = false ∧ t.homePoison line0 0x1000 (t.lineLen line0) = false := by
  decide +kernel

/-- AtomicFunctionsAndStoredBytes: the first and the last 32-bit function, and two stores that overlap in one byte. -/
theorem test_witness_AtomicFunctionsAndStoredBytes :
    (10 : BitVec 4).toNat < 11 ∧
    (let els : List El := [⟨0, 0, 0x1000, 2, .store [1, 2]⟩, ⟨1, 0, 0x1001, 2, .store [3, 4]⟩]
     (∀ e ∈ els, (match e.op with | .store _ => true | _ => false) = true) ∧ els = [⟨0, 0, 0x1000, 2, .store [1, 2]⟩] ++ ⟨1, 0, 0x1001, 2, .store [3, 4]⟩ :: [] ∧
       (storeEls [] els).get 0x1001 = 3) := by
  decide +kernel

/-- HomeSteps: base-die accesses of each kind, a line that an L1 holds exclusively, a poisoned home entry, and scratchpad
accesses. -/
theorem test_witness_HomeSteps :
    let kinds : List (AKind × El × WKind) := [(.load, ⟨0, 0, 0x107C, 4, .load⟩, .load 8 4 false),
      (.store, ⟨0, 0, 0x107C, 4, .store [1, 2, 3, 4]⟩, .store), (.atomic, ⟨0, 0, 0x107C, 4, .atomic 9 5 0 0 false⟩, .atomic 8 4 false)]
    let own : Home := ⟨line0, [], false, 3, 9, some 0, 0, false⟩
    let s := cached (access .load .device line0 word0) (.load 8 4 false) ⟨line0, 0x1000, [(0x1000, 7)], 5, 0, 9, true, false, 0⟩
    let t := { s with flow := { s.flow with homes := [own] }, dev := { s.dev with poison := [.homeEntry line0] } }
    (∀ k ∈ kinds,
      let a := access k.1 .device line15 [k.2.1]
      let b := access k.1 .scratch ⟨3, 15, 0x1000⟩ [k.2.1]
      let x := flying a k.2.2
      let y := flying b k.2.2
      inFlight x a = true ∧ x.liveBasin 1 15 = none ∧ x.open_ line15 = true ∧ x.capAcc a = true ∧ x.elPoison line15 k.2.1 = false ∧
        inFlight y b = true ∧ y.spHeld 3 0x107C 4 true = false) ∧
    t.home? line0 = some own ∧ t.dev.poison.contains (.homeEntry line0) = true ∧ (t.tenants.find? (·.id == line0.tn)).isSome = true ∧
      (t.core 0).l1.filter (fun y => y.excl && y.key == line0) = (t.core 0).l1 ∧ t.flow.wbs = [] ∧ 0x107C % 4096 + 4 ≤ 4096 := by
  decide +kernel

/-- HostAndPeerSteps: a host write and read, a peer write, atomic and read, and queues with an entry. -/
theorem test_witness_HostAndPeerSteps :
    let key : HomeKey := ⟨1, 15, 0x1000⟩
    let w := access .store .host key [⟨0, 0, 0x107C, 4, .store [1, 2, 3, 4]⟩]
    let r := access .load .host key word0
    let pw := access .atomic (.peer 63) key [⟨0, 0, 0x107C, 4, .atomic 0 5 0 0 false⟩]
    let pr := access .load (.peer 63) key word0
    let s := flying w .store
    let q := s.queued w
    let full := withCur s fun g => { g with hostQ := [q], peerQ := [(63, q)] }
    let net : State := { s with dev := { s.dev with domain := [63], routes := [(0, 63)] } }
    inFlight s w = true ∧ inFlight (flying r (.load 8 4 false)) r = true ∧ inFlight (flying pw (.atomic 8 4 false)) pw = true ∧
      inFlight (flying pr (.load 8 4 false)) pr = true ∧ (s.nodeOf s.cur).cap = none ∧ net.reaches 63 = true ∧ s.reaches 63 = false ∧
      full.grp? 4 = some full.cur ∧ full.cur.peerQ.find? (·.1 == 63) = some (63, q) := by
  decide +kernel

/-- LoadedValues: a word whose lane has its value, of each size, plane bits, and valid and invalid scales. -/
theorem test_witness_LoadedValues :
    (∀ n ∈ [1, 2, 4, 8, 16],
      let s0 := flying (access .load .device line0 word0) .none
      let w := { pending (.load 8 n true) with got := [(0, 0, List.replicate n 0xFF)] }
      let s := { s0 with flow := { s0.flow with accs := [], words := [w] } }
      s.word? 60 = some w ∧ (s.grp? 4).isSome = true ∧ s.arrived w = true ∧ w.away = 0) ∧
    (∀ p, p < 8 → leNat ((fun _ => [(0xFF : Byte)]) p) / 2 ^ 7 % 2 = (if (0xFF : BitVec 8).getLsbD (7 - p) then 1 else 0)) ∧
    s20Value 0xFF000 = none ∧ (s20Value 0xFEFFF).isSome = true := by
  decide +kernel

/-- TimeAndWaitingSteps: a tick due, a monitor met, flash data and a host access in flight, and polls whose word meets the
condition and does not. -/
theorem test_witness_TimeAndWaitingSteps :
    let fl := access .load .flash ⟨1, 15, 0x1000⟩ word0
    let ho := access .load .host ⟨1, 15, 0x1000⟩ word0
    let s := memState leaf15 (.sysNop ⟨false, 0⟩)
    let loc : Loc := ⟨.host, ⟨1, 15, 0x1000⟩, 0x1000, 16, 0, false, false, 0x10000, 0⟩
    let m : Monitor := { id := 70, grp := 4, ea := 0x10000, loc := loc, table := false, cond := .eq, x := 0, w := 0, poll := 0,
                         rearm := false, met := some 9 }
    let t := { s with flow := { s.flow with mons := [m] } }
    (withCur s fun g => { g with due := 1 }).cur.due ≠ 0 ∧ t.flow.mons.find? (·.id == 70) = some m ∧ m.met = some 9 ∧
      (t.nodeOf t.cur).cap = none ∧ inFlight (flying fl (.load 8 4 false)) fl = true ∧
      inFlight (flying ho (.load 8 4 false)) ho = true ∧ m.poll ≤ t.dev.cycle ∧
      (match t.xcheck t.cur rqLoad 0x10000 4 with
       | .ok l => (match t.readWord t.cur l 4 with
         | some r => r.2.2.isNone && MonCond.eq.holds (wordVal r.2.1) 0x00000000 != MonCond.ne.holds (wordVal r.2.1) 0
         | none => false)
       | _ => false) = true := by
  decide +kernel

/-- FencesAndPrefetches: fences with nothing outstanding and with each thing they wait for; a prefetch whose checks pass; a
basin prefetch is met in `test_witness_basin_prefetch`. -/
theorem test_witness_fences :
    let w := access .store .host ⟨1, 15, 0x1000⟩ [⟨0, 0, 0x107C, 4, .store [1, 2, 3, 4]⟩]
    let s := flying w .store
    let i := Instr.memPref ⟨false, 1⟩ 12 0
    let m := memState leaf0 i
    (∀ j ∈ [Instr.memFenceHost ⟨false, 0⟩, .memFencePeer ⟨false, 0⟩, .memFenceSys ⟨false, 0⟩], ready j s = true ∧ ready j (wit j) = true) ∧
      (wit i).cur.hostQ = [] ∧ s.flow.accs.any (·.cls == .host) = true ∧ s.cur.st ≠ 0 ∧ ready i m = true ∧
      (m.xcheck m.cur rqPref (effAddr m.cur 12 0 128 0 &&& ~~~127#64) 128).open = false := by
  decide +kernel

/-! ## Hypotheses of the statements on barriers, musters, rings, futures and monitors -/

/-- The state of `wit` with its crew changed. -/
noncomputable def crewState (i : Instr) (f : Crew → Crew) : State :=
  let s := wit i
  { s with crews := s.crews.map f }

/-- Sixteen barriers, barrier 15 being `b`; eight rings, ring 7 being `r`; eight musters, muster 7 being `m`. -/
def bars (b : Barrier) (c : Crew) : Crew := { c with bars := List.replicate 15 Barrier.invalid ++ [b] }
def ringsOf (r : Ring) (c : Crew) : Crew := { c with rings := List.replicate 7 Ring.invalid ++ [r] }
def mustersOf (m : Muster) (c : Crew) : Crew := { c with musters := List.replicate 7 Muster.unarmed ++ [m] }
def bar1 : Barrier :=
  { Barrier.invalid with valid := true, exp := 2, arr := 0 }
def stage0 : Stage := ⟨.empty, false, 0, false, 0⟩
def ring2 : Ring := { Ring.invalid with valid := true, stages := [stage0, stage0] }

/-- BarrierWords: barrier 15 of the crew invalid, open, complete in count, with a group of the crew waiting on it, with a copy
attached, and with the group's last arrival in the phase before. -/
theorem test_witness_BarrierWords :
    let ws := [Instr.barInit ⟨false, 0⟩ 1023 15, .barInitX ⟨false, 0⟩ 1 15, .barArr ⟨false, 0⟩ 15, .barDrop ⟨false, 0⟩ 15,
      .barWait ⟨false, 0⟩ 15, .barTest ⟨false, 0⟩ 7 15, .barInval ⟨false, 0⟩ 7 15, .barArrw ⟨false, 0⟩ 15]
    let bs := [Barrier.invalid, bar1, { bar1 with arr := 2 }, { bar1 with exp := 0 }, { bar1 with att := 1 },
      { bar1 with phase := true, last := [(4, false)] }]
    (∀ i ∈ ws, ∀ b ∈ bs, ready i (crewState i (bars b)) = true ∧
      ((crewState i (bars b)).crews.find? (·.id == (wit i).cur.crew)).map (fun c => c.bars.getD 15 bar1) = some b) ∧
    (let s := withCur (crewState (.barInit ⟨false, 0⟩ 1023 15) (bars bar1)) fun g =>
       { g with sets := [⟨{ g.path with mask := 0 }, .barrier 15 true, [], 0, none⟩] }
     ready (.barInit ⟨false, 0⟩ 1023 15) s = true ∧
     s.cur ∈ s.allGroups ∧ s.cur.id ≠ 0 ∧ s.cur.sets.any (fun p => p.cond == .barrier 15 true) = true) := by
  decide +kernel

/-- BarrierCompletion: an arrival observable, the last of its phase and not, with a cancelled copy and a waiter. -/
theorem test_witness_BarrierCompletion :
    let i := Instr.sysNop ⟨false, 0⟩
    let x : Signal := ⟨80, 4, .arrive 3 15, [], [], []⟩
    let b := { bar1 with arr := 2, unobs := 1, cancelled := true }
    let s0 := crewState i (bars b)
    let k : Group := { s0.cur with id := 9, sets := [⟨{ s0.cur.path with mask := 1 }, .barrier 15 false, [], 0, none⟩] }
    let s := { s0 with groups := [k], flow := { s0.flow with sigs := [x] } }
    s.flow.sigs.find? (·.id == 80) = some x ∧ s.signalReady x = true ∧ (s.grp? 4).isSome = true ∧ (s.nodeOf s.cur).cap = none ∧
      (s.crews.find? (·.id == 3)).map (·.bars.getD 15 bar1) = some b ∧ b.valid = true ∧ b.exp ≠ 0 ∧ b.arr = b.exp ∧ b.unobs ≤ 1 ∧
      k ∈ s.groups ∧ k.crew = 3 ∧ k.sets.any (·.cond == .barrier 15 b.phase) = true ∧ bar1.arr ≠ bar1.exp := by
  decide +kernel

/-- MusterAndRingWords: a muster unsigned and signed; a ring invalid, and with each of its stages' states that a word asks for. -/
theorem test_witness_MusterAndRingWords :
    let ms := [Instr.musSet ⟨false, 0⟩ 2047 7, .musClr ⟨false, 0⟩ 7]
    let ws := [Instr.ringInit ⟨false, 0⟩ 8 7, .ringAcq ⟨false, 0⟩ 31 7, .ringRel ⟨false, 0⟩ 0 7, .ringTake ⟨false, 0⟩ 31 7,
      .ringFree ⟨false, 0⟩ 0 7]
    let rs := [Ring.invalid, ring2, { ring2 with stages := [{ stage0 with st := .held }, stage0], held := [0], pi := 1 },
      { ring2 with stages := [{ stage0 with st := .full }, { stage0 with st := .full }], pi := 0 },
      { ring2 with stages := [{ stage0 with st := .taken }, stage0], taken := [0], ci := 1 }]
    (∀ i ∈ ms, ∀ m ∈ [Muster.unarmed, ⟨2047, 2046, none⟩], ready i (crewState i (mustersOf m)) = true ∧
      ((crewState i (mustersOf m)).crews.find? (·.id == (wit i).cur.crew)).map (·.musters.getD 7 ⟨1, 1, none⟩) = some m) ∧
    (∀ i ∈ ws, ∀ r ∈ rs, ready i (crewState i (ringsOf r)) = true ∧
      ((crewState i (ringsOf r)).crews.find? (·.id == (wit i).cur.crew)).map (·.rings.getD 7 ring2) = some r) ∧
    (∀ i ∈ ws, (wit i).cur.sets = [] ∧ ((wit i).cur.getS 0).toNat = 0 ∧ (wit i).groups = []) := by
  decide +kernel

/-- FutureAndMonitorWords: a slot on a plain page that is empty, one that is full, and a watched word that meets a condition and
fails another. -/
theorem test_witness_FutureAndMonitorWords :
    let i := Instr.futFget ⟨false, 1⟩ 8 12 0
    let ws := [Instr.futFinit ⟨false, 1⟩ 12 0, .futFput ⟨false, 1⟩ 8 12 0, i, .futFpoll ⟨false, 1⟩ 7 12 0,
      .monWaitcEq ⟨false, 1⟩ 8 12 0, .monWaitcNe ⟨false, 1⟩ 8 12 0, .monWaitcLt ⟨false, 1⟩ 8 12 0, .monWaitcGe ⟨false, 1⟩ 8 12 0,
      .monWaitcLtn ⟨false, 1⟩ 8 12 0, .monWaitcGen ⟨false, 1⟩ 8 12 0, .monWaitcChg ⟨false, 1⟩ 12 0]
    let s := memState leaf0 i
    let f : State := { s with hbm := s.hbm.set 0x1008 1 }
    let read := fun (s : State) (n : Nat) => match s.xcheck s.cur (rqPlain false) 0x10000 16 with
      | .ok x => s.open_ x.key && (s.ownerOf x.key).isNone && s.mayPerform (s.onceAcc 1 x n) &&
        (let used := s.xuse s.cur [.ok x]
         match (if used.hit (s.onceAcc 1 x n) then used else used.missed (s.onceAcc 1 x n)).readWord s.cur x n with
         | some r => r.2.2.isNone
         | none => false)
      | _ => false
    (∀ w ∈ ws, ready w s = true) ∧ read s 16 = true ∧ read f 16 = true ∧ read s 4 = true ∧ s.cur.st < 63 ∧
      placed (s.xcheck s.cur (rqPlain true) 0x10000 16) = true ∧ f.hbm.get 0x1008 = 1 ∧ s.hbm.get 0x1008 = 0 ∧
      effAddr s.cur 12 0 16 0 = 0x10000 := by
  decide +kernel

/-! ## Hypotheses of the statements on engine words -/

/-- The state of `memState` with 128 KiB of scratchpad, a matrix engine, a held stage of ring 7 and, in s8 to s15, a tile record of
one element of `code` at the placed page. -/
noncomputable def tileState (i : Instr) (code : Word) : State :=
  let s := memState leaf0 i
  let regs : List Word := [0x10000, 0, 16, 0x10001, code, 0, 0x10001, 0]
  { s with
    cur := (List.range 8).foldl (fun g k => g.setS (8 + k) (regs.getD k 0)) s.cur
    crews := s.crews.map fun c => { c with scratch := 0x20000, matrix := [0], units := [List.range 32],
                                            rings := List.replicate 7 Ring.invalid ++ [{ ring2 with held := [1] }] } }

/-- CopyWordsIssue: each form with its lane's checks passed, a counter at 63, and a misaligned source. -/
theorem test_witness_CopyWordsIssue :
    let h : Hdr := ⟨false, 1⟩
    let fs := [(Instr.cpyMm h 2 12 12 15, false, false), (.cpyMs h 2 12 16 15, true, false), (.cpySm h 2 16 12 15, false, true),
      (.cpySs h 2 16 20 15, true, true)]
    (∀ f ∈ fs,
      let s := tileState f.1 2
      let d : BitVec 6 := if f.2.2 then 16 else 12
      let a : BitVec 6 := if f.2.1 then 20 else 12
      ready f.1 s = true ∧ s.cur.cp < 63 ∧ (s.cpyCheck s.cur 16 f.2.1 f.2.2 a d 0).map placed = [true, true]) ∧
    (let s := withCur (tileState (.cpySs h 0 16 20 0) 2) fun g => g.putV 20 0 2
     s.cpyCheck s.cur 4 true true 20 16 0 = [.fail .copyAlign 2]) := by
  decide +kernel

/-- TileWordsIssue: for each word a record that passes its checks, one that fails each of them, and a valid ring. -/
theorem test_witness_TileWordsIssue :
    ∀ f ∈ tileForms ⟨false, 1⟩ true 7 15 8 3,
      let s := tileState f.i (if f.k.isTacc then 18 else 2)
      let t := s.cur.tileRec 8
      let bad := withCur s fun g => g.setS 11 0
      let odd := withCur (tileState f.i (if f.k.isTacc then 18 else 17)) fun g => g.setS 10 1
      let far : State := { s with crews := s.crews.map fun c => { c with scratch := 0 } }
      ready f.i s = true ∧ s.tileBad f.k t = false ∧ s.tileSp f.k t = none ∧ t.far.toNat % 4 = 0 ∧ t.stride % 4 = 0 ∧ s.cur.tl < 63 ∧
        ((s.tileMem s.cur f.k t (tileIdx s f.k 8)).all fun r => placed r.2) = true ∧ (s.ring 3 7).valid = true ∧ (s.ring 3 7).held = [1] ∧
        bad.tileBad f.k (bad.cur.tileRec 8) = true ∧
        (f.k.isBuf = true ∨ odd.tileBad f.k (odd.cur.tileRec 8) = false ∧ (odd.cur.tileRec 8).stride % ((odd.cur.tileRec 8).width / 8) ≠ 0) ∧
        (f.k.usesSp = true → (far.tileSp f.k t).isSome = true) := by
  decide +kernel

/-- AccumulatorAndStrokeWordsIssue: lists at the last place and past it, strokes with and without a muster, signatures that are
early, last, one too many and of other fields, right and wrong tags. -/
theorem test_witness_AccumulatorAndStrokeWordsIssue :
    let h : Hdr := ⟨false, 1⟩
    let ts := [Instr.taccTzero h 3, .taccTscale h true 8 3, .taccTbias h 8 3]
    let ss := [Instr.mma h true true 3 3 3 7 15 3, .mmaz h true true 3 3 3 7 15 3, .mmag h true true 3 3 3 7 15 3 0, .mmagz h true true 3 3 3 7 15 3 0]
    let tagged := fun (i : Instr) (n : Nat) =>
      let s := tileState i 2
      { s with cores := s.cores.map fun k => { k with eng := { k.eng with oaTag := [(3, ⟨2, 0, false⟩)], wbTag := [(3, ⟨5, 0, false⟩)] } },
               crews := s.crews.map fun c => mustersOf ⟨n, 0, none⟩ c }
    (∀ i ∈ ts, ready i (tileState i 2) = true ∧ (tileState i 2).cur.tl < 63 ∧ ((tileState i 2).crew 3).scratch = 0x20000) ∧
    0x1FE00 + 512 ≤ 0x20000 ∧ 0x1FE00 % 4 = 0 ∧
    (∀ i ∈ ss, ∀ n ∈ [0, 1, 2],
      let s := tagged i n
      ready i s = true ∧ (lanesOf (s.cur.lanesP h)).length = 1 ∧ tagIs (s.core 0).eng.oaTag 3 (efTags 3).1 = true ∧
        tagIs (s.core 0).eng.wbTag 3 (efTags 3).2 = true ∧ ((s.crews.find? (·.id == s.cur.crew)).map (·.musters.getD 7 Muster.unarmed)) = some ⟨n, 0, none⟩ ∧
        s.listFault 0 = none ∧ tagIs ((tileState i 2).core 0).eng.oaTag 3 (2, 0) = false) := by
  decide +kernel

/-- An engine word in flight. -/
def moving (k : XKind) : Xfer :=
  { id := 90, grp := 4, core := 0, crew := 3, tn := 1, seq := 1, kind := k, claims := [], sb := [], lines := 0, bar := none,
    ring := none, ctr := some .tl, t := 0, user := true, held := false, lost := [], skip := [] }

/-- The state of `tileState` with it. -/
noncomputable def engineState (k : XKind) : State :=
  let s := tileState (.sysNop ⟨false, 0⟩) 2
  { s with cur := { s.cur with tl := 1 }, flow := { s.flow with xfers := [moving k] } }

def tile1 (code : Nat) : TileRec :=
  { far := 0x10000, stride := 16, rows := 1, cols := 1, planes := 0, code := code, near := 0, erows := 1, ecols := 1, list := 0,
    core := 0, mask := false, trans := false, rsvd := false }
def locAt (c : Cls) (bs : Nat) : Loc := ⟨c, ⟨1, bs, 0x1000⟩, 0x1000, 16, 0, false, false, 0x10000, 0⟩
def spAt : Loc := ⟨.scratch, ⟨3, 15, 0⟩, 0, 0, 0, false, false, 0, 0⟩

/-- CopiesAndTilesLand: copies between memory and scratchpad, and tiles into scratchpad, both buffers, out of scratchpad and of
zeros. -/
theorem test_witness_CopiesAndTilesLand :
    let cs : List CpyEl := [⟨0, locAt .device 0, spAt⟩, ⟨0, spAt, locAt .device 0⟩, ⟨0, locAt .flash 15, locAt .device 15⟩]
    let map := [(16, locAt .device 0)]
    (∀ e ∈ cs,
      let s := engineState (.cpy 32 [e])
      let x := moving (.cpy 32 [e])
      s.flow.xfers.find? (·.id == 90) = some x ∧ s.waitsFor x e.src 32 = false ∧ s.waitsFor x e.dst 32 = false ∧
        (s.recallAt 1 e.src 32).failsAt x e.src 32 = false ∧ x.loses e.dst 32 = false) ∧
    (let x := moving (.cpy 32 [⟨0, locAt .device 0, spAt⟩])
     let s := engineState x.kind
     ({ s with flow := { s.flow with xfers := [{ x with id := 80, claims := [line0] }, x] } } : State).waitsFor x (locAt .device 0) 32 = true) ∧
    (∀ k ∈ [XKind.tileIn 0 0 (tile1 16) [] map, .tileIn 1 3 (tile1 2) [] map, .tileIn 2 3 (tile1 5) [] map, .tileZero (tile1 16),
        .tileOut (tile1 16) [] false map],
      let s := engineState k
      let x := moving k
      s.flow.xfers.find? (·.id == 90) = some x ∧ s.engineTurn x = true ∧
        s.tileClear x map ((tile1 2).memRanges (s.tenant 1).soff none map) = true ∧
        (s.tileRead x map (tile1 2) none false).2.lost = [] ∧ (s.placeIn 1 map 0x10000).map (·.cls) = some .device ∧
        ((s.placesIn 1 map ((tile1 2).elements none)).all fun p => (s.linesOf 1 p.2.1.key.bs p.2.1.pa p.2.2).all fun k => s.ownerOf k == none) = true ∧
        s.spPoison 3 0 16 = false ∧ x.loses (locAt .device 0) 1 = false ∧ x.skip = [] ∧
        (tile1 2).far.toNat + (tile1 2).rows * (tile1 2).stride + (tile1 2).cols ≤ 2 ^ 48 ∧ (tile1 2).near.toNat % 4096 + (tile1 2).dRows * (tile1 2).pitch ≤ 4096 ∧
        (tile1 2).row0 + (tile1 2).dRows ≤ 128) := by
  decide +kernel

/-- AccumulatorsAndStrokesAct: each accumulator word at accumulator 3, the first and the last step of a stroke. -/
theorem test_witness_AccumulatorsAndStrokesAct :
    let map := [(16, locAt .host 15)]
    let f : Signed := ⟨false, false, 3, 3, 3, none, 0, 3, 0, [], [], 0, [4]⟩
    (∀ k ∈ [XKind.taccZero 3, .taccScale 3 true 0, .taccBias 3 0 512, .taccLd 3 (tile1 18) map, .taccSp 3 (tile1 18),
        .taccMem 3 (tile1 18) map, .stroke ⟨f, 0, false⟩, .stroke ⟨f, 31, false⟩],
      let s := engineState k
      let x := moving k
      s.flow.xfers.find? (·.id == 90) = some x ∧ s.engineTurn x = true ∧ s.taPoison x 3 = false ∧ s.spPoison 3 0 512 = false ∧
        s.spPoison 3 512 512 = false ∧ s.tileClear x map ((tile1 18).memRanges (s.tenant 1).soff none map) = true ∧
        (s.placeIn 1 map 0x10000).map (·.cls) = some .host ∧ (tile1 18).far.toNat % 4096 + 4 ≤ 4096 ∧ (tile1 18).row0 < 128) ∧
      f.grps.Nodup := by
  decide +kernel

/-- FencesAndPrefetches, `mem.bpref`: a range inside the placed page, one past 2^48, and a completion. -/
theorem test_witness_basin_prefetch :
    let i := Instr.memBpref ⟨false, 1⟩ 8 15
    let s := withCur (memState leaf0 i) fun g => (g.setS 8 0x10000).setS 10 64
    let k := XKind.bpref [(line0, 0)]
    ready i s = true ∧ (s.cur.getS2 8).toNat + (s.cur.getS 10).toNat ≤ 2 ^ 48 ∧ 0 < (s.cur.getS 10).toNat ∧
      (∀ p ∈ pagesOf 0x10000 64, (s.xcheck s.cur rqPref (BitVec.ofNat 64 (p * 4096)) 1).open = false) ∧
      ¬(withCur s fun g => g.setS 9 0x10000).cur.getS2 8 < 0x1000000000000 ∧ (engineState k).flow.xfers.find? (·.id == 90) = some (moving k) := by
  decide +kernel

/-! ## Hypotheses of the statements on tasks, arenas, basins and tenant mode -/

/-- The bytes at s8:s9 can be read as a record of `n` bytes. -/
def readable (s : State) (rq : XReq) (n : Nat) : Bool :=
  match s.xcheck s.cur rq 0x10000 n with
  | .ok x => s.mayPerform (s.onceAcc 1 x n) &&
    (let used := s.xuse s.cur [.ok x]
     match (if used.hit (s.onceAcc 1 x n) then used else used.missed (s.onceAcc 1 x n)).readWord s.cur x n with
     | some r => r.2.2.isNone
     | none => false)
  | _ => false

/-- The same of a record that is read as pieces. -/
def readablePiece (s : State) (rq : XReq) (n : Nat) : Bool :=
  match s.xcheck s.cur rq 0x10000 n with
  | .ok x => let u := s.xuse s.cur [.ok x]
    u.mayPerform (u.onceAcc 1 x n) && (match State.readPieces 1 [(0x10000, x, n)] u with
     | some r => r.2.2.isNone && r.2.1.length == n
     | none => false)
  | _ => false

/-- The state of `memState` with s8:s9 the placed page. -/
noncomputable def recState (i : Instr) : State := withCur (memState leaf0 i) fun g => g.setS 8 0x10000

/-- A launch record of one vector group, and one with width 3. -/
def launchBytes : List Byte :=
  [0, 0, 1, 0, 0, 0, 0, 0, 0, 0, 0, 0, 0, 0, 0, 0, 1, 0, 1, 0, 1, 0, 1, 3, 0, 0, 32, 0, 0, 0, 64, 0] ++ List.replicate 16 0 ++
    [15] ++ List.replicate 15 0

/-- TaskWords: a good record at hand, the deepest spawn, a full pool, a record without room for its arena. -/
theorem test_witness_TaskWords :
    let h : Hdr := ⟨false, 1⟩
    let ws := [Instr.taskSpawn h 16 8, .taskLaunch h 16 8]
    let r := LaunchRec.ofBytes launchBytes []
    let t := { Tenant.blank with awsize := 0x10000 }
    (∀ i ∈ ws, ready i (recState i) = true ∧ readablePiece (recState i) rqRecord 64 = true ∧ (recState i).poolCount 1 0 < 1024 ∧
      (recState i).curNode.depth + 1 ≤ 8) ∧
    r.ok = true ∧ r.capture = false ∧ r.future = 0 ∧ r.arena = 0 ∧ ({ r with width := 3 } : LaunchRec).ok = false ∧
      (t.reserve 65536 5).isSome = true ∧ t.reserve 65537 5 = none := by
  decide +kernel

/-- A tenant with an arena window of two units and one arena in its first unit, owned by node 2. -/
def arena1 : Arena := ⟨7, 1, 0x40000, 0x10000, 2, [1], none⟩
def arenaTenant (t : Tenant) : Tenant := { t with awbase := 0x40000, awsize := 0x20000, arenas := [arena1], genCtr := 1 }

/-- TaskAndArenaWords, arenas: room and none, the node's own handle and another, live and dead pointers, a death point. -/
theorem test_witness_ArenaWords :
    let h : Hdr := ⟨false, 1⟩
    let st := fun (i : Instr) => let s := memState leaf0 i
      { s with tenants := s.tenants.map arenaTenant, nodes := s.nodes.map fun n => { n with arena := some 7 } }
    let s := st (.arenaEnd h 8)
    let c := withCur (st (.arenaChk h 7 8)) fun g => (g.setS 8 0x4FFFF).setS 9 0x10000
    let dead : State := { s with tenants := s.tenants.map fun t => { t with arenas := [{ arena1 with dying := some ([], []) }] } }
    ready (.arenaNew h 16 8) (memState leaf0 (.arenaNew h 16 8)) = true ∧ ready (.arenaEnd h 8) s = true ∧
    (s.arenaOf 1 s.curNode.arena) = some arena1 ∧ arena1.handle = 0x1007 ∧ ready (.arenaChk h 7 8) c = true ∧
      c.tn.inWindow ((c.cur.getS2 8).toNat % 2 ^ 48) = true ∧ (c.cur.getS2 8).toNat / 2 ^ 48 = 1 ∧ c.tn.arenaAt 0x4FFFF = some arena1 ∧
      c.tn.arenaAt 0x50000 = none ∧ ((arenaTenant Tenant.blank).reserve 65536 3).isSome = true ∧
      (arenaTenant Tenant.blank).reserve 65537 3 = none ∧ (memState leaf0 (.arenaNew h 16 8)).curNode.id = 2 ∧
      (memState leaf0 (.arenaNew h 16 8)).curNode.arena = none ∧
      (dead.tenant 1).arenas.find? (·.slot == 7) = some { arena1 with dying := some ([], []) } ∧ dead.gone [] [] = true := by
  decide +kernel

/-- BasinWords: records that define and resize and that fail, ids with and without a basin, a range to move, a resize with a line
in an old place and with none, a drop and a move that can complete. -/
theorem test_witness_BasinWords :
    let h : Hdr := ⟨false, 1⟩
    let ws := [Instr.bsnDef h 8, .bsnResize h 15 8, .bsnDrop h 15 8, .bsnStat h 16 8, .pgBsn h 15 15 8]
    let t : Tenant := { Tenant.blank with banks := [(0, 3)], basins := [⟨⟨0, 1, 8, 0, 0, 0, 1, 1, false⟩, none, false, false⟩] }
    let r : BasinRec := ⟨14, 2, 16, 3, 2, 0, 1, 2, false⟩
    let b0 : Basin := ⟨⟨0, 1, 8, 0, 0, 0, 1, 2, false⟩, some 1, false, false⟩
    let s0 := memState leaf0 (.sysNop ⟨false, 0⟩)
    let s : State := { s0 with tenants := s0.tenants.map fun t => { t with basins := [b0] },
                               flow := { s0.flow with homes := [⟨line0, [], true, 3, 9, none, 0, true⟩] } }
    (∀ i ∈ ws, ready i (recState i) = true ∧ readablePiece (recState i) rqLoad 32 = true) ∧
    t.defCheck r = none ∧ t.defCheck { r with mask := 4 } = some .bankShare ∧ t.resizeCheck { r with id := 0 } = some .basinRecord ∧
      t.resizeCheck ⟨0, 1, 8, 0, 0, 0, 2, 3, false⟩ = none ∧ t.resizeCheck { r with id := 13 } = some .basinUndefined ∧
      t.basin? 0 ≠ none ∧ t.basin? 14 = none ∧
      s.liveBasin 1 0 = some b0 ∧ s.home? line0 = some ⟨line0, [], true, 3, 9, none, 0, true⟩ ∧
      (s.setLines line0 b0 (b0.bankOf false 0x1000)).length < 8 ∧ s.home? ⟨1, 0, 0x2000⟩ = none ∧ s0.moving 1 0 = false ∧
      (engineState (.bsnDrop 0)).flow.accs = [] ∧ (engineState (.bsnDrop 0)).flow.xfers.find? (·.id == 90) = some (moving (.bsnDrop 0)) ∧
      (engineState (.pgBsn 0x10000 0x20000 0 [1])).gone [] [] = true := by
  decide +kernel

/-- WalkerWords: ranges that end at 2^48 and past it, an event pending, an empty queue, an entry queued, one in service that is
fresh, stale or of another token, and leaves that are absent, bad and good. -/
theorem test_witness_WalkerWords :
    let h : Hdr := ⟨false, 1⟩
    let w : Walk := ⟨0x55, 0x10, false, false, true, false, 15, true, false, [⟨4, some 0x10000, false, none⟩]⟩
    let pop := Instr.tsysWqpop h 7 8
    let done := Instr.tsysWqdone h 8
    let st := fun (i : Instr) (w : List Walk) => let s := memState leaf0 i
      ({ s with cur := (s.cur.putV 10 0 0x55).putV 8 0 0x1043, cores := s.cores.map fun k => { k with wq := w }
                tenants := s.tenants.map fun t => { t with thrash := 0 } } : State)
    let e : State := { st pop [] with tenants := (st pop []).tenants.map fun t => { t with events := [(.rasCorrected, 3)] } }
    let i := Instr.tsysInvVa h 8
    let inv := withCur (memState leaf0 i) fun g => ((g.setS 8 0xFFFFF000).setS 9 0xFFFF).setS 10 0x1000
    ready i inv = true ∧ (inv.cur.getS2 8).toNat + (inv.cur.getS 10).toNat = 2 ^ 48 ∧ (inv.cur.getS2 8).toNat < 2 ^ 48 ∧
    ready (.tsysInvAll h) (wit (.tsysInvAll h)) = true ∧
    ready pop (st pop [{ w with served := false }]) = true ∧ (st pop []).eventFor 0 1 = none ∧ e.eventFor 0 1 = some (.rasCorrected, 3) ∧
      (((st pop [{ w with served := false }]).core 0).wq.filter (!·.served)) ≠ [] ∧
    ready done (st done [w]) = true ∧ lanesOf ((st done [w]).cur.lanesP h) = [0] ∧ (st done [w]).inService 0x55 = some w ∧
      (st done [{ w with stale := true }]).inService 0x55 = some { w with stale := true } ∧ (st done []).inService 0x55 = none ∧
      leafV ((st done [w]).cur.getS2 8) = false ∧ leafV ((st done [w]).cur.getV2 8 0) = true ∧
      badLeaf ((st done [w]).cur.getV2 8 0) 0 = false ∧ badLeaf 0x1041 0 = true ∧
      (st done [w]).tn.thrash.toNat % 256 = 0 ∧ (st done [w]).tn.pages = [] ∧
      (st done [w]).tn.stc.countP (fun x => x.die == 0) < (st done [w]).tn.stcShare 0 ∧
    ready (.tsysFaultPost h 8) (st (.tsysFaultPost h 8) [w]) = true ∧ Cause.posted 0x4E = some .thrashHold ∧ Cause.posted 0x4B = none := by
  decide +kernel

/-- FrameWords: addresses in the tenant's frames, misaligned ones and others' frames, for one frame and for sixteen; an allotment
that is used up; meters at both ends; frame work in flight. -/
theorem test_witness_FrameWords :
    let h : Hdr := ⟨false, 1⟩
    let ws := [Instr.tsysPtld h 12 8, .tsysFrmTake h true 7 8, .tsysFrmGive h false 12, .tsysMzero h false 12, .tsysMcopy h false 12 8,
      .tsysMeterRd h 16 8]
    let s := withCur (memState leaf0 (.tsysPtld h 12 8)) fun g => (g.putV 12 0 0x1FF8).putV 8 0 0x1000
    (∀ i ∈ ws, ready i (memState leaf0 i) = true ∧ lanesOf ((memState leaf0 i).cur.lanesP h) = [0] ∧ (memState leaf0 i).cur.ld < 63) ∧
    8 ∣ (s.cur.getV2 12 0).toNat ∧ s.tn.hasFrame 1 = true ∧ s.tn.hasFrame 16 = false ∧ s.tn.allot = 1 ∧ s.tn.free = [] ∧
      s.takeFrame 1 = none ∧ (∀ i, i < 16 → s.tn.hasFrame i = true) ∧
      (engineState (.frames false [(1, 1)])).flow.xfers.find? (·.id == 90) = some (moving (.frames false [(1, 1)])) ∧
      (engineState (.frames true [(1, 2)])).flow.xfers.any (fun y => y.id < 90) = false := by
  decide +kernel

/-- A frame can be taken whatever the device chooses. -/
theorem test_witness_FrameWords_take :
    let s := memState leaf0 (.tsysFrmTake ⟨false, 1⟩ false 7 8)
    ({ s with tenants := s.tenants.map fun t => { t with free := [20] } } : State).takeFrame 1 = some 20 := by
  intro s
  have h1 : ({ s with tenants := s.tenants.map fun t => { t with free := [20] } } : State).tn.free = [20] := by decide +kernel
  have h2 : dieOf s.cur.core = 0 := by decide +kernel
  have h : ∀ n, listFrame [20] 1 0 n = some 20 := fun n => by simp [listFrame, Nat.mod_one]
  simp only [State.takeFrame, h1, h2, dieOrder, List.map_cons, List.findSome?_cons, Nat.zero_add, Nat.zero_mod, h]

/-- SaveWords: outside a handler and inside; a crew that is not quiet, a window too small, the counters full, a window that holds
the image; a sealed image that is found, altered and stale. -/
theorem test_witness_SaveWords :
    let h : Hdr := ⟨false, 1⟩
    let i := Instr.seal h 7 8
    let st := fun (i : Instr) =>
      let s := recState i
      let c : Crew := { Crew.blank with id := 9, tn := 1, node := 2, base := 0 }
      ({ s with cur := { s.cur with saving := some 9 }.setS 10 0x4000, crews := s.crews ++ [c],
                nodes := s.nodes.map (fun n => { n with lr := { LaunchRec.zero with nVec := 1, bVec := 64, width := 1 } }),
                cores := s.cores.map fun k => { k with tc := k.tc.map fun x => { x with level := 1 } } } : State)
    let s := st i
    let g : Group := { Group.blank with id := 8, tn := 1, crew := 9, ld := 1 }
    let image : Image := ⟨Crew.blank, [], [], [], [], [], [], [], false⟩
    let x : Sealed := ⟨1, 0, [0, 0], 4, 0, image⟩
    let u := { withCur (st (.unseal h 8)) (fun g => g.setS 10 2) with dev := { s.dev with sealed := [x] } }
    ready i s = true ∧ ready (.tsysPsaveDone h) (st (.tsysPsaveDone h)) = true ∧ (wit i).cur.saving = none ∧ s.cur.crew ≠ 9 ∧
      s.crewQuiet 9 = true ∧ ({ s with groups := [g] } : State).crewQuiet 9 = false ∧ s.imageLen (s.crew 9) = 13392 ∧
      s.tn.savesFull 0 (s.crew 9) = false ∧ (s.sealPages 0x10000 13392 true).all placed = true ∧
      s.sealMay 1 true ((s.sealPages 0x10000 13392 true).filterMap (·.loc?)) 13392 = true ∧
      ready (.unseal h 8) u = true ∧ (u.sealPages 0x10000 2 false).all placed = true ∧
      u.sealMay 1 false ((u.sealPages 0x10000 2 false).filterMap (·.loc?)) 2 = true ∧
      ((u.sealReadAll 0x10000 2 ((u.sealPages 0x10000 2 false).filterMap (·.loc?))).map fun r => (r.2.1, r.2.2)) = some ([0, 0], none) ∧
      ((({ u with dev := { u.dev with poison := [.hbm 0] } } : State).sealReadAll 0x10000 2
        ((u.sealPages 0x10000 2 false).filterMap (·.loc?))).map fun r => r.2.2) = some (some .poison) ∧
      u.sealedAs 1 [0, 0] = some x ∧ u.sealedAs 1 [1, 0] = none ∧ u.tn.saveOf 0 Crew.blank = none ∧
      ({ Tenant.blank with saves := [⟨0, 0, 0, 0, 4, false⟩] } : Tenant).saveOf 0 Crew.blank = some ⟨0, 0, 0, 0, 4, false⟩ ∧
      ({ Tenant.blank with saves := List.replicate 4096 ⟨1, 0, 0, 0, 4, false⟩ } : Tenant).savesFull 0 Crew.blank = true := by
  decide +kernel

/-! ## Hypotheses of the statements on scheduling -/

/-- The state of `memState` around a nop, on its placed partition of one quad of die 0. -/
noncomputable def placedState : State := memState leaf0 (.sysNop ⟨false, 0⟩)

/-- A ready set of lane 1 at another PC. -/
def readySet (t : Tag) : Machine.PSet := ⟨⟨2, 0x20000, 0, 0, none, t, []⟩, .deferred, [], 0, none⟩

/-- RotationBinsAndSwaps: a path with 1,023 and with 1,024 chains, with and without another ready set; a bin of one lane that is not due
and due, and a freed slot. -/
theorem test_witness_RotationBinsAndSwaps_rotation :
    let s := withCur placedState fun g => { g with path := { g.path with rot := 1024, tag := ⟨g.mode, g.depth⟩ } }
    let p := readySet ⟨.u, 1⟩
    let t := withCur s fun g => { g with sets := [p], ages := 1 }
    let b : Bin := ⟨0x20000, 0, [⟨0x20000, [], 0⟩], 0, [], 0⟩
    let c : Crew := { s.crew 3 with bins := [b], freeNums := [(1, 0, 9)] }
    let u : State := { s with crews := [c] }
    s.grp? 4 = some s.cur ∧ placedState.cur.path.rot < 1024 ∧ s.cur.path.tag = ⟨s.cur.mode, s.cur.depth⟩ ∧ s.cur.sets = [] ∧
    t.grp? 4 = some t.cur ∧ t.cur.sets.find? t.cur.canRun = some p ∧ p.path.age < t.cur.ages ∧ p.path.pc ≠ t.cur.path.pc ∧
    u.crews.find? (·.id == 3) = some c ∧ c.bins[0]? = some b ∧ c.life = .running ∧ (u.slotsOn 0).length < 64 ∧
    ¬(32 ≤ b.filed.length ∨ b.first + 256 ≤ u.dev.cycle) ∧ b.first + 256 ≤ 256 ∧ 32 ≤ (List.replicate 32 b.filed).flatten.length := by
  decide +kernel

/-- An entry of one crew, that crew returned, and the state with a pool. -/
def poolEnt1 : PoolEnt := ⟨1, 0, 2, 0, 1, 0, 0, false⟩
def resumed1 : Resumed := ⟨1, 0, 0, 0, false, [], ⟨{ Crew.blank with id := 3, tn := 1, node := 2, width := 1 }, [], [], [], [], [], [], [], false⟩⟩
noncomputable def pooled (es : List PoolEnt) (rs : List Resumed) : State :=
  { placedState with pool := es, resumed := rs, crews := [] }

/-- PlacementAndPools: a new crew that fits, a returned one that fits, and an empty pool. -/
theorem test_witness_PlacementAndPools_placement :
    let s := pooled [poolEnt1] []
    let t := pooled [] [resumed1]
    s.nextPlace 1 0 = some (.fresh poolEnt1, 0) ∧ (s.node 2).cap = none ∧ (∀ n ∈ s.nodes, n.cap = none) ∧
      (pooled [] []).nextPlace 1 0 = none ∧ t.nextPlace 1 0 = some (.back resumed1, 0) ∧ resumed1.image.forced = false := by
  decide +kernel

/-- PlacementAndPools: offers of both kinds, at 1 ms and before; a steal from die 1 by die 0. -/
theorem test_witness_PlacementAndPools_pools :
    let s := pooled [poolEnt1] []
    let t := pooled [] [resumed1]
    let e : PoolEnt := { poolEnt1 with die := 1, hi := 3 }
    let u : State := { pooled [e] [] with tenants := placedState.tenants.map fun t => { t with quads := [0, 11] } }
    s.offers 1 0 = [.fresh poolEnt1] ∧ t.offers 1 0 = [.back resumed1] ∧ poolEnt1.since + 1250000 ≤ 1250000 ∧
    ¬poolEnt1.since + 1250000 ≤ s.dev.cycle ∧ s.nextPlace 1 0 ≠ none ∧ (u.tenant 1).life = .live ∧ u.nextPlace 1 0 = none ∧
      (((dieOrder 0).drop 1).filter fun d => (u.tenant 1).quads.any (· / 11 == d)) = [1] ∧ u.offers 1 1 = [.fresh e] ∧
      u.findSet 1 0 (u.need (.fresh e)) = some 0 ∧ (u.node e.node).cap = none := by
  decide +kernel

/-- RotationBinsAndSwaps: a blocked group, long enough and with a crew that waits for its slot; a swapped group whose set is ready. -/
theorem test_witness_RotationBinsAndSwaps_swaps :
    let s0 := pooled [poolEnt1] []
    let g : Group := { s0.cur with path := { s0.cur.path with mask := 0 }, sets := [⟨{ s0.cur.path with mask := 1 }, .reform, [], 0, none⟩] }
    let many := (List.range 251).map fun n => { s0.cur with id := 100 + n, core := (n + 1) / 63 }
    let s : State := { s0 with cur := g, groups := many, dev := { s0.dev with cycle := 65536 } }
    let b : Group := { s0.cur with slot := false }
    let t : State := { s0 with cur := b }
    s.grp? 4 = some g ∧ g.slot = true ∧ g.unblocked = false ∧ g.live ≠ 0 ∧ g.since + 65536 ≤ s.dev.cycle ∧
      s.nextPlace 1 0 = none ∧ (s.mapGrp 4 fun g => { g with slot := false }).nextPlace 1 0 ≠ none ∧
      t.grp? 4 = some b ∧ b.unblocked = true ∧ (t.slotsOn b.core).length < 64 := by
  decide +kernel

/-- NodesRetire: a node all of whose crews have exited, with an arena, with no future and with one whose line is open and closed. -/
theorem test_witness_NodesRetire :
    let s := placedState
    let l : Loc := ⟨.device, line0, 0x1000, 16, 0, false, false, 0x10000, 0⟩
    let nd : Node := { s.node 2 with exited := 1, slot := some l, lr := { (s.node 2).lr with future := 0x10000 } }
    let t : State := { s with nodes := [nd] }
    let a : State := { t with nodes := [{ nd with arena := some 7 }], tenants := t.tenants.map arenaTenant }
    s.nodes.find? (·.id == 2) = some (s.node 2) ∧ (s.node 2).exited ≠ (s.node 2).total ∧ (s.tenant 1).life = .live ∧
    t.nodes.find? (·.id == 2) = some nd ∧ nd.exited = nd.total ∧ (a.arenaOf 1 (some 7)) = some arena1 ∧
      t.arenaOf 1 nd.arena = none ∧ (t.tenant 1).arenas = [] ∧ nd.cap = none ∧
      (let l' := t.placeNow 1 nd.lr.future.toNat l
       t.open_ l'.key = true ∧ l'.cls = .device ∧ l'.pa % 16 = 0 ∧
         (({ t with dev := { t.dev with poison := [.homeEntry l'.key] } } : State).open_ l'.key = false)) ∧
      t.liveBasin 1 15 = none := by
  decide +kernel

/-- ServiceSavesAndPreemption: a service group that waits for its restart, one with a crew to save, and one past its deadline. -/
theorem test_witness_ServiceSavesAndPreemption_service :
    let s0 := wit (.tsysPsaveDone ⟨false, 0⟩)
    let c (life : CrewLife) : Crew := { Crew.blank with id := 9, tn := 1, node := 2, base := 0, width := 1, life := life }
    let st (f : Group → Group) (life : CrewLife) (q : List Nat) : State :=
      { withCur s0 f with crews := s0.crews ++ [c life], cores := s0.cores.map fun k => { k with saveQ := q } }
    let r := st (fun g => { g with restart := some 5 }) .running []
    let h := st id .stopping [9]
    let d := st (fun g => { g with saving := some 9, deadAt := 7 }) .saving []
    r.grp? 4 = some r.cur ∧ (r.tenant 1).life = .live ∧ r.cur.restart = some 5 ∧ r.quiet r.cur = true ∧ r.cur.csrw = none ∧
      ¬5 ≤ r.dev.cycle ∧
    h.grp? 4 = some h.cur ∧ h.crews.find? (·.id == 9) = some (c .stopping) ∧ h.serviceOn 0 = some h.cur ∧
      (h.core 0).saveQ.head? = some 9 ∧ h.cur.saving = none ∧ h.quiet h.cur = true ∧
    d.crews.find? (·.id == 9) = some (c .saving) ∧ d.serviceOn 0 = some d.cur ∧ d.cur.saving = some 9 ∧ d.cur.crew ≠ 9 ∧
      d.dev.cycle < d.cur.deadAt ∧ d.drained 9 = true ∧ (d.tenant 1).held.length < 65536 ∧
      ({ d with dev := { d.dev with cycle := 7 } } : State).drained 9 = true := by
  decide +kernel

/-- ServiceSavesAndPreemption: a running crew of a live tenant, an ended one, a tenant that leaves. -/
theorem test_witness_ServiceSavesAndPreemption_preemption :
    let s := placedState
    let t : State := { s with tenants := s.tenants.map fun t => { t with life := .ending } }
    s.crews.find? (·.id == 3) = some (s.crew 3) ∧ (s.crew 3).tn = 1 ∧ (s.crew 3).service = false ∧ (s.crew 3).life = .running ∧
      (s.tenant 1).life = .live ∧ s.leaving 1 = false ∧ 3 ∈ s.running 1 ∧ 99 ∉ s.running 1 ∧
      t.leaving 1 = true ∧ (t.tenant 1).life ≠ .live := by
  decide +kernel

/-! ## Hypotheses of the statements on firmware and the host -/

/-- The doublewords of the launch record of `test_witness_TaskWords`, at frame 4. -/
def recordWords : List (Nat × BitVec 64) :=
  (List.range 8).map fun i => (0x4000 + 8 * i, BitVec.ofNat 64 (leNat ((launchBytes.drop (8 * i)).take 8)))

/-- A page-table image of five pages in host memory at 0x100000: tables in frames 0 to 3 (R263), the record in frame 4 at VA 0, the
cistern at VA 0x10000 and the window at VA 0x20000, each one 64 KiB page. -/
def imageWords : List (Nat × BitVec 64) :=
  [(0, 0x1001), (0x1000, 0x2001), (0x2000, 0x30001), (0x3000, 0x62001), (0x3008, 0x10147), (0x3010, 0x20157), (0x3100, 0x4013)] ++
    recordWords

/-- Powered and managed, with nothing created and such an image in host memory. -/
def managedWith (ws : List (Nat × BitVec 64)) : State :=
  let m := ws.foldl (fun (m : Memory) e => m.setList (0x100000 + e.1) (leBytes e.2.toNat 8)) []
  { State.reset with dev := { Dev.reset with firmware := some (0, 1), host := m } }
def managed : State := managedWith imageWords

/-- A partition of quad 0 and bank 0 with 48 frames. -/
def part1 : PartDesc :=
  { tenant := 7, quads := [0], banks := [(0, 1)], allot := 48, minFrames := [(0, 48)], frames := List.range 48, wHbm := 1, wCopy := 1,
    wWalk := 1, cisBase := 0x10000, cisSize := 0x10000, winBase := 0x20000, winBits := 16, flashGBs := 0, flash := [], tperm := 0,
    deadline := 10, thrash := 0x00A06404, interval := 100, keys := 0, imgAt := 0x100000, imgPages := List.range 5,
    ptroot := 0, dispatch := 0, tvec := 0x10000, awBase := 0x100000, awSize := 0x10000,
    basin0 := some ⟨0, 1, 8, 0, 0, 0, 1, 1, false⟩, pasid := 0, at_ := 0x200000, len := 256,
    backQuad := 0x200010, backBank := 0x200020 }

/-- Creation: a description that is created, one for each refusal, and a module without firmware. -/
theorem test_witness_Creation :
    let refused := fun (d : PartDesc) (e : String) => (match managed.create d with | .error x => x == e | .ok _ => false)
    State.reset.dev.firmware = none ∧ managed.dev.firmware.isSome = true ∧ partFieldsOk part1 = true ∧
    (match managed.create part1 with | .ok _ => true | .error _ => false) = true ∧ managed.tenants = [] ∧
      managed.banksFree 0 1 = true ∧ managed.framesOk part1 = true ∧
    partFieldsOk { part1 with deadline := 9 } = false ∧ partFieldsOk { part1 with deadline := 500, interval := 60000 } = true ∧
    refused { part1 with deadline := 9 } "BAD_RECORD" = true ∧
    (match ({ managed with dev := { managed.dev with deadQ := [0] } } : State).create part1 with
      | .error x => x == "NO_QUADS" | .ok _ => false) = true ∧
    (match ({ managed with dev := { managed.dev with deadB := [0] } } : State).create part1 with
      | .error x => x == "NO_BANKS" | .ok _ => false) = true ∧
    refused { part1 with frames := List.range 47 } "NO_FRAMES" = true ∧
    (match (managedWith (imageWords ++ [(0, 0x1005)])).create part1 with | .error x => x == "BAD_IMAGE" | .ok _ => false) = true ∧
    (match (managedWith (imageWords ++ [(0x3008, 0x10047)])).create part1 with | .error x => x == "BAD_CISTERN" | .ok _ => false) = true ∧
    managed.freeVf = some 1 ∧ ({ managed with tenants := (List.range 88).map fun i =>
      { Tenant.blank with vf := i + 1, life := .live } } : State).freeVf = none ∧
    partFieldsOk { part1 with thrash := 0x00A00004 } = false ∧ partFieldsOk { part1 with flash := [flashBlocks] } = false ∧
    part1.backQuad + 2 * part1.quads.length ≤ part1.backBank := by
  decide +kernel

/-- TeardownAndReturns: a live tenant, with and without an invalidation under way, an ended one, and its storage. -/
theorem test_witness_TeardownAndReturns :
    let s := placedState
    let e : State := { s with tenants := s.tenants.map fun t => { t with life := .ending } }
    let i : State := { s with flow := { s.flow with invs := [⟨70, 1, [], [], []⟩] } }
    s.tenants.find? (·.id == 1) = some (s.tenant 1) ∧ (s.tenant 1).life = .live ∧ (s.tenant 1).held.length < 65536 ∧
      (∀ v ∈ s.flow.invs, v.tn ≠ 1) ∧ (∃ v ∈ i.flow.invs, v.tn = 1) ∧
    e.tenants.find? (fun t => t.id == 1 && t.life == .ending) = some (e.tenant 1) ∧ 0 ∈ (e.tenant 1).quads ∧
      ((e.tenant 1).shareOn (0 / 64)).getLsbD (0 % 64) = true ∧ 1 ∈ (e.tenant 1).used ∧
      s.tenants.find? (fun t => t.id == 1 && t.life == .ending) = none := by
  decide +kernel

/-- MailboxLinksAndPower: a tenant that is live, halted and leaving; a grant that is sound, unsound, held and leaving; caps at both ends. -/
theorem test_witness_MailboxLinksAndPower_mailbox :
    let s : State := { placedState with dev := { placedState.dev with domain := [1, 63] } }
    let halted : State := { s with tenants := s.tenants.map fun t => { t with life := .halted } }
    let busy : State := { s with tenants := s.tenants.map fun t => { t with life := .stopping } }
    let g : Grant := ⟨63, 1, 1, [1], true⟩
    s.busy 1 = false ∧ busy.busy 1 = true ∧ s.tenants.find? (·.id == 1) = some (s.tenant 1) ∧ (s.tenant 1).life = .live ∧
      (s.tenant 1).held.length < 65536 ∧ (halted.tenant 1).life = .halted ∧ s.grantOk g = true ∧
      s.grantOk { g with srcDev := 64 } = false ∧ g ∉ s.dev.grants ∧ g ∉ s.dev.leaving ∧
      g ∈ ({ s.dev with grants := [g] } : Dev).grants ∧ g ∈ ({ s.dev with leaving := [g] } : Dev).leaving := by
  decide +kernel

/-- UsageRecords: an interval not yet over and over, no record and the last of a batch, a final one and one before the last. -/
theorem test_witness_UsageRecords :
    let s := placedState
    let r : UsageRec := ⟨0, 63, 0, 0, 0, [], 0, 0, 0, 0, 0, 0⟩
    let at_ := { s with dev := { s.dev with cycle := 75000000000 } }
    s.tenants.find? (·.id == 1) = some (s.tenant 1) ∧ (s.tenant 1).life = .live ∧ s.dev.cycle < (s.tenant 1).nextRec ∧
      (at_.tenant 1).nextRec ≤ at_.dev.cycle ∧ (s.tenant 1).held = [] ∧ (s.tenant 1).held.length < 65536 ∧
      ({ s.tenant 1 with held := [r] } : Tenant).held = r :: [] ∧ r.seq % 64 = 63 ∧ { r with seq := 62 }.seq % 64 ≠ 63 ∧
      { r with kind := 3 }.kind = 3 := by
  decide +kernel

/-- WindowAndPeerAccesses: the window's last bytes, an address with a leaf and one without, a granted request of each kind and one
without its grant. -/
theorem test_witness_WindowAndPeerAccesses :
    let s0 := placedState
    let x : Xent := { tn := 1, va := 0x10000, level := 0, leaf := leaf15, user := true, pin := true, die := 0, host := none, stamp := 0 }
    let g : Grant := ⟨2, 3, 1, [1], true⟩
    let s : State := { s0 with tenants := s0.tenants.map (fun t => { t with stc := [x], winBase := 0x10000, winBits := 16 }),
                               dev := { s0.dev with grants := [g] } }
    let t := s.tenant 1
    let rs (op : PeerOp) : PeerReq := ⟨2, 3, 1, 0x1FFC, op⟩
    let l : Loc := ⟨.device, s.keyOf 1 (s.frameBs 1 1) 0x1FFC, 0x1FFC, 0, 0, false, true, 0, 0⟩
    s.vf? 1 = some t ∧ 2 ^ t.winBits < 0xFFFF + 2 ∧ 0xFFC + 4 ≤ 2 ^ t.winBits ∧ (0x10000 + 0xFFC) % 4096 + 4 ≤ 4096 ∧
      (0x10000 + 0xFFC) % 128 + 4 ≤ 128 ∧ s.winPlace t 0x11000 = none ∧
      (s.winPlace t 0x10FFC).map (fun l => (s.agentMay 1 l 4, l.cls == .device, (s.linesOf 1 l.key.bs l.pa 4).map s.open_)) =
        some (true, true, [true]) ∧ s.liveBasin 1 15 = none ∧
    s.granted (rs (.read 4)) = true ∧ s.granted (rs (.write [1, 2, 3, 4])) = true ∧ s.granted (rs (.atomic 13 0 0 0 false)) = false ∧
      s.granted (rs (.atomic 10 0 0 0 false)) = true ∧ (s0.granted (rs (.read 4))) = false ∧
      s.agentMay 1 l 4 = true ∧ (s.linesOf 1 l.key.bs l.pa 4).map s.open_ = [true] ∧ (s.recallAt 1 l 4).badAt 1 l 4 = false := by
  decide +kernel

/-- MailboxLinksAndPower: a module that is managed, one whose image did not verify, one that is off, and a tenant's function. -/
theorem test_witness_MailboxLinksAndPower_links :
    let s : State := { placedState with dev := { placedState.dev with firmware := some (5, 1) } }
    let off : State := { s with dev := { s.dev with power := false, firmware := none } }
    s.dev.power = true ∧ s.dev.firmware.isSome = true ∧ off.dev.power = false ∧ State.reset.dev.firmware = none ∧
      (s.tenants.map (·.id)).Nodup ∧ s.dev.firmware = some (5, 1) ∧ s.vf? 1 = some (s.tenant 1) := by
  decide +kernel

/-! ## Hypotheses of the statements on hardware errors, host translations and issue -/

/-- ErrorsAndRetirement: a resident line with a basin, the crew and its node, the last byte of a window, a group that is no service
group. -/
theorem test_witness_ErrorsAndRetirement_errors :
    let s0 := placedState
    let s : State := { s0 with flow := { s0.flow with homes := [⟨line0, [], false, 3, 9, none, 0, false⟩] },
                               crews := s0.crews.map fun c => { c with scratch := 4096 } }
    line0.bs ≠ 15 ∧ (s.home? line0).isSome = true ∧ s.crew 3 ∈ s.crews ∧ (s.crew 3).id = 3 ∧ 4095 < (s.crew 3).scratch ∧
      s.grp? s.cur.id = some s.cur ∧ s.cur.role ≠ .service ∧
      s.crews.find? (fun k => k.id == 3 && !k.service) = some (s.crew 3) ∧ s.node 2 ∈ s.nodes ∧ (s.node 2).id = (s.crew 3).node ∧
      (s.tenants.any (·.id == 1)) = true := by
  decide +kernel

/-- ErrorsAndRetirement: a quad with a spare, one without, a dead one; the same of banks; the tenant that holds them. -/
theorem test_witness_ErrorsAndRetirement_retirement :
    let s := placedState
    let none_ := { Health.reset with spareQuads := List.replicate 8 0, spareBanks := List.replicate 8 0 }
    let t : State := { s with dev := { s.dev with deadQ := [87], health := none_, deadB := [511] } }
    0 ∉ s.dev.deadQ ∧ 0 < s.dev.health.spareQuads.getD 0 0 ∧ t.dev.health.spareQuads.getD 0 0 = 0 ∧ 351 / 4 ∈ t.dev.deadQ ∧
      (∃ u ∈ t.tenants, 0 ∈ u.quads) ∧ 511 ∉ s.dev.deadB ∧ 511 ∈ t.dev.deadB ∧
      0 < s.dev.health.spareBanks.getD 0 0 ∧ t.dev.health.spareBanks.getD 0 0 = 0 ∧
      s.tenants.find? (fun u => (u.shareOn 0).getLsbD (0 % 64)) = some (s.tenant 1) := by
  decide +kernel

/-- HostTranslations: an ATS request that reads and one that writes, a page request with a group that waits on it, a VF with 31 and
with 32 invalidations, one that can complete and one that waits. -/
theorem test_witness_HostTranslations :
    let s0 := placedState
    let rq (w p : Bool) : HostReq := ⟨80, 1, 0, true, 5, 5, w, p, false, false⟩
    let st (w p : Bool) : State :=
      { s0 with flow := { s0.flow with reqs := [rq w p] },
                groups := [{ s0.cur with id := 40, sets := [⟨{ s0.cur.path with mask := 2 }, .pri 80 0x10000, [], 0, none⟩] }] }
    let inv (n : Nat) : State := { s0 with flow := { s0.flow with invs := List.replicate n ⟨70, 1, [], [], []⟩ } }
    let held : State := { engineState (.bsnDrop 0) with flow := { (engineState (.bsnDrop 0)).flow with invs := [⟨70, 1, [], [], [90]⟩] } }
    (∀ w p, (st w p).req? 80 = some (rq w p)) ∧ (rq false false).late = false ∧ (rq true false).again = false ∧
      (s0.core 0).tc.length < 2048 ∧ s0.flow.reqs.countP (fun q => q.tn == 1 && q.pri) = 0 ∧
      ({ s0 with flow := { s0.flow with reqs := List.replicate 512 (rq false true) } } : State).flow.reqs.countP
        (fun q => q.tn == 1 && q.pri) = 512 ∧
      (∃ g ∈ (st false true).groups, ∃ p ∈ g.sets, p.cond = .pri 80 0x10000) ∧ (∀ q ∈ (st false true).flow.reqs, q.late = false) ∧
    s0.vf? 1 = some (s0.tenant 1) ∧ 32 ≤ (inv 32).flow.invs.countP (·.tn == 1) ∧ (inv 31).flow.invs.countP (·.tn == 1) < 32 ∧
      (inv 1).flow.invs.find? (·.id == 70) = some ⟨70, 1, [], [], []⟩ ∧ (inv 1).gone [] [] = true ∧
      held.flow.invs.find? (·.id == 70) = some ⟨70, 1, [], [], [90]⟩ ∧ held.gone [] [90] = false := by
  decide +kernel

/-- IssueChecksAndEvents, the words of a chain: no decoding, a chain past the packet's end, a check that fails, a good last word. -/
theorem test_witness_IssueChecksAndEvents_chain :
    let s := placedState
    let i := Instr.viaAdd ⟨false, 0⟩ 7 8 (.reg 9)
    let ch := Instr.viaAdd ⟨true, 0⟩ 7 8 (.reg 9)
    let big := Instr.viaAdd ⟨false, 0⟩ 63 8 (.reg 9)
    let small := withCur s fun g => { g with budget := 16 }
    instrAt [0x0000FFFF, 0, 0] 0 = none ∧ instrAt [wordOf i, 0, 0] 0 = some i ∧ instrAt [0, 0, wordOf ch] 2 = some ch ∧
      (info ch).map (packetBad [0, 0, wordOf ch] 2 true ⟨[], [], [], [], []⟩) = some true ∧
      (info big).map (fun f => (packetBad [wordOf big, 0, 0] 0 true ⟨[], [], [], [], []⟩ f, issueFault f (small.atWord 0x10000 [wordOf big, 0, 0] 0 0))) =
        some (false, some .regBudget) ∧
      (info i).map (fun f => (packetBad [wordOf i, 0, 0] 0 true ⟨[], [], [], [], []⟩ f, issueFault f (s.atWord 0x10000 [wordOf i, 0, 0] 0 0),
        chainBit [wordOf i, 0, 0] 0)) = some (false, none, false) := by
  decide +kernel

/-- IssueChecksAndEvents, the list of R33: each check failing with those before it passed, and all of them passed. -/
theorem test_witness_IssueChecksAndEvents_word :
    let fault := fun (i : Instr) (f : Group → Group) => (info i).bind fun x => issueFault x (withCur (wit i) f)
    fault (.tsysInvAll ⟨false, 0⟩) (fun g => { g with mode := .u }) = some .priv ∧
    fault (.cpyMm ⟨false, 0⟩ 2 12 12 15) (fun g => { g with role := .vector }) = some .role ∧
    fault (.ctlReform ⟨false, 0⟩) (fun g => { g with role := .copy }) = some .reformRole ∧
    fault (.ctlRep ⟨false, 0⟩ (.reg 4)) (fun g => { g with path := { g.path with rep := some ⟨0x10000, 2⟩ } }) = some .repNest ∧
    fault (.viaAdd ⟨false, 0⟩ 63 8 (.reg 9)) (fun g => { g with budget := 63 }) = some .regBudget ∧
    fault (.mma ⟨false, 0⟩ true true 3 3 3 7 15 11) id = some .mmaFormat ∧
    fault (.mma ⟨false, 0⟩ true true 3 3 3 7 15 10) id = none := by
  decide +kernel

/-- IssueChecksAndEvents: an undefined word, a chain past its packet, a pending cause, and a packet in a host page. -/
theorem test_witness_IssueChecksAndEvents_events :
    let st := fun (w : Nat) => State.reset.place 96 w
    let ch := (wordOf (.viaAdd ⟨true, 0⟩ 7 8 (.reg 9))).toNat
    let bad := fun (s : State) (d : Cause) => (match s.firstReady 0 with
      | some (.bad s1 _ c _) => c == d && s1.cur.mode == .u && s1.cur.path.mask != 0
      | _ => false)
    let p := withCur (st 0) fun g => { g with pend := [(.rasUncorrected, 1), (.poison, 2)] }
    let x : Xent := { tn := 1, va := 0x10000, level := 0, leaf := 0x03D000000000115F, user := true, pin := true, die := 0, host := none,
                      stamp := 0 }
    let h : State := { st 0 with tenants := (st 0).tenants.map (fun t => { t with tperm := 1 }),
                                 cores := (st 0).cores.map fun k => { k with tc := [x, { x with host := some (0x5000, true) }] } }
    bad (st 0x0000FFFF) .illegalEnc = true ∧ bad (st (2 ^ 64 * ch + 2 ^ 32 * ch + ch)) .illegalPacket = true ∧
    (match p.firstReady 0 with
      | some (.chain s1 _ _ _) => s1.cur.lowestPend == some (.poison, 2) && s1.cur.mode == .u && s1.cur.path.mask != 0
      | _ => false) = true ∧
    (match (st 0).firstReady 0 with | some (.chain s1 _ _ _) => s1.cur.pend.isEmpty | _ => false) = true ∧
    h.pickable 0 = [h.cur] ∧ h.cur.csrw = none ∧ h.cur.path.pc.toNat % 4096 ≤ 4084 ∧ h.cur.sets = [] ∧
      (match h.xcheck { h.cur with hold := none } rqFetch (pktOf h.cur.path.pc) 4 with
        | .ok l => l.cls == .host && l.va == (pktOf h.cur.path.pc).toNat | _ => false) = true := by
  decide +kernel

/-! ## Further clauses of the statements above -/

/-- LoadsPerform and StoresAndAtomicsPerform: a hit at a line whose home entry is sound, and atomics of words without a destination,
at a resident line and in the base die. -/
theorem test_clauses_no_destination :
    let c := cached (access .load .device line0 word0) (.load 8 4 false) ⟨line0, 0x1000, [], 0, 16, 0, false, false, 0⟩
    let el : El := ⟨0, 0, 0x1000, 4, .atomic 0 5 0 0 false⟩
    let b := access .atomic .device line0 [el]
    let d := access .atomic .device line15 [el]
    let s0 := flying b .store
    let s := { s0 with flow := { s0.flow with homes := [⟨line0, [(0x1000, 7)], false, 3, 9, none, 0, false⟩] } }
    let t := flying d .store
    c.dev.poison.contains (.homeEntry line0) = false ∧
      inFlight s b = true ∧ s.open_ line0 = true ∧ s.ownerOf line0 = none ∧ s.capAcc b = true ∧ (pending .store).grp = b.grp ∧
      (s.flow.accs.all fun y => y.word != b.word || y.id == b.id) = true ∧ s.homePoison line0 0x1000 (s.lineLen line0) = false ∧
      inFlight t d = true ∧ t.open_ line15 = true ∧ t.capAcc d = true ∧ t.elPoison line15 el = false := by
  decide +kernel

/-- HomeSteps: a line that another core's access meets, one on its way home, one in a write-through basin, one without owner. -/
theorem test_clauses_recall :
    let a : Access := { access .load .device line0 word0 with core := 1 }
    let own : Home := ⟨line0, [], false, 3, 9, some 0, 0, false⟩
    let x : L1Line := ⟨line0, 0x1000, [(0x1000, 7)], 5, 0, 9, true, false, 0⟩
    let s := cached a (.load 8 4 false) x
    let t : State := { s with flow := { s.flow with homes := [own] } }
    let u : State := { t with tenants := t.tenants.map fun k => { k with basins := [⟨⟨0, 1, 8, 1, 0, 0, 1, 1, false⟩, none, false, false⟩] } }
    t.home? line0 = some own ∧ t.flow.accs.any (fun y => y.cls == .device && y.key == line0 && y.core != 0) = true ∧
      t.through line0 = false ∧ u.through line0 = true ∧ u.dev.poison = [] ∧
      ({ t.flow with wbs := [⟨line0, 0x1000, [], 5, 9⟩] } : Flow).wbs.any (·.key == line0) = true ∧
      (t.core 0).l1.filter (fun y => y.excl && y.key == line0) = [x] ∧ ({ own with owner := none } : Home).owner = none := by
  decide +kernel

/-- LoadedValues: an atomic's old value with the flags of its lane, plane bits with and without a scale, an enabled exception that a
lane raises and one that none does. -/
theorem test_clauses_arrivals :
    let s0 := flying (access .load .device line0 word0) .none
    let put := fun w : PendWord => { s0 with flow := { s0.flow with accs := [], words := [w] } }
    let w : PendWord := { pending (.atomic 8 4 true) with got := [(0, 0, [0, 0, 0x80, 0x7F])], flags := [(0, fNV)] }
    let p : PendWord := { pending (.planes 8 1 true) with got := [(0, 0, [0x80]), (0, 8, [7]), (0, 9, [0, 0xF0, 0x0F, 0])] }
    (put w).word? 60 = some w ∧ (put w).arrived w = true ∧ w.away = 0 ∧ (put p).word? 60 = some p ∧ (put p).arrived p = true ∧
      p.part 0 9 ≠ [] ∧ w.part 0 9 = [] ∧ inMask w.mask 0 = true ∧ inMask w.fails 0 = false ∧
      TrapOn 0x08 0 = true ∧ fNV.getLsbD 0 = true ∧ TrapOn 0 0 = false ∧
      ((w.flags.filter (·.1 == 0)).foldl (fun (a : Flags) x => a ||| x.2) 0).getLsbD 0 = true := by
  decide +kernel

/-- AtomicFunctionsAndStoredBytes, `fadd`: a quiet and a signalling NaN, and a subnormal. -/
theorem test_clauses_fadd :
    (f32.decode 0x7FC00001).isNan = true ∧ (f32.decode 0x7FC00001).isSig = false ∧ (f32.decode 0x7F800001).isSig = true ∧
      (f32.decode 0x3F800000).isNan = false ∧ f32.decode 0x7FFFFF = .fin false 0x7FFFFF (-149) ∧ 0x7FFFFF < 2 ^ 23 ∧
      (0 : BitVec 4) ≠ 1 := by
  decide +kernel

/-- SpecialFunctionBounds: a value whose results are not exact, of either sign of the logarithm and of the sine. -/
theorem test_clauses_SpecialFunctionBounds :
    (3 : Nat) ≠ 0 ∧ isInt 3 (-5) = false ∧ isInt 3 (-5 + 2) = false ∧ (∀ j, 3 ≠ 2 ^ j) ∧ (∀ P : Prop, ∃ neg : Bool, (neg = true ↔ P)) ∧
      (1 : Nat) < 255 * 2 ^ 23 ∧ (-126 : Int) ≤ -126 ∧ (-126 : Int) ≤ 127 := by
  refine ⟨by decide, by decide, by decide, fun j h => ?_, fun P => ?_, by decide, by decide, by decide⟩
  · rcases j with _ | j
    · simp at h
    · rw [pow_succ] at h; omega
  · by_cases h : P
    · exact ⟨true, by simp [h]⟩
    · exact ⟨false, by simp [h]⟩

/-- ControlRegisters: pending writes of every kind; a window write with a dying arena alone, one to an empty window in the cistern. -/
theorem test_clauses_csr_writes :
    let s := wit (.sysNop ⟨false, 0⟩)
    (∀ n ∈ [0x010, 0x011, 0x048, 0x049, 0x04D, 0x04E, 0x04F, 0x055, 0x064, 0x000, (0x052 : BitVec 12)],
      (withCur s fun g => { g with csrw := some (n, 1) }).cur.csrw = some (n, 1)) ∧
    (∀ a ∈ [{ arena1 with dying := some ([], []) }], a.dying.isSome = true) ∧
      (s.tenants.find? (·.id == s.cur.tn)).map (fun t => decide (t.cistern.toNat + 0 ≤ 2 ^ 48)) = some true := by
  decide +kernel

/-- FutureAndMonitorWords: a slot whose bytes are poison; a line that is open for a put, empty and full. -/
theorem test_clauses_futures :
    let s := memState leaf0 (.futFget ⟨false, 1⟩ 8 12 0)
    let p : State := { s with dev := { s.dev with poison := [.hbm 0x1000] } }
    let f : State := { s with hbm := s.hbm.set 0x1008 1 }
    let slot := fun (s : State) => match s.xcheck s.cur (rqPlain true) 0x10000 16 with
      | .ok x => some (s.open_ x.key, (((s.recallNow x.key).slotBytes x).getD 8 0).getLsbD 0)
      | _ => none
    slot s = some (true, false) ∧ slot f = some (true, true) ∧ s.flow.accs = [] ∧
    (match p.xcheck p.cur (rqPlain false) 0x10000 16 with
      | .ok x => (((p.xuse p.cur [.ok x]).missed (p.onceAcc 1 x 16)).readWord p.cur x 16).map (·.2.2)
      | _ => none) = some (some Cause.poison) := by
  decide +kernel

/-- CopiesAndTilesLand and AccumulatorsAndStrokesAct: an element that was lost, a factor that is poison, a mask word. -/
theorem test_clauses_lost_elements :
    let map := [(16, locAt .host 15)]
    let x : Xfer := { moving (.tileIn 0 0 (tile1 16) [] map) with lost := [0x10000 / 128] }
    let s := engineState x.kind
    let e : State := { s with flow := { s.flow with xfers := [x] }, dev := { s.dev with poison := [.scratch 3 4] } }
    x.loses (locAt .host 15) 1 = true ∧ (e.tileRead x map (tile1 2) none false).2.lost = [0x10000] ∧
      e.spPoison 3 4 4 = true ∧ e.spPoison 3 0 4 = false ∧ (e.grp? 4).isSome = true ∧
      (∀ p ∈ e.cur.pend, p.1 ≠ .poison) ∧ 4 ≤ (tile1 18).stride := by
  decide +kernel

/-- FencesAndPrefetches, `mem.bpref`: at its end, a list of two lines, open and with room, and one that a word claims. -/
theorem test_clauses_basin_prefetch :
    let k1 : HomeKey := ⟨1, 0, 0x1080⟩
    let s := engineState (.bpref [(line0, 0), (k1, 0)])
    let b : Basin := ⟨⟨0, 1, 8, 0, 0, 0, 1, 1, false⟩, none, false, false⟩
    s.open_ line0 = true ∧ s.open_ k1 = true ∧ s.liveBasin 1 0 = some b ∧ s.flow.homes = [] ∧
      (s.setLines line0 b (b.bankOf false 0x1000)).length + 2 ≤ b.defn.ways ∧
      ({ s with flow := { s.flow with xfers := s.flow.xfers ++ [{ moving (.frames false [(1, 1)]) with id := 91, claims := [line0] }] } }
        : State).open_ line0 = false := by
  decide +kernel

/-- BasinWords: lines to move that are clean, and dirty without room; misplaced ranges; a basin prefetch that keeps a drop waiting. -/
theorem test_clauses_basins :
    let b0 : Basin := ⟨⟨0, 1, 0, 0, 0, 0, 1, 2, false⟩, some 1, false, false⟩
    let s0 := memState leaf0 (.sysNop ⟨false, 0⟩)
    let st := fun (dirty : Bool) => ({ s0 with tenants := s0.tenants.map fun t => { t with basins := [b0] },
                                               flow := { s0.flow with homes := [⟨line0, [], dirty, 3, 9, none, 0, true⟩] } } : State)
    let w := withCur s0 fun g => (g.setS 8 0).setS 9 0x10000
    (st true).liveBasin 1 0 = some b0 ∧ ((st true).home? line0).map (·.dirty) = some true ∧
      ((st false).home? line0).map (·.dirty) = some false ∧ (((st true).setLines line0 b0 (b0.bankOf false 0x1000)).filter
        fun y => y.key != line0).length = 0 ∧ b0.defn.ways = 0 ∧ 2 ^ 48 ≤ (w.cur.getS2 8).toNat ∧ (w.cur.getS 10).toNat = 0 ∧
      (engineState (.bpref [(line0, 0)])).flow.xfers.any (fun y => match y.kind with | .bpref ks => !ks.isEmpty | _ => false) = true ∧
      s0.imageWords 1 = [] := by
  decide +kernel

/-- WalkerWords: entries that a prefetch and a fetch wait on. -/
theorem test_clauses_walks :
    let w : Walk := ⟨0x55, 0x10, false, true, true, false, 15, true, false, [⟨4, none, false, none⟩, ⟨5, some 0x10000, true, none⟩]⟩
    let s0 := memState leaf0 (.tsysWqdone ⟨false, 1⟩ 8)
    let s : State := { s0 with cores := s0.cores.map fun k => { k with wq := [w] } }
    s.inService 0x55 = some w ∧ w.grps.find? (fun r => r.grp == 4) = some ⟨4, none, false, none⟩ ∧ w.stale = false := by
  decide +kernel

/-- RotationBinsAndSwaps and PlacementAndPools: a crew of a live tenant, a flagged offer that is placed, pools with and without room. -/
theorem test_clauses_pools :
    let s := pooled [{ poolEnt1 with first := true }] []
    ((pooled [] []).tenant 1).life = .live ∧ (s.offers 1 0).find? Offer.flagged = some (.fresh { poolEnt1 with first := true }) ∧
      (s.nextPlace 1 0).map (·.1) = some (.fresh { poolEnt1 with first := true }) ∧
      (pooled [poolEnt1] []).poolNodes 1 0 = [2] ∧ (pooled [] []).poolNodes 1 0 = [] := by
  decide +kernel

/-- NodesRetire: a node whose crews have all given up their cores. -/
theorem test_clauses_node_retires :
    let s : State := { placedState with crews := [] }
    let nd : Node := { s.node 2 with exited := 1 }
    nd.exited = nd.total ∧ (s.tenant 1).life = .live ∧ ∀ c ∈ s.crews, c.node ≠ nd.id := by
  decide +kernel

/-- ServiceSavesAndPreemption: a crew whose group a fault is charged to. -/
theorem test_clauses_charged_fault :
    let s := withCur placedState fun g => { g with charge := some (.protection, 5) }
    s.crewGroups 3 = [s.cur] ∧ s.cur.path.mask ≠ 0 ∧ s.cur.charge = some (.protection, 5) ∧ s.cur.mode = .u ∧
      Cause.protection.toUser = false ∧ placedState.cur.charge = none ∧ placedState.cur.sets = [] := by
  decide +kernel

/-- TeardownAndReturns, UsageRecords and ErrorsAndRetirement: a partition that stops with and without work in flight, a buffer with
room for a record and its signature and one without, distinct tenants. -/
theorem test_clauses_firmware :
    let st := fun (s : State) => ({ s with tenants := s.tenants.map fun t => { t with life := .stopping } } : State)
    let w := access .store .device line0 [⟨0, 0, 0x107C, 4, .store [1, 2, 3, 4]⟩]
    ((st placedState).tenant 1).life = .stopping ∧ (st placedState).flow.accs = [] ∧ (st placedState).flow.xfers = [] ∧
      (st placedState).flow.invs = [] ∧ (st (flying w .store)).flow.accs.any (·.tn == 1) = true ∧
      256 + 17120 ≤ ({ placedState.dev with recSize := 17376 } : Dev).recSize ∧
      ¬256 ≤ ({ placedState.dev with recSize := 255 } : Dev).recSize ∧ (placedState.tenants.map (·.id)).Nodup := by
  decide +kernel

/-- HostTranslations: an invalidation's accesses and words, and the page requests that a host allots (any number but 0 has room for one). -/
theorem test_clauses_host :
    let a : Access := { access .load .host ⟨1, 15, 0x1000⟩ word0 with hp := 5 }
    let s := flying a (.load 8 4 false)
    s.flow.accs.any (fun y => y.tn == 1 && y.cls == .host && y.hp == 5) = true ∧ 5 ≤ a.hp ∧ a.hp < 5 + 1 ∧ s.imageWords 1 = [] ∧
      (∀ n, 0 < n → 0 < min 512 n) ∧ ∀ n, ¬512 < min 512 n := by
  refine ⟨by decide +kernel, by decide, by decide, by decide +kernel, fun n h => by omega, fun n => by omega⟩

/-- IssueChecksAndEvents: lanes of the chain have left for flash data. -/
theorem test_clauses_left_lanes :
    ({ placedState with ctx := { placedState.ctx with leave := [(2, 60)] } } : State).ctx.leave ≠ [] := by
  decide +kernel

/-- MemoryWordsHeldOrFaulting and AddressChecks: a plane read that faults and one that waits, and an address that misses the TC in U
and in T1. -/
theorem test_clauses_checks :
    let s := memState 0x040000000000005F (.sysNop ⟨false, 0⟩)
    let n := memState leaf15 (.sysNop ⟨false, 0⟩)
    let t := { n.cur with mode := .t1 }
    firstOf (s.planeCheck s.cur 1 true 0x20000) = .walk ⟨0x20000, false, false, false, false, none⟩ ∧
    firstOf (n.planeCheck n.cur 1 true 0x10000) = .fail .formatMismatch 0x10000 ∧
    n.tcFind 0 1 true 0x20000 = none ∧ n.tcFind 0 1 false 0x30000 = none ∧ n.xfind n.cur false 0x30000 = none ∧
      (n.tenant 1).inCistern 0x30000 = false ∧ n.xcheck n.cur rqLoad 0x30000 4 = .walk ⟨0x30000, false, false, false, false, none⟩ ∧
      n.xcheck t rqLoad 0x30000 4 = .fail .cisternMiss 0x30000 := by
  decide +kernel

/-- LoadsPerform: an access of a plane read that performs in one step, and none of whose companions an engine word is. -/
theorem test_clauses_one_step :
    let a := access .load .device line0 word0
    let s := flying a (.planes 8 1 true)
    (WKind.planes 8 1 true).oneStep = true ∧ (WKind.load 8 4 false).oneStep = false ∧ s.acc? 50 = some a ∧
      (s.word? 60).map (·.kind.oneStep) = some true ∧ s.flow.xfers = [] ∧ a.isLoad = true ∧ s.flow.accs = [a] := by
  decide +kernel

/-- FutureAndMonitorWords: a put on a slot whose state word is poison. -/
theorem test_clauses_poisoned_put :
    let s := memState leaf0 (.futFput ⟨false, 1⟩ 8 12 0)
    let p : State := { s with dev := { s.dev with poison := [.hbm 0x1000] } }
    (match p.xcheck p.cur (rqPlain true) 0x10000 16 with
      | .ok x => some ((p.recallNow x.key).slotPoison x, p.open_ x.key)
      | _ => none) = some (true, true) := by
  decide +kernel

/-- AccumulatorAndStrokeWordsIssue: a list past the window, one with an index out of range, and one of indices and of no row. -/
theorem test_clauses_lists :
    let s := tileState (.mmag ⟨false, 1⟩ true true 3 3 3 7 15 3 0) 2
    let at_ := fun (bs : List (Nat × Byte)) => ({ s with cores := s.cores.map fun k => { k with sp := bs } } : State)
    (s.crew 3).scratch = 0x20000 ∧ s.listFault 0x1FF00 = none ∧ s.listFault 0x1FF01 = some (.spRange, 0x1FF01) ∧
      (at_ [(0, 0x80)]).listFault 0 = some (.tileBounds, 0) ∧ (at_ [(0, 0xFF), (1, 0xFF)]).listFault 0 = none ∧
      (at_ [(0, 0x7F)]).listFault 0 = none := by
  decide +kernel

/-- BasinWords, ArenaWords, FrameWords: no entry of a line waits for RECOVER; a basin without a bank; walk entries whose record is
refused. -/
theorem test_clauses_lost_entries :
    let s := placedState
    let l : State := { s with dev := { s.dev with poison := [.homeEntry line0] } }
    let e : State := { s with tenants := s.tenants.map fun t => { t with basins := [⟨⟨0, 1, 8, 0, 0, 0, 0, 0, false⟩, none, false, true⟩] } }
    let w : Waiter := ⟨4, some 0x10000, false, some (.spawnFootprint, 0x10000)⟩
    s.entryLost line0 = false ∧ l.entryLost line0 = true ∧ s.lostIn 1 [1] = false ∧ l.lostIn 1 [1] = true ∧ s.lostInBasin 1 0 = false ∧
      l.lostInBasin 1 0 = true ∧ ((e.tenant 1).basin? 0).map (·.defn.mask) = some 0 ∧
      (e.tenant 1).resizeCheck ⟨0, 1, 8, 0, 0, 0, 1, 1, false⟩ = none ∧ w.refused.isSome = true := by
  decide +kernel

/-- PlacementAndPools: two offers of one node that entered together stand by index; a resumed crew that another die steals. -/
theorem test_clauses_offers :
    let e : PoolEnt := { poolEnt1 with lo := 2, hi := 4 }
    let s := pooled [{ e with lo := 4, hi := 8 }, e] []
    let r : Resumed := { resumed1 with die := 1 }
    let u : State := { pooled [] [r] with tenants := placedState.tenants.map fun t => { t with quads := [0, 11] } }
    s.offers 1 0 = [] ++ .fresh e :: [] ++ .fresh { e with lo := 4, hi := 8 } :: [] ∧
      u.offers 1 1 = [.back r] ∧ u.findSet 1 0 (u.need (.back r)) = some 0 ∧ (u.node r.image.crew.node).cap = none ∧
      u.nextPlace 1 0 = none := by
  decide +kernel

/-- NodesRetire: a future in an arena that is alive, one in an arena that is dead, and one outside the window. -/
theorem test_clauses_dead_future :
    let a : State := { placedState with tenants := placedState.tenants.map arenaTenant }
    a.deadTag 1 0x1000000040000 = false ∧ a.deadTag 1 0x2000000040000 = true ∧ a.deadTag 1 0x50000 = true ∧ a.deadTag 1 0x10000 = false := by
  decide +kernel

/-- ErrorsAndRetirement: a dirty line of a bank that a spare takes; a service group on a core of the quad. -/
theorem test_clauses_retirement :
    let h : Home := ⟨line0, [], true, 3, 9, none, 0, false⟩
    let s : State := { placedState with flow := { placedState.flow with homes := [h] } }
    let v := withCur placedState fun g => { g with role := .service }
    s.home? h.key = some h ∧ s.homesIn 0 = [line0] ∧ s.dev.poison = [] ∧ v.serviceOn (4 * 0 + 0) = some v.cur := by
  decide +kernel

/-- MailboxLinksAndPower: readings on the edges of each limit of R315. -/
theorem test_clauses_limits :
    let r : Readings := ⟨51300, 45, 1500, 0, [105]⟩
    r.within .input = true ∧ ({ r with input := 51299 } : Readings).within .input = false ∧
      ({ r with input := 56700 } : Readings).within .input = true ∧ ({ r with input := 56701 } : Readings).within .input = false ∧
      r.within .coolant = true ∧ ({ r with inlet := 46 } : Readings).within .coolant = false ∧
      ({ r with flow := 1499 } : Readings).within .coolant = false ∧ r.within .junction105 = true ∧
      ({ r with junction := [106] } : Readings).within .junction105 = false ∧
      ({ r with junction := [115] } : Readings).within .junction115 = true ∧
      ({ r with junction := [116] } : Readings).within .junction115 = false ∧
      ({ Dev.reset with health := { Health.reset with outFor := 1250000 } } : Dev).passed.2 = [.input] := by
  decide +kernel

/-! ## Hypotheses of the statements on the whole machine -/

/-- MemoryFormKept: a state with memory listed, from which a step answers. -/
theorem test_witness_MemoryFormKept :
    let s := State.reset.withFetchWord 32 (wordOf (.viaAdd ⟨false, 0⟩ 7 8 (.reg 9))).toNat
    MemoryOk s ∧ s.hbm ≠ [] ∧ (match step s with | .next _ => true | _ => false) = true := by
  unfold MemoryOk
  decide +kernel

/-- StepRunsDecoded: a turn of a core whose oldest group runs one word; events, a cycle, a module that is off. -/
theorem test_witness_StepRunsDecoded :
    let s := State.reset.withFetchWord 32 (wordOf (.viaAdd ⟨false, 0⟩ 7 8 (.reg 9))).toNat
    let s0 := { s with agenda := [] }
    s.agenda = [.issue 0] ∧ s.dev.power = true ∧ s0.pickable 0 = [s.cur] ∧
    (match (s0.select s.cur.id).ready with
      | .chain s1 [(j, i)] _ pkt => s1.cur.lowestPend == none && ((s0.core 0).fits (infosOf [(j, i)])).isSome && j == 0 &&
          (match exec i (s1.settleOwed.atWord (pktOf s1.cur.path.pc) pkt j (pcPast (pktOf s1.cur.path.pc) pkt j)) with
            | .next u => !u.ctx.stalled | _ => false)
      | _ => false) = true ∧
    info (.rotation 4) = none ∧ (match exec (.rotation 4) s0 with | .next _ => true | _ => false) = true ∧
    (info (.sysNop ⟨false, 0⟩)).isSome = true ∧ (Turn.cycle).powersOn = false ∧
      ({ State.reset with dev := { Dev.reset with power := false } } : State).agenda = [] := by
  decide +kernel

/-- ExecutionAlwaysAnswers: a word whose checks fail, and one that passes with its guard false in every lane. -/
theorem test_witness_ExecutionAlwaysAnswers :
    let i := Instr.viaAdd ⟨false, 7⟩ 63 8 (.reg 9)
    (info i).map (fun f => issueFault f (withCur (wit i) fun g => { g with budget := 63 })) = some (some .regBudget) ∧
    (info i).map (fun f => (issueFault f (wit i), (wit i).cur.active &&& (withCur (wit i) fun g => { g with g := [] }).cur.getG f.guard)) =
      some (none, 0) := by
  decide +kernel

/-- UserModeConfined: a word of mode U that answers, a write to a control register of mode U, and an entry to T1. -/
theorem test_witness_UserModeConfined :
    let i := Instr.csrWrsrs ⟨false, 0⟩ 4 0 0x10
    let b := Instr.tsysInvAll ⟨false, 0⟩
    let u := withCur (wit b) fun g => { g with mode := .u }
    ready i (wit i) = true ∧ (wit i).cur.mode = .u ∧ (match exec i (wit i) with | .next t => t.cur.csrw.isSome | _ => false) = true ∧
      (info b).isSome = true ∧ u.cur.mode = .u ∧ (match exec b u with | .next t => t.cur.mode == .t1 | _ => false) = true := by
  decide +kernel

/-- DecodeAndEncodeAgree: a word without and one with a literal, and a decoded word. -/
theorem test_witness_DecodeAndEncodeAgree :
    let i := Instr.viaAdd ⟨true, 3⟩ 7 8 (.reg 9)
    let l := Instr.viaAdd ⟨false, 0⟩ 7 8 (.lit 5)
    i.wf = true ∧ encode i = [wordOf i] ∧ l.wf = true ∧ encode l = [wordOf l, 5] ∧ decodeWord (wordOf l) 5 = some l := by
  decide +kernel

/-! ## Single steps with the manual's own values -/

/-- The examples of R126, R158 and R127 to R132: whole words that the manual prints, and base words. -/
theorem test_decode_printed_words :
    decodeWord 0x00C1FFFC 0 = some (.wait ⟨false, 0⟩ 0 31 31 31) ∧ decodeWord 0x00C1F07C 0 = some (.wait ⟨false, 0⟩ 0 31 0 31) ∧
    decodeWord 0x00940000 0 = some (.ctlReform ⟨false, 0⟩) ∧ decodeWord 0x01000000 0 = some (.viaAdd ⟨false, 0⟩ 0 0 (.reg 0)) ∧
    decodeWord 0x01400000 0 = some (.vilAnd ⟨false, 0⟩ 0 0 (.reg 0)) ∧ decodeWord 0x01C00000 0 = some (.addi ⟨false, 0⟩ 0 0 0) ∧
    decodeWord 0x03C00000 0 = some (.movi ⟨false, 0⟩ 0 0) ∧ decodeWord 0x09800008 0 = some (.musSet ⟨false, 0⟩ 1 0) := by
  decide +kernel

/-- v(n) of lane 0 after a word that read v7 = d, v8 = a and v10 = b there. -/
noncomputable def got (i : Instr) (d a b : Word) (n : Nat) : Option Word :=
  match exec i (withCur (wit i) fun g => ((g.putV 7 0 d).putV 8 0 a).putV 10 0 b) with
  | .next t => some (t.cur.getV n 0)
  | _ => none

/-- R127: a wrap, both high products, both minima, abs of the most negative number, the count of zeros of zero. -/
theorem test_via_values :
    let h : Hdr := ⟨false, 0⟩
    got (.viaAdd h 7 8 (.reg 10)) 0 0xFFFFFFFF 2 7 = some 1 ∧ got (.viaSub h 7 8 (.reg 10)) 0 1 2 7 = some 0xFFFFFFFF ∧
    got (.viaMulh h 7 8 (.reg 10)) 0 0xFFFFFFFF 2 7 = some 0xFFFFFFFF ∧ got (.viaMulhn h 7 8 (.reg 10)) 0 0xFFFFFFFF 2 7 = some 1 ∧
    got (.viaMad h 7 8 (.reg 10)) 5 3 4 7 = some 17 ∧ got (.viaMin h 7 8 (.reg 10)) 0 0x80000000 1 7 = some 0x80000000 ∧
    got (.viaMinn h 7 8 (.reg 10)) 0 0x80000000 1 7 = some 1 ∧ got (.viaAbs h 7 8) 0 0x80000000 0 7 = some 0x80000000 ∧
    got (.viaClz h 7 8) 0 0 0 7 = some 32 ∧ got (.viaPopc h 7 8) 0 0xF0F0 0 7 = some 8 := by
  decide +kernel

/-- R127: the carry and the borrow of a pair. -/
theorem test_via_pairs :
    let h : Hdr := ⟨false, 0⟩
    got (.viaAddc h 6 8 (.reg 10)) 0 0xFFFFFFFF 1 6 = some 0 ∧ got (.viaAddc h 6 8 (.reg 10)) 0 0xFFFFFFFF 1 7 = some 1 ∧
    got (.viaSubc h 6 8 (.reg 10)) 0 0 1 7 = some 0xFFFFFFFF := by
  decide +kernel

/-- R128, R129, R131, R132: counts of 32 and 63, a field cut at bit 31, an insert, a byte select, immediates. -/
theorem test_vil_values :
    let h : Hdr := ⟨false, 0⟩
    got (.vilAndn h 7 8 (.reg 10)) 0 0xFF 0x0F 7 = some 0xF0 ∧ got (.vilShl h 7 8 (.reg 10)) 0 1 32 7 = some 0 ∧
    got (.vilShr h 7 8 (.reg 10)) 0 0x80000000 0x5F 7 = some 1 ∧ got (.vilSra h 7 8 (.reg 10)) 0 0x80000000 63 7 = some 0xFFFFFFFF ∧
    got (.vilRotl h 7 8 (.reg 10)) 0 0x80000001 33 7 = some 3 ∧ got (.vilBrev h 7 8) 0 1 0 7 = some 0x80000000 ∧
    got (.vilBfx h 7 8 (.reg 10)) 0 0x000000F0 (4 + 32 * 4) 7 = some 0xFFFFFFFF ∧
    got (.vilBfxn h 7 8 (.reg 10)) 0 0xF0000000 (28 + 32 * 31) 7 = some 0xF ∧
    got (.vilBfi h 7 8 (.reg 10)) 0xFFFFFFFF 0x5 (4 + 32 * 4) 7 = some 0xFFFFFF5F ∧
    got (.vilBsel h 7 8 (.reg 10)) 0 0x11223384 0x211B 7 = some 0x84330000 ∧
    got (.addi h 7 8 0x3FF) 0 0 0 7 = some 0xFFFFFFFF ∧ got (.srai h 7 8 31) 0 0x80000000 0 7 = some 0xFFFFFFFF ∧
    got (.movi h 7 0x8000) 0 0 0 7 = some 0xFFFF8000 ∧ got (.movhi h 7 0x1234) 0x55556666 0 0 7 = some 0x12346666 := by
  decide +kernel

/-- Floating values: 1 + 2, 1.5 · 1.5 + 1, NaN from 0 · infinity as the canonical NaN, 2 / 0, a conversion that saturates. -/
theorem test_float_values :
    let h : Hdr := ⟨false, 0⟩
    got (.vfFadd h 7 8 (.reg 10)) 0 0x3F800000 0x40000000 7 = some 0x40400000 ∧
    got (.vfFfma h 7 8 (.reg 10)) 0x3F800000 0x3FC00000 0x3FC00000 7 = some 0x40500000 ∧
    got (.vfFmul h 7 8 (.reg 10)) 0 0 0x7F800000 7 = some 0x7FC00000 ∧
    got (.sfuFdiv h 7 8 10) 0 0x40000000 0 7 = some 0x7F800000 ∧ got (.cvtI32F32 h 7 8) 0 0x7F800000 0 7 = some 0x7FFFFFFF ∧
    got (.cvtF32I32 h 7 8) 0 0xFFFFFFFF 0 7 = some 0xBF800000 ∧ got (.cvtF16F32 h 7 8) 0 0x3F800000 0 7 = some 0x3C00 := by
  decide +kernel

/-- A step fetches and runs the placed word, and the path goes to the next word of its packet (R34, R72). -/
theorem test_step_runs_movi :
    (match step (State.reset.withFetchWord 32 0x03C7002A) with
      | .next t => some (t.cur.getV 7 0, t.cur.path.pc)
      | _ => none) = some (0x2A, 0x10001) := by
  decide +kernel

/-- From reset nothing is placed, and time passes. -/
theorem test_step_from_reset :
    (match step State.reset with | .next t => some t.dev.cycle | _ => none) = some 1 := by
  rfl

end Sys2Proof.Tests
end

section
/-!
The memories of a state, and one rule for each operation of the model that leaves them alone: `State.f_mems` says that `f`
does, in the order of the model's files. Where both sides are the same by definition the proof is `(rfl)`: the parentheses keep `simp`
from taking the rule as one of unfolding, so that it can prove the premise of `State.foldl_mems` with it.
-/

namespace Sys2Proof.Machine

/-- The bytes of every memory of the module. -/
structure Mems where
  hbm   : Memory
  host  : Memory
  peers : List (Nat × Memory)
  flash : Memory

/-- What the module holds of memories outside HBM, beside given HBM. -/
def Dev.mems (d : Dev) (hbm : Memory) : Mems := ⟨hbm, d.host, d.peers, d.flash⟩

/-- The memories of a state. -/
def State.mems (s : State) : Mems := s.dev.mems s.hbm

/-- Every memory is in canonical form: addresses rise, and no entry holds the value of an unlisted address. -/
def Mems.Ok (m : Mems) : Prop :=
  SMap.wf m.hbm = true ∧ SMap.wf m.host = true ∧ SMap.wf m.flash = true ∧ ∀ p ∈ m.peers, SMap.wf p.2 = true

theorem memoryOk_iff (s : State) : MemoryOk s ↔ s.mems.Ok := Iff.rfl

@[simp] theorem State.mems_mk (dev : Dev) (hbm : Memory) (flow : Flow) (tenants : List Tenant) (nodes : List Node)
    (pool : List PoolEnt) (resumed : List Resumed) (crews : List Crew) (cores : List Core) (cur : Group)
    (groups : List Group) (ctx : Ctx) (agenda : List Turn) (fresh free : Nat) :
    State.mems ⟨dev, hbm, flow, tenants, nodes, pool, resumed, crews, cores, cur, groups, ctx, agenda, fresh, free⟩ =
      dev.mems hbm := rfl

@[simp] theorem State.dev_mems (s : State) : s.dev.mems s.hbm = s.mems := rfl

/-- A fold of operations that leave the memories alone leaves them alone. -/
@[simp] theorem State.foldl_mems {α : Type} (f : State → α → State) (hf : ∀ s x, (f s x).mems = s.mems)
    (l : List α) (s : State) : (l.foldl f s).mems = s.mems := by
  induction l generalizing s with
  | nil => rfl
  | cons x l ih => rw [List.foldl_cons, ih, hf]

@[simp] theorem State.ite_mems (c : Prop) [Decidable c] (s t : State) :
    (if c then s else t).mems = if c then s.mems else t.mems := apply_ite State.mems c s t

@[simp] theorem State.onDev_mems (s : State) (f : Dev → Dev) : (s.onDev f).mems = (f s.dev).mems s.hbm := rfl

@[simp] theorem Dev.addPoison_mems (d : Dev) (p : Place) (m : Memory) : (d.addPoison p).mems m = d.mems m := by
  unfold Dev.addPoison; split <;> rfl

@[simp] theorem Dev.dropPoison_mems (d : Dev) (p : Place) (m : Memory) : (d.dropPoison p).mems m = d.mems m := (rfl)

@[simp] theorem Dev.overwritten_mems (d : Dev) (a n : Nat) (m : Memory) :
    (d.overwritten a n).mems m = d.mems m := (rfl)

@[simp] theorem State.mems_eta (s : State) : (⟨s.hbm, s.dev.host, s.dev.peers, s.dev.flash⟩ : Mems) = s.mems := rfl

/-! ## Parts of the state -/

@[simp] theorem State.mapCore_mems (s : State) (n : Nat) (f : Core → Core) : (s.mapCore n f).mems = s.mems := by
  simp [State.mapCore]

@[simp] theorem State.mapTenant_mems (s : State) (id : Nat) (f : Tenant → Tenant) :
    (s.mapTenant id f).mems = s.mems := (rfl)

@[simp] theorem State.mapCrew_mems (s : State) (id : Nat) (f : Crew → Crew) : (s.mapCrew id f).mems = s.mems :=
  (rfl)

@[simp] theorem State.mapNode_mems (s : State) (id : Nat) (f : Node → Node) : (s.mapNode id f).mems = s.mems :=
  (rfl)

@[simp] theorem State.mapGrp_mems (s : State) (id : Nat) (f : Group → Group) : (s.mapGrp id f).mems = s.mems :=
  (rfl)

@[simp] theorem State.mapGrps_mems (s : State) (f : Group → Group) : (s.mapGrps f).mems = s.mems := (rfl)

@[simp] theorem State.onCur_mems (s : State) (f : Group → Group) : (s.onCur f).mems = s.mems := (rfl)

@[simp] theorem State.onFlow_mems (s : State) (f : Flow → Flow) : (s.onFlow f).mems = s.mems := (rfl)

@[simp] theorem State.emit_mems (s : State) (o : Out) : (s.emit o).mems = s.mems := (rfl)

@[simp] theorem State.meter_mems (s : State) (tn idx n : Nat) : (s.meter tn idx n).mems = s.mems := (rfl)

@[simp] theorem State.stopChain_mems (s : State) : (s.stopChain).mems = s.mems := (rfl)

@[simp] theorem State.stallWord_mems (s : State) : (s.stallWord).mems = s.mems := (rfl)

@[simp] theorem State.stallChain_mems (s : State) : (s.stallChain).mems = s.mems := (rfl)

@[simp] theorem State.blockPast_mems (s : State) (c : Cond) : (s.blockPast c).mems = s.mems := (rfl)

@[simp] theorem State.blockAt_mems (s : State) (c : Cond) : (s.blockAt c).mems = s.mems := (rfl)

@[simp] theorem State.blockLanes_mems (s : State) (m : Mask) (c : Cond) (past : Bool) (owed : List Nat) :
    (s.blockLanes m c past owed).mems = s.mems := (rfl)

@[simp] theorem State.addRecord_mems (s : State) (tn kind : Nat) (code : BitVec 8) (reason : BitVec 16)
    (core : Nat) (pc : DWord) : (s.addRecord tn kind code reason core pc).mems = s.mems := (rfl)

@[simp] theorem State.haltTenant_mems (s : State) (tn : Nat) (c : Cause) (reason : BitVec 16) (core : Nat)
    (pc : DWord) : (s.haltTenant tn c reason core pc).mems = s.mems := (rfl)

@[simp] theorem State.enterT1_mems (s : State) (c : Cause) (val pc : DWord) :
    (s.enterT1 c val pc).mems = s.mems := (rfl)

@[simp] theorem State.enterT2_mems (s : State) (c : Cause) (val pc : DWord) :
    (s.enterT2 c val pc).mems = s.mems := (rfl)

@[simp] theorem State.enterU_mems (s : State) (c : Cause) (val pc : DWord) : (s.enterU c val pc).mems = s.mems :=
  (rfl)

@[simp] theorem State.deliver_mems (s : State) (c : Cause) (val pc : DWord) :
    (s.deliver c val pc).mems = s.mems := by
  unfold State.deliver
  dsimp only
  split
  · simp
  · split <;> simp

@[simp] theorem State.fault_mems (s : State) (c : Cause) (val : DWord) : (s.fault c val).mems = s.mems := by
  simp [State.fault]

@[simp] theorem State.faultFree_mems (s : State) (c : Cause) : (s.faultFree c).mems = s.mems := by
  simp [State.faultFree]

@[simp] theorem State.event_mems (s : State) (tn : Nat) (c : Cause) (val : DWord) :
    (s.event tn c val).mems = s.mems := by
  unfold State.event
  split <;> rfl

@[simp] theorem State.settle_mems (s : State) : (s.settle).mems = s.mems := (rfl)

@[simp] theorem State.complete_mems (s : State) (grp : Nat) (c : Counter) : (s.complete grp c).mems = s.mems :=
  (rfl)

/-! ## Floating flags -/

@[simp] theorem State.floatWrite_mems (s : State) (m : Mask) (f : Nat → Flags) (whole : Bool) (w : Group → Group) :
    (s.floatWrite m f whole w).mems = s.mems := by simp [State.floatWrite]

/-! ## Control registers -/

@[simp] theorem State.csrPerform_mems (s : State) (grp : Nat) (n : BitVec 12) (x : Word) :
    (s.csrPerform grp n x).mems = s.mems := by
  unfold State.csrPerform
  dsimp only
  split <;> simp

@[simp] theorem State.csrCommit_mems (s : State) (grp : Nat) : (s.csrCommit grp).mems = s.mems := by
  unfold State.csrCommit
  split <;> simp

/-! ## Translation -/

@[simp] theorem State.tcPut_mems (s : State) (core : Nat) (x : Xent) : (s.tcPut core x).mems = s.mems := by
  simp [State.tcPut]

@[simp] theorem State.stcPut_mems (s : State) (tn : Nat) (x : Xent) : (s.stcPut tn x).mems = s.mems := (rfl)

@[simp] theorem State.xtouch_mems (s : State) (g : Group) (va : Nat) : (s.xtouch g va).mems = s.mems := by
  unfold State.xtouch
  split <;> simp

@[simp] theorem State.walkAsk_mems (s : State) (g : Group) (r : WalkReq) : (s.walkAsk g r).mems = s.mems := by
  simp [State.walkAsk]

@[simp] theorem State.atsAsk_mems (s : State) (g : Group) (write : Bool) (page vpn : Nat) :
    (s.atsAsk g write page vpn).mems = s.mems := (rfl)

@[simp] theorem State.xask_mems (s : State) (g : Group) (rs : List XRes) : (s.xask g rs).mems = s.mems := by
  refine State.foldl_mems _ (fun s r => ?_) rs s
  split
  · simp
  · split <;> simp
  · rfl

@[simp] theorem State.xuse_mems (s : State) (g : Group) (rs : List XRes) : (s.xuse g rs).mems = s.mems := by
  simp [State.xuse]

@[simp] theorem State.xfill_mems (s : State) (g : Group) (rs : List XRes) : (s.xfill g rs).mems = s.mems := by
  simp [State.xfill]

@[simp] theorem State.xstall_mems (s : State) (rs : List XRes) : (s.xstall rs).mems = s.mems := by
  simp [State.xstall]

/-! ## Homes and L1 lines -/

@[simp] theorem State.mapHome_mems (s : State) (k : HomeKey) (f : Home → Home) : (s.mapHome k f).mems = s.mems :=
  (rfl)

@[simp] theorem State.raiseSum_mems (s : State) (tn bs bank w r : Nat) :
    (s.raiseSum tn bs bank w r).mems = s.mems := (rfl)

@[simp] theorem State.mapL1_mems (s : State) (core : Nat) (f : List L1Line → List L1Line) :
    (s.mapL1 core f).mems = s.mems := by simp [State.mapL1]

@[simp] theorem State.poisonHome_mems (s : State) (core : Nat) (x : L1Line) :
    (s.poisonHome core x).mems = s.mems := by simp [State.poisonHome]

@[simp] theorem State.l1Drop_mems (s : State) (core : Nat) (x : L1Line) : (s.l1Drop core x).mems = s.mems := by
  simp [State.l1Drop]

@[simp] theorem State.l1Put_mems (s : State) (core : Nat) (x : L1Line) : (s.l1Put core x).mems = s.mems := by
  unfold State.l1Put
  dsimp only
  split
  · split
    · simp
    · split <;> simp
  · split
    · simp
    · split <;> simp

@[simp] theorem State.l1Touch_mems (s : State) (core : Nat) (x : L1Line) : (s.l1Touch core x).mems = s.mems := by
  simp [State.l1Touch]

@[simp] theorem State.dropCopies_mems (s : State) (p : L1Line → Bool) : (s.dropCopies p).mems = s.mems := (rfl)

@[simp] theorem State.spWrite_mems (s : State) (crew o : Nat) (bs : List Byte) :
    (s.spWrite crew o bs).mems = s.mems :=
  State.foldl_mems _ (fun _ _ => State.mapCore_mems ..) _ s

/-! ## Capture -/

@[simp] theorem State.record_mems (s : State) (nd : Nat) (e : CapEvent) : (s.record nd e).mems = s.mems := by
  unfold State.record
  split <;> simp

@[simp] theorem State.capDo_mems (s : State) (g : Group) (place seq : Nat) :
    (s.capDo g place seq).mems = s.mems := by
  unfold State.capDo
  dsimp only
  split <;> simp

@[simp] theorem State.capPage_mems (s : State) (g : Group) (cls : Cls) (k : HomeKey) (pa vpn : Nat) :
    (s.capPage g cls k pa vpn).mems = s.mems := by
  unfold State.capPage
  dsimp only
  split
  · split
    · simp
    · split
      · split <;> simp
      · simp
  · simp

/-! ## Accesses -/

@[simp] theorem State.mapWord_mems (s : State) (id : Nat) (f : PendWord → PendWord) :
    (s.mapWord id f).mems = s.mems := (rfl)

@[simp] theorem State.joinGrp_mems (s : State) (grp t : Nat) : (s.joinGrp grp t).mems = s.mems := (rfl)

@[simp] theorem State.catchUp_mems (s : State) (grp tn : Nat) : (s.catchUp grp tn).mems = s.mems := (rfl)

@[simp] theorem State.raiseNodes_mems (s : State) (p : Signal → Bool) (t : Nat) :
    (s.raiseNodes p t).mems = s.mems := (rfl)

@[simp] theorem State.storeDone_mems (s : State) (wd : Nat) : (s.storeDone wd).mems = s.mems := by
  unfold State.storeDone
  split
  · split
    · simp
    · split <;> simp
  · simp

@[simp] theorem State.finishAcc_mems (s : State) (a : Access) (got : List (Nat × Nat × List Byte))
    (bad : El → Bool) : (s.finishAcc a got bad).mems = s.mems := by
  unfold State.finishAcc
  split <;> simp

@[simp] theorem State.capLoad_mems (s : State) (a : Access) : (s.capLoad a).mems = s.mems := by
  unfold State.capLoad
  split <;> simp

@[simp] theorem State.capAccDo_mems (s : State) (a : Access) : (s.capAccDo a).mems = s.mems := by
  unfold State.capAccDo
  split
  · simp
  · split <;> simp

@[simp] theorem State.renewCopy_mems (s : State) (core : Nat) (k : HomeKey) (h : Home) (t c : Nat) :
    (s.renewCopy core k h t c).mems = s.mems := by
  unfold State.renewCopy
  split <;> simp

@[simp] theorem State.updateCopies_mems (s : State) (a : Access) (src : SMap 8) (wts : Nat) :
    (s.updateCopies a src wts).mems = s.mems := by simp [State.updateCopies]

@[simp] theorem State.atomicInL1_mems (s : State) (a : Access) : (s.atomicInL1 a).mems = s.mems := by
  simp [State.atomicInL1]

@[simp] theorem State.dataFor_mems (s : State) (wd : Nat) : (s.dataFor wd).mems = s.mems := (rfl)

@[simp] theorem State.flashWake_mems (s : State) (wd : Nat) : (s.flashWake wd).mems = s.mems := by
  simp [State.flashWake]

@[simp] theorem State.settleOne_mems (s : State) (t : Nat) : (s.settleOne t).mems = s.mems := by
  unfold State.settleOne
  split <;> simp

@[simp] theorem State.settleOwed_mems (s : State) : (s.settleOwed).mems = s.mems := by simp [State.settleOwed]

/-! ## Memory words -/

@[simp] theorem State.issueWord_mems (s : State) (kind : WKind) (ctr : Option Counter) (ak : AKind) (m : Mask)
    (got : List (Nat × Nat × List Byte)) (ps : List Part) : (s.issueWord kind ctr ak m got ps).mems = s.mems :=
  (rfl)

@[simp] theorem State.oweLoad_mems (s : State) (t : Nat) (issued : Bool) : (s.oweLoad t issued).mems = s.mems := by
  simp [State.oweLoad]

/-! ## Barriers, rings, futures and monitors -/

@[simp] theorem State.arm_mems (s : State) (ea : DWord) (x : Loc) (c : MonCond) (v w : Word) :
    (s.arm ea x c v w).mems = s.mems := (rfl)

@[simp] theorem State.signalFor_mems (s : State) (grp : Nat) (k : SigKind) : (s.signalFor grp k).mems = s.mems :=
  (rfl)

@[simp] theorem State.signal_mems (s : State) (k : SigKind) : (s.signal k).mems = s.mems := (rfl)

@[simp] theorem State.mapBar_mems (s : State) (crew n : Nat) (f : Barrier → Barrier) :
    (s.mapBar crew n f).mems = s.mems := (rfl)

@[simp] theorem State.completeBar_mems (s : State) (crew n : Nat) : (s.completeBar crew n).mems = s.mems := by
  simp [State.completeBar]

@[simp] theorem State.barWait_mems (s : State) (n : BitVec 4) : (s.barWait n).mems = s.mems := by
  simp [State.barWait]

@[simp] theorem State.setMuster_mems (s : State) (n : BitVec 3) (c : Nat) : (s.setMuster n c).mems = s.mems := by
  simp [State.setMuster]

@[simp] theorem State.mapRing_mems (s : State) (crew n : Nat) (f : Ring → Ring) :
    (s.mapRing crew n f).mems = s.mems := (rfl)

@[simp] theorem State.serveRing_mems (s : State) (crew : Nat) (q : BitVec 3) (fuel : Nat) :
    (s.serveRing crew q fuel).mems = s.mems := by
  induction fuel generalizing s with
  | zero => rfl
  | succ n ih =>
    unfold State.serveRing
    dsimp only
    split
    · simp
    · split
      · simp [ih]
      · split <;> simp [ih]

@[simp] theorem State.settleStage_mems (s : State) (crew : Nat) (q : BitVec 3) (i : Nat) :
    (s.settleStage crew q i).mems = s.mems := by simp [State.settleStage]

@[simp] theorem State.dropSignal_mems (s : State) (id : Nat) : (s.dropSignal id).mems = s.mems := (rfl)

/-! ## Copies -/

@[simp] theorem State.attach_mems (s : State) (x : Xfer) : (s.attach x).mems = s.mems := by
  unfold State.attach
  dsimp only
  split <;> split <;> simp

@[simp] theorem State.launch_mems (s : State) (x : Xfer) : (s.launch x).mems = s.mems := by simp [State.launch]

@[simp] theorem State.mapImages_mems (s : State) (f : Image → Image) : (s.mapImages f).mems = s.mems := (rfl)

@[simp] theorem State.retire_mems (s : State) (x : Xfer) (ts : Nat) (cancelled : Bool) :
    (s.retire x ts cancelled).mems = s.mems := by
  unfold State.retire
  dsimp only
  split <;> split <;> split <;> simp

@[simp] theorem State.cancel_mems (s : State) (x : Xfer) : (s.cancel x).mems = s.mems := by simp [State.cancel]

@[simp] theorem State.meterReads_mems (s : State) (x : Xfer) (ls : List (Loc × Nat)) :
    (s.meterReads x ls).mems = s.mems := by
  unfold State.meterReads
  rw [State.meter_mems, State.foldl_mems]
  intro s l
  split <;> rfl

@[simp] theorem State.loseRead_mems (s : State) (grp : Nat) : (s.loseRead grp).mems = s.mems := (rfl)

/-! ## Tiles -/

@[simp] theorem State.listPoison_mems (s : State) (o n : Nat) : (s.listPoison o n).mems = s.mems := by
  unfold State.listPoison
  split <;> rfl

/-! ## Accumulators and strokes -/

@[simp] theorem State.mapEng_mems (s : State) (core : Nat) (f : Engine → Engine) :
    (s.mapEng core f).mems = s.mems := by simp [State.mapEng]

@[simp] theorem State.pendFactor_mems (s : State) (x : Xfer) (os : List Nat) :
    (s.pendFactor x os).mems = s.mems := by
  unfold State.pendFactor
  split <;> rfl

@[simp] theorem State.pendPoison_mems (s : State) (x : Xfer) : (s.pendPoison x).mems = s.mems := (rfl)

@[simp] theorem State.strokeDone_mems (s : State) (x : Xfer) (f : Signed) : (s.strokeDone x f).mems = s.mems := by
  unfold State.strokeDone
  split <;> simp

@[simp] theorem State.issueStroke_mems (s : State) (f : Signed) : (s.issueStroke f).mems = s.mems := (rfl)

/-! ## Nodes and arenas -/

@[simp] theorem State.enterNode_mems (s : State) (nd : Node) (die : Nat) : (s.enterNode nd die).mems = s.mems :=
  (rfl)

@[simp] theorem State.staleWalks_mems (s : State) (tn lo hi : Nat) : (s.staleWalks tn lo hi).mems = s.mems := (rfl)

@[simp] theorem State.dropXlat_mems (s : State) (tn lo hi : Nat) (pins : Bool) :
    (s.dropXlat tn lo hi pins).mems = s.mems := (rfl)

@[simp] theorem State.killArena_mems (s : State) (tn : Nat) (a : Arena) : (s.killArena tn a).mems = s.mems := by
  simp [State.killArena]

@[simp] theorem State.capKeep_mems (s : State) (nd : Node) : (s.capKeep nd).mems = s.mems := by
  unfold State.capKeep
  split
  · split <;> rfl
  · rfl

/-! ## Basins -/

@[simp] theorem State.raiseAll_mems (s : State) (tn bs die : Nat) (mask : BitVec 64) :
    (s.raiseAll tn bs die mask).mems = s.mems := by simp [State.raiseAll]

@[simp] theorem State.defBasin_mems (s : State) (tn : Nat) (r : BasinRec) : (s.defBasin tn r).mems = s.mems := by
  simp [State.defBasin]

@[simp] theorem State.mapBasin_mems (s : State) (tn bs : Nat) (f : Basin → Basin) :
    (s.mapBasin tn bs f).mems = s.mems := (rfl)

@[simp] theorem State.fitTables_mems (s : State) (tn bs : Nat) : (s.fitTables tn bs).mems = s.mems := by
  simp [State.fitTables]

@[simp] theorem State.replace_mems (s : State) (tn bs : Nat) (mask : BitVec 64) (count : Nat) :
    (s.replace tn bs mask count).mems = s.mems := by
  unfold State.replace
  split <;> simp

@[simp] theorem State.resizeDone_mems (s : State) (tn bs : Nat) : (s.resizeDone tn bs).mems = s.mems := by
  unfold State.resizeDone
  dsimp only
  split
  · simp
  · split <;> simp

@[simp] theorem State.unhook_mems (s : State) (tn bs : Nat) : (s.unhook tn bs).mems = s.mems := (rfl)

@[simp] theorem State.raiseMoved_mems (s : State) (tn bs : Nat) (frames : List Nat) (w r : Nat) :
    (s.raiseMoved tn bs frames w r).mems = s.mems := by
  unfold State.raiseMoved
  split <;> simp

/-! ## Control -/

@[simp] theorem State.split_mems (s : State) (P : Mask) (t : Nat → DWord) (hint : Nat) :
    (s.split P t hint).mems = s.mems := by simp [State.split]

@[simp] theorem State.redirect_mems (s : State) (P : Mask) (t : Nat → DWord) (hint : Nat) (link : Group → Group) :
    (s.redirect P t hint link).mems = s.mems := by
  unfold State.redirect
  split <;> simp

@[simp] theorem State.trapReturn_mems (s : State) (t : Tag) (target : DWord) :
    (s.trapReturn t target).mems = s.mems := by simp [State.trapReturn]

/-! ## Invalidation and walks -/

@[simp] theorem State.invHold_mems (s : State) (lo hi : Nat) : (s.invHold lo hi).mems = s.mems := (rfl)

@[simp] theorem State.endWalk_mems (s : State) (w : Walk) : (s.endWalk w).mems = s.mems := by simp [State.endWalk]

@[simp] theorem State.postWalk_mems (s : State) (w : Walk) (c : Cause) : (s.postWalk w c).mems = s.mems := by
  simp [State.postWalk]

@[simp] theorem State.throttleEnd_mems (s : State) (tn vpn : Nat) : (s.throttleEnd tn vpn).mems = s.mems := (rfl)

@[simp] theorem State.install_mems (s : State) (w : Walk) (leaf : DWord) (level : Nat) (tp : Bool) :
    (s.install w leaf level tp).mems = s.mems := by simp [State.install]

@[simp] theorem State.wqdoneLane_mems (s : State) (d l : Nat) : (s.wqdoneLane d l).mems = s.mems := by
  unfold State.wqdoneLane
  split <;> simp

@[simp] theorem State.postLane_mems (s : State) (d l : Nat) : (s.postLane d l).mems = s.mems := by
  unfold State.postLane
  split <;> simp

@[simp] theorem State.frameWork_mems (s : State) (copy : Bool) (fs : List (Nat × Nat)) :
    (s.frameWork copy fs).mems = s.mems := by simp [State.frameWork]

/-! ## Placement -/

@[simp] theorem State.decided_mems (s : State) (nd : Nat) (e : CapEvent) : (s.decided nd e).mems = s.mems := by
  unfold State.decided
  split <;> simp

@[simp] theorem State.ownEngines_mems (s : State) (crew : Nat) (cores : List Nat) :
    (s.ownEngines crew cores).mems = s.mems := by simp [State.ownEngines]

@[simp] theorem State.placeNew_mems (s : State) (e : PoolEnt) (base : Nat) : (s.placeNew e base).mems = s.mems := by
  simp [State.placeNew]

@[simp] theorem State.placeBack_mems (s : State) (r : Resumed) (base : Nat) :
    (s.placeBack r base).mems = s.mems := by simp [State.placeBack]

@[simp] theorem State.stealHalf_mems (s : State) (e : PoolEnt) (die : Nat) : (s.stealHalf e die).mems = s.mems := by
  simp [State.stealHalf]

@[simp] theorem State.stealBack_mems (s : State) (r : Resumed) (die : Nat) : (s.stealBack r die).mems = s.mems := by
  simp [State.stealBack]

@[simp] theorem State.endGroup_mems (s : State) (g : Group) : (s.endGroup g).mems = s.mems := by
  simp [State.endGroup]

@[simp] theorem State.dropGroup_mems (s : State) (g : Group) : (s.dropGroup g).mems = s.mems := (rfl)

@[simp] theorem State.leaveCores_mems (s : State) (crew : Nat) : (s.leaveCores crew).mems = s.mems := (rfl)

@[simp] theorem State.crewExit_mems (s : State) (c : Crew) : (s.crewExit c).mems = s.mems := (rfl)

@[simp] theorem State.crewLeave_mems (s : State) (c : Crew) : (s.crewLeave c).mems = s.mems := (rfl)

@[simp] theorem State.reap_mems (s : State) : (s.reap).mems = s.mems := by simp [State.reap]

/-! ## Services and saves -/

@[simp] theorem State.forgive_mems (s : State) (crew : Nat) : (s.forgive crew).mems = s.mems := by
  simp [State.forgive]

@[simp] theorem State.select_mems (s : State) (id : Nat) : (s.select id).mems = s.mems := by
  unfold State.select
  split
  · simp
  · split <;> simp

@[simp] theorem State.takeCharge_mems (s : State) : (s.takeCharge).mems = s.mems := by
  unfold State.takeCharge
  split <;> simp

@[simp] theorem State.chargeFirst_mems (s : State) (id : Nat) : (s.chargeFirst id).mems = s.mems := by
  simp [State.chargeFirst]

@[simp] theorem State.stopCrew_mems (s : State) (id : Nat) : (s.stopCrew id).mems = s.mems := by
  unfold State.stopCrew
  dsimp only
  split <;> simp

@[simp] theorem State.answer_mems (s : State) (cmd res : String) : (s.answer cmd res).mems = s.mems := (rfl)

@[simp] theorem State.preempt_mems (s : State) (tn : Nat) (crews : List Nat) :
    (s.preempt tn crews).mems = s.mems := by simp [State.preempt]

@[simp] theorem State.startService_mems (s : State) (g : Group) (pc : DWord) :
    (s.startService g pc).mems = s.mems := by simp [State.startService]

@[simp] theorem State.endHandler_mems (s : State) (id : Nat) : (s.endHandler id).mems = s.mems := (rfl)

@[simp] theorem State.unsealed_mems (s : State) (x : Sealed) : (s.unsealed x).mems = s.mems := (rfl)

/-! ## Chains -/

@[simp] theorem State.atWord_mems (s : State) (base : DWord) (pkt : List Word) (j : Nat) (next : DWord) :
    (s.atWord base pkt j next).mems = s.mems := (rfl)

@[simp] theorem State.begin_mems (s : State) : (s.begin_).mems = s.mems := by simp [State.begin_]

@[simp] theorem State.badWord_mems (s : State) (j : Nat) (c : Cause) (w : Word) :
    (s.badWord j c w).mems = s.mems := by simp [State.badWord]

@[simp] theorem State.deliverPend_mems (s : State) (e : Cause × DWord) : (s.deliverPend e).mems = s.mems := by
  simp [State.deliverPend]

@[simp] theorem State.finish_mems (s : State) (age : Nat) : (s.finish age).mems = s.mems := (rfl)

@[simp] theorem State.noIssue_mems (s : State) : (s.noIssue).mems = s.mems := (rfl)

@[simp] theorem State.picked_mems (s : State) (g : Group) (got : List Pipe) (rs : List (Nat × Nat))
    (further : Bool) : (s.picked g got rs further).mems = s.mems := by simp [State.picked]

/-! ## The host -/

@[simp] theorem State.mapReq_mems (s : State) (id : Nat) (f : HostReq → HostReq) :
    (s.mapReq id f).mems = s.mems := (rfl)

@[simp] theorem State.endReq_mems (s : State) (id : Nat) : (s.endReq id).mems = s.mems := (rfl)

@[simp] theorem State.priAsk_mems (s : State) (r : HostReq) : (s.priAsk r).mems = s.mems := by simp [State.priAsk]

@[simp] theorem State.hostPut_mems (s : State) (r : HostReq) (hpa : Nat) (w : Bool) :
    (s.hostPut r hpa w).mems = s.mems := by
  unfold State.hostPut
  dsimp only
  split <;> simp

@[simp] theorem State.atsDone_mems (s : State) (id : Nat) (ans : AtsAnswer) : (s.atsDone id ans).mems = s.mems := by
  unfold State.atsDone
  split
  · simp
  · split
    · simp
    · split
      · simp
      · split <;> simp

@[simp] theorem State.priDone_mems (s : State) (id : Nat) (ok : Bool) : (s.priDone id ok).mems = s.mems := by
  unfold State.priDone
  dsimp only
  split
  · simp
  · split
    · simp
    · split <;> simp

@[simp] theorem State.sweep_mems (s : State) : (s.sweep).mems = s.mems := (rfl)

@[simp] theorem State.addService_mems (s : State) (tn core : Nat) : (s.addService tn core).mems = s.mems := by
  simp [State.addService]

@[simp] theorem State.endPart_mems (s : State) (tn : Nat) : (s.endPart tn).mems = s.mems := (rfl)

@[simp] theorem State.fwHalt_mems (s : State) (tn : Nat) (code : BitVec 13) : (s.fwHalt tn code).mems = s.mems := by
  simp [State.fwHalt]

@[simp] theorem State.inspect_mems (s : State) (tn : Nat) : (s.inspect tn).mems = s.mems := by simp [State.inspect]

@[simp] theorem State.winError_mems (s : State) : (s.winError).mems = s.mems := (rfl)

@[simp] theorem State.limitCycle_mems (s : State) : (s.limitCycle).mems = s.mems := (rfl)

@[simp] theorem State.attest_mems (s : State) (fn : Nat) (nonce : BitVec 256) :
    (s.attest fn nonce).mems = s.mems := by
  unfold State.attest
  split <;> simp

/-! ## Errors and retirement -/

@[simp] theorem State.onHealth_mems (s : State) (f : Health → Health) : (s.onHealth f).mems = s.mems := (rfl)

@[simp] theorem State.advise_mems (s : State) (die : Nat) : (s.advise die).mems = s.mems := by simp [State.advise]

@[simp] theorem State.rearmIn_mems (s : State) (bank : Nat) : (s.rearmIn bank).mems = s.mems := (rfl)

@[simp] theorem State.floorBase_mems (s : State) (tn bs : Nat) : (s.floorBase tn bs).mems = s.mems := (rfl)

/-! ## The bookkeeping of a turn -/

@[simp] theorem State.tidyGroups_mems (s : State) : (s.tidyGroups).mems = s.mems := (rfl)

@[simp] theorem State.lateWrites_mems (s : State) : (s.lateWrites).mems = s.mems := by simp [State.lateWrites]

@[simp] theorem State.meterCycle_mems (s : State) (t : Tenant) : (s.meterCycle t).mems = s.mems := (rfl)

@[simp] theorem State.endCycle_mems (s : State) : (s.endCycle).mems = s.mems := by simp [State.endCycle, Dev.mems]

end Sys2Proof.Machine
end

section
/-!
The operations that may write a memory: `State.f_ok` says that `f` keeps the canonical form of every memory, and
`State.f_kept` says it of the state that `f` answers when its condition holds.
-/

namespace Sys2Proof.Machine

/-! ## Sparse memories -/

theorem SMap.wf_foldl {α : Type} {w : Nat} (f : SMap w → α → SMap w)
    (hf : ∀ m x, SMap.wf m = true → SMap.wf (f m x) = true) (l : List α) (m : SMap w) (h : SMap.wf m = true) :
    SMap.wf (l.foldl f m) = true :=
  List.foldlRecOn l f h fun m hm x _ => hf m x hm

theorem SMap.wf_copyRange {w : Nat} (m src : SMap w) (lo hi : Nat) (h : SMap.wf m = true) :
    SMap.wf (m.copyRange src lo hi) = true :=
  SMap.wf_foldl _ (fun m e hm => SMap.wf_set m e.1 e.2 hm) _ _ (SMap.wf_clear m lo hi h)

theorem wf_writeEls (m : SMap 8) (els : List El) (src : SMap 8) (h : SMap.wf m = true) :
    SMap.wf (writeEls m els src) = true :=
  SMap.wf_foldl _ (fun m e hm => SMap.wf_setList m e.pa _ hm) _ _ h

theorem wf_runAtoms (els : List El) (m : SMap 8) (h : SMap.wf m = true) : SMap.wf (runAtoms els m).mem = true := by
  refine List.foldlRecOn (motive := fun r : AtomRun => SMap.wf r.mem = true) els _ h fun r hr e _ => ?_
  split
  · exact SMap.wf_setList _ _ _ hr
  · exact SMap.wf_setList _ _ _ hr
  · exact hr

theorem wf_storeEls (m : SMap 8) (els : List El) (h : SMap.wf m = true) : SMap.wf (storeEls m els) = true :=
  wf_runAtoms els m h

/-! ## The memories of a state -/

/-- Memories that an operation leaves alone keep their form. -/
theorem Mems.Ok.of_eq {m n : Mems} (h : n.Ok) (hm : m = n) : m.Ok := hm ▸ h

theorem State.wf_hbm {s : State} (h : s.mems.Ok) : SMap.wf s.hbm = true := h.1

theorem State.wf_host {s : State} (h : s.mems.Ok) : SMap.wf s.dev.host = true := h.2.1

theorem State.wf_peer {s : State} (h : s.mems.Ok) (p : Nat × Memory) (hp : p ∈ s.dev.peers) :
    SMap.wf p.2 = true := h.2.2.2 p hp

theorem State.wf_peerMem {s : State} (d : Nat) (h : s.mems.Ok) : SMap.wf (s.peerMem d) = true := by
  unfold State.peerMem
  cases hp : s.dev.peers.find? (·.1 == d) with
  | none => rfl
  | some p => exact State.wf_peer h p (List.mem_of_find?_eq_some hp)

/-- HBM replaced by canonical bytes. -/
@[simp] theorem State.setHbm_ok (s : State) (m : Memory) (h : s.mems.Ok) (hm : SMap.wf m = true) :
    (s.dev.mems m).Ok :=
  ⟨hm, h.2⟩

theorem State.setHost_ok (s : State) (m : Memory) (h : s.mems.Ok) (hm : SMap.wf m = true) :
    (⟨s.hbm, m, s.dev.peers, s.dev.flash⟩ : Mems).Ok := ⟨h.1, hm, h.2.2⟩

theorem State.foldl_ok {α : Type} (f : State → α → State) (hf : ∀ s x, s.mems.Ok → (f s x).mems.Ok) (l : List α)
    (s : State) (h : s.mems.Ok) : (l.foldl f s).mems.Ok :=
  List.foldlRecOn (motive := fun s : State => s.mems.Ok) l f h fun s hs x _ => hf s x hs

@[simp] theorem Mems.ite_ok (c : Prop) [Decidable c] (a b : Mems) :
    (if c then a else b).Ok ↔ (c → a.Ok) ∧ (¬c → b.Ok) := by
  split <;> simp [*]

@[simp] theorem Dev.foldl_mems {α : Type} (f : Dev → α → Dev) (hf : ∀ d x m, (f d x).mems m = d.mems m)
    (l : List α) (d : Dev) (m : Memory) : (l.foldl f d).mems m = d.mems m := by
  induction l generalizing d with
  | nil => rfl
  | cons x l ih => rw [List.foldl_cons, ih, hf]

/-! ## Operations that answer a state or nothing -/

/-- A property of the value that an option holds. -/
def OnSome {α : Type} (p : α → Prop) : Option α → Prop
  | none => True
  | some x => p x

@[simp] theorem onSome_none {α : Type} (p : α → Prop) : OnSome p none := trivial

@[simp] theorem onSome_some {α : Type} (p : α → Prop) (x : α) : OnSome p (some x) ↔ p x := Iff.rfl

theorem OnSome.bind {α β : Type} {p : β → Prop} {o : Option α} {f : α → Option β} (h : ∀ x, OnSome p (f x)) :
    OnSome p (o.bind f) := by
  cases o with
  | none => trivial
  | some x => exact h x

theorem OnSome.map {α β : Type} {p : β → Prop} {o : Option α} {f : α → β} (h : ∀ x, p (f x)) :
    OnSome p (o.map f) := by
  cases o with
  | none => trivial
  | some x => exact h x

/-- The memories of the state that a step may answer stand in the canonical form. -/
abbrev Kept (o : Option State) : Prop := OnSome (fun t => t.mems.Ok) o

/-- The memories of a state that is answered beside other data stand in canonical form. -/
abbrev StateKept {α : Type} (o : Option (State × α)) : Prop := OnSome (fun r => r.1.mems.Ok) o

theorem OnSome.getD {α : Type} {p : α → Prop} {o : Option α} {d : α} (ho : OnSome p o) (hd : p d) :
    p (o.getD d) := by
  cases o with
  | none => exact hd
  | some x => exact ho

theorem Kept.getD {o : Option State} {s : State} (ho : Kept o) (h : s.mems.Ok) : (o.getD s).mems.Ok :=
  OnSome.getD (p := fun t : State => t.mems.Ok) ho h

theorem OnSome.orElse {α : Type} {p : α → Prop} {o : Option α} {o' : Unit → Option α} (ho : OnSome p o)
    (ho' : OnSome p (o' ())) : OnSome p (o.orElse o') := by
  cases o with
  | none => exact ho'
  | some x => exact ho

theorem OnSome.of_eq {α : Type} {p : α → Prop} {o : Option α} {x : α} (ho : OnSome p o) (hx : o = some x) :
    p x := by
  subst hx; exact ho

theorem OnSome.bind_of {α β : Type} {q : α → Prop} {p : β → Prop} {o : Option α} {f : α → Option β}
    (ho : OnSome q o) (h : ∀ x, q x → OnSome p (f x)) : OnSome p (o.bind f) := by
  cases o with
  | none => trivial
  | some x => exact h x ho

theorem OnSome.map_of {α β : Type} {q : α → Prop} {p : β → Prop} {o : Option α} {f : α → β} (ho : OnSome q o)
    (h : ∀ x, q x → p (f x)) : OnSome p (o.map f) := by
  cases o with
  | none => trivial
  | some x => exact h x ho

theorem Kept.map {o : Option State} {f : State → State} (ho : Kept o) (hf : ∀ t, t.mems.Ok → (f t).mems.Ok) :
    Kept (o.map f) :=
  OnSome.map_of ho hf

theorem OnSome.ite {α : Type} {p : α → Prop} {c : Prop} [Decidable c] {o o' : Option α} (h : c → OnSome p o)
    (h' : ¬c → OnSome p o') : OnSome p (if c then o else o') := by
  split
  · next hc => exact h hc
  · next hc => exact h' hc

/-- An answer that a check guards. -/
theorem OnSome.guard {α : Type} {p : α → Prop} {c : Prop} [Decidable c] {o : Option α} (h : c → OnSome p o) :
    OnSome p (if c then o else none) := OnSome.ite h fun _ => trivial

/-- An answer that a refusal precedes. -/
theorem OnSome.unless {α : Type} {p : α → Prop} {c : Prop} [Decidable c] {o : Option α} (h : ¬c → OnSome p o) :
    OnSome p (if c then none else o) := OnSome.ite (fun _ => trivial) h

theorem OnSome.findSome {α β : Type} {p : β → Prop} {f : α → Option β} (h : ∀ x, OnSome p (f x)) (l : List α) :
    OnSome p (l.findSome? f) := by
  cases hr : l.findSome? f with
  | none => trivial
  | some y =>
    obtain ⟨x, _, hx⟩ := List.exists_of_findSome?_eq_some hr
    exact (h x).of_eq hx

/-- The state of a command that is carried out. -/
def OnOk : Except String State → Prop
  | .ok t => t.mems.Ok
  | .error _ => True

theorem OnOk.of_eq {r : Except String State} {t : State} (hr : OnOk r) (ht : r = .ok t) : t.mems.Ok := by
  subst ht; exact hr

/-! ## Operations that answer a state beside other data -/

/-- A fold that carries a state beside other data. -/
theorem foldl_fst_mems {α β : Type} (f : State × β → α → State × β) (hf : ∀ r x, (f r x).1.mems = r.1.mems)
    (l : List α) (r : State × β) : (l.foldl f r).1.mems = r.1.mems := by
  induction l generalizing r with
  | nil => rfl
  | cons x l ih => rw [List.foldl_cons, ih, hf]

@[simp] theorem State.capRemote_mems (s : State) (g : Group) (seq addr : Nat) (v : List Byte) :
    (s.capRemote g seq addr v).1.mems = s.mems := by
  unfold State.capRemote
  dsimp only
  split
  · split
    · split <;> simp
    · simp
  · simp

@[simp] theorem State.capOld_mems (s : State) (g : Group) (q : QEnt) (got : List (Nat × Nat × List Byte)) :
    (s.capOld g q got).1.mems = s.mems :=
  foldl_fst_mems _ (fun r x => by simp) _ _

@[simp] theorem State.remoteGot_mems (s : State) (a : Access) (m : Memory) : (s.remoteGot a m).1.mems = s.mems := by
  unfold State.remoteGot
  split
  · rfl
  · exact foldl_fst_mems _ (fun r x => by simp) _ _

@[simp] theorem State.capWord_mems (s : State) (g : Group) (seq : Nat) (l : Loc) (bs : List Byte) :
    (s.capWord g seq l bs).1.mems = s.mems := by
  unfold State.capWord
  split <;> simp

@[simp] theorem State.remoteBytes_mems (s : State) (x : Xfer) (l : Loc) (bs : List Byte) :
    (s.remoteBytes x l bs).1.mems = s.mems := by
  unfold State.remoteBytes
  split <;> simp

/-! ## Operations that go on in a function -/

theorem State.xone_ok (s : State) (rs : List XRes) (go : List Loc → State → State) (h : s.mems.Ok)
    (hgo : ∀ ls t, t.mems.Ok → (go ls t).mems.Ok) : (s.xone rs go).mems.Ok := by
  unfold State.xone
  split
  · simp [h]
  · simp [h]
  · split
    · simp [h]
    · exact hgo _ _ (by simp [h])

theorem State.xword_ok (s : State) (owed : List Nat) (rs : List (Nat × List XRes))
    (go : List (Nat × List Loc) → State → State) (h : s.mems.Ok) (hgo : ∀ ls t, t.mems.Ok → (go ls t).mems.Ok) :
    (s.xword owed rs go).mems.Ok := by
  unfold State.xword
  extract_lets flat held s1 ready
  split
  · simp [h]
  · simp [h]
  · have h1 : s1.mems.Ok := by simp [s1, h]
    split
    · exact h1
    · exact hgo _ _ h1

theorem State.memWord_ok (s : State) (ctr : Counter) (P : Mask) (chk : Nat → List XRes)
    (go : Mask → List (Nat × List Loc) → State → State) (h : s.mems.Ok)
    (hgo : ∀ m ls t, t.mems.Ok → (go m ls t).mems.Ok) : (s.memWord ctr P chk go).mems.Ok := by
  unfold State.memWord
  split
  · simp [h]
  · extract_lets s1
    have h1 : s1.mems.Ok := State.xword_ok s _ _ _ h fun ls t ht => hgo _ _ _ ht
    simp [h1]

theorem State.arrive_ok (s : State) (n : BitVec 4) (drop : Bool) (go : State → State) (h : s.mems.Ok)
    (hgo : ∀ t, t.mems.Ok → (go t).mems.Ok) : (s.arrive n drop go).mems.Ok := by
  unfold State.arrive
  extract_lets b
  split
  · simp [h]
  · split
    · simp [h]
    · exact hgo _ (by simp [h])

theorem State.tileCheck_ok (s : State) (k : TileWord) (n : Nat)
    (go : Option (List (BitVec 16)) → List (Nat × Loc) → State → State) (h : s.mems.Ok)
    (hgo : ∀ idx map t, t.mems.Ok → (go idx map t).mems.Ok) : (s.tileCheck k n go).mems.Ok := by
  unfold State.tileCheck
  extract_lets r num idx rs map area
  split
  · simp [h]
  · split
    · simp [h]
    · split
      · simp [h]
      · split
        · exact hgo _ _ _ h
        · refine State.xone_ok _ _ _ h fun ls t ht => ?_
          extract_lets cap
          split
          · simp [ht]
          · split
            · simp [ht]
            · exact hgo _ _ _ ht

/-! ## The ring of records in host memory -/

theorem Dev.ringPut_ok (s : State) (d : Dev) (bs : List Byte) (h : (d.mems s.hbm).Ok) :
    ((d.ringPut bs).mems s.hbm).Ok := by
  obtain ⟨h1, h2, h3⟩ := h
  refine ⟨h1, ?_, h3⟩
  exact SMap.wf_foldl _ (fun m b hm => SMap.wf_set m _ _ hm) _ _ h2

@[simp] theorem State.ringPut_ok (s : State) (bs : List Byte) (h : s.mems.Ok) :
    ((s.dev.ringPut bs).mems s.hbm).Ok :=
  Dev.ringPut_ok s s.dev bs h

/-! ## Homes and L1 lines -/

@[simp] theorem State.hbmWrite_ok (s : State) (tn pa : Nat) (bs : List Byte) (h : s.mems.Ok) :
    (s.hbmWrite tn pa bs).mems.Ok := by
  simp [State.hbmWrite, h, SMap.wf_setList _ _ _ (State.wf_hbm h)]

@[simp] theorem State.passOn_ok (s : State) (k : HomeKey) (back : List WriteBack) (h : s.mems.Ok) :
    (s.passOn k back).mems.Ok := by
  unfold State.passOn
  split
  · exact State.foldl_ok _ (fun s w hs => State.hbmWrite_ok s _ _ _ hs) _ _ h
  · simp [h]

@[simp] theorem State.recallAs_ok (s : State) (k : HomeKey) (keep : Bool) (h : s.mems.Ok) :
    (s.recallAs k keep).mems.Ok := by
  unfold State.recallAs
  split <;> simp [h]

@[simp] theorem State.recallNow_ok (s : State) (k : HomeKey) (h : s.mems.Ok) : (s.recallNow k).mems.Ok := by
  simp [State.recallNow, h]

@[simp] theorem State.writeOut_ok (s : State) (e : Home) (len : Nat) (h : s.mems.Ok) :
    (s.writeOut e len).mems.Ok := by
  unfold State.writeOut
  dsimp only
  split
  · rw [State.onDev_mems, Dev.foldl_mems _ fun d u m => Dev.addPoison_mems ..]
    simp [h]
  · simp [h]

@[simp] theorem State.evict_ok (s : State) (k : HomeKey) (keep : Bool) (h : s.mems.Ok) :
    (s.evict k keep).mems.Ok := by
  unfold State.evict
  dsimp only
  split
  · simp [h]
  · simp [h]
  · simp [h]

@[simp] theorem State.allocateFor_ok (s : State) (k : HomeKey) (write whole : Bool) (h : s.mems.Ok) :
    (s.allocateFor k write whole).mems.Ok := by
  unfold State.allocateFor
  split
  · simp [h]
  · split
    · simp [h]
    · rename_i b _
      extract_lets len bank set s1 unread low
      have h1 : s1.mems.Ok := by
        unfold s1
        split
        · exact h
        · split
          · exact State.evict_ok _ _ _ h
          · exact h
      dsimp only
      split
      · simp [h1]
      · split <;> simp [h1]

@[simp] theorem State.allocate_ok (s : State) (k : HomeKey) (h : s.mems.Ok) : (s.allocate k).mems.Ok := by
  simp [State.allocate, h]

@[simp] theorem State.noteWrite_ok (s : State) (k : HomeKey) (pa n wts : Nat) (h : s.mems.Ok) :
    (s.noteWrite k pa n wts).mems.Ok := by
  simp [State.noteWrite, h]

@[simp] theorem State.countAccess_ok (s : State) (core tn va : Nat) (h : s.mems.Ok) :
    (s.countAccess core tn va).mems.Ok := by
  unfold State.countAccess
  extract_lets t base at_
  split
  · exact h
  · split
    · exact h
    · extract_lets pa k s1
      have h1 : s1.mems.Ok := State.recallNow_ok s k h
      split
      · exact h
      · split
        · simp [h1, SMap.wf_set _ _ _ (State.wf_hbm h1)]
        · exact h

/-! ## Accesses -/

@[simp] theorem State.missed_ok (s : State) (a : Access) (h : s.mems.Ok) : (s.missed a).mems.Ok := by
  simp [State.missed, h]

@[simp] theorem State.noteEls_ok (s : State) (k : HomeKey) (els : List El) (wts : Nat) (h : s.mems.Ok) :
    (s.noteEls k els wts).mems.Ok :=
  State.foldl_ok _ (fun s x h => by simp [h]) _ _ h

theorem State.performLoad_kept (s : State) (a : Access) (h : s.mems.Ok) : Kept (s.performLoad a) := by
  unfold State.performLoad
  split
  · extract_lets s1 rd
    have h1 : s1.mems.Ok := State.foldl_ok _ (fun s c hs => by split <;> simp [hs]) _ _ h
    simp [h1]
  · trivial

@[simp] theorem State.fillSibling_ok (s : State) (core t : Nat) (k : HomeKey) (h : s.mems.Ok) :
    (s.fillSibling core t k).mems.Ok := by
  unfold State.fillSibling
  dsimp only
  split
  · simp [h]
  · split <;> simp [h]

theorem State.renew_kept (s : State) (a : Access) (h : s.mems.Ok) : Kept (s.renew a) := by
  unfold State.renew
  dsimp only
  split
  · split
    · trivial
    · simp [h]
  · trivial

theorem State.streamLoad_kept (s : State) (a : Access) (h : s.mems.Ok) : Kept (s.streamLoad a) := by
  unfold State.streamLoad
  dsimp only
  split
  · split <;> simp [h]
  · trivial

theorem State.prefetch_kept (s : State) (a : Access) (h : s.mems.Ok) : Kept (s.prefetch a) := by
  unfold State.prefetch
  dsimp only
  split
  · trivial
  · split
    · simp [h]
    · split
      · simp [h]
      · split <;> split <;> simp [h]

@[simp] theorem State.putHome_ok (s : State) (a : Access) (m : SMap 8) (wts : Nat) (rts : Nat) (h : s.mems.Ok) :
    (s.putHome a m wts rts).mems.Ok := by
  unfold State.putHome
  split
  · exact h
  · split
    · extract_lets s1 s2
      have h2 : s2.mems.Ok := by simp [s2, s1, h]
      split
      · simp [h2, wf_writeEls _ _ _ (State.wf_hbm h2)]
      · exact h2
    · simp [h, wf_writeEls _ _ _ (State.wf_hbm h)]

theorem State.performStore_kept (s : State) (a : Access) (h : s.mems.Ok) : Kept (s.performStore a) := by
  unfold State.performStore
  split
  · trivial
  · split
    · extract_lets s1 s2 old wts m s3
      have h1 : s1.mems.Ok := by simp [s1, h]
      have h2 : s2.mems.Ok := by simp [s2, h1]
      simp [s3, h2]
    · trivial

theorem State.baseDie_kept (s : State) (a : Access) (h : s.mems.Ok) : Kept (s.baseDie a) := by
  unfold State.baseDie
  refine OnSome.guard fun _ => ?_
  extract_lets s0
  have h0 : s0.mems.Ok := by simp [s0, h]
  dsimp only
  split
  · simp [h0]
  · rename_i t atom good run s1 _
    have h1 : s1.mems.Ok := by simp [s1, h0, wf_writeEls _ _ _ (State.wf_hbm h0)]
    simp [h1]

@[simp] theorem State.takeLine_ok (s : State) (a : Access) (h : s.mems.Ok) : (s.takeLine a).mems.Ok := by
  unfold State.takeLine
  dsimp only
  split <;> simp [h]

theorem State.performAtomic_kept (s : State) (a : Access) (excl : Bool) (h : s.mems.Ok) :
    Kept (s.performAtomic a excl) := by
  unfold State.performAtomic
  split
  · split
    · simp [h]
    · split
      · trivial
      · split
        · extract_lets s1
          have h1 : s1.mems.Ok := by simp [s1, h]
          simp [h1]
        · split
          · trivial
          · extract_lets s1
            have h1 : s1.mems.Ok := by simp [s1, h]
            dsimp only
            split <;> simp [h1]
  · trivial

theorem State.spAccess_kept (s : State) (a : Access) (h : s.mems.Ok) : Kept (s.spAccess a) := by
  unfold State.spAccess
  dsimp only
  split
  · split
    · refine (onSome_some _ _).2 ?_
      rw [State.finishAcc_mems, State.foldl_mems]
      · simp [h]
      · intro s e
        split
        · exact State.spWrite_mems ..
        · rfl
    · simp [h]
  · trivial

theorem State.enqueueHost_kept (s : State) (a : Access) (h : s.mems.Ok) : Kept (s.enqueueHost a) := by
  unfold State.enqueueHost
  split <;> simp [h]

theorem State.enqueuePeer_kept (s : State) (a : Access) (h : s.mems.Ok) : Kept (s.enqueuePeer a) := by
  unfold State.enqueuePeer
  split
  · split <;> simp [h]
  · trivial

@[simp] theorem State.setPeer_ok (s : State) (d : Nat) (m : Memory) (h : s.mems.Ok) (hm : SMap.wf m = true) :
    (s.setPeer d m).mems.Ok := by
  refine ⟨h.1, h.2.1, h.2.2.1, fun p hp => ?_⟩
  rcases List.mem_cons.1 hp with rfl | hp
  · exact hm
  · exact State.wf_peer h p (List.mem_filter.1 hp).1

theorem State.drainHost_kept (s : State) (grp : Nat) (h : s.mems.Ok) : Kept (s.drainHost grp) := by
  refine OnSome.bind fun g => ?_
  split
  · trivial
  · simp [State.setHost_ok, h, Dev.mems, wf_storeEls _ _ (State.wf_host h)]

theorem State.drainPeer_kept (s : State) (grp peer : Nat) (h : s.mems.Ok) : Kept (s.drainPeer grp peer) := by
  refine OnSome.bind fun g => OnSome.bind fun q => ?_
  split
  · trivial
  · simp [h, wf_runAtoms _ _ (State.wf_peerMem peer h)]

theorem State.readHost_kept (s : State) (a : Access) (h : s.mems.Ok) : Kept (s.readHost a) := by
  unfold State.readHost
  split <;> simp [h]

theorem State.readPeer_kept (s : State) (a : Access) (h : s.mems.Ok) : Kept (s.readPeer a) := by
  unfold State.readPeer
  split
  · split <;> simp [h]
  · trivial

theorem State.remoteError_kept (s : State) (id : Nat) (h : s.mems.Ok) : Kept (s.remoteError id) := by
  unfold State.remoteError
  split
  · refine OnSome.guard fun _ => ?_
    simp [h]
  · exact OnSome.map fun g => by simp [h]

theorem State.flashData_kept (s : State) (a : Access) (h : s.mems.Ok) : Kept (s.flashData a) := by
  unfold State.flashData
  split <;> simp [h]

theorem State.loadWriteback_kept (s : State) (w : PendWord) (h : s.mems.Ok) : Kept (s.loadWriteback w) := by
  unfold State.loadWriteback
  dsimp only
  split
  · trivial
  · split
    · trivial
    · split <;> simp [h]

theorem State.recall_kept (s : State) (k : HomeKey) (h : s.mems.Ok) : Kept (s.recall k) := by
  refine OnSome.bind fun x => ?_
  split <;> simp [h]

theorem State.tick_kept (s : State) (grp : Nat) (h : s.mems.Ok) : Kept (s.tick grp) := by
  refine OnSome.bind fun x => ?_
  split <;> simp [h]

theorem State.wakeMon_kept (s : State) (id : Nat) (h : s.mems.Ok) : Kept (s.wakeMon id) := by
  refine OnSome.bind fun m => OnSome.bind fun t => ?_
  split
  · simp [h]
  · split <;> simp [h]

theorem State.readWord_ok (s : State) (g : Group) (l : Loc) (n : Nat) (h : s.mems.Ok) :
    StateKept (s.readWord g l n) := by
  unfold State.readWord
  dsimp only
  split
  · split <;> simp [h]
  · split <;> simp [h]
  · split
    · simp [h]
    · split <;> simp [h]
  · simp [h]
  · simp [h]

@[simp] theorem State.renewWord_ok (s : State) (g : Group) (l : Loc) (h : s.mems.Ok) :
    (s.renewWord g l).mems.Ok := by
  unfold State.renewWord
  dsimp only
  split
  · simp [h]
  · split <;> simp [h]

@[simp] theorem State.countRead_ok (s : State) (g : Group) (l : Loc) (h : s.mems.Ok) :
    (s.countRead g l).mems.Ok := by
  simp [State.countRead, h]

theorem State.pollMon_kept (s : State) (id : Nat) (h : s.mems.Ok) : Kept (s.pollMon id) := by
  refine OnSome.bind fun m => ?_
  split
  · trivial
  · refine OnSome.bind fun g => ?_
    extract_lets mode h' gone
    split
    · simp [h]
    · rename_i l _
      have hr := State.readWord_ok ((s.xuse h' [.ok l]).countRead h' l) g l 4 (by simp [h])
      refine OnSome.bind_of hr fun r hr => ?_
      extract_lets p w s1
      have hp : p.1.mems.Ok := by
        unfold p
        split <;> simp [hr]
      have h1 : s1.mems.Ok := by
        unfold s1
        split <;> simp [hp]
      refine OnSome.ite (fun _ => OnSome.guard fun _ => ?_) fun _ => ?_
      · simp [h1]
      · simp [h1]
    · simp [h]

theorem State.recover_kept (s : State) (k : HomeKey) (h : s.mems.Ok) : Kept (s.recover k) := by
  unfold State.recover
  split
  · trivial
  · refine OnSome.unless fun _ => ?_
    extract_lets M die mine n back owners memory one bad data here drop s1 s2 s3 lost keep src sound s4
    have h4 : s4.mems = s.mems := by
      have hs : s4.mems = (if bad && k.bs != 15 then sound.addPoison (.basin k) else sound).mems s.hbm := rfl
      rw [hs]
      split
      · exact Dev.addPoison_mems ..
      · rfl
    simp [h4, h]

theorem State.loadAny_kept (s : State) (a : Access) (h : s.mems.Ok) : Kept (s.loadAny a) := by
  refine OnSome.orElse (State.performLoad_kept s a h) ?_
  refine OnSome.orElse (State.renew_kept s a h) ?_
  refine OnSome.orElse (State.streamLoad_kept s a h) ?_
  refine OnSome.orElse (State.baseDie_kept s a h) ?_
  refine OnSome.orElse (State.readHost_kept s a h) ?_
  exact OnSome.orElse (State.readPeer_kept s a h) (State.flashData_kept s a h)

theorem State.together_kept (f : State → Access → Option State) (hf : ∀ s a, s.mems.Ok → Kept (f s a)) (s : State)
    (a : Access) (h : s.mems.Ok) : Kept (State.together f s a) := by
  refine OnSome.bind_of (hf s a h) fun s1 h1 => ?_
  split
  · exact List.foldlRecOn (motive := Kept) _ _ h1 fun r hr b _ =>
      OnSome.bind_of hr fun t ht => State.loadAny_kept t b ht
  · exact h1

/-! ## Barriers, rings, futures and monitors -/

theorem State.readPieces_ok (P : Mask) (ps : List (DWord × Loc × Nat)) (s : State) (h : s.mems.Ok) :
    StateKept (State.readPieces P ps s) := by
  induction ps generalizing s with
  | nil => exact h
  | cons p t ih =>
    refine OnSome.bind_of (State.readWord_ok _ _ _ _ ?_) fun r hr => ?_
    · split <;> simp [h]
    · refine OnSome.map_of (ih _ ?_) fun q hq => hq
      split <;> simp [hr]

theorem State.readOnce_ok (s : State) (P : Mask) (ps : List (DWord × Loc × Nat)) (go : List Byte → State → State)
    (h : s.mems.Ok) (hgo : ∀ bs t, t.mems.Ok → (go bs t).mems.Ok) : (s.readOnce P ps go).mems.Ok := by
  unfold State.readOnce
  split
  · simp [h]
  · split
    · simp [h]
    · rename_i s1 bs bad hr
      have h1 : s1.mems.Ok := (State.readPieces_ok P ps s h).of_eq hr
      dsimp only
      split
      · simp [h1]
      · exact hgo _ _ (by simp [h1])

theorem State.takeSignal_kept (s : State) (x : Signal) (h : s.mems.Ok) : Kept (s.takeSignal x) := by
  unfold State.takeSignal
  split
  · trivial
  · split
    · trivial
    · split
      · trivial
      · extract_lets s0
        have h0 : s0.mems.Ok := by simp [s0, h]
        split
        · simp [h0]
        · simp [h0]
        · extract_lets s1
          have h1 : s1.mems.Ok := by simp [s1, h0]
          refine Kept.map ?_ fun t ht => by simp [ht]
          split
          · exact State.performStore_kept _ _ h1
          · exact State.baseDie_kept _ _ h1
        · simp [h0]

/-! ## Copies -/

@[simp] theorem State.recallAt_ok (s : State) (tn : Nat) (l : Loc) (n : Nat) (h : s.mems.Ok) :
    (s.recallAt tn l n).mems.Ok := by
  unfold State.recallAt
  split
  · exact State.foldl_ok _ (fun s k hs => State.recallNow_ok s k hs) _ _ h
  · exact h

@[simp] theorem State.landLine_ok (s : State) (x : Xfer) (k : HomeKey) (els : List El) (ts : Nat) (h : s.mems.Ok) :
    (s.landLine x k els ts).mems.Ok := by
  unfold State.landLine
  extract_lets a
  split
  · rename_i s1 s2 _ _
    have h1 : s1.mems.Ok := State.allocate_ok s k h
    have h2 : s2.mems.Ok := by simp [s2, h1, wf_storeEls _ _ (State.wf_hbm h1)]
    simp [h2]
  · refine State.noteEls_ok _ _ _ _ (State.putHome_ok _ _ _ _ _ ?_)
    simp [h]

@[simp] theorem State.landPieces_ok (s : State) (x : Xfer) (ps : List Piece) (h : s.mems.Ok) :
    (s.landPieces x ps).1.mems.Ok := by
  unfold State.landPieces
  extract_lets s0 ks ts s1 s2
  have h0 : s0.mems.Ok := State.foldl_ok _ (fun s p hs => State.recallAt_ok s _ _ _ hs) _ _ h
  have h1 : s1.mems.Ok := State.foldl_ok _ (fun s k hs => State.landLine_ok s _ _ _ _ hs) _ _ h0
  refine State.foldl_ok _ (fun s p hs => ?_) _ _ h1
  split
  · simp [hs]
  · split
    · simp [hs]
    · simp [State.setHost_ok, Dev.mems, hs, SMap.wf_setList _ _ _ (State.wf_host hs)]
  · split
    · simp [hs]
    · simp [hs, SMap.wf_setList _ _ _ (State.wf_peerMem _ hs)]
  · exact hs

@[simp] theorem State.countPlaces_ok (s : State) (x : Xfer) (ls : List Loc) (h : s.mems.Ok) :
    (s.countPlaces x ls).mems.Ok := by
  unfold State.countPlaces
  split
  · exact h
  · exact State.foldl_ok _ (fun s l hs => State.countAccess_ok s _ _ _ hs) _ _ h

theorem State.landCpy_kept (s : State) (x : Xfer) (size : Nat) (els : List CpyEl) (h : s.mems.Ok) :
    Kept (s.landCpy x size els) := by
  unfold State.landCpy
  refine OnSome.unless fun _ => ?_
  extract_lets s0
  have h0 : s0.mems.Ok := State.foldl_ok _ (fun s e hs => State.recallAt_ok s _ _ _ hs) _ _ h
  rw [onSome_some, State.retire_mems]
  refine State.landPieces_ok _ _ _ ?_
  rw [State.meterReads_mems]
  refine State.countPlaces_ok _ _ _ ?_
  rw [foldl_fst_mems]
  · exact h0
  · intro r e
    split <;> simp

theorem State.loseLine_kept (s : State) (x : Xfer) (h : s.mems.Ok) : Kept (s.loseLine x) := by
  refine OnSome.map fun x => ?_
  simp [h]

theorem State.bprefDone_kept (s : State) (x : Xfer) (h : s.mems.Ok) : Kept (s.bprefDone x) := by
  unfold State.bprefDone
  split
  · refine OnSome.unless fun _ => ?_
    simp only [onSome_some, State.retire_mems]
    refine State.foldl_ok _ (fun s k hs => ?_) _ _ h
    split <;> simp [hs]
  · trivial

/-! ## Tiles -/

@[simp] theorem State.tileFetch_ok (s : State) (x : Xfer) (src : TileSrc) (rs : List (DWord × Nat))
    (h : s.mems.Ok) : (s.tileFetch x src rs).1.mems.Ok := by
  unfold State.tileFetch
  extract_lets ps s0
  have h0 : s0.mems.Ok := State.foldl_ok _ (fun s p hs => State.recallAt_ok s _ _ _ hs) _ _ h
  rw [foldl_fst_mems]
  · exact h0
  · intro r p
    dsimp only
    split <;> simp

@[simp] theorem State.tileRead_ok (s : State) (x : Xfer) (map : List (Nat × Loc)) (r : TileRec)
    (idx : Option (List (BitVec 16))) (elide : Bool) (h : s.mems.Ok) :
    (s.tileRead x map r idx elide).1.mems.Ok := by
  unfold State.tileRead
  extract_lets sl a el b ls
  have hb : b.1.mems.Ok := State.tileFetch_ok _ _ _ _ (State.tileFetch_ok _ _ _ _ h)
  simp [hb]

theorem State.landTile_kept (s : State) (x : Xfer) (h : s.mems.Ok) : Kept (s.landTile x) := by
  unfold State.landTile
  split
  · refine OnSome.unless fun _ => ?_
    extract_lets q s2
    have hq : q.1.mems.Ok := State.tileRead_ok _ _ _ _ _ _ h
    have h2 : s2.mems.Ok := by
      unfold s2
      split
      · simp [hq]
      · simp [hq]
    simp [h2]
  · refine OnSome.unless fun _ => ?_
    extract_lets s1 ps l
    have h1 : s1.mems.Ok := by
      unfold s1
      split <;> simp [h]
    simp [l, h1]
  · simp [h]
  · trivial

/-! ## Accumulators and strokes -/

theorem State.taccAct_kept (s : State) (x : Xfer) (h : s.mems.Ok) : Kept (s.taccAct x) := by
  unfold State.taccAct
  refine OnSome.unless fun _ => ?_
  extract_lets e clean
  split
  · simp [h]
  · refine OnSome.unless fun _ => ?_
    simp [h]
  · split <;> simp [h]
  · split <;> simp [h]
  · split <;> simp [h]
  · refine OnSome.unless fun _ => ?_
    split
    · simp [h]
    · extract_lets s0 ps l
      have h0 : s0.mems.Ok := State.foldl_ok _ (fun s p hs => State.recallAt_ok s _ _ _ hs) _ _ h
      simp [l, h0]
  · trivial

theorem State.strokeAct_kept (s : State) (x : Xfer) (h : s.mems.Ok) : Kept (s.strokeAct x) := by
  unfold State.strokeAct
  dsimp only
  split
  · split
    · trivial
    · split <;> simp [h]
  · trivial

/-! ## Nodes and arenas -/

theorem State.storeOnce_kept (s : State) (P : Mask) (x : Loc) (bs : List Byte) (h : s.mems.Ok) :
    Kept (s.storeOnce P x bs) := by
  unfold State.storeOnce
  extract_lets src a s1
  refine OnSome.unless fun _ => ?_
  have h1 : s1.mems.Ok := State.recallNow_ok s _ h
  refine Kept.map ?_ fun t ht => by simp [ht]
  split
  · exact State.performStore_kept _ _ h1
  · exact State.baseDie_kept _ _ h1

@[simp] theorem State.taskFinish_ok (s : State) (P : Mask) (depth : Nat) (e : Nat) (va : DWord) (r : LaunchRec)
    (slot ext : Option Loc) (buf : List Loc) (h : s.mems.Ok) :
    (s.taskFinish P depth e va r slot ext buf).mems.Ok := by
  unfold State.taskFinish
  extract_lets nd arena done
  split
  · simp [h]
  · have hd : Kept done := by
      unfold done
      split
      · exact State.storeOnce_kept s _ _ _ h
      · exact h
    clear_value done
    split
    · simp [h]
    · rename_i s1
      have h1 : s1.mems.Ok := hd
      extract_lets s2 nd' own s3 s4
      have h2 : s2.mems.Ok := by
        unfold s2
        clear_value arena
        split <;> simp [h1]
      simp [s4, s3, h2]

@[simp] theorem State.taskRecord_ok (s : State) (P : Mask) (depth : Nat) (e : Nat) (va : DWord) (r : LaunchRec)
    (ext : Option Loc) (h : s.mems.Ok) : (s.taskRecord P depth e va r ext).mems.Ok := by
  unfold State.taskRecord
  split
  · simp [h]
  · extract_lets cs buf
    split
    · simp [h]
    · split
      · simp [h]
      · split
        · exact State.taskFinish_ok _ _ _ _ _ _ _ _ _ h
        · exact State.xone_ok _ _ _ h fun ls t ht => State.taskFinish_ok _ _ _ _ _ _ _ _ _ ht

@[simp] theorem State.dropLines_ok (s : State) (tn : Nat) (frames : List Nat) (keep : Bool) (h : s.mems.Ok) :
    (s.dropLines tn frames keep).mems.Ok :=
  State.foldl_ok _ (fun s x h => by simp [h]) _ _ h

theorem State.arenaDead_kept (s : State) (tn slot : Nat) (h : s.mems.Ok) : Kept (s.arenaDead tn slot) := by
  refine OnSome.bind fun x => OnSome.bind fun y => ?_
  split <;> simp [h]

theorem State.nodeRetire_kept (s : State) (id : Nat) (h : s.mems.Ok) : Kept (s.nodeRetire id) := by
  refine OnSome.bind fun nd => ?_
  extract_lets t alive cap fill s1 s2
  refine OnSome.unless fun _ => ?_
  split
  · simp [h]
  · refine OnSome.unless fun _ => ?_
    refine OnSome.unless fun _ => ?_
    have h1 : s1.mems.Ok := by simp [s1, h]
    have h2 : s2.mems.Ok := by simp [s2, h1]
    simp [h2]

/-! ## Basins -/

@[simp] theorem State.moveLine_ok (s : State) (e : Home) (h : s.mems.Ok) : (s.moveLine e).mems.Ok := by
  unfold State.moveLine
  dsimp only
  split
  · simp [h]
  · split <;> simp [h]

theorem State.resizeMove_kept (s : State) (k : HomeKey) (h : s.mems.Ok) : Kept (s.resizeMove k) := by
  refine OnSome.bind fun b => OnSome.unless fun _ => ?_
  split
  · split <;> simp [h]
  · simp [h]

@[simp] theorem State.emptyBasin_ok (s : State) (tn bs : Nat) (h : s.mems.Ok) : (s.emptyBasin tn bs).mems.Ok :=
  State.foldl_ok _ (fun s x h => by simp [h]) _ _ h

theorem State.dropDone_kept (s : State) (x : Xfer) (h : s.mems.Ok) : Kept (s.dropDone x) := by
  unfold State.dropDone
  dsimp only
  split
  · split <;> simp [h]
  · trivial

@[simp] theorem State.rehome_ok (s : State) (tn bs : Nat) (frames : List Nat) (h : s.mems.Ok) :
    (s.rehome tn bs frames).mems.Ok :=
  State.foldl_ok _ (fun s x h => by simp [h]) _ _ h

theorem State.pgDone_kept (s : State) (x : Xfer) (h : s.mems.Ok) : Kept (s.pgDone x) := by
  unfold State.pgDone
  split
  · extract_lets inRange others s1 dst
    refine OnSome.unless fun _ => ?_
    have h1 : s1.mems.Ok := by
      rw [show s1 = _ from rfl, State.dropCopies_mems]
      exact State.foldl_ok _ (fun s k hs => State.evict_ok s k true hs) _ _ h
    simp [h1]
  · trivial

/-! ## Invalidation and walks -/

@[simp] theorem State.frameBytes_ok (s : State) (copy : Bool) (dst src : Nat) (h : s.mems.Ok) :
    (s.frameBytes copy dst src).mems.Ok := by
  simp [State.frameBytes, h, SMap.wf_copyRange _ _ _ _ (State.wf_hbm h)]

theorem State.frameDone_kept (s : State) (x : Xfer) (h : s.mems.Ok) : Kept (s.frameDone x) := by
  unfold State.frameDone
  split
  · extract_lets frames ks ts s1 s2 s3 s4
    refine OnSome.unless fun _ => ?_
    have h1 : s1.mems.Ok := State.dropLines_ok s _ _ _ h
    have h2 : s2.mems.Ok := State.foldl_ok _ (fun s f hs => State.frameBytes_ok s _ _ _ hs) _ _ h1
    have h3 : s3.mems.Ok := by
      refine State.foldl_ok _ (fun s k hs => ?_) _ _ h2
      split <;> simp [hs]
    have h4 : s4.mems.Ok := State.foldl_ok _ (fun s k hs => State.noteWrite_ok s _ _ _ _ hs) _ _ h3
    simp [h4]
  · trivial

/-! ## Placement -/

theorem State.placeOne_kept (s : State) (tn die : Nat) (h : s.mems.Ok) : Kept (s.placeOne tn die) := by
  refine OnSome.map fun p => ?_
  split <;> simp [h]

theorem State.ageLimit_kept (s : State) (tn die : Nat) (h : s.mems.Ok) : Kept (s.ageLimit tn die) := by
  unfold State.ageLimit
  split
  · trivial
  · split
    · split <;> simp [h]
    · split <;> simp [h]
    · trivial

theorem State.stealFrom_kept (s : State) (tn die from_ : Nat) (h : s.mems.Ok) :
    Kept (s.stealFrom tn die from_) := by
  refine OnSome.bind fun o => OnSome.unless fun _ => ?_
  split
  · simp [h]
  · exact OnSome.guard fun _ => by simp [h]

theorem State.steal_kept (s : State) (tn die : Nat) (h : s.mems.Ok) : Kept (s.steal tn die) := by
  unfold State.steal
  extract_lets t has
  exact OnSome.unless fun _ => OnSome.findSome (fun d => State.stealFrom_kept s tn die d h) _

theorem State.swapOut_kept (s : State) (id : Nat) (h : s.mems.Ok) : Kept (s.swapOut id) := by
  refine OnSome.bind fun x => ?_
  dsimp only
  split <;> simp [h]

theorem State.swapIn_kept (s : State) (id : Nat) (h : s.mems.Ok) : Kept (s.swapIn id) := by
  refine OnSome.bind fun x => ?_
  split <;> simp [h]

theorem State.binDraw_kept (s : State) (crew bin : Nat) (h : s.mems.Ok) : Kept (s.binDraw crew bin) := by
  refine OnSome.bind fun c => OnSome.bind fun b => OnSome.unless fun _ => OnSome.map fun f => ?_
  simp [h]

@[simp] theorem State.endWords_ok (s : State) (xs : List Xfer) (h : s.mems.Ok) : (s.endWords xs).mems.Ok := by
  refine State.foldl_ok _ (fun s x hs => ?_) _ _ h
  refine Kept.getD ?_ (by simp [hs])
  exact OnSome.guard fun _ => State.taccAct_kept s x hs

@[simp] theorem State.shedCrew_ok (s : State) (crew : Nat) (h : s.mems.Ok) : (s.shedCrew crew).mems.Ok := by
  simp [State.shedCrew, h]

@[simp] theorem State.cutLoose_ok (s : State) (crew : Nat) (h : s.mems.Ok) : (s.cutLoose crew).mems.Ok := by
  simp [State.cutLoose, h]

@[simp] theorem State.failCrew_ok (s : State) (id : Nat) (c : Cause) (h : s.mems.Ok) :
    (s.failCrew id c).mems.Ok := by
  unfold State.failCrew
  split <;> simp [h]

/-! ## Services and saves -/

theorem State.serviceRestart_kept (s : State) (id : Nat) (h : s.mems.Ok) : Kept (s.serviceRestart id) := by
  refine OnSome.bind fun x => OnSome.bind fun y => ?_
  split <;> simp [h]

theorem State.saveEntry_kept (s : State) (id : Nat) (h : s.mems.Ok) : Kept (s.saveEntry id) := by
  refine OnSome.bind fun c => OnSome.bind fun g => OnSome.unless fun _ => ?_
  simp [h]

@[simp] theorem State.sealWrite_ok (s : State) (P : Mask) (c : Crew) (va : DWord) (k m : Nat) (ls : List Loc)
    (h : s.mems.Ok) : (s.sealWrite P c va k m ls).mems.Ok := by
  simp [State.sealWrite, h, Dev.mems]

theorem State.sealRead_ok (s : State) (l : Loc) (n : Nat) (h : s.mems.Ok) :
    StateKept (s.sealRead l n) := by
  refine List.foldlRecOn (motive := StateKept) _ _ h fun r hr c _ => ?_
  exact OnSome.bind_of hr fun q hq => OnSome.map_of (State.readWord_ok _ _ _ _ hq) fun x hx => hx

theorem State.sealReadAll_ok (s : State) (va len : Nat) (ls : List Loc) (h : s.mems.Ok) :
    StateKept (s.sealReadAll va len ls) := by
  refine List.foldlRecOn (motive := StateKept) _ _ h fun r hr l _ => ?_
  exact OnSome.bind_of hr fun q hq => OnSome.map_of (State.sealRead_ok _ _ _ hq) fun x hx => hx

@[simp] theorem State.settleCrew_ok (s : State) (crew : Nat) (h : s.mems.Ok) : (s.settleCrew crew).mems.Ok := by
  refine State.foldl_ok _ (fun s x hs => ?_) _ _ (State.endWords_ok s _ h)
  exact Kept.getD (State.takeSignal_kept s x hs) hs

theorem State.saveDeadline_kept (s : State) (id : Nat) (h : s.mems.Ok) : Kept (s.saveDeadline id) := by
  refine OnSome.bind fun x => OnSome.bind fun y => ?_
  split <;> simp [h]

@[simp] theorem State.crewEnds_ok (s : State) (id : Nat) (c : Cause) (h : s.mems.Ok) :
    (s.crewEnds id c).mems.Ok := by
  simp [State.crewEnds, h]

@[simp] theorem State.crewFails_ok (s : State) (id : Nat) (h : s.mems.Ok) : (s.crewFails id).mems.Ok := by
  unfold State.crewFails
  split <;> simp [h]

/-! ## Chains -/

@[simp] theorem State.fetch_ok (s : State) (go : List Word → State → State) (h : s.mems.Ok)
    (hgo : ∀ ws t, t.mems.Ok → (go ws t).mems.Ok) : (s.fetch go).mems.Ok := by
  unfold State.fetch
  extract_lets base ctx s0
  refine State.xone_ok s0 _ _ h fun ls t ht => ?_
  extract_lets ps s1
  have h1 : s1.mems.Ok := by
    refine State.foldl_ok _ (fun s p hs => ?_) _ _ ht
    split <;> simp [hs]
  split
  · simp [h1]
  · split
    · simp [h1]
    · exact hgo _ _ h1

@[simp] theorem State.fetched_ok (s : State) (h : s.mems.Ok) : (s.fetched).mems.Ok :=
  State.fetch_ok s _ h fun _ _ ht => ht

/-! ## The host -/

theorem State.atsInvalidate_kept (s : State) (vf page count : Nat) (h : s.mems.Ok) :
    Kept (s.atsInvalidate vf page count) := by
  refine OnSome.bind fun x => ?_
  split <;> simp [h]

theorem State.invDone_kept (s : State) (id : Nat) (h : s.mems.Ok) : Kept (s.invDone id) := by
  refine OnSome.bind fun x => ?_
  split <;> simp [h]

@[simp] theorem State.signBatch_ok (s : State) (tn last : Nat) (h : s.mems.Ok) : (s.signBatch tn last).mems.Ok := by
  simp [State.signBatch, h]

@[simp] theorem State.writeRecord_ok (s : State) (tn : Nat) (h : s.mems.Ok) : (s.writeRecord tn).mems.Ok := by
  unfold State.writeRecord
  extract_lets t
  split
  · exact h
  · extract_lets body h' s1
    have h1 : s1.mems.Ok := by simp [s1, h]
    split
    · simp [h1]
    · exact h1

@[simp] theorem State.writeHeld_ok (s : State) (tn : Nat) (h : s.mems.Ok) : (s.writeHeld tn).mems.Ok := by
  unfold State.writeHeld
  refine State.foldl_ok _ (fun s x h => ?_) _ _ (by simp [h])
  split <;> simp [h]

@[simp] theorem State.writeAll_ok (s : State) (h : s.mems.Ok) : (s.writeAll).mems.Ok :=
  State.foldl_ok _ (fun s x h => by simp [h]) _ _ h

theorem State.usageInterval_kept (s : State) (tn : Nat) (h : s.mems.Ok) : Kept (s.usageInterval tn) := by
  refine OnSome.bind fun x => OnSome.unless fun _ => ?_
  simp only [onSome_some, State.mapTenant_mems]
  exact h

@[simp] theorem State.launchDispatch_ok (s : State) (tn va : Nat) (r : LaunchRec) (ext : Option Loc)
    (h : s.mems.Ok) : (s.launchDispatch tn va r ext).mems.Ok := by
  unfold State.launchDispatch
  extract_lets slot s1 id got s2 nd low
  have h1 : s1.mems.Ok := by
    unfold s1
    clear_value slot
    split <;> simp [h]
  have h2 : s2.mems.Ok := by
    unfold s2
    clear_value got
    split <;> simp [h1]
  simp [h2]

@[simp] theorem State.copyImage_ok (s : State) (d : PartDesc) (h : s.mems.Ok) : (s.copyImage d).mems.Ok := by
  refine State.foldl_ok _ (fun s p hs => ?_) _ _ h
  exact State.setHbm_ok s _ hs (SMap.wf_copyRange _ _ _ _ (State.wf_hbm hs))

theorem State.buildPart_ok (s : State) (tn : Nat) (d : PartDesc) (h : s.mems.Ok) : OnOk (s.buildPart tn d) := by
  unfold State.buildPart
  extract_lets s1 own ls cis win pins t mapped s2
  have h1 : s1.mems.Ok := State.copyImage_ok s d h
  split
  · trivial
  · split
    · trivial
    · have h2 : s2.mems.Ok := h1
      split
      · trivial
      · split
        · trivial
        · extract_lets s3 s4
          have h3 : s3.mems.Ok := by simp [s3, h2]
          split
          · trivial
          · have h4 : s4.mems.Ok := by simp [s4, h3]
            simp [OnOk, h4]

@[simp] theorem State.writeBack_ok (s : State) (d : PartDesc) (h : s.mems.Ok) : (s.writeBack d).mems.Ok := by
  refine State.setHost_ok s _ h ?_
  exact SMap.wf_setList _ _ _ (SMap.wf_setList _ _ _ (State.wf_host h))

theorem State.create_ok (s : State) (d : PartDesc) (h : s.mems.Ok) : OnOk (s.create d) := by
  unfold State.create
  split
  · trivial
  · split
    · trivial
    · split
      · trivial
      · split
        · trivial
        · rename_i vf _
          split
          · trivial
          · extract_lets t s1
            split
            · trivial
            · rename_i s2 hs
              have h1 : (s1.onDev fun v => { v with insecure := v.insecure.filter (· != vf) }).mems.Ok := h
              have h2 : s2.mems.Ok := OnOk.of_eq (State.buildPart_ok _ _ _ h1) hs
              simp [OnOk, h2]

@[simp] theorem State.dropService_ok (s : State) (g : Group) (h : s.mems.Ok) : (s.dropService g).mems.Ok := by
  simp [State.dropService, h]

@[simp] theorem State.stopPart_ok (s : State) (tn : Nat) (h : s.mems.Ok) : (s.stopPart tn).mems.Ok := by
  unfold State.stopPart
  extract_lets mine s1 s2
  have h1 : s1.mems.Ok := State.foldl_ok _ (fun s c hs => State.cutLoose_ok s c hs) _ _ h
  have h2 : s2.mems.Ok := State.foldl_ok _ (fun s g hs => State.dropService_ok s g hs) _ _ h1
  exact h2

@[simp] theorem State.teardown_ok (s : State) (tn : Nat) (h : s.mems.Ok) : (s.teardown tn).mems.Ok := by
  unfold State.teardown
  split <;> simp [h]

theorem State.quadReturn_kept (s : State) (tn q : Nat) (h : s.mems.Ok) : Kept (s.quadReturn tn q) := by
  refine OnSome.bind fun x => ?_
  split <;> simp [h]

theorem State.bankReturn_kept (s : State) (tn bank : Nat) (h : s.mems.Ok) : Kept (s.bankReturn tn bank) := by
  refine OnSome.bind fun x => ?_
  split <;> simp [h]

theorem State.frameReturn_kept (s : State) (tn f : Nat) (h : s.mems.Ok) : Kept (s.frameReturn tn f) := by
  refine OnSome.bind fun t => OnSome.unless fun _ => ?_
  simp [h, SMap.wf_clear _ _ _ (State.wf_hbm h)]

@[simp] theorem State.agentLine_ok (s : State) (tn : Nat) (l : Loc) (bs : List Byte) (k : HomeKey) (h : s.mems.Ok) :
    (s.agentLine tn l bs k).mems.Ok := by
  unfold State.agentLine
  dsimp only
  split <;> simp [h]

@[simp] theorem State.agentWrite_ok (s : State) (tn : Nat) (l : Loc) (bs : List Byte) (h : s.mems.Ok) :
    (s.agentWrite tn l bs).mems.Ok :=
  State.foldl_ok _ (fun s x h => by simp [h]) _ _ h

theorem State.winRead_kept (s : State) (vf off len : Nat) (h : s.mems.Ok) : Kept (s.winRead vf off len) := by
  refine OnSome.bind fun t => ?_
  extract_lets va parts ps s1
  refine OnSome.ite (fun _ => by simp [h]) fun _ => ?_
  refine OnSome.unless fun _ => ?_
  have h1 : s1.mems.Ok := State.foldl_ok _ (fun s p hs => State.recallAt_ok s _ _ _ hs) _ _ h
  split <;> simp [h1]

theorem State.winWrite_kept (s : State) (vf off : Nat) (data : List Byte) (h : s.mems.Ok) :
    Kept (s.winWrite vf off data) := by
  refine OnSome.bind fun t => ?_
  extract_lets va parts s1
  refine OnSome.ite (fun _ => by simp [h]) fun _ => OnSome.unless fun _ => ?_
  have h1 : s1.mems.Ok := by
    refine State.foldl_ok _ (fun s p hs => ?_) _ _ h
    split <;> simp [hs]
  simp [h1]

theorem State.servePeer_kept (s : State) (r : PeerReq) (h : s.mems.Ok) : Kept (s.servePeer r) := by
  unfold State.servePeer
  dsimp only
  split
  · simp [h]
  · split
    · trivial
    · split
      · simp [h]
      · simp [h]
      · split <;> simp [h]

@[simp] theorem State.routeLost_ok (s : State) (peer : Nat) (h : s.mems.Ok) : (s.routeLost peer).mems.Ok := by
  unfold State.routeLost
  split
  · exact h
  · extract_lets s1 ids
    exact State.foldl_ok _ (fun s i hs => Kept.getD (State.remoteError_kept s i hs) hs) _ _ h

@[simp] theorem State.atPowerOn_ok (s : State) (h : s.mems.Ok) : (s.atPowerOn).mems.Ok :=
  ⟨rfl, h.2⟩

@[simp] theorem State.boot_ok (s : State) (i : FwImage) (u : Setup) (h : s.mems.Ok) : (s.boot i u).mems.Ok := by
  unfold State.boot
  split
  · exact h
  · split
    · exact State.atPowerOn_ok s h
    · exact State.atPowerOn_ok s h

@[simp] theorem State.flushRecords_ok (s : State) (tn : Nat) (h : s.mems.Ok) : (s.flushRecords tn).mems.Ok := by
  unfold State.flushRecords
  extract_lets s1 t
  have h1 : s1.mems.Ok := State.foldl_ok _ (fun s _ hs => State.writeRecord_ok s tn hs) _ _ h
  split
  · simp [h1]
  · exact h1

@[simp] theorem State.emergency_ok (s : State) (h : s.mems.Ok) : (s.emergency).mems.Ok := by
  unfold State.emergency
  refine State.foldl_ok _ (fun s x h => ?_) _ _ (by simp [h])
  simp [h]

/-! ## Errors and retirement -/

@[simp] theorem State.loseService_ok (s : State) (g : Group) (at_ : Nat) (h : s.mems.Ok) :
    (s.loseService g at_).mems.Ok := by
  simp [State.loseService, h]

@[simp] theorem State.failService_ok (s : State) (g : Group) (h : s.mems.Ok) : (s.failService g).mems.Ok := by
  simp [State.failService, h]

@[simp] theorem State.failGroup_ok (s : State) (id : Nat) (h : s.mems.Ok) : (s.failGroup id).mems.Ok := by
  unfold State.failGroup
  split <;> simp [h]

@[simp] theorem State.renewService_ok (s : State) (core : Nat) (h : s.mems.Ok) : (s.renewService core).mems.Ok := by
  unfold State.renewService
  split <;> simp [h]

@[simp] theorem State.dropServices_ok (s : State) (q : Nat) (h : s.mems.Ok) : (s.dropServices q).mems.Ok :=
  State.foldl_ok _ (fun s x h => by simp [h]) _ _ h

@[simp] theorem State.resetQuad_ok (s : State) (q : Nat) (h : s.mems.Ok) : (s.resetQuad q).mems.Ok :=
  State.foldl_ok _ (fun s x h => by simp [h]) _ _ h

@[simp] theorem State.retireCore_ok (s : State) (core : Nat) (h : s.mems.Ok) : (s.retireCore core).mems.Ok := by
  unfold State.retireCore
  extract_lets q die crews s1 s2 s3 spares s4
  split
  · exact h
  · have h1 : s1.mems.Ok := State.foldl_ok _ (fun s c hs => State.crewEnds_ok s c _ hs) _ _ h
    have h2 : s2.mems.Ok := by simp [s2, h1]
    have h3 : s3.mems.Ok := by simp [s3, h2]
    split
    · exact State.foldl_ok _ (fun s c hs => State.renewService_ok s c hs) _ _ (by simp [s4, h3])
    · simp [Dev.mems, h3]

@[simp] theorem State.uncorrected_ok (s : State) (p : Place) (h : s.mems.Ok) : (s.uncorrected p).mems.Ok := by
  unfold State.uncorrected
  extract_lets s1 poison
  have h1 : s1.mems.Ok := by simp [s1, h]
  have hp : ∀ q, (poison q).mems.Ok := fun q => by simp [poison, h1]
  split
  · exact hp _
  · split
    · exact hp _
    · exact h1
  · split
    · exact hp _
    · exact h1
  · split
    · exact hp _
    · exact h1
  · split
    · simp [h1]
    · exact h1
  · split
    · exact hp _
    · exact h1
  · simp [h1]
  · simp [h1]

@[simp] theorem State.sound_ok (s : State) (k : HomeKey) (h : s.mems.Ok) : (s.sound k).mems.Ok :=
  Kept.getD (State.recover_kept s k h) h

@[simp] theorem State.saveLine_ok (s : State) (k : HomeKey) (h : s.mems.Ok) : (s.saveLine k).mems.Ok := by
  unfold State.saveLine
  extract_lets s1
  have h1 : s1.mems.Ok := by simp [s1, h]
  split
  · split
    · simp [h1]
    · split
      · simp [h1]
      · exact h1
  · exact h1

@[simp] theorem State.bankless_ok (s : State) (tn bs : Nat) (h : s.mems.Ok) : (s.bankless tn bs).mems.Ok := by
  unfold State.bankless
  extract_lets all s1 s2 turn s3
  have h1 : s1.mems.Ok := by
    simp only [s1, State.floorBase_mems]
    exact State.emptyBasin_ok _ _ _ (State.foldl_ok _ (fun s k hs => State.sound_ok s k hs) _ _ h)
  simp [s3, s2, h1]

@[simp] theorem State.moveNow_ok (s : State) (k : HomeKey) (h : s.mems.Ok) : (s.moveNow k).mems.Ok := by
  unfold State.moveNow
  extract_lets s1
  have h1 : s1.mems.Ok := by simp [s1, h]
  split
  · simp [h1]
  · exact h

@[simp] theorem State.cutBoth_ok (s : State) (tn bank : Nat) (b : Basin) (h : s.mems.Ok) :
    (s.cutBoth tn bank b).mems.Ok := by
  unfold State.cutBoth
  extract_lets id len mask old moves s1
  have h1 : s1.mems.Ok := by simp [s1, h]
  rw [State.fitTables_mems]
  exact State.foldl_ok _ (fun s k hs => State.moveNow_ok s k hs) _ _ h1

@[simp] theorem State.moveOut_ok (s : State) (tn bs bank : Nat) (h : s.mems.Ok) : (s.moveOut tn bs bank).mems.Ok :=
  State.foldl_ok _ (fun s x h => by simp [h]) _ _ h

@[simp] theorem State.cutBasin_ok (s : State) (tn bank : Nat) (b : Basin) (h : s.mems.Ok) :
    (s.cutBasin tn bank b).mems.Ok := by
  unfold State.cutBasin
  extract_lets id mask s1
  split
  · simp [h]
  · have h1 : s1.mems.Ok := by
      unfold s1
      split <;> simp [h]
    simp [h1]

@[simp] theorem State.loseBank_ok (s : State) (bank : Nat) (t : Tenant) (h : s.mems.Ok) :
    (s.loseBank bank t).mems.Ok := by
  unfold State.loseBank
  extract_lets die hit s1
  have h1 : s1.mems.Ok := State.foldl_ok _ (fun s b hs => State.cutBasin_ok s _ _ _ hs) _ _ h
  simp [h1]

@[simp] theorem State.retireBank_ok (s : State) (bank : Nat) (h : s.mems.Ok) : (s.retireBank bank).mems.Ok := by
  unfold State.retireBank
  extract_lets die spares s1 s2 s3
  split
  · exact h
  · have h1 : s1.mems.Ok := by
      simp only [s1, State.onHealth_mems, State.rearmIn_mems]
      exact State.foldl_ok _ (fun s k hs => State.saveLine_ok s k hs) _ _ h
    split
    · simp [h1]
    · have h2 : s2.mems.Ok := h1
      have h3 : s3.mems.Ok := by
        unfold s3
        split <;> simp [h2]
      simp [h3]

/-! ## The bookkeeping of a turn -/

@[simp] theorem State.tidy_ok (s : State) (h : s.mems.Ok) : (s.tidy).mems.Ok := by
  simp [State.tidy, h]

end Sys2Proof.Machine
end

section
/-!
Outcomes whose state has its memories in canonical form, for the shared forms of words and events: an operation on the
state gives the outcome of every instruction of its form.
-/

namespace Sys2Proof.Machine

/-- The state that an outcome answers, if any, has its memories in canonical form. -/
def NextOk : Host.Outcome State Fault Refusal → Prop
  | .next t => t.mems.Ok
  | _ => True

@[simp] theorem nextOk_next (t : State) : NextOk (.next t) ↔ t.mems.Ok := Iff.rfl

theorem NextOk.of_eq {r : Host.Outcome State Fault Refusal} {t : State} (hr : NextOk r) (ht : r = .next t) :
    t.mems.Ok := by
  subst ht
  exact hr

/-! ## The shared forms of the words -/

section

variable {s : State}

theorem runWord_nextOk {i : Info} {eff : Mask → State → State} (h : s.mems.Ok) (heff : ∀ P, (eff P s).mems.Ok) :
    NextOk (runWord i s eff) := by
  unfold runWord
  split
  · simp [h]
  · split
    · exact h
    · exact heff _

theorem runBranch_nextOk {i : Info} {eff : Mask → State → State} (h : s.mems.Ok) (heff : ∀ P, (eff P s).mems.Ok) :
    NextOk (runBranch i s eff) := by
  unfold runBranch
  split
  · simp [h]
  · exact heff _

/-- A word that changes the group in issue alone. -/
theorem runWord_onCur_nextOk {i : Info} {e : Mask → State → Group → Group} (h : s.mems.Ok) :
    NextOk (runWord i s fun P s => s.onCur (e P s)) :=
  runWord_nextOk h fun P => by simp [h]

theorem vecBin_nextOk {i : Info} {d a : BitVec 6} {b : VSrc} {f : Word → Word → Word} (h : s.mems.Ok) :
    NextOk (vecBin i d a b f s) := runWord_onCur_nextOk h

theorem vecTri_nextOk {i : Info} {d a : BitVec 6} {b : VSrc} {f : Word → Word → Word → Word} (h : s.mems.Ok) :
    NextOk (vecTri i d a b f s) := runWord_onCur_nextOk h

theorem vecUn_nextOk {i : Info} {d a : BitVec 6} {f : Word → Word} (h : s.mems.Ok) : NextOk (vecUn i d a f s) :=
  runWord_onCur_nextOk h

theorem vecBin64_nextOk {i : Info} {d a : BitVec 6} {b : VSrc} {f : DWord → DWord → DWord} (h : s.mems.Ok) :
    NextOk (vecBin64 i d a b f s) := runWord_onCur_nextOk h

theorem vecCmp_nextOk {i : Info} {k n : BitVec 3} {a b : BitVec 6} {f : Word → Word → Bool} (h : s.mems.Ok) :
    NextOk (vecCmp i k n a b f s) := runWord_onCur_nextOk h

theorem vecCmp64_nextOk {i : Info} {k n : BitVec 3} {a b : BitVec 6} {f : DWord → DWord → Bool} (h : s.mems.Ok) :
    NextOk (vecCmp64 i k n a b f s) := runWord_onCur_nextOk h

theorem laneOp_nextOk {i : Info} {d : BitVec 6} {f : Mask → Group → Nat → Word} (h : s.mems.Ok) :
    NextOk (laneOp i d f s) := runWord_onCur_nextOk h

theorem grdOp_nextOk {i : Info} {d : BitVec 3} {f : Group → Mask} (h : s.mems.Ok) : NextOk (grdOp i d f s) :=
  runWord_onCur_nextOk h

theorem salOp_nextOk {i : Info} {d a : BitVec 5} {b : SSrc} {f : Word → Word → Word} (h : s.mems.Ok) :
    NextOk (salOp i d a b f s) := runWord_onCur_nextOk h

theorem floatOp_nextOk {i : Info} {d : BitVec 6} {f : Group → Nat → Nat × Flags} (h : s.mems.Ok) :
    NextOk (floatOp i d f s) := runWord_nextOk h fun _ => by simp [h]

theorem sfuOp_nextOk {i : Info} {d a : BitVec 6} {fn : Nat} {f : RM → Bool → FVal → Nat → Nat × Flags}
    (h : s.mems.Ok) : NextOk (sfuOp i d a fn f s) := floatOp_nextOk h

theorem fcmpOp_nextOk {i : Info} {k n : BitVec 3} {a b : BitVec 6} {quiet : Bool} {f : FVal → FVal → Bool}
    (h : s.mems.Ok) : NextOk (fcmpOp i k n a b quiet f s) := runWord_nextOk h fun _ => by simp [h]

theorem qntOp_nextOk {i : Info} {d a : BitVec 6} {f : List FVal → Nat × (FVal → Nat) × Flags} (h : s.mems.Ok) :
    NextOk (qntOp i d a f s) := runWord_nextOk h fun _ => by simp [h]

/-- A word of accesses that pass their checks and issue together. -/
theorem memWord_issueWord_nextOk {i : Info} {ctr : Counter} {chk : Mask → State → Nat → List XRes} {kind : WKind}
    {c : Option Counter} {ak : AKind} {got : List (Nat × List Loc) → State → List (Nat × Nat × List Byte)}
    {ps : List (Nat × List Loc) → State → List Part} (h : s.mems.Ok) :
    NextOk (runWord i s fun P s => s.memWord ctr P (chk P s) fun m ls s =>
      s.issueWord kind c ak m (got ls s) (ps ls s)) :=
  runWord_nextOk h fun _ => State.memWord_ok s _ _ _ _ h fun _ _ t ht => by simp [ht]

theorem loadOp_nextOk {i : Info} {d a o : BitVec 6} {size : Nat} {signed stream : Bool} (h : s.mems.Ok) :
    NextOk (loadOp i d a o size signed stream s) := memWord_issueWord_nextOk h

theorem storeOp_nextOk {i : Info} {d a o : BitVec 6} {size : Nat} (h : s.mems.Ok) :
    NextOk (storeOp i d a o size s) :=
  memWord_issueWord_nextOk h

theorem ldsOp_nextOk {i : Info} {d a o : BitVec 6} {size : Nat} {signed : Bool} (h : s.mems.Ok) :
    NextOk (ldsOp i d a o size signed s) := memWord_issueWord_nextOk h

theorem stsOp_nextOk {i : Info} {d a o : BitVec 6} {size : Nat} (h : s.mems.Ok) : NextOk (stsOp i d a o size s) :=
  memWord_issueWord_nextOk h

theorem planeOp_nextOk {i : Info} {k : BitVec 3} {d a o : BitVec 6} {deq : Bool} (h : s.mems.Ok) :
    NextOk (planeOp i k d a o deq s) := by
  unfold planeOp
  exact memWord_issueWord_nextOk h

theorem atomicOp_nextOk {i : Info} {fn : BitVec 4} {crew ret : Bool} {d a o : BitVec 6} (h : s.mems.Ok) :
    NextOk (atomicOp i fn crew ret d a o s) := by
  unfold atomicOp
  exact memWord_issueWord_nextOk h

theorem fenceOp_nextOk {i : Info} {ok : State → Bool} (h : s.mems.Ok) : NextOk (fenceOp i ok s) :=
  runWord_nextOk h fun _ => by simp [h]

theorem barInitOp_nextOk {i : Info} {k : BitVec 10} {n : BitVec 4} {x : Bool} (h : s.mems.Ok) :
    NextOk (barInitOp i k n x s) :=
  runWord_nextOk h fun P => by
    dsimp only
    split <;> simp [h]

theorem monOp_nextOk {i : Info} {c : MonCond} {d : Option (BitVec 6)} {a o : BitVec 6} (h : s.mems.Ok) :
    NextOk (monOp i c d a o s) :=
  runWord_nextOk h fun P => State.xone_ok s _ _ h fun ls t ht => by
    split
    · refine State.readOnce_ok t _ _ _ ht fun bs u hu => ?_
      simp [hu]
    · exact ht

theorem futOp_nextOk {i : Info} {a o : BitVec 6} {write : Bool} {c : Option Counter}
    {go : Mask → DWord → Loc → State → State} (h : s.mems.Ok)
    (hgo : ∀ P ea x t, t.mems.Ok → (go P ea x t).mems.Ok) : NextOk (futOp i a o write c go s) :=
  runWord_nextOk h fun P => by
    dsimp only
    split
    · simp [h]
    · refine State.xone_ok s _ _ h fun ls t ht => ?_
      split
      · exact hgo _ _ _ _ ht
      · exact ht

theorem cpyOp_nextOk {i : Info} {z : BitVec 2} {srcSp dstSp : Bool} {d a : BitVec 6} {b : BitVec 4}
    (h : s.mems.Ok) : NextOk (cpyOp i z srcSp dstSp d a b s) := by
  unfold cpyOp
  refine runWord_nextOk h fun P => ?_
  split
  · simp [h]
  · refine State.xword_ok s _ _ _ h fun ls t ht => ?_
    extract_lets els dsts lines y x late s1
    split
    · simp [ht]
    · have h1 : s1.mems.Ok := by simp [s1, ht]
      simp [h1]

theorem tcpyOp_nextOk {i : Info} {k : TileWord} {ring : Bool} {q : BitVec 3} {b : Option (BitVec 4)}
    {n : BitVec 5} {buf : Nat} (h : s.mems.Ok) : NextOk (tcpyOp i k ring q b n buf s) :=
  runWord_nextOk h fun P => by
    split
    · simp [h]
    · refine State.tileCheck_ok s _ _ _ h fun idx map t ht => ?_
      extract_lets r kind rs y x s1 tag
      split
      · simp [ht]
      · split
        · simp [ht]
        · have h1 : s1.mems.Ok := by simp [s1, ht]
          split
          · simp [h1]
          · exact h1

theorem taccWord_nextOk {i : Info} {go : State → State} (h : s.mems.Ok) (hgo : (go s).mems.Ok) :
    NextOk (taccWord i go s) :=
  runWord_nextOk h fun P => by simp [h, hgo]

theorem taccTile_nextOk {i : Info} {k : TileWord} {b : BitVec 4} {n : BitVec 5} {t : BitVec 2} (h : s.mems.Ok) :
    NextOk (taccTile i k b n t s) :=
  taccWord_nextOk h (State.tileCheck_ok s _ _ _ h fun idx map t ht => by simp [ht])

theorem taccFactors_nextOk {i : Info} {offs : Group → List Nat} {k : List Nat → XKind} (h : s.mems.Ok) :
    NextOk (taccFactors i offs k s) :=
  taccWord_nextOk h (by
    dsimp only
    split <;> simp [h])

theorem mmaOp_nextOk {i : Info} {zero sign arr : Bool} {t o w : BitVec 2} {m : BitVec 3} {b : BitVec 4}
    {e : BitVec 5} {lists : Option Word} (h : s.mems.Ok) : NextOk (mmaOp i zero sign arr t o w m b e lists s) :=
  runWord_nextOk h fun P => by
    extract_lets offs mu core eng want f raise n bad g put
    have hraise : ∀ u : State, u.mems.Ok → (raise u).mems.Ok := fun u hu => by simp [raise, hu]
    have hput : ∀ (u : State) (k : Muster), u.mems.Ok → (put u k).mems.Ok := fun u k hu => by simp [put, hu]
    split
    · simp [h]
    · split
      · simp [h]
      · split
        · simp [h]
        · split
          · exact hraise _ (by simp [h])
          · split
            · simp [h]
            · split
              · exact hput _ _ (hraise _ (by simp [h]))
              · exact hput _ _ (hraise _ h)

theorem taskOp_nextOk {i : Info} {spawn : Bool} {e k : BitVec 5} (h : s.mems.Ok) : NextOk (taskOp i spawn e k s) :=
  runWord_nextOk h fun P => by
    extract_lets va depth
    split
    · simp [h]
    · split
      · simp [h]
      · refine State.xone_ok s _ _ h fun ls t ht => ?_
        split
        · split
          · simp [ht]
          · exact State.readOnce_ok t _ _ _ ht fun bs u hu => State.taskRecord_ok u _ _ _ _ _ _ hu
          · refine State.xone_ok t _ _ ht fun ls u hu => ?_
            split
            · exact State.readOnce_ok u _ _ _ hu fun bs v hv => State.taskRecord_ok v _ _ _ _ _ _ hv
            · exact hu
        · exact ht

theorem recordOp_nextOk {i : Info} {k : BitVec 5} {go : DWord → BasinRec → State → State} (h : s.mems.Ok)
    (hgo : ∀ va r t, t.mems.Ok → (go va r t).mems.Ok) : NextOk (recordOp i k go s) :=
  runWord_nextOk h fun P => State.xone_ok s _ _ h fun ls t ht => by
    split
    · exact State.readOnce_ok t _ _ _ ht fun bs u hu => hgo _ _ u hu
    · exact ht

/-! ## The shared forms of the events -/

theorem stepWhen_nextOk {r : Option State} (h : s.mems.Ok) (hr : Kept r) : NextOk (stepWhen s r) :=
  OnSome.getD (p := fun t : State => t.mems.Ok) hr h

theorem onAcc_nextOk {id : Nat} {f : State → Access → Option State} (h : s.mems.Ok) (hf : ∀ a, Kept (f s a)) :
    NextOk (onAcc id f s) :=
  stepWhen_nextOk h (OnSome.bind hf)

theorem onXfer_nextOk {id : Nat} {f : State → Xfer → Option State} (h : s.mems.Ok) (hf : ∀ x, Kept (f s x)) :
    NextOk (onXfer id f s) :=
  stepWhen_nextOk h (OnSome.bind hf)

theorem csrEvent_nextOk {k : CsrStep} {grp : Nat} (h : s.mems.Ok) : NextOk (csrEvent k grp s) := by
  unfold csrEvent
  split
  · simp [h]
  · exact h

end

end Sys2Proof.Machine
end

section
/-!
The outcomes of the instructions that have no shared form.
-/

namespace Sys2Proof.Machine

/-! ## The turn before a chain -/

/-- The state that a turn before its chain has reached has its memories in canonical form. -/
def Ready.Ok : Ready → Prop
  | .over s => s.mems.Ok
  | .bad s _ _ _ => s.mems.Ok
  | .chain s _ _ _ => s.mems.Ok

theorem State.ready_ok (s : State) (h : s.mems.Ok) : s.ready.Ok := by
  unfold State.ready
  extract_lets s1 s2 pkt j
  have h1 : s1.mems.Ok := by simp [s1, h]
  split
  · simp [Ready.Ok, h1]
  · have h2 : s2.mems.Ok := State.fetched_ok s1 h1
    split
    · exact h2
    · split
      · exact h2
      · split
        · exact h2
        · exact h2

theorem State.firstReady_ok (s : State) (core : Nat) (h : s.mems.Ok) : OnSome Ready.Ok (s.firstReady core) :=
  OnSome.map fun g => State.ready_ok _ (by simp [h])

theorem State.issueCheck_ok (s : State) (core : Nat) (c : Cause) (h : s.mems.Ok) :
    (s.issueCheck core c).mems.Ok := by
  have hr := State.firstReady_ok s core h
  unfold State.issueCheck
  split
  · rename_i s1 j d w h1
    have h1 : s1.mems.Ok := hr.of_eq h1
    simp [h1, h]
  · exact h

/-! ## Single instructions -/

section
variable {s : State}

theorem execFutFput_nextOk {h : Hdr} {d a o : BitVec 6} (hs : s.mems.Ok) : NextOk (execFutFput h d a o s) :=
  futOp_nextOk hs fun P ea x t ht => by
    split
    · simp [ht]
    · extract_lets s0 bs wd src acc w s1
      have h0 : s0.mems.Ok := State.recallNow_ok t _ ht
      split
      · simp [h0]
      · split
        · simp [ht]
        · have h1 : s1.mems.Ok := by simp [s1, h0]
          simp [h1]

theorem execSeal_nextOk {h : Hdr} {m : BitVec 3} {k : BitVec 5} (hs : s.mems.Ok) : NextOk (execSeal h m k s) :=
  runWord_nextOk hs fun P => by
    split
    · simp [hs]
    · extract_lets c va len recVa no rs walks ls
      split
      · simp [hs]
      · split
        · simp [hs]
        · split
          · simp [hs]
          · split
            · simp [hs]
            · split
              · simp [hs]
              · split
                · simp [hs]
                · split
                  · simp [hs]
                  · split <;> simp [hs]

theorem execRecall_nextOk {k : HomeKey} (hs : s.mems.Ok) : NextOk (execRecall k s) :=
  stepWhen_nextOk hs (State.recall_kept s k hs)

theorem execUnseal_nextOk {h : Hdr} {k : BitVec 5} (hs : s.mems.Ok) : NextOk (execUnseal h k s) :=
  runWord_nextOk hs fun P => State.xone_ok s _ _ hs fun ls t ht => by
    split
    · simp [ht]
    · split
      · simp [ht]
      · rename_i s1 bs bad hr
        extract_lets s2
        have h1 : s1.mems.Ok := (State.sealReadAll_ok t _ _ ls ht).of_eq hr
        have h2 : s2.mems.Ok := by simp [s2, h1]
        split
        · simp [h2]
        · split
          · simp [h2]
          · split
            · split <;> simp [h2]
            · simp [h2]

theorem execArenaNew_nextOk {h : Hdr} {e k : BitVec 5} (hs : s.mems.Ok) : NextOk (execArenaNew h e k s) :=
  runWord_nextOk hs fun P => by
    dsimp only
    split
    · simp [hs]
    · split <;> simp [hs]

theorem execArenaEnd_nextOk {h : Hdr} {k : BitVec 5} (hs : s.mems.Ok) : NextOk (execArenaEnd h k s) :=
  runWord_nextOk hs fun P => by
    split
    · simp [hs]
    · split <;> simp [hs]

theorem execBsnDef_nextOk {h : Hdr} {k : BitVec 5} (hs : s.mems.Ok) : NextOk (execBsnDef h k s) :=
  recordOp_nextOk hs fun va r t ht => by
    split <;> simp [ht]

theorem execBsnResize_nextOk {h : Hdr} {n : BitVec 4} {k : BitVec 5} (hs : s.mems.Ok) :
    NextOk (execBsnResize h n k s) :=
  recordOp_nextOk hs fun va r t ht => by
    split
    · simp [ht]
    · extract_lets s1
      have h1 : s1.mems.Ok := by simp [s1, ht]
      simp [h1]

theorem execBsnDrop_nextOk {h : Hdr} {n : BitVec 4} {k : BitVec 5} (hs : s.mems.Ok) :
    NextOk (execBsnDrop h n k s) :=
  runWord_nextOk hs fun P => by
    extract_lets id s1
    have h1 : s1.mems.Ok := by simp [s1, hs]
    split
    · simp [hs]
    · split
      · simp [hs]
      · simp [h1]

theorem execTsysWqpop_nextOk {h : Hdr} {m : BitVec 3} {d : BitVec 6} (hs : s.mems.Ok) :
    NextOk (execTsysWqpop h m d s) :=
  runWord_nextOk hs fun P => by
    split
    · simp [hs]
    · dsimp only
      split <;> simp [hs]

theorem execTsysPtld_nextOk {h : Hdr} {a d : BitVec 6} (hs : s.mems.Ok) : NextOk (execTsysPtld h a d s) :=
  runWord_nextOk hs fun P => by
    dsimp only
    split
    · simp [hs]
    · split <;> simp [hs]

theorem execTsysFrmTake_nextOk {h : Hdr} {z : Bool} {m : BitVec 3} {d : BitVec 6} (hs : s.mems.Ok) :
    NextOk (execTsysFrmTake h z m d s) :=
  runWord_nextOk hs fun P => by
    dsimp only
    rw [State.mapTenant_mems, foldl_fst_mems]
    · exact hs
    · intro r l
      split <;> simp

theorem execTsysFrmGive_nextOk {h : Hdr} {z : Bool} {a : BitVec 6} (hs : s.mems.Ok) :
    NextOk (execTsysFrmGive h z a s) :=
  runWord_nextOk hs fun P => by
    dsimp only
    split <;> simp [hs]

theorem execTsysMzero_nextOk {h : Hdr} {z : Bool} {a : BitVec 6} (hs : s.mems.Ok) :
    NextOk (execTsysMzero h z a s) :=
  runWord_nextOk hs fun P => by
    dsimp only
    split <;> simp [hs]

theorem execTsysMcopy_nextOk {h : Hdr} {z : Bool} {a d : BitVec 6} (hs : s.mems.Ok) :
    NextOk (execTsysMcopy h z a d s) :=
  runWord_nextOk hs fun P => by
    dsimp only
    split <;> simp [hs]

theorem execTsysPsaveDone_nextOk {h : Hdr} (hs : s.mems.Ok) : NextOk (execTsysPsaveDone h s) :=
  runWord_nextOk hs fun P => by
    split <;> simp [hs]

theorem execLand_nextOk {x : Nat} (hs : s.mems.Ok) : NextOk (execLand x s) :=
  onXfer_nextOk hs fun x => by
    split
    · exact State.landCpy_kept s x _ _ hs
    · exact State.landTile_kept s x hs
    · exact State.landTile_kept s x hs
    · exact State.landTile_kept s x hs
    · exact State.taccAct_kept s x hs
    · exact State.taccAct_kept s x hs
    · trivial

theorem execTaccComplete_nextOk {x : Nat} (hs : s.mems.Ok) : NextOk (execTaccComplete x s) :=
  onXfer_nextOk hs fun x => by
    split
    · exact State.taccAct_kept s x hs
    · exact State.taccAct_kept s x hs
    · exact State.taccAct_kept s x hs
    · exact State.taccAct_kept s x hs
    · trivial

theorem execFlashData_nextOk {a : Nat} (hs : s.mems.Ok) : NextOk (execFlashData a s) := by
  unfold execFlashData
  split
  · simp [hs]
  · exact onAcc_nextOk hs fun x => State.together_kept _ State.flashData_kept s x hs

theorem execRemoteErrorCompletion_nextOk {a : Nat} (hs : s.mems.Ok) : NextOk (execRemoteErrorCompletion a s) :=
  stepWhen_nextOk hs (by
    split
    · exact State.loseLine_kept s _ hs
    · exact OnSome.ite (fun _ => by simp [hs]) fun _ => State.remoteError_kept s a hs)

theorem execPendingCauseDelivery_nextOk {core : Nat} (hs : s.mems.Ok) :
    NextOk (execPendingCauseDelivery core s) := by
  have hr := State.firstReady_ok s core hs
  unfold execPendingCauseDelivery
  split
  · rename_i s1 ws f pkt h1
    have h1 : s1.mems.Ok := hr.of_eq h1
    split
    · simp [h1]
    · exact hs
  · exact hs

theorem execTimeQuantum_nextOk {tn : Nat} {crews : List Nat} (hs : s.mems.Ok) :
    NextOk (execTimeQuantum tn crews s) := by
  simp [execTimeQuantum, hs]

theorem execCreate_nextOk {d : PartDesc} (hs : s.mems.Ok) : NextOk (execCreate d s) := by
  unfold execCreate
  split
  · exact hs
  · have hc := State.create_ok s d hs
    split
    · rename_i s1 h1
      exact hc.of_eq h1
    · simp [hs]

theorem execGrant_nextOk {gr : Grant} (hs : s.mems.Ok) : NextOk (execGrant gr s) := by
  unfold execGrant
  split
  · simp [hs]
  · split
    · rw [nextOk_next, State.answer_mems]
      exact hs
    · simp [hs]

theorem execRevoke_nextOk {gr : Grant} (hs : s.mems.Ok) : NextOk (execRevoke gr s) := by
  unfold execRevoke
  split
  · simp [hs]
  · split
    · exact hs
    · simp [hs]

theorem execGrantWithdrawn_nextOk {gr : Grant} (hs : s.mems.Ok) : NextOk (execGrantWithdrawn gr s) := by
  unfold execGrantWithdrawn
  split
  · rw [nextOk_next, State.answer_mems]
    exact hs
  · exact hs

theorem execSetcap_nextOk {watts : Nat} (hs : s.mems.Ok) : NextOk (execSetcap watts s) := by
  unfold execSetcap
  split
  · rw [nextOk_next, State.answer_mems]
    exact hs
  · simp [hs]

theorem execRecordRelease_nextOk {tn : Nat} (hs : s.mems.Ok) : NextOk (execRecordRelease tn s) := by
  rw [execRecordRelease, nextOk_next, State.sweep_mems]
  exact State.writeHeld_ok _ _ hs

theorem execEmergencyHalt_nextOk {why : Limit} (hs : s.mems.Ok) : NextOk (execEmergencyHalt why s) := by
  unfold execEmergencyHalt
  cases why <;> simp [hs]

theorem execThermalThrottle_nextOk {why : Limit} (hs : s.mems.Ok) : NextOk (execThermalThrottle why s) := by
  cases why <;> exact hs

theorem execInstructionFetch_nextOk {core : Nat} (hs : s.mems.Ok) : NextOk (execInstructionFetch core s) := by
  unfold execInstructionFetch
  split
  · extract_lets s1
    have h1 : s1.mems.Ok := State.fetched_ok _ (by simp [hs])
    simp [h1]
  · exact hs

end

end Sys2Proof.Machine
end

section
/-!
Every instruction keeps the canonical form of every memory.
-/

namespace Sys2Proof.Machine

/-- No instruction takes a memory out of canonical form, whether it is a word or a step of the machine. -/
theorem exec_nextOk (i : Instr) (s : State) (h : s.mems.Ok) : NextOk (exec i s) := by
  unfold exec
  cases i with
  | sysExit | movi | movhi | vfcFclass | saluSmov | saluSaddc | saluScmp | smovS2v | smovV2s | grdGtov | csrRdsr
  | csrWrsr | csrRdsrs | csrWrsrs | sysNop | sysYield | sysTrap | sysUret | sysTret | sysBrk | sysHalt | ctlRep
  | ctlReform | wait | laneFsum | memPref | memBpref | barWait | barTest | barInval | musSet | musClr | ringInit
  | ringAcq | ringRel | ringTake | ringFree | arenaChk | bsnStat | pgBsn | tsysInvVa | tsysInvAll | tsysWqdone
  | tsysMeterRd | tsysFaultPost => exact runWord_nextOk h fun _ => by simp [h]
  | bra | braLk | braUlk | braUnf | ctlJump | ctlCall | ctlCalli | ctlRet =>
    exact runBranch_nextOk h fun _ => by simp [h]
  | viaAdd | viaSub | viaMul | viaMulh | viaMulhn | viaMin | viaMax | viaMinn | viaMaxn | vilAnd | vilOr | vilXor
  | vilAndn | vilShl | vilShr | vilSra | vilRotl | vilBfx | vilBfxn | vilBsel => exact vecBin_nextOk h
  | viaMad | vilBfi => exact vecTri_nextOk h
  | viaAbs | viaNeg | viaClz | viaPopc | vilNot | vilBrev | vilMov | addi | andi | ori | xori | shli | shri | srai
  | muli => exact vecUn_nextOk h
  | viaAddc | viaSubc => exact vecBin64_nextOk h
  | vicEq | vicNe | vicLt | vicLe | vicGt | vicGe | vicLtn | vicLen | vicGtn | vicGen => exact vecCmp_nextOk h
  | vicEq64 | vicLt64 | vicLtn64 => exact vecCmp64_nextOk h
  | lanePick | laneBack | laneFwd | laneFlip | laneAny | laneEvery | laneMask | laneSum | laneLeast | laneMost
  | laneFrom => exact laneOp_nextOk h
  | grdGand | grdGor | grdGxor | grdGnot | grdGmov | grdGset => exact grdOp_nextOk h
  | saluSadd | saluSsub | saluSmul | saluSand | saluSor | saluSxor | saluSshl | saluSshr | saluSsra | saluSmin
  | saluSmax => exact salOp_nextOk h
  | vfFadd | vfFsub | vfFmul | vfFfma | vfFfms | vfFmin | vfFmax | vfFabs | vfFneg | vfFcopys | vfFfloor | vfFceil
  | vfFrint | vfFtrunc | vfFsat | vfFscale | vhHadd | vhHsub | vhHmul | vhHfma | vhHmin | vhHmax | vhHneg | vhHabs
  | sfuFsqrt | sfuFdiv | cvtF32I32 | cvtF32N32 | cvtI32F32 | cvtN32F32 | cvtF32F16 | cvtF16F32 | cvtF32Bf16
  | cvtBf16F32 | cvtF32E4m3 | cvtE4m3F32 | cvtF32E5m2 | cvtE5m2F32 | cvtF32E2m1 | cvtE2m1F32 | cvtF32S20 | cvtS20F32 =>
    exact floatOp_nextOk h
  | vfcFeq | vfcFne | vfcFlt | vfcFle | vfcFgt | vfcFge | vfcFun | vfcFord => exact fcmpOp_nextOk h
  | qntPi8 | qntE2m1 => exact qntOp_nextOk h
  | sfuFrcp | sfuFrsq | sfuFexp2 | sfuFlog2 | sfuFsin | sfuFcos | sfuFtanh => exact sfuOp_nextOk h
  | ldB8 | ldB8s | ldB16 | ldB16s | ldB32 | ldB64 | ldB128 => exact loadOp_nextOk h
  | stB8 | stB16 | stB32 | stB64 | stB128 => exact storeOp_nextOk h
  | ldsB8 | ldsB8s | ldsB16 | ldsB16s | ldsB32 | ldsB64 | ldsB128 => exact ldsOp_nextOk h
  | stsB8 | stsB16 | stsB32 | stsB64 | stsB128 => exact stsOp_nextOk h
  | ldp | ldpF32 => exact planeOp_nextOk h
  | updAdd | updFadd | updMin | updMax | updMinn | updMaxn | updAnd | updOr | updXor | updSwap | updCas | updAdd64
  | updSwap64 | updCas64 | updcAdd | updcFadd | updcMin | updcMax | updcMinn | updcMaxn | updcAnd | updcOr | updcXor
  | updcSwap | updcCas | updcAdd64 | updcSwap64 | updcCas64 | updnAdd | updnFadd | updnMin | updnMax | updnMinn
  | updnMaxn | updnAnd | updnOr | updnXor => exact atomicOp_nextOk h
  | memFenceHost | memFencePeer | memFenceSys => exact fenceOp_nextOk h
  | barInit | barInitX => exact barInitOp_nextOk h
  | monWaitcEq | monWaitcNe | monWaitcLt | monWaitcGe | monWaitcLtn | monWaitcGen | monWaitcChg => exact monOp_nextOk h
  | cpyMm | cpyMs | cpySm | cpySs => exact cpyOp_nextOk h
  | tcpySp | tcpyOa | tcpyWb | tcpySt | tcpyGath | tcpyScat | tcpyZero => exact tcpyOp_nextOk h
  | taccTstSp | taccTstMem | taccTld => exact taccTile_nextOk h
  | taccTscale | taccTbias => exact taccFactors_nextOk h
  | mma | mmaz | mmag | mmagz => exact mmaOp_nextOk h
  | taskSpawn | taskLaunch => exact taskOp_nextOk h
  | fflagsWrite | ptrootWrite | awindowWrite | thrashWrite | csrWrite => exact csrEvent_nextOk h
  | performLoad => exact onAcc_nextOk h fun x => State.together_kept _ State.performLoad_kept s x h
  | renew => exact onAcc_nextOk h fun x => State.together_kept _ State.renew_kept s x h
  | streamLoad => exact onAcc_nextOk h fun x => State.together_kept _ State.streamLoad_kept s x h
  | prefetch => exact onAcc_nextOk h fun x => State.prefetch_kept s x h
  | baseDieAccess => exact onAcc_nextOk h fun x => State.together_kept _ State.baseDie_kept s x h
  | performStore => exact onAcc_nextOk h fun x => State.performStore_kept s x h
  | performAtomic => exact onAcc_nextOk h fun x => State.performAtomic_kept s x _ h
  | spAccess => exact onAcc_nextOk h fun x => State.spAccess_kept s x h
  | enqueueHost => exact onAcc_nextOk h fun x => State.enqueueHost_kept s x h
  | enqueuePeer => exact onAcc_nextOk h fun x => State.enqueuePeer_kept s x h
  | readHost => exact onAcc_nextOk h fun x => State.together_kept _ State.readHost_kept s x h
  | readPeer => exact onAcc_nextOk h fun x => State.together_kept _ State.readPeer_kept s x h
  | land => exact execLand_nextOk h
  | strokeStep => exact onXfer_nextOk h fun x => State.strokeAct_kept s x h
  | bsnDropComplete => exact onXfer_nextOk h fun x => State.dropDone_kept s x h
  | pgBsnComplete => exact onXfer_nextOk h fun x => State.pgDone_kept s x h
  | frameWorkComplete => exact onXfer_nextOk h fun x => State.frameDone_kept s x h
  | bprefComplete => exact onXfer_nextOk h fun x => State.bprefDone_kept s x h
  | taccComplete => exact execTaccComplete_nextOk h
  | barArr | barDrop => exact runWord_nextOk h fun _ => State.arrive_ok s _ _ _ h fun _ ht => ht
  | barArrw => exact runWord_nextOk h fun _ => State.arrive_ok s _ _ _ h fun t ht => by simp [ht]
  | futFinit => exact futOp_nextOk h fun P ea x t ht => by simp [ht]
  | futFput => exact execFutFput_nextOk h
  | futFget => exact futOp_nextOk h fun P ea x t ht => State.readOnce_ok t _ _ _ ht fun bs u hu => by split <;> simp [hu]
  | futFpoll => exact futOp_nextOk h fun P ea x t ht => State.readOnce_ok t _ _ _ ht fun bs u hu => by simp [hu]
  | taccTzero => exact taccWord_nextOk h (by simp [h])
  | arenaNew => exact execArenaNew_nextOk h
  | arenaEnd => exact execArenaEnd_nextOk h
  | bsnDef => exact execBsnDef_nextOk h
  | bsnResize => exact execBsnResize_nextOk h
  | bsnDrop => exact execBsnDrop_nextOk h
  | tsysWqpop => exact execTsysWqpop_nextOk h
  | tsysPtld => exact execTsysPtld_nextOk h
  | tsysFrmTake => exact execTsysFrmTake_nextOk h
  | tsysFrmGive => exact execTsysFrmGive_nextOk h
  | tsysMzero => exact execTsysMzero_nextOk h
  | tsysMcopy => exact execTsysMcopy_nextOk h
  | tsysPsaveDone => exact execTsysPsaveDone_nextOk h
  | drainHost => exact stepWhen_nextOk h (State.drainHost_kept s _ h)
  | drainPeer => exact stepWhen_nextOk h (State.drainPeer_kept s _ _ h)
  | wake => exact stepWhen_nextOk h (State.wakeMon_kept s _ h)
  | signal => exact stepWhen_nextOk h (OnSome.bind fun x => State.takeSignal_kept s x h)
  | tick => exact stepWhen_nextOk h (State.tick_kept s _ h)
  | recover => exact stepWhen_nextOk h (State.recover_kept s _ h)
  | loadWriteback => exact stepWhen_nextOk h (OnSome.bind fun w => State.loadWriteback_kept s w h)
  | flashData => exact execFlashData_nextOk h
  | remoteErrorCompletion => exact execRemoteErrorCompletion_nextOk h
  | pendingCauseDelivery => exact execPendingCauseDelivery_nextOk h
  | atsCompletion => exact h.of_eq (State.atsDone_mems s _ _)
  | priResponse => exact h.of_eq (State.priDone_mems s _ _)
  | atsInvalidation => exact stepWhen_nextOk h (State.atsInvalidate_kept s _ _ _ h)
  | invalidationCompletion => exact stepWhen_nextOk h (State.invDone_kept s _ h)
  | monitorPoll => exact stepWhen_nextOk h (State.pollMon_kept s _ h)
  | rotation => exact h.of_eq (State.mapGrp_mems s _ _)
  | binDraw => exact stepWhen_nextOk h (State.binDraw_kept s _ _ h)
  | placement => exact stepWhen_nextOk h (State.placeOne_kept s _ _ h)
  | steal => exact stepWhen_nextOk h (State.steal_kept s _ _ h)
  | poolAgeLimit => exact stepWhen_nextOk h (State.ageLimit_kept s _ _ h)
  | swapOut => exact stepWhen_nextOk h (State.swapOut_kept s _ h)
  | swapIn => exact stepWhen_nextOk h (State.swapIn_kept s _ h)
  | nodeRetire => exact stepWhen_nextOk h (State.nodeRetire_kept s _ h)
  | arenaDeath => exact stepWhen_nextOk h (State.arenaDead_kept s _ _ h)
  | resizeLineMove => exact stepWhen_nextOk h (State.resizeMove_kept s _ h)
  | serviceRestart => exact stepWhen_nextOk h (State.serviceRestart_kept s _ h)
  | saveHandlerEntry => exact stepWhen_nextOk h (State.saveEntry_kept s _ h)
  | saveDeadline => exact stepWhen_nextOk h (State.saveDeadline_kept s _ h)
  | timeQuantum => exact execTimeQuantum_nextOk h
  | create => exact execCreate_nextOk h
  | teardown => exact State.teardown_ok s _ h
  | quadReturn => exact stepWhen_nextOk h (State.quadReturn_kept s _ _ h)
  | bankReturn => exact stepWhen_nextOk h (State.bankReturn_kept s _ _ h)
  | frameReturn => exact stepWhen_nextOk h (State.frameReturn_kept s _ _ h)
  | preempt => exact h.of_eq (State.preempt_mems s _ _)
  | halt => exact h.of_eq (State.fwHalt_mems s _ _)
  | inspect => exact h.of_eq (State.inspect_mems s _)
  | grant => exact execGrant_nextOk h
  | revoke => exact execRevoke_nextOk h
  | grantWithdrawn => exact execGrantWithdrawn_nextOk h
  | setcap => exact execSetcap_nextOk h
  | usageInterval => exact stepWhen_nextOk h (State.usageInterval_kept s _ h)
  | recordRelease => exact execRecordRelease_nextOk h
  | hostWindowRead => exact stepWhen_nextOk h (State.winRead_kept s _ _ _ h)
  | hostWindowWrite => exact stepWhen_nextOk h (State.winWrite_kept s _ _ _ h)
  | peerRequest => exact stepWhen_nextOk h (State.servePeer_kept s _ h)
  | mplLinkFail | ideIntegrityFail | lostFlitRetry => exact h
  | peerRouteTimeout => exact State.routeLost_ok s _ h
  | attestation => exact h.of_eq (State.attest_mems s _ _)
  | powerOn => exact State.boot_ok s _ _ h
  | emergencyHalt => exact execEmergencyHalt_nextOk h
  | thermalThrottle => exact execThermalThrottle_nextOk h
  | correctedError => exact h.of_eq (State.onHealth_mems s _)
  | uncorrectedError => exact State.uncorrected_ok s _ h
  | crewFailure => exact State.crewFails_ok s _ h
  | coreRetire => exact State.retireCore_ok s _ h
  | bankRetire => exact State.retireBank_ok s _ h
  | illegalEnc | illegalPacket => exact State.issueCheck_ok s _ _ h
  | instructionFetch => exact execInstructionFetch_nextOk h
  | thrashThrottleEnd => exact h.of_eq (State.throttleEnd_mems s _ _)
  | _ =>
    -- `seal`, `unseal` and `recall`, whose names are keywords and cannot stand as names of cases
    simp [execSeal_nextOk h, execUnseal_nextOk h, execRecall_nextOk h]

end Sys2Proof.Machine
end

section
/-!
Chains, turns and steps keep the canonical form of every memory (O56).
-/

namespace Sys2Proof.Machine

/-! ## Chains (R77) -/

section

variable {ex : Instr → State → Host.Outcome State Fault Refusal}
  (hex : ∀ i s, s.mems.Ok → NextOk (ex i s))

include hex

theorem runWords_nextOk (base : DWord) (pkt : List Word) (past : DWord) (ws : List (Nat × Instr)) (s : State)
    (h : s.mems.Ok) : NextOk (runWords ex base pkt past ws s) := by
  induction ws generalizing s with
  | nil => exact h
  | cons w t ih =>
    unfold runWords
    extract_lets lv u c
    have hw := hex w.2 { u with ctx := { c with leave := lv } } h
    split
    · rename_i s' hs
      have h' : s'.mems.Ok := hw.of_eq hs
      split
      · exact h'
      · exact ih s' h'
    · exact hw

theorem stalledChain_nextOk (base : DWord) (pkt : List Word) (past : DWord) (ws : List (Nat × Instr)) (s s' : State)
    (age : Nat) (h : s.mems.Ok) : NextOk (stalledChain ex base pkt past ws s s' age) := by
  unfold stalledChain
  extract_lets j head s3
  split
  · simp [h]
  · rename_i w _
    have hw := hex w.2 (s.atWord base pkt j past) (by simp [h])
    split
    · rename_i s1 hs1
      have h1 : s1.mems.Ok := hw.of_eq hs1
      split
      · simp [h1, h]
      · have hh := runWords_nextOk hex base pkt (base + BitVec.ofNat 64 j) head { s.settleOwed with ctx := Ctx.blank }
          (by simp [h])
        split
        · rename_i s2 hs2
          have h2 : s2.mems.Ok := hh.of_eq hs2
          split <;> simp [h2]
        · exact hh
    · exact hw

theorem issueChain_nextOk (s : State) (ws : List (Nat × Instr)) (pkt : List Word) (got : List Pipe)
    (rs : List (Nat × Nat)) (h : s.mems.Ok) : NextOk (issueChain ex s ws pkt got rs) := by
  unfold issueChain
  extract_lets g base past
  have hw := runWords_nextOk hex base pkt past ws { s.settleOwed with ctx := Ctx.blank } (by simp [h])
  split
  · rename_i s' hs
    have h' : s'.mems.Ok := hw.of_eq hs
    split
    · exact stalledChain_nextOk hex _ _ _ _ s s' _ h
    · simp [h']
  · exact hw

theorem issueFrom_nextOk (core : Nat) (gs : List Group) (s : State) (h : s.mems.Ok) :
    NextOk (issueFrom ex core gs s) := by
  induction gs with
  | nil => exact h
  | cons g t ih =>
    have hr : (s.select g.id).ready.Ok := State.ready_ok _ (by simp [h])
    unfold issueFrom
    split
    · rename_i s1 hs
      rw [hs] at hr
      have h1 : s1.mems.Ok := hr
      simp [h1]
    · rename_i s1 j c w hs
      rw [hs] at hr
      have h1 : s1.mems.Ok := hr
      simp [h1]
    · rename_i s1 ws f pkt hs
      rw [hs] at hr
      have h1 : s1.mems.Ok := hr
      split
      · simp [h1]
      · split
        · exact issueChain_nextOk hex s1 _ _ _ _ h1
        · exact ih

end

/-! ## Turns and steps -/

theorem tidied_nextOk {r : Host.Outcome State Fault Refusal} (hr : NextOk r) : NextOk (tidied r) := by
  cases r with
  | next s => exact State.tidy_ok s hr
  | fault _ => exact hr
  | refused _ => exact hr

theorem turn_nextOk (t : Turn) (s : State) (h : s.mems.Ok) : NextOk (turn t s) := by
  cases t with
  | event i =>
    show NextOk (if isWord i then .next s else exec i s)
    split
    · exact h
    · exact exec_nextOk i s h
  | issue core => exact issueFrom_nextOk exec_nextOk core _ s h
  | cycle => exact h.of_eq (State.endCycle_mems s)

theorem step_nextOk (s : State) (h : s.mems.Ok) : NextOk (step s) := by
  unfold step
  split
  · rename_i t rest _
    split
    · exact tidied_nextOk (turn_nextOk t { s with agenda := rest } (by simp [h]))
    · exact h
  · split
    · -- which turn it is does not matter; named, it is not evaluated
      generalize s.autoTurn = t
      exact tidied_nextOk (turn_nextOk t s h)
    · trivial

/-- Settles O56: every write of a memory goes through the canonical operations on sparse maps, so the form is kept by
each instruction, by the chains that issue, and by the bookkeeping of a turn. -/
theorem memoryFormKept : Obligations.MemoryFormKept := by
  unfold Obligations.MemoryFormKept
  intro s t hs ht
  exact (memoryOk_iff t).2 ((step_nextOk s ((memoryOk_iff s).1 hs)).of_eq ht)

end Sys2Proof.Machine
end

section
/-!
The state right after reset (R23, R317).
-/

namespace Sys2Proof.Machine

/-- Settles O57, field by field of the state that powers on. -/
theorem resetState : Obligations.ResetState := by
  unfold Obligations.ResetState
  exact ⟨(memoryOk_iff _).2 ⟨SMap.wf_nil, SMap.wf_nil, SMap.wf_nil, fun p hp => nomatch hp⟩, rfl, rfl, rfl, rfl, rfl, rfl, rfl, rfl⟩

end Sys2Proof.Machine
end

section
/-!
A crew that loses its cores (R186, R228, R300): the ending of its engine words and the shedding of its groups only let what is there
fade (`State.Fades`), and afterwards the crew has nothing but what outlives its lanes (`State.cutLoose_shed`).
-/

namespace Sys2Proof.Machine

/-! ## Groups -/

/-- No lane of the group is on a path. -/
def Group.Idle (g : Group) : Prop := g.path.mask = 0 ∧ g.sets = []

/-- A group has become another that is the same to its crew, and that has a lane only if it had one. -/
structure Group.Fades (g h : Group) : Prop where
  id_eq : h.id = g.id
  crew_eq : h.crew = g.crew
  tn_eq : h.tn = g.tn
  role_eq : h.role = g.role
  idle : g.Idle → h.Idle

namespace Group.Fades

variable {g h k : Group}

theorem refl (g : Group) : g.Fades g := ⟨rfl, rfl, rfl, rfl, fun h => h⟩

theorem trans (a : g.Fades h) (b : h.Fades k) : g.Fades k :=
  ⟨b.id_eq.trans a.id_eq, b.crew_eq.trans a.crew_eq, b.tn_eq.trans a.tn_eq, b.role_eq.trans a.role_eq, b.idle ∘ a.idle⟩

theorem ite {p : Prop} [Decidable p] (a : g.Fades h) : g.Fades (if p then h else g) := by
  split
  · exact a
  · exact refl g

/-- A change of what a group's sets wait for gives it no lane. -/
theorem mapSets (g : Group) (f : PSet → PSet) : g.Fades { g with sets := g.sets.map f } :=
  ⟨rfl, rfl, rfl, rfl, fun ⟨hm, hs⟩ => ⟨hm, by simp [hs]⟩⟩

theorem wake (g : Group) (p : PSet → Bool) : g.Fades (g.wake p) := mapSets g _

theorem join (g : Group) (t : Nat) : g.Fades (g.join t) := ⟨rfl, rfl, rfl, rfl, fun h => h⟩

theorem setS (g : Group) (n : Nat) (x : Word) : g.Fades (g.setS n x) := by
  unfold Group.setS
  split
  · exact refl g
  · exact ⟨rfl, rfl, rfl, rfl, fun h => h⟩

theorem lower (g : Group) (c : Counter) : g.Fades (g.lower c) := by
  cases c <;> exact ⟨rfl, rfl, rfl, rfl, fun h => h⟩

theorem pending (g : Group) (c : Cause) (x : DWord) : g.Fades (g.pending c x) := by
  unfold Group.pending
  split
  · exact refl g
  · exact ⟨rfl, rfl, rfl, rfl, fun h => h⟩

theorem report (g : Group) (t : Nat) (b : Bool) : g.Fades (g.report t b) := by
  cases b <;> exact ⟨rfl, rfl, rfl, rfl, fun h => h⟩

end Group.Fades

theorem Group.shed_idle (g : Group) : g.shed.Idle := ⟨rfl, rfl⟩

theorem State.recount_shed_idle (s : State) (g : Group) : (s.recount g.shed).Idle := g.shed_idle

theorem State.recount_shed_fades (s : State) (g : Group) : g.Fades (s.recount g.shed) :=
  ⟨rfl, rfl, rfl, rfl, fun _ => s.recount_shed_idle g⟩

/-! ## States -/

/-- A crew has become another of its number, and has exited if it had. -/
def Crew.Fades (c d : Crew) : Prop := d.id = c.id ∧ (c.life = .exited → d.life = .exited)

theorem Crew.Fades.refl (c : Crew) : c.Fades c := ⟨rfl, fun h => h⟩

theorem Crew.Fades.ite {c d : Crew} {p : Prop} [Decidable p] (h : c.Fades d) : c.Fades (if p then d else c) := by
  split
  · exact h
  · exact .refl c

/-- Every group and crew of a state is still there in another and has at most faded, and nothing new is in flight or owned. -/
structure State.Fades (s t : State) : Prop where
  tenants : t.tenants = s.tenants
  groups : ∃ f : Group → Group, (∀ g : Group, g.Fades (f g)) ∧ t.cur = f s.cur ∧ t.groups = s.groups.map f
  crews : ∃ f : Crew → Crew, (∀ c : Crew, c.Fades (f c)) ∧ t.crews = s.crews.map f
  owners : ∀ k ∈ t.cores, ∀ c, k.owner = some c → ∃ j ∈ s.cores, j.owner = some c
  xfers : t.flow.xfers ⊆ s.flow.xfers
  accs : t.flow.accs ⊆ s.flow.accs

namespace State.Fades

variable {s t u : State}

theorem refl (s : State) : s.Fades s :=
  ⟨rfl, ⟨id, Group.Fades.refl, rfl, by simp⟩, ⟨id, Crew.Fades.refl, by simp⟩, fun k hk _ hc => ⟨k, hk, hc⟩, fun _ => id,
    fun _ => id⟩

theorem trans (a : s.Fades t) (b : t.Fades u) : s.Fades u := by
  obtain ⟨f, hf, hfc, hfg⟩ := a.groups
  obtain ⟨g, hg, hgc, hgg⟩ := b.groups
  obtain ⟨c, hc, hcc⟩ := a.crews
  obtain ⟨d, hd, hdc⟩ := b.crews
  refine ⟨b.tenants.trans a.tenants, ⟨g ∘ f, fun x => (hf x).trans (hg _), by simp [hgc, hfc], by simp [hgg, hfg]⟩,
    ⟨d ∘ c, fun x => ⟨(hd _).1.trans (hc x).1, (hd _).2 ∘ (hc x).2⟩, by simp [hdc, hcc]⟩, fun k hk e he => ?_,
    fun x hx => a.xfers (b.xfers hx), fun x hx => a.accs (b.accs hx)⟩
  obtain ⟨j, hj, hje⟩ := b.owners k hk e he
  exact a.owners j hj e hje

/-- Steps that let a state fade do so in any number. -/
theorem foldl {α : Type} {f : State → α → State} (hf : ∀ (s : State) x, s.Fades (f s x)) (l : List α) (s : State) :
    s.Fades (l.foldl f s) :=
  List.foldlRecOn l f (refl s) fun _ h x _ => h.trans (hf _ x)

theorem mapGrps (s : State) (f : Group → Group) (hf : ∀ g : Group, g.Fades (f g)) : s.Fades (s.mapGrps f) :=
  { refl s with groups := ⟨f, hf, rfl, rfl⟩ }

theorem mapGrp (s : State) (id : Nat) (f : Group → Group) (hf : ∀ g : Group, g.Fades (f g)) : s.Fades (s.mapGrp id f) :=
  { refl s with groups := ⟨fun g => if g.id == id then f g else g, fun g => (hf g).ite, rfl, rfl⟩ }

theorem mapCrew (s : State) (id : Nat) (f : Crew → Crew) (hf : ∀ c : Crew, c.Fades (f c)) : s.Fades (s.mapCrew id f) :=
  { refl s with crews := ⟨fun c => if c.id == id then f c else c, fun c => (hf c).ite, rfl⟩ }

theorem mapBar (s : State) (crew n : Nat) (f : Barrier → Barrier) : s.Fades (s.mapBar crew n f) :=
  mapCrew s crew _ fun _ => ⟨rfl, id⟩

theorem mapRing (s : State) (crew n : Nat) (f : Ring → Ring) : s.Fades (s.mapRing crew n f) :=
  mapCrew s crew _ fun _ => ⟨rfl, id⟩

theorem onFlow (s : State) (f : Flow → Flow) (hx : (f s.flow).xfers ⊆ s.flow.xfers) (ha : (f s.flow).accs ⊆ s.flow.accs) :
    s.Fades (s.onFlow f) :=
  { refl s with xfers := hx, accs := ha }

/-- A change of the cores that gives none of them an owner. -/
theorem mapCores (s : State) (f : Core → Core) (hf : ∀ k c, (f k).owner = some c → k.owner = some c) :
    s.Fades { s with cores := s.cores.map f } := by
  refine { refl s with owners := fun k hk c hc => ?_ }
  obtain ⟨j, hj, rfl⟩ := List.mem_map.1 hk
  exact ⟨j, hj, hf j c hc⟩

theorem mapEng (s : State) (core : Nat) (f : Engine → Engine) : s.Fades (s.mapEng core f) := by
  unfold State.mapEng State.mapCore
  split
  · refine mapCores s _ fun k c hc => ?_
    split at hc <;> exact hc
  · refine { refl s with owners := fun k hk c hc => ?_ }
    rcases List.mem_append.1 hk with hk | hk
    · exact ⟨k, hk, hc⟩
    · rw [List.mem_singleton.1 hk] at hc
      exact absurd hc (by simp [Core.empty])

end State.Fades

/-! ## Engine words that end -/

namespace State

variable (s : State)

theorem settle_fades : s.Fades s.settle := Fades.mapGrps s _ fun g => .wake g _

theorem complete_fades (grp : Nat) (c : Counter) : s.Fades (s.complete grp c) :=
  (Fades.mapGrp s grp _ fun g => .lower g c).trans (settle_fades _)

theorem dataFor_fades (wd : Nat) : s.Fades (s.dataFor wd) := Fades.mapGrps s _ fun g => .mapSets g _

theorem raiseNodes_fades (p : Signal → Bool) (t : Nat) : s.Fades (s.raiseNodes p t) :=
  Fades.onFlow s _ (fun _ => id) fun _ => id

theorem completeBar_fades (crew n : Nat) : s.Fades (s.completeBar crew n) := by
  unfold completeBar
  dsimp only
  split
  · exact (Fades.mapBar s crew n _).trans (Fades.mapGrps _ _ fun g => ((Group.Fades.wake g _).trans (.report _ _ _)).ite)
  · exact Fades.refl s

theorem serveRing_fades (crew : Nat) (q : BitVec 3) (fuel : Nat) : s.Fades (s.serveRing crew q fuel) := by
  induction fuel generalizing s with
  | zero => exact Fades.refl s
  | succ n ih =>
    unfold serveRing
    dsimp only
    split
    · exact Fades.refl s
    · split
      · refine ((Fades.mapRing s crew _ _).trans (Fades.mapGrp _ _ _ fun g => ?_)).trans (ih _)
        exact (Group.Fades.setS g _ _).trans (.wake _ _)
      · split
        · refine ((Fades.mapRing s crew _ _).trans (Fades.mapGrp _ _ _ fun g => ?_)).trans (ih _)
          exact ((Group.Fades.join g _).trans (.setS _ _ _)).trans (.wake _ _)
        · exact Fades.refl s

theorem settleStage_fades (crew : Nat) (q : BitVec 3) (i : Nat) : s.Fades (s.settleStage crew q i) := by
  unfold settleStage
  dsimp only
  split
  · exact (Fades.mapRing s crew _ _).trans (serveRing_fades _ _ _ _)
  · exact Fades.refl s

/-- An engine word that ends leaves nothing new behind, and goes. -/
theorem retire_fades (x : Xfer) (ts : Nat) (b : Bool) :
    (s.onFlow fun f => { f with xfers := f.xfers.filter (·.id != x.id) }).Fades (s.retire x ts b) := by
  unfold retire
  extract_lets s0 s1 s2 s3 s4
  have h1 : (s.onFlow fun f => { f with xfers := f.xfers.filter (·.id != x.id) }).Fades s1 := by
    unfold s1 s0
    split
    · exact { Fades.refl (s.onFlow _) with }
    · exact Fades.refl _
  have h2 : s1.Fades s2 := by
    unfold s2
    split
    · exact (Fades.mapBar s1 _ _ _).trans (completeBar_fades _ _ _)
    · exact Fades.refl _
  have h3 : s2.Fades s3 := by
    unfold s3
    split
    · exact (Fades.mapRing s2 _ _ _).trans (settleStage_fades _ _ _ _)
    · exact Fades.refl _
  have h4 : s3.Fades s4 := (dataFor_fades s3 _).trans (raiseNodes_fades _ _ _)
  refine ((h1.trans h2).trans (h3.trans h4)).trans ?_
  split
  · exact complete_fades s4 _ _
  · exact Fades.refl _

theorem pendPoison_fades (x : Xfer) : s.Fades (s.pendPoison x) :=
  { Fades.mapGrp s x.grp _ fun g => .pending g _ _ with }

theorem pendFactor_fades (x : Xfer) (os : List Nat) : s.Fades (s.pendFactor x os) := by
  unfold pendFactor
  split
  · exact Fades.mapGrp s x.grp _ fun g => .pending g _ _
  · exact Fades.refl s

/-- A state has faded into another in which an engine word is no longer in flight. -/
def Ends (s : State) (x : Xfer) (t : State) : Prop := s.Fades t ∧ ∀ y ∈ t.flow.xfers, y.id ≠ x.id

variable {s}

theorem Fades.retire {t : State} (h : s.Fades t) (x : Xfer) (ts : Nat) (b : Bool) : s.Ends x (t.retire x ts b) := by
  have hr := retire_fades t x ts b
  have hf := Fades.onFlow t (fun f => { f with xfers := f.xfers.filter (·.id != x.id) })
    (List.filter_subset_self _) fun _ => id
  exact ⟨h.trans (hf.trans hr), fun y hy => by simpa using (List.mem_filter.1 (hr.xfers hy)).2⟩

variable (s)

/-- An accumulator word that completes when its crew stops ends when it acts (R228). -/
theorem taccAct_ends (x : Xfer) (hx : x.completes = true) (t : State) (ht : s.taccAct x = some t) : s.Ends x t := by
  unfold taccAct at ht
  split at ht
  · cases ht
  extract_lets e clean at ht
  split at ht
  case h_1 =>
    cases ht
    exact (Fades.mapEng s x.core _).retire x _ _
  case h_3 | h_4 =>
    split at ht <;> cases ht
    · exact (pendPoison_fades s x).retire x _ _
    · exact ((pendFactor_fades s x _).trans (Fades.mapEng _ _ _)).retire x _ _
  all_goals rename_i hk; simp [Xfer.completes, hk] at hx

/-- Whether it completes or is cancelled, an engine word of a crew that leaves its cores ends (R228). -/
theorem endWord_ends (x : Xfer) : s.Ends x ((if x.completes then s.taccAct x else none).getD (s.cancel x)) := by
  have hc : s.Ends x (s.cancel x) := (Fades.refl s).retire x 0 true
  split
  · rename_i hx
    cases ht : s.taccAct x with
    | none => exact hc
    | some t => exact taccAct_ends s x hx t ht
  · exact hc

theorem endWords_fades (xs : List Xfer) : s.Fades (s.endWords xs) := Fades.foldl (fun s x => (endWord_ends s x).1) xs s

/-- None of the engine words that end is left. -/
theorem endWords_ended (xs : List Xfer) (x : Xfer) (hx : x ∈ xs) : x ∉ (s.endWords xs).flow.xfers := by
  induction xs generalizing s with
  | nil => cases hx
  | cons y ys ih =>
    rcases List.mem_cons.1 hx with rfl | hx
    · intro h
      exact (endWord_ends s x).2 x ((endWords_fades _ ys).xfers h) rfl
    · exact ih _ hx

end State

/-! ## A crew torn from its cores -/

theorem Access.outlives_iff (a : Access) : a.outlives = true ↔ a.isLoad = false ∧ a.kind ≠ .pref ∧ a.cls ≠ .scratch := by
  simp [Access.outlives, and_assoc]

namespace State

variable {s t : State}

theorem Fades.mem_allGroups (h : s.Fades t) {k : Group} (hk : k ∈ t.allGroups) : ∃ g ∈ s.allGroups, g.Fades k := by
  obtain ⟨f, hf, hc, hg⟩ := h.groups
  rw [allGroups, hc, hg, ← List.map_cons] at hk
  obtain ⟨g, hm, rfl⟩ := List.mem_map.1 hk
  exact ⟨g, hm, hf g⟩

theorem Fades.allGroups_mem (h : s.Fades t) {g : Group} (hg : g ∈ s.allGroups) : ∃ k ∈ t.allGroups, g.Fades k := by
  obtain ⟨f, hf, hc, hgs⟩ := h.groups
  refine ⟨f g, ?_, hf g⟩
  rw [allGroups, hc, hgs, ← List.map_cons]
  exact List.mem_map_of_mem hg

variable (s)

/-- The group is one of a crew's, by its number. -/
def ofCrew (crew id : Nat) : Bool := (s.crewGroups crew).any (·.id == id)

theorem ofCrew_iff (crew id : Nat) : s.ofCrew crew id = true ↔ ∃ g ∈ s.allGroups, g.id = id ∧ g.id ≠ 0 ∧ g.crew = crew := by
  simp only [ofCrew, crewGroups, List.any_eq_true, List.mem_filter, Bool.and_eq_true, beq_iff_eq, bne_iff_ne]
  exact ⟨fun ⟨g, ⟨hg, hc, h0⟩, hi⟩ => ⟨g, hg, hi, h0, hc⟩, fun ⟨g, hg, hi, h0, hc⟩ => ⟨g, ⟨hg, hc, h0⟩, hi⟩⟩

/-- What the crew's groups, engine words and accesses have lost when it has shed them (R186, R228; log 97). -/
structure ShedGroups (s t : State) (crew : Nat) : Prop where
  fades : s.Fades t
  idle : ∀ g ∈ t.allGroups, g.crew = crew → g.id ≠ 0 → g.Idle
  words : ∀ x ∈ t.flow.xfers, x.crew = crew → x.ofTenant = true
  accs : ∀ a ∈ t.flow.accs, s.ofCrew crew a.grp = true → a.outlives = true

theorem shedCrew_shedGroups (crew : Nat) : s.ShedGroups (s.shedCrew crew) crew := by
  unfold shedCrew
  extract_lets gs mine s1 s2 still s3 s4
  have h1 : s.Fades s1 := endWords_fades s _
  have h2 : s1.Fades s2 := Fades.onFlow s1 _ (List.filter_subset_self _) (List.filter_subset_self _)
  have h3 : s.Fades s3 := (h1.trans h2).trans (Fades.onFlow s2 _ (fun _ => id) fun _ => id)
  have h4 : s3.Fades s4 := Fades.mapGrps s3 _ fun g => (recount_shed_fades s3 g).ite
  refine ⟨h3.trans (h4.trans (Fades.mapCores s4 _ fun _ _ h => h)), fun g hg hc h0 => ?_, fun x hx hc => ?_, fun a ha hm => ?_⟩
  · obtain ⟨k, hk, rfl⟩ := List.mem_map.1
      (show g ∈ s3.allGroups.map fun g => if mine g.id then s3.recount g.shed else g from hg)
    have hf : k.Fades (if mine k.id then s3.recount k.shed else k) := (recount_shed_fades s3 k).ite
    obtain ⟨j, hj, hjk⟩ := h3.mem_allGroups hk
    have hm : mine k.id = true := (s.ofCrew_iff crew k.id).2
      ⟨j, hj, hjk.id_eq.symm, by rw [← hjk.id_eq, ← hf.id_eq]; exact h0, by rw [← hjk.crew_eq, ← hf.crew_eq]; exact hc⟩
    rw [if_pos hm]
    exact recount_shed_idle s3 k
  · by_contra ht
    obtain ⟨hx1, hh⟩ := List.mem_filter.1 (show x ∈ s1.flow.xfers.filter fun x => !(x.crew == crew && x.held) from hx)
    exact endWords_ended s _ x (List.mem_filter.2 ⟨h1.xfers hx1, by simpa [hc, ht] using hh⟩) hx1
  · obtain ⟨-, hk⟩ := List.mem_filter.1 (show a ∈ s1.flow.accs.filter fun a => !mine a.grp || a.outlives from ha)
    rwa [show mine a.grp = true from hm, Bool.not_true, Bool.false_or] at hk

theorem cutLoose_fades (crew : Nat) : s.Fades (s.cutLoose crew) := by
  unfold cutLoose
  extract_lets s1
  have h1 : s.Fades s1 := (shedCrew_shedGroups s crew).fades.trans (Fades.mapCrew _ crew _ fun c => ⟨rfl, fun _ => rfl⟩)
  refine h1.trans (Fades.mapCores s1 _ fun k c h => ?_)
  split_ifs at h
  exact h

theorem cutLoose_shed (crew : Nat) : Shed s (s.cutLoose crew) crew := by
  have h := shedCrew_shedGroups s crew
  refine ⟨fun c hc hid => ?_, fun k hk ho => ?_, h.idle, h.words, fun a ha hg => ?_⟩
  · obtain ⟨d, -, rfl⟩ := List.mem_map.1 hc
    split
    · rfl
    · rename_i hd
      rw [if_neg hd] at hid
      exact absurd hid (by simpa using hd)
  · obtain ⟨j, -, rfl⟩ := List.mem_map.1 hk
    simp at ho
  · exact a.outlives_iff.1 (h.accs a ha ((s.ofCrew_iff crew a.grp).2 hg))

end State
end Sys2Proof.Machine
end

section
/-!
Stopping a partition (R311): steps after which groups and crews may be gone (`State.Wanes`) give no crew its cores back, so that the
crews of a stopped partition have lost theirs (`State.stopPart_stops`).
-/

namespace Sys2Proof.Machine

/-! ## States that only lose -/

/-- A group has become another of its number and crew that is no service group unless it was one, and has no lane unless it had one. -/
structure Group.Wanes (g h : Group) : Prop where
  id_eq : h.id = g.id
  crew_eq : h.crew = g.crew
  service : h.role = .service → g.role = .service
  idle : g.Idle → h.Idle

theorem Group.Wanes.refl (g : Group) : g.Wanes g := ⟨rfl, rfl, fun h => h, fun h => h⟩

theorem Group.Wanes.trans {g h k : Group} (a : g.Wanes h) (b : h.Wanes k) : g.Wanes k :=
  ⟨b.id_eq.trans a.id_eq, b.crew_eq.trans a.crew_eq, a.service ∘ b.service, b.idle ∘ a.idle⟩

theorem Group.Fades.wanes {g h : Group} (a : g.Fades h) : g.Wanes h :=
  ⟨a.id_eq, a.crew_eq, fun hr => a.role_eq.symm.trans hr, a.idle⟩

/-- A service group that becomes a vector group. -/
theorem Group.Wanes.unserve (g : Group) : g.Wanes { g with role := .vector, saving := none, restart := none } :=
  ⟨rfl, rfl, fun h => absurd h (by simp), fun h => h⟩

/-- Every group of the second state comes from one of the first or is blank, and every crew, owner of a core, engine word and access
of it from one of the first. Unlike in `State.Fades`, groups and crews may be gone. -/
structure State.Wanes (s t : State) : Prop where
  groups : ∀ h ∈ t.allGroups, ∃ g ∈ Group.blank :: s.allGroups, g.Wanes h
  crews : ∀ d ∈ t.crews, ∃ c ∈ s.crews, c.Fades d
  owners : ∀ k ∈ t.cores, ∀ c, k.owner = some c → ∃ j ∈ s.cores, j.owner = some c
  xfers : t.flow.xfers ⊆ s.flow.xfers
  accs : t.flow.accs ⊆ s.flow.accs

namespace State

variable {s t u : State}

theorem Fades.wanes (h : s.Fades t) : s.Wanes t := by
  refine ⟨fun k hk => ?_, fun d hd => ?_, h.owners, h.xfers, h.accs⟩
  · obtain ⟨g, hg, hgk⟩ := h.mem_allGroups hk
    exact ⟨g, List.mem_cons_of_mem _ hg, hgk.wanes⟩
  · obtain ⟨f, hf, hc⟩ := h.crews
    obtain ⟨c, hc, rfl⟩ := List.mem_map.1 (hc ▸ hd)
    exact ⟨c, hc, hf c⟩

theorem Wanes.refl (s : State) : s.Wanes s := (Fades.refl s).wanes

theorem Wanes.trans (a : s.Wanes t) (b : t.Wanes u) : s.Wanes u := by
  refine ⟨fun h hh => ?_, fun d hd => ?_, fun k hk e he => ?_, fun x hx => a.xfers (b.xfers hx), fun x hx => a.accs (b.accs hx)⟩
  · obtain ⟨g, hg, hgh⟩ := b.groups h hh
    rcases List.mem_cons.1 hg with rfl | hg
    · exact ⟨_, List.mem_cons_self, hgh⟩
    · obtain ⟨f, hf, hfg⟩ := a.groups g hg
      exact ⟨f, hf, hfg.trans hgh⟩
  · obtain ⟨c, hc, hcd⟩ := b.crews d hd
    obtain ⟨e, he, hec⟩ := a.crews c hc
    exact ⟨e, he, hcd.1.trans hec.1, hcd.2 ∘ hec.2⟩
  · obtain ⟨j, hj, hje⟩ := b.owners k hk e he
    exact a.owners j hj e hje

/-- Steps that let a state wane do so in any number. -/
theorem foldl_wanes {α : Type} {f : State → α → State} (hf : ∀ (s : State) x, s.Wanes (f s x)) (l : List α) (s : State) :
    s.Wanes (l.foldl f s) :=
  List.foldlRecOn l f (Wanes.refl s) fun _ h x _ => h.trans (hf _ x)

theorem Wanes.mapGrp (s : State) (id : Nat) (f : Group → Group) (hf : ∀ g : Group, g.Wanes (f g)) : s.Wanes (s.mapGrp id f) := by
  refine { Wanes.refl s with groups := fun h hh => ?_ }
  obtain ⟨g, hg, rfl⟩ := List.mem_map.1 (show h ∈ s.allGroups.map fun g => if g.id == id then f g else g from hh)
  refine ⟨g, List.mem_cons_of_mem _ hg, ?_⟩
  split
  · exact hf g
  · exact .refl g

/-- A blank group may take the place of the one in issue, and any other group may go. -/
theorem Wanes.dropGroups (s : State) (cur : Group) (groups : List Group) (hc : cur = Group.blank ∨ cur = s.cur)
    (hg : groups ⊆ s.groups) : s.Wanes { s with cur := cur, groups := groups } := by
  refine { Wanes.refl s with groups := fun h hh => ⟨h, ?_, .refl h⟩ }
  rcases List.mem_cons.1 hh with rfl | hh
  · rcases hc with h | h <;> simp [h, allGroups]
  · exact List.mem_cons_of_mem _ (List.mem_cons_of_mem _ (hg hh))

/-! ## Crews that have lost their cores -/

/-- What has lost its cores does not get them back. -/
theorem Wanes.shed {crew : Nat} (w : t.Wanes u) (h : Shed s t crew) : Shed s u crew := by
  obtain ⟨hcrew, hown, hgrp, hword, hacc⟩ := h
  refine ⟨fun d hd hid => ?_, fun k hk ho => ?_, fun g hg hc h0 => ?_, fun x hx => hword x (w.xfers hx), fun a ha => hacc a (w.accs ha)⟩
  · obtain ⟨c, hc, hcd⟩ := w.crews d hd
    exact hcd.2 (hcrew c hc (hcd.1.symm.trans hid))
  · obtain ⟨j, hj, hjo⟩ := w.owners k hk crew ho
    exact hown j hj hjo
  · obtain ⟨f, hf, hfg⟩ := w.groups g hg
    rcases List.mem_cons.1 hf with rfl | hf
    · exact absurd hfg.id_eq h0
    · exact hfg.idle (hgrp f hf (hfg.crew_eq.symm.trans hc) (hfg.id_eq ▸ h0))

/-- Every group of the first state is still in the second, by its number and crew. -/
def Keeps (s t : State) : Prop := ∀ g ∈ s.allGroups, ∃ h ∈ t.allGroups, h.id = g.id ∧ h.crew = g.crew

theorem Keeps.trans (a : s.Keeps t) (b : t.Keeps u) : s.Keeps u := fun g hg => by
  obtain ⟨h, hh, hi, hc⟩ := a g hg
  obtain ⟨k, hk, ki, kc⟩ := b h hh
  exact ⟨k, hk, ki.trans hi, kc.trans hc⟩

theorem Fades.keeps (h : s.Fades t) : s.Keeps t := fun g hg => by
  obtain ⟨k, hk, f⟩ := h.allGroups_mem hg
  exact ⟨k, hk, f.id_eq, f.crew_eq⟩

theorem Keeps.mapGrp (s : State) (id : Nat) (f : Group → Group) (hf : ∀ g : Group, g.Wanes (f g)) : s.Keeps (s.mapGrp id f) :=
  fun g hg => by
    refine ⟨_, (List.mem_map_of_mem hg : _ ∈ s.allGroups.map fun g => if g.id == id then f g else g), ?_⟩
    split
    · exact ⟨(hf g).id_eq, (hf g).crew_eq⟩
    · exact ⟨rfl, rfl⟩

/-- A crew that has lost its cores since a later state, in which its groups still were, has lost them since an earlier one. -/
theorem Keeps.shed {crew : Nat} (k : s.Keeps t) (h : Shed t u crew) : Shed s u crew := by
  obtain ⟨hcrew, hown, hgrp, hword, hacc⟩ := h
  refine ⟨hcrew, hown, hgrp, hword, fun a ha hg => hacc a ha ?_⟩
  obtain ⟨g, hg, hi, h0, hc⟩ := hg
  obtain ⟨h, hh, hid, hcr⟩ := k g hg
  exact ⟨h, hh, hid.trans hi, hid ▸ h0, hcr.trans hc⟩

/-- Steps that each take a crew from its cores take all of theirs. -/
theorem foldl_shed {α : Type} {f : State → α → State} {crew : α → Nat} (hw : ∀ (s : State) x, s.Wanes (f s x))
    (hk : ∀ (s : State) x, s.Keeps (f s x)) (hs : ∀ (s : State) x, Shed s (f s x) (crew x)) (l : List α) (s : State)
    (x : α) (hx : x ∈ l) : Shed s (l.foldl f s) (crew x) := by
  induction l generalizing s with
  | nil => cases hx
  | cons y ys ih =>
    rcases List.mem_cons.1 hx with rfl | hx
    · exact (foldl_wanes hw ys _).shed (hs s x)
    · exact (hk s y).shed (ih _ hx)

/-! ## Stopping a partition -/

/-- No group of a number is a service group. -/
def NoService (s : State) (id : Nat) : Prop := ∀ g ∈ s.allGroups, g.id = id → g.role ≠ .service

theorem Wanes.noService {id : Nat} (w : s.Wanes t) (h : s.NoService id) : t.NoService id := fun k hk hid hr => by
  obtain ⟨g, hg, hgk⟩ := w.groups k hk
  rcases List.mem_cons.1 hg with rfl | hg
  · exact absurd (hgk.service hr) (by simp [Group.blank])
  · exact h g hg (hgk.id_eq.symm.trans hid) (hgk.service hr)

variable (s)

theorem dropService_wanes_cutLoose (g : Group) : (s.cutLoose g.crew).Wanes (s.dropService g) :=
  (Wanes.mapGrp (s.cutLoose g.crew) g.id _ .unserve).trans
    (Fades.mapCrew _ g.crew (fun c => { c with service := false }) fun _ => ⟨rfl, fun h => h⟩).wanes

theorem dropService_wanes (g : Group) : s.Wanes (s.dropService g) :=
  (cutLoose_fades s g.crew).wanes.trans (dropService_wanes_cutLoose s g)

theorem dropService_keeps (g : Group) : s.Keeps (s.dropService g) :=
  (cutLoose_fades s g.crew).keeps.trans (Keeps.mapGrp (s.cutLoose g.crew) g.id _ .unserve)

theorem dropService_shed (g : Group) : Shed s (s.dropService g) g.crew :=
  (dropService_wanes_cutLoose s g).shed (cutLoose_shed s g.crew)

theorem dropService_noService (g : Group) : (s.dropService g).NoService g.id := by
  intro k hk hid
  obtain ⟨j, -, rfl⟩ := List.mem_map.1
    (show k ∈ (s.cutLoose g.crew).allGroups.map fun k => if k.id == g.id then
      { k with role := .vector, saving := none, restart := none } else k from hk)
  split
  · simp
  · rename_i hj
    rw [if_neg hj] at hid
    exact absurd hid (by simpa using hj)

theorem foldl_dropService_noService (l : List Group) (g : Group) (hg : g ∈ l) : (l.foldl dropService s).NoService g.id := by
  induction l generalizing s with
  | nil => cases hg
  | cons k ks ih =>
    rcases List.mem_cons.1 hg with rfl | hg
    · exact (foldl_wanes dropService_wanes ks _).noService (dropService_noService s g)
    · exact ih _ hg

@[simp] theorem dropService_tenants (g : Group) : (s.dropService g).tenants = s.tenants := (cutLoose_fades s g.crew).tenants

theorem foldl_dropService_tenants (l : List Group) : (l.foldl dropService s).tenants = s.tenants :=
  List.foldlRecOn l dropService (motive := fun t => t.tenants = s.tenants) rfl fun t ht g _ => (dropService_tenants t g).trans ht

/-- What a partition's stop leaves of its crews, service groups and work (R228, R311; log 53). -/
structure Stops (s t : State) (tn : Nat) : Prop where
  crews : ∀ c ∈ s.crews, c.tn = tn → c.service = false → Shed s t c.id
  services : ∀ g ∈ s.allGroups, g.tn = tn → g.role = .service → Shed s t g.crew ∧ t.NoService g.id
  nodes : ∀ n ∈ t.nodes, n.tn ≠ tn
  pool : ∀ e ∈ t.pool, e.tn ≠ tn
  resumed : ∀ r ∈ t.resumed, r.tn ≠ tn

theorem stopPart_stops (tn : Nat) : s.Stops (s.stopPart tn) tn := by
  unfold stopPart
  extract_lets mine s1 s2
  have h1 : s.Fades s1 := Fades.foldl cutLoose_fades _ s
  have h2 : s1.Wanes s2 := foldl_wanes dropService_wanes _ s1
  have h3 : s2.Wanes (s.stopPart tn) := by
    refine { Wanes.refl s2 with owners := fun k hk c hc => ?_ }
    obtain ⟨j, hj, rfl⟩ := List.mem_map.1 hk
    split_ifs at hc
    exact ⟨j, hj, hc⟩
  refine ⟨fun c hc ht hs => ?_, fun g hg ht hr => ?_, fun n hn => ?_, fun e he => ?_, fun r hr => ?_⟩
  · refine (h2.trans h3).shed (foldl_shed (crew := id) (fun s c => (cutLoose_fades s c).wanes)
      (fun s c => (cutLoose_fades s c).keeps) cutLoose_shed _ s c.id ?_)
    exact List.mem_map_of_mem (List.mem_filter.2 ⟨hc, by simp [ht, hs]⟩)
  · obtain ⟨k, hk, hgk⟩ := h1.allGroups_mem hg
    have hm : k ∈ s1.allGroups.filter fun g => g.tn == tn && g.role == .service :=
      List.mem_filter.2 ⟨hk, by simp [hgk.tn_eq, hgk.role_eq, ht, hr]⟩
    have hs := foldl_shed dropService_wanes dropService_keeps dropService_shed _ s1 k hm
    have hn := foldl_dropService_noService s1 _ k hm
    rw [hgk.crew_eq] at hs
    rw [hgk.id_eq] at hn
    exact ⟨h1.keeps.shed (h3.shed hs), h3.noService hn⟩
  · simpa using (List.mem_filter.1 hn).2
  · simpa using (List.mem_filter.1 he).2
  · simpa using (List.mem_filter.1 hr).2

theorem stopPart_tenants (tn : Nat) :
    (s.stopPart tn).tenants = (s.mapTenant tn fun t => { t with life := .stopping }).tenants := by
  unfold stopPart
  extract_lets mine s1 s2
  have h1 : s.Fades s1 := Fades.foldl cutLoose_fades _ s
  rw [mapTenant_tenants, mapTenant_tenants]
  exact congrArg _ ((foldl_dropService_tenants s1 _).trans h1.tenants)

end State
end Sys2Proof.Machine
end

section
/-!
The bookkeeping that forgets what has ended, the end of a partition, TEARDOWN and what firmware has back after it (R23, R311).
-/

namespace Sys2Proof.Machine

/-! ## Records and lookups of a tenant -/

/-- A record that is neither of an interval nor of a service event joins those held, however many these are (R312). -/
theorem Tenant.hold_held (p : Tenant) (r : UsageRec) (h0 : r.kind ≠ 0) (h2 : r.kind ≠ 2) : (p.hold r).held = p.held ++ [r] := by
  simp [Tenant.hold, h0, h2]

theorem Tenant.hold_id (p : Tenant) (r : UsageRec) : (p.hold r).id = p.id := by
  unfold Tenant.hold
  extract_lets app more merged
  clear_value merged
  cases merged <;> rfl

theorem State.find_mapTenant {s : State} {tn : Nat} {p : Tenant} (h : s.tenants.find? (·.id == tn) = some p) (f : Tenant → Tenant)
    (hf : ∀ t : Tenant, (f t).id = t.id) : (s.mapTenant tn f).tenants.find? (·.id == tn) = some (f p) := by
  rw [State.mapTenant_tenants, find_map_key s.tenants (·.id) tn f hf, if_pos rfl, h, Option.map_some]

/-- A tenant with a record of its own kind made is the tenant with the record held. -/
theorem State.find_addRecord {s : State} {tn : Nat} {p : Tenant} (h : s.tenants.find? (·.id == tn) = some p) (kind : Nat)
    (code : BitVec 8) (reason : BitVec 16) (core : Nat) (pc : DWord) (h0 : kind ≠ 0) (h2 : kind ≠ 2) :
    ∃ q, (s.addRecord tn kind code reason core pc).tenants.find? (·.id == tn) = some q ∧
      ∃ r, q.held = p.held ++ [r] ∧ r.kind = kind :=
  ⟨_, State.find_mapTenant h _ fun t => Tenant.hold_id t _, _, Tenant.hold_held p _ h0 h2, rfl⟩

theorem State.tenant_of_find {s : State} {tn : Nat} {p : Tenant} (h : s.tenants.find? (·.id == tn) = some p) : s.tenant tn = p := by
  rw [State.tenant, h, Option.getD_some]

/-! ## Forgetting what has ended -/

/-- What the bookkeeping of ended groups and crews never changes of a tenant. -/
def Tenant.standing (p : Tenant) : Nat × Life × List UsageRec := (p.id, p.life, p.held)

namespace State

variable {s t u : State}

/-- Ended groups and crews may be gone; what waits for placement, and each node and tenant, stands where it stood. -/
structure Reaps (s t : State) : Prop where
  wanes : s.Wanes t
  nodes : t.nodes.map (·.tn) = s.nodes.map (·.tn)
  pool : t.pool = s.pool
  resumed : t.resumed = s.resumed
  tenants : t.tenants.map Tenant.standing = s.tenants.map Tenant.standing

theorem Reaps.refl (s : State) : s.Reaps s := ⟨.refl s, rfl, rfl, rfl, rfl⟩

theorem Reaps.trans (a : s.Reaps t) (b : t.Reaps u) : s.Reaps u :=
  ⟨a.wanes.trans b.wanes, b.nodes.trans a.nodes, b.pool.trans a.pool, b.resumed.trans a.resumed, b.tenants.trans a.tenants⟩

theorem foldl_reaps {α : Type} {f : State → α → State} (hf : ∀ (s : State) x, s.Reaps (f s x)) (l : List α) (s : State) :
    s.Reaps (l.foldl f s) :=
  List.foldlRecOn l f (Reaps.refl s) fun _ h x _ => h.trans (hf _ x)

theorem Reaps.mapCrew (s : State) (id : Nat) (f : Crew → Crew) (hf : ∀ c : Crew, c.Fades (f c)) : s.Reaps (s.mapCrew id f) :=
  { Reaps.refl s with wanes := (Fades.mapCrew s id f hf).wanes }

theorem Reaps.mapNode (s : State) (id : Nat) (f : Node → Node) (hf : ∀ n, (f n).tn = n.tn) : s.Reaps (s.mapNode id f) := by
  refine { Reaps.refl s with wanes := { Wanes.refl s with }, nodes := ?_ }
  rw [mapNode_nodes, List.map_map]
  refine List.map_congr_left fun n _ => ?_
  dsimp only [Function.comp]
  split
  · exact hf n
  · rfl

theorem Reaps.mapTenant (s : State) (id : Nat) (f : Tenant → Tenant) (hf : ∀ p : Tenant, (f p).standing = p.standing) :
    s.Reaps (s.mapTenant id f) := by
  refine { Reaps.refl s with wanes := { Wanes.refl s with }, tenants := ?_ }
  rw [mapTenant_tenants, List.map_map]
  refine List.map_congr_left fun p _ => ?_
  dsimp only [Function.comp]
  split
  · exact hf p
  · rfl

variable (s)

theorem endGroup_reaps (g : Group) : s.Reaps (s.endGroup g) := by
  have h : s.Reaps (s.mapGrp g.id fun g => { g with slot := false }) :=
    { Reaps.refl s with wanes := Wanes.mapGrp s g.id _ fun _ => ⟨rfl, rfl, fun h => h, fun h => h⟩ }
  unfold endGroup
  dsimp only
  split
  · exact h.trans (Reaps.mapCrew _ _ _ fun _ => ⟨rfl, fun h => h⟩)
  · exact h

theorem dropGroup_reaps (g : Group) : s.Reaps (s.dropGroup g) := by
  unfold dropGroup
  extract_lets s1
  have h1 : s.Reaps s1 := Reaps.mapNode s _ _ fun _ => rfl
  have hw := Wanes.dropGroups s1 (if s1.cur.id == g.id then Group.blank else s1.cur) (s1.groups.filter (·.id != g.id))
    (by split <;> simp) (List.filter_subset_self _)
  exact h1.trans { Reaps.refl s1 with wanes := { hw with accs := List.filter_subset_self _ } }

theorem crewExit_reaps (c : Crew) : s.Reaps (s.crewExit c) :=
  ((Reaps.mapCrew s c.id (fun c => { c with life := .exited }) fun _ => ⟨rfl, fun _ => rfl⟩).trans
    (Reaps.mapNode _ c.node (fun n => { n with exited := n.exited + 1 }) fun _ => rfl)).trans
    (Reaps.mapTenant _ c.tn (fun p => { p with saves := p.saves.filter fun e => !e.isOf (s.node c.node).recVa c }) fun _ => rfl)

theorem leaveCores_reaps (crew : Nat) : s.Reaps (s.leaveCores crew) := by
  have hw := Wanes.dropGroups s (if s.cur.crew == crew then Group.blank else s.cur) (s.groups.filter fun g => !(g.crew == crew))
    (by split <;> simp) (List.filter_subset_self _)
  refine { Reaps.refl s with
    wanes := { hw with crews := fun d hd => ⟨d, List.mem_of_mem_filter hd, .refl d⟩, owners := fun k hk c hc => ?_ } }
  obtain ⟨j, hj, rfl⟩ := List.mem_map.1 hk
  dsimp only at hc
  split_ifs at hc
  exact ⟨j, hj, hc⟩

theorem crewLeave_reaps (c : Crew) : s.Reaps (s.crewLeave c) :=
  (leaveCores_reaps s c.id).trans { Reaps.refl _ with wanes := { Wanes.refl _ with } }

theorem reap_reaps : s.Reaps s.reap := by
  unfold reap
  extract_lets s1 s2 s3
  have h1 : s.Reaps s1 := foldl_reaps endGroup_reaps _ s
  have h2 : s1.Reaps s2 := foldl_reaps dropGroup_reaps _ s1
  have h3 : s2.Reaps s3 := foldl_reaps crewExit_reaps _ s2
  exact ((h1.trans h2).trans h3).trans (foldl_reaps crewLeave_reaps _ s3)

variable {s}

/-- A stop that the bookkeeping follows is still one. -/
theorem Stops.wanes {tn : Nat} (h : s.Stops t tn) (w : t.Wanes u) (hn : ∀ n ∈ u.nodes, n.tn ≠ tn)
    (hp : u.pool = t.pool) (hr : u.resumed = t.resumed) : s.Stops u tn :=
  ⟨fun c hc ht hs => w.shed (h.crews c hc ht hs),
    fun g hg ht hs => ⟨w.shed (h.services g hg ht hs).1, w.noService (h.services g hg ht hs).2⟩,
    hn, hp ▸ h.pool, hr ▸ h.resumed⟩

theorem Stops.reaps {tn : Nat} (h : s.Stops t tn) (r : t.Reaps u) : s.Stops u tn := by
  refine h.wanes r.wanes (fun n hn => ?_) r.pool r.resumed
  obtain ⟨m, hm, hmn⟩ := List.mem_map.1 (r.nodes ▸ List.mem_map_of_mem hn)
  exact fun e => h.nodes m hm (hmn.trans e)

/-- The life and the held records of a tenant, where there is one of the number. -/
def Stands (s : State) (tn : Nat) (life : Life) (held : List UsageRec) : Prop :=
  ∃ p, s.tenants.find? (·.id == tn) = some p ∧ p.life = life ∧ p.held = held

theorem Reaps.stands {tn : Nat} {life : Life} {held : List UsageRec} (r : s.Reaps t) (h : s.Stands tn life held) :
    t.Stands tn life held := by
  have key (u : State) : (u.tenants.map Tenant.standing).find? (·.1 == tn) =
      (u.tenants.find? (·.id == tn)).map Tenant.standing := List.find?_map ..
  obtain ⟨p, hp, rfl, rfl⟩ := h
  have ht := key t
  rw [r.tenants, key s, hp] at ht
  obtain ⟨q, hq, hqp⟩ := Option.map_eq_some_iff.1 ht.symm
  simp only [Tenant.standing, Prod.mk.injEq] at hqp
  exact ⟨q, hq, hqp.2.1, hqp.2.2⟩

/-! ## The end of a partition -/

/-- Something of the partition is in flight, has a crew or a group, or invalidates a translation of its VF (R311). -/
def Occupied (s : State) (tn : Nat) : Prop :=
  (∃ i ∈ s.flow.invs, i.tn = tn) ∨ (∃ a ∈ s.flow.accs, a.tn = tn) ∨ (∃ x ∈ s.flow.xfers, x.tn = tn) ∨
    (∃ c ∈ s.crews, c.tn = tn) ∨ ∃ g ∈ s.allGroups, g.tn = tn

theorem stopped_iff (s : State) (tn : Nat) : s.stopped tn = true ↔ ¬s.Occupied tn := by
  simp [stopped, Occupied, and_assoc]

/-- What is left of a partition whose teardown is over, the last record of it being the final one (R311). -/
def Ended (tn : Nat) (held : List UsageRec) (t : State) : Prop :=
  let p := t.tenant tn
  p.life = .ending ∧ p.arenas = [] ∧ p.basins = [] ∧ p.stc = [] ∧ p.saves = [] ∧ p.keys = none ∧
  (∀ h ∈ t.flow.homes, h.key.tn ≠ tn) ∧ (∀ c ∈ t.cores, (∀ x ∈ c.tc, x.tn ≠ tn) ∧ ∀ l ∈ c.l1, l.key.tn ≠ tn) ∧
  (∀ g ∈ t.dev.grants, g.tn ≠ tn) ∧ (∃ r, p.held = held ++ [r] ∧ r.kind = 3) ∧
  t.dev.outs.getLast? = some (.answer "TEARDOWN" "DONE")

/-- The last step of a teardown makes the final record and leaves nothing of the partition but its storage. -/
theorem endPart_ended {tn : Nat} {p : Tenant} (h : s.tenants.find? (·.id == tn) = some p) :
    Ended tn p.held ((s.endPart tn).answer "TEARDOWN" "DONE") := by
  unfold endPart
  extract_lets s1 clean s2 s3
  have h3 : s3.tenants.find? (·.id == tn) = some p := h
  obtain ⟨q, hq, r, hr, hk⟩ := find_addRecord h3 3 0 0 0 0 (by decide) (by decide)
  have ht := tenant_of_find (find_mapTenant hq (fun t => { t with
    life := .ending, stc := [], arenas := [], basins := [], saves := [], events := [], pages := [], leaves := [], keys := none,
    banks := t.banks.filter (·.2 != 0) }) fun _ => rfl)
  unfold Ended
  extract_lets p1
  rw [show p1 = _ from ht]
  refine ⟨rfl, rfl, rfl, rfl, rfl, rfl, fun k hk => ?_, fun c hc => ?_, fun g hg => ?_, ⟨r, hr, hk⟩, List.getLast?_concat ..⟩
  · simpa using (List.mem_filter.1 hk).2
  · obtain ⟨j, -, rfl⟩ := List.mem_map.1 hc
    exact ⟨fun x hx => by simpa using (List.mem_filter.1 hx).2, fun l hl => by simpa using (List.mem_filter.1 hl).2⟩
  · simpa using (List.mem_filter.1 hg).2

theorem endPart_wanes (s : State) (tn : Nat) (cmd res : String) : s.Wanes ((s.endPart tn).answer cmd res) := by
  refine { Wanes.refl s with owners := fun k hk c hc => ?_ }
  obtain ⟨j, hj, rfl⟩ := List.mem_map.1 hk
  exact ⟨j, hj, hc⟩

theorem Stops.endPart {tn : Nat} (h : s.Stops t tn) (cmd res : String) : s.Stops ((t.endPart tn).answer cmd res) tn :=
  h.wanes (endPart_wanes t tn cmd res) h.nodes rfl rfl

/-- Ending a partition takes none of what would have kept it from its end. -/
theorem occupied_endPart (s : State) (tn : Nat) (cmd res : String) : ((s.endPart tn).answer cmd res).Occupied tn ↔ s.Occupied tn :=
  Iff.rfl

/-! ## TEARDOWN -/

/-- The later steps of a teardown: the partition ends when nothing of it is left, and until then stays as it is. -/
def endOnce (s : State) (tn : Nat) : State := if s.stopped tn then (s.endPart tn).answer "TEARDOWN" "DONE" else s

theorem endOnce_of_occupied {tn : Nat} (h : s.Occupied tn) : s.endOnce tn = s :=
  if_neg fun hs => (stopped_iff s tn).1 hs h

theorem endOnce_of_not_occupied {tn : Nat} (h : ¬s.Occupied tn) : s.endOnce tn = (s.endPart tn).answer "TEARDOWN" "DONE" :=
  if_pos ((stopped_iff s tn).2 h)

variable {tn : Nat} {p : Tenant}

theorem teardown_of_ending (h : s.tenants.find? (·.id == tn) = some p) (hl : p.life = .ending) : s.teardown tn = s := by
  simp [teardown, h, hl]

theorem teardown_of_stopping (h : s.tenants.find? (·.id == tn) = some p) (hl : p.life = .stopping) :
    s.teardown tn = s.endOnce tn := by
  cases hs : s.stopped tn <;> simp [teardown, endOnce, h, hl, hs]

theorem teardown_of_running (h : s.tenants.find? (·.id == tn) = some p) (he : p.life ≠ .ending) (hs : p.life ≠ .stopping) :
    s.teardown tn = (s.stopPart tn).reap.endOnce tn := by
  cases hb : (s.stopPart tn).reap.stopped tn <;> simp [teardown, endOnce, h, he, hs, hb]

/-- A partition that a teardown has begun to stop stands there with the records it held. -/
theorem stopPart_reap_stands (h : s.tenants.find? (·.id == tn) = some p) : (s.stopPart tn).reap.Stands tn .stopping p.held := by
  refine (reap_reaps _).stands ⟨{ p with life := .stopping }, ?_, rfl, rfl⟩
  rw [stopPart_tenants]
  exact find_mapTenant h (fun t => { t with life := .stopping }) fun _ => rfl

/-- What the first step of a teardown makes of a partition, whether or not anything of it is left then (R311). -/
theorem teardown_of_running_stops (h : s.tenants.find? (·.id == tn) = some p) (he : p.life ≠ .ending) (hs : p.life ≠ .stopping) :
    s.Stops (s.teardown tn) tn ∧ ((s.teardown tn).Occupied tn → ((s.teardown tn).tenant tn).life = .stopping) ∧
      (¬(s.teardown tn).Occupied tn → Ended tn p.held (s.teardown tn)) := by
  rw [teardown_of_running h he hs]
  have hst : s.Stops (s.stopPart tn).reap tn := (stopPart_stops s tn).reaps (reap_reaps _)
  obtain ⟨q, hq, hl, hh⟩ := stopPart_reap_stands h
  generalize (s.stopPart tn).reap = t at hst hq
  by_cases ho : t.Occupied tn
  · rw [endOnce_of_occupied ho, tenant_of_find hq]
    exact ⟨hst, fun _ => hl, fun hn => absurd ho hn⟩
  · rw [endOnce_of_not_occupied ho, occupied_endPart]
    exact ⟨hst.endPart _ _, fun hb => absurd hb ho, fun _ => hh ▸ endPart_ended hq⟩

end State

theorem exec_teardown (tn : Nat) (s : State) : exec (.teardown tn) s = .next (s.teardown tn) := rfl

/-- TEARDOWN's part of O47. -/
theorem teardown_steps (s : State) (tn : Nat) (t0 : Tenant) (h : s.tenants.find? (·.id == tn) = some t0) :
    (t0.life = .ending → exec (.teardown tn) s = .next s) ∧
    (t0.life = .stopping → (s.Occupied tn → exec (.teardown tn) s = .next s) ∧
      (¬s.Occupied tn → Runs (.teardown tn) s (State.Ended tn t0.held))) ∧
    (t0.life ≠ .ending → t0.life ≠ .stopping → Runs (.teardown tn) s fun t => s.Stops t tn ∧
      (t.Occupied tn → (t.tenant tn).life = .stopping) ∧ (¬t.Occupied tn → State.Ended tn t0.held t)) := by
  refine ⟨fun hl => ?_, fun hl => ⟨fun ho => ?_, fun ho => ⟨_, exec_teardown tn s, ?_⟩⟩,
    fun he hs => ⟨_, exec_teardown tn s, State.teardown_of_running_stops h he hs⟩⟩
  · rw [exec_teardown, State.teardown_of_ending h hl]
  · rw [exec_teardown, State.teardown_of_stopping h hl, State.endOnce_of_occupied ho]
  · rw [State.teardown_of_stopping h hl, State.endOnce_of_not_occupied ho]
    exact State.endPart_ended h

/-! ## What firmware has back (R23, R311) -/

theorem exec_quadReturn (tn q : Nat) (s : State) : exec (.quadReturn tn q) s = .next ((s.quadReturn tn q).getD s) := rfl

theorem exec_bankReturn (tn b : Nat) (s : State) : exec (.bankReturn tn b) s = .next ((s.bankReturn tn b).getD s) := rfl

theorem exec_frameReturn (tn f : Nat) (s : State) : exec (.frameReturn tn f) s = .next ((s.frameReturn tn f).getD s) := rfl

/-- The tenant on its way back to firmware satisfies a predicate. -/
def State.EndingWith (s : State) (tn : Nat) (has : Tenant → Prop) : Prop :=
  ∃ t0, s.tenants.find? (fun t => t.id == tn && t.life == .ending) = some t0 ∧ has t0

/-- Each tenant of a number is, in the second state, what a relation allows of one in the first. -/
def State.Now (s t : State) (tn : Nat) (P : Tenant → Tenant → Prop) : Prop :=
  ∀ u ∈ t.tenants, u.id = tn → ∃ v ∈ s.tenants, v.id = tn ∧ P u v

theorem State.now_mapTenant_sweep (s : State) (tn : Nat) (f : Tenant → Tenant) (P : Tenant → Tenant → Prop)
    (hP : ∀ v, P (f v) v) : s.Now (s.mapTenant tn f).sweep tn P := by
  intro u hu hid
  obtain ⟨v, hv, rfl⟩ := List.mem_map.1 (List.mem_of_mem_filter hu)
  by_cases h : v.id == tn
  · rw [if_pos h]
    exact ⟨v, hv, by simpa using h, hP v⟩
  · rw [if_neg h] at hid
    exact absurd hid (by simpa using h)

/-- A bank that has been cut from a share is no longer in it. -/
theorem Tenant.shareOn_cut (p : Tenant) (die bit : Nat) (keep : Nat × BitVec 64 → Bool) :
    ((({ p with banks := (p.banks.map fun b => if b.1 == die then (b.1, b.2 &&& ~~~BitVec.twoPow 64 bit) else b).filter keep } :
      Tenant)).shareOn die).getLsbD bit = false := by
  unfold Tenant.shareOn
  dsimp only
  generalize hf : List.find? (fun b : Nat × BitVec 64 => b.1 == die) _ = r
  cases r with
  | none => simp
  | some b =>
    obtain ⟨a, -, rfl⟩ := List.mem_map.1 (List.mem_of_mem_filter (List.mem_of_find?_eq_some hf))
    have hd := List.find?_some hf
    have ha : a.1 == die := by split at hd <;> simpa using hd
    simp [ha]

theorem State.quadReturn_runs {s : State} {tn q : Nat} (h : s.EndingWith tn fun t0 => q ∈ t0.quads) :
    Runs (.quadReturn tn q) s fun t => s.Now t tn (fun u v => u.quads = v.quads.erase q) ∧ t.hbm = s.hbm ∧
      ∀ c ∈ t.cores, (c.num / 4 = q → c.sp = [] ∧ c.l1 = [] ∧ c.tc = [] ∧ c.wq = [] ∧ c.eng.oa = [] ∧ c.eng.wb = [] ∧
        c.eng.ta = [] ∧ c.owner = none) ∧ (c.num / 4 ≠ q → c ∈ s.cores) := by
  obtain ⟨t0, h0, hq⟩ := h
  refine ⟨_, exec_quadReturn tn q s, ?_⟩
  rw [quadReturn, ending?, h0, Option.bind_some, if_neg (by simpa using hq), Option.getD_some]
  refine ⟨now_mapTenant_sweep _ tn _ _ fun _ => rfl, rfl, fun c hc => ?_⟩
  obtain ⟨k, hk, rfl⟩ := List.mem_map.1 hc
  by_cases hn : k.num / 4 = q
  · simp [hn, Core.empty]
  · simp [hn, hk]

theorem State.bankReturn_runs {s : State} {tn bank : Nat}
    (h : s.EndingWith tn fun t0 => (t0.shareOn (bank / 64)).getLsbD (bank % 64) = true) :
    Runs (.bankReturn tn bank) s fun t => s.Now t tn (fun u _ => (u.shareOn (bank / 64)).getLsbD (bank % 64) = false) ∧
      t.hbm = s.hbm ∧ t.cores = s.cores := by
  obtain ⟨t0, h0, hb⟩ := h
  refine ⟨_, exec_bankReturn tn bank s, ?_⟩
  rw [bankReturn, ending?, h0, Option.bind_some, if_neg (by simpa using hb), Option.getD_some]
  exact ⟨now_mapTenant_sweep _ tn _ _ fun v => v.shareOn_cut _ _ _, rfl, rfl⟩

theorem Tenant.hasFrame_iff (p : Tenant) (f : Nat) : p.hasFrame f = true ↔ f ∈ p.used ∨ f ∈ p.free := by
  simp [Tenant.hasFrame]

theorem State.frameReturn_runs {s : State} {tn f : Nat} (h : s.EndingWith tn fun t0 => f ∈ t0.used ∨ f ∈ t0.free) :
    Runs (.frameReturn tn f) s fun t => s.Now t tn (fun u v => u.used = v.used.erase f ∧ u.free = v.free.erase f) ∧
      t.cores = s.cores ∧ ∀ j, t.hbm.get j = if j / 4096 = f then 0 else s.hbm.get j := by
  obtain ⟨t0, h0, hf⟩ := h
  refine ⟨_, exec_frameReturn tn f s, ?_⟩
  rw [frameReturn, ending?, h0, Option.bind_some, if_neg (by simpa using (t0.hasFrame_iff f).2 hf), Option.getD_some]
  refine ⟨now_mapTenant_sweep _ tn _ _ fun _ => ⟨rfl, rfl⟩, rfl, fun j => ?_⟩
  have hj : f * 4096 ≤ j ∧ j < f * 4096 + 4096 ↔ j / 4096 = f := by omega
  exact (SMap.get_clear s.hbm (f * 4096) (f * 4096 + 4096) j).trans (by simp only [hj])

theorem State.quadReturn_of_not_ending {s : State} {tn q : Nat} (h : ¬s.EndingWith tn fun t0 => q ∈ t0.quads) :
    s.quadReturn tn q = none := by
  rw [quadReturn, ending?, Option.bind_eq_none_iff]
  intro t0 h0
  have hq : q ∉ t0.quads := fun hq => h ⟨t0, h0, hq⟩
  simp [hq]

/-- Settles O47: what loses its cores, by the operations that a teardown is made of, does not get them back, and each step of the
teardown ends the partition exactly when nothing of it is left. -/
theorem teardownAndReturns : Obligations.TeardownAndReturns := by
  unfold Obligations.TeardownAndReturns
  refine ⟨fun s tn t0 h0 => ?_, fun s tn q bank f =>
    ⟨State.quadReturn_runs, State.bankReturn_runs, State.frameReturn_runs, fun h => ?_⟩⟩
  · obtain ⟨hending, hstopping, hrunning⟩ := teardown_steps s tn t0 h0
    refine ⟨hending, hstopping, fun he hs => ?_⟩
    obtain ⟨t, ht, ⟨hc, hg, hn, hp, hr⟩, hb, hd⟩ := hrunning he hs
    exact ⟨t, ht, hc, hg, hn, hp, hr, hb, hd⟩
  · rw [exec_quadReturn, State.quadReturn_of_not_ending h, Option.getD_none]

end Sys2Proof.Machine
end

section
/-!
Floating words (R54 to R56): the flags that the lanes of a word raise, the cause that it traps with, and one lemma for each
shared form of a word that writes its results under `State.floatWrite`.
-/

namespace Sys2Proof.Machine

/-! ## Exceptions -/

theorem getLsbD_foldl_or (ls : List Nat) (f : Nat → Flags) (a : Flags) (e : Nat) :
    (ls.foldl (fun a l => a ||| f l) a).getLsbD e = true ↔ a.getLsbD e = true ∨ ∃ l ∈ ls, (f l).getLsbD e = true := by
  induction ls generalizing a with
  | nil => simp
  | cons l ls ih => simp [ih, or_assoc]

theorem getLsbD_flagsOf (m : Mask) (f : Nat → Flags) (e : Nat) : (flagsOf m f).getLsbD e = true ↔ Raises m f e := by
  rw [flagsOf, getLsbD_foldl_or]
  simp [Raises, mem_lanesOf, and_assoc]

/-- An exception is enabled by its trap bit (R54). -/
theorem Flags.getLsbD_enabled (x : Flags) (mode : BitVec 8) (e : Nat) (he : e < 6) :
    (x.enabled mode).getLsbD e = (x.getLsbD e && TrapOn mode e) := by
  have h : ∀ b : Bool, (if b then fSI else 0).getLsbD e = (b && decide (e = 5)) := by
    intro b
    cases b
    · simp
    · interval_cases e <;> rfl
  rw [Flags.enabled, BitVec.getLsbD_and, BitVec.getLsbD_or, h]
  congr 1
  unfold TrapOn
  rcases Nat.lt_or_eq_of_le (Nat.le_of_lt_succ he) with h5 | rfl
  · simp [bits, Nat.ne_of_lt h5, h5, he]
  · simp [bits]

/-- A flag of sr.fflags is raised by the exceptions that set it (R55). -/
theorem Flags.getLsbD_raised (x : Flags) (b : Nat) (hb : b < 5) :
    x.raised.getLsbD b = true ↔ ∃ e, e < 6 ∧ flagBit e = b ∧ x.getLsbD e = true := by
  have hc : ∀ c : Bool, (if c then (1 : BitVec 5) else 0).getLsbD b = (c && decide (b = 0)) := by
    intro c
    cases c
    · simp
    · interval_cases b <;> rfl
  rw [Flags.raised, BitVec.getLsbD_or, hc, BitVec.getLsbD_setWidth]
  simp only [hb, decide_true, Bool.true_and, Bool.or_eq_true, Bool.and_eq_true, decide_eq_true_eq]
  constructor
  · rintro (h | ⟨h, rfl⟩)
    · exact ⟨b, by omega, if_neg (by omega), h⟩
    · exact ⟨5, by omega, rfl, h⟩
  · rintro ⟨e, he, hf, hx⟩
    unfold flagBit at hf
    split at hf
    · subst hf; subst e; exact .inr ⟨hx, rfl⟩
    · subst hf; exact .inl hx

/-- The cause of a trap is the lowest-numbered exception (R56). -/
theorem Flags.first_eq (x : Flags) (e : Nat) (he : e < 6) (hx : x.getLsbD e = true)
    (hmin : ∀ j, j < e → x.getLsbD j = false) : x.first = e := by
  have h : (List.range 6).find? (fun i => x.getLsbD i) = some e :=
    (List.find?_range_eq_some).2 ⟨hx, by simpa using he, fun j hj => by simp [hmin j hj]⟩
  rw [Flags.first, h, Option.getD_some]

theorem Flags.eq_zero_iff (x : Flags) : x = 0 ↔ ∀ e, e < 6 → x.getLsbD e = false :=
  ⟨fun h e _ => by simp [h], fun h => BitVec.eq_of_getLsbD_eq fun e he => by simp [h e he]⟩

/-- No lane of a mask raises an enabled exception. -/
theorem Flags.enabled_flagsOf_eq_zero (m : Mask) (x : Nat → Flags) (mode : BitVec 8)
    (h : ∀ e, e < 6 → TrapOn mode e = true → ¬Raises m x e) : (flagsOf m x).enabled mode = 0 :=
  (Flags.eq_zero_iff _).2 fun e he => by
    rw [Flags.getLsbD_enabled _ _ _ he, Bool.and_eq_false_iff]
    by_contra hc
    rw [not_or, Bool.not_eq_false, Bool.not_eq_false, getLsbD_flagsOf] at hc
    exact h e he hc.2 hc.1

/-- The lowest enabled exception that some lane of a mask raises. -/
theorem Flags.enabled_flagsOf_first (m : Mask) (x : Nat → Flags) (mode : BitVec 8) (e : Nat) (he : e < 6)
    (ht : TrapOn mode e = true) (hr : Raises m x e) (hmin : ∀ j, j < e → TrapOn mode j = true → ¬Raises m x j) :
    (flagsOf m x).enabled mode ≠ 0 ∧ ((flagsOf m x).enabled mode).first = e := by
  have hbit : ((flagsOf m x).enabled mode).getLsbD e = true := by
    rw [Flags.getLsbD_enabled _ _ _ he, Bool.and_eq_true, getLsbD_flagsOf]
    exact ⟨hr, ht⟩
  refine ⟨fun h0 => by simp [h0] at hbit, Flags.first_eq _ e he hbit fun j hj => ?_⟩
  rw [Flags.getLsbD_enabled _ _ _ (Nat.lt_trans hj he), Bool.and_eq_false_iff]
  by_contra hc
  rw [not_or, Bool.not_eq_false, Bool.not_eq_false, getLsbD_flagsOf] at hc
  exact hmin j hj hc.2 hc.1

/-- sr.fflags after a group has set the flags of a word's lanes. -/
theorem Group.getLsbD_setFlags (g : Group) (m : Mask) (x : Nat → Flags) (b : Nat) (hb : b < 5) :
    (g.setFlags (flagsOf m x)).fflags.getLsbD b = true ↔
      g.fflags.getLsbD b = true ∨ ∃ e, e < 6 ∧ flagBit e = b ∧ Raises m x e := by
  simp only [Group.setFlags, BitVec.getLsbD_or, Bool.or_eq_true, Flags.getLsbD_raised _ b hb, getLsbD_flagsOf]

theorem flagsAfter_setFlags (s : State) (m : Mask) (x : Nat → Flags) :
    FlagsAfter s (s.onCur (·.setFlags (flagsOf m x))) m x :=
  fun b hb => s.cur.getLsbD_setFlags m x b hb

/-- No lane of an empty mask raises an exception. -/
theorem not_raises_zero (x : Nat → Flags) (e : Nat) : ¬Raises 0 x e := by
  rintro ⟨l, -, hl, -⟩
  rw [inMask_zero] at hl
  exact absurd hl (by simp)

theorem Raises.mask_ne_zero {m : Mask} {x : Nat → Flags} {e : Nat} (h : Raises m x e) : m ≠ 0 := by
  rintro rfl
  exact not_raises_zero x e h

theorem flagsAfter_zero (s : State) (x : Nat → Flags) : FlagsAfter s s 0 x :=
  fun _ _ => ⟨.inl, fun h => h.resolve_right fun ⟨e, _, _, hr⟩ => not_raises_zero x e hr⟩

/-! ## The write of a floating word (R56) -/

/-- Without an enabled exception the flags are set and the word writes. -/
theorem State.floatWrite_of_quiet (s : State) (m : Mask) (x : Nat → Flags) (whole : Bool) (w : Group → Group)
    (h : ∀ e, e < 6 → TrapOn s.cur.fmode e = true → ¬Raises m x e) :
    s.floatWrite m x whole w = (s.onCur (·.setFlags (flagsOf m x))).onCur w := by
  simp only [State.floatWrite, Flags.enabled_flagsOf_eq_zero m x _ h, if_true]

/-- With an enabled exception the flags are set and the word traps with the lowest one. -/
theorem State.floatWrite_of_trap (s : State) (m : Mask) (x : Nat → Flags) (whole : Bool) (w : Group → Group) (e : Nat)
    (he : e < 6) (ht : TrapOn s.cur.fmode e = true) (hr : Raises m x e)
    (hmin : ∀ j, j < e → TrapOn s.cur.fmode j = true → ¬Raises m x j) :
    s.floatWrite m x whole w = (s.onCur (·.setFlags (flagsOf m x))).fault (fpCause e)
      ((if whole then m else maskOf fun l => inMask m l && (x l).getLsbD e).setWidth 64) := by
  obtain ⟨hne, hfirst⟩ := Flags.enabled_flagsOf_first m x _ e he ht hr hmin
  simp only [State.floatWrite, hne, if_false, hfirst]

/-- A word of `State.floatWrite`: what it writes, `W`, holds when no lane is active and after its write. -/
theorem floatRun_of (i : Instr) (f : Info) (h : Hdr) (whole : Bool) (x : State → Nat → Flags)
    (y : State → Mask → Nat → Flags) (w : State → Mask → Group → Group) (W : State → State → Prop)
    (hx : ∀ s, exec i s = runWord f s fun P s => s.floatWrite P (y s P) whole (w s P)) (hi : info i = some f)
    (hg : f.guard = h.guard.toNat) (hy : ∀ s, y s (s.cur.lanesP h) = x s) (hw : ∀ s P g, (w s P g).fflags = g.fflags)
    (h0 : ∀ s, s.cur.lanesP h = 0 → W s s)
    (h1 : ∀ s, s.cur.lanesP h ≠ 0 → ∀ F : Flags, W s ((s.onCur (·.setFlags F)).onCur (w s (s.cur.lanesP h)))) :
    FloatRun i h whole x W := by
  rintro s ⟨f', hf, hn⟩
  rw [hi] at hf; cases hf
  have hrun : exec i s = .next (if s.cur.lanesP h = 0 then s else
      s.floatWrite (s.cur.lanesP h) (x s) whole (w s (s.cur.lanesP h))) := by
    rw [hx, runWord_pass _ _ _ hn, guardMask_eq f h s hg, hy]
  refine ⟨fun hq => ⟨_, hrun, ?_⟩, fun e he ht hr hmin => ⟨_, hrun, ?_⟩⟩
  · by_cases hP : s.cur.lanesP h = 0
    · rw [if_pos hP, hP]
      exact ⟨flagsAfter_zero s _, h0 s hP⟩
    · rw [if_neg hP, State.floatWrite_of_quiet _ _ _ _ _ hq]
      exact ⟨fun b hb => by simpa [hw] using flagsAfter_setFlags s _ (x s) b hb, h1 s hP _⟩
  · rw [if_neg hr.mask_ne_zero, State.floatWrite_of_trap _ _ _ _ _ e he ht hr hmin]
    refine ⟨_, flagsAfter_setFlags s _ _, rfl, ?_⟩
    cases whole <;> rfl

/-- A floating word that writes v(d) in the lanes of P. -/
theorem floatResult_of {i : Instr} {f : Info} {h : Hdr} {d : BitVec 6} {fn : Group → Nat → Nat × Flags}
    {ref : State → Nat → Nat × Flags} (ex : State → Host.Outcome State Fault Refusal)
    (hf : ∀ s, ex s = floatOp f d fn s) (hr : ∀ s l, fn s.cur l = ref s l)
    (hx : ∀ s, exec i s = ex s := by exact fun _ => rfl) (hi : info i = some f := by rfl)
    (hg : f.guard = h.guard.toNat := by rfl) : FloatResult i h d ref := by
  refine floatRun_of i f h false _ (fun s _ l => (fn s.cur l).2)
    (fun s P g => g.setV d.toNat P fun l => BitVec.ofNat 32 (fn s.cur l).1) _ (fun s => (hx s).trans (hf s)) hi hg
    (fun s => by simp only [hr]) (fun _ _ _ => rfl) (fun s h0 => ⟨fun k l _ => ?_, rfl⟩)
    fun s _ F => ⟨fun k l hl => ?_, rfl⟩
  · simp [inMask_lanesP_zero s h h0]
  · simp only [State.onCur_cur, Group.getV_setV _ _ _ _ _ _ hl, hr]
    rfl

/-- The exceptions of a compare: NV for a signalling NaN, and for any NaN unless the compare is quiet (R135). -/
def compareFlags (quiet : Bool) (a b : FVal) : Flags :=
  if a.isSig || b.isSig || (!quiet && (a.isNan || b.isNan)) then fNV else 0

/-- A floating word that combines a condition into g(n) in the lanes of P (R135). -/
theorem floatCompare_of {i : Instr} {f : Info} {h : Hdr} {k n : BitVec 3} {a b : BitVec 6} {quiet : Bool}
    {fn : FVal → FVal → Bool} {x : State → Nat → Flags} {c : State → Nat → Bool}
    (ex : State → Host.Outcome State Fault Refusal) (hf : ∀ s, ex s = fcmpOp f k n a b quiet fn s)
    (hq : ∀ s l, compareFlags quiet (opF s a l) (opF s b l) = x s l) (hc : ∀ s l, fn (opF s a l) (opF s b l) = c s l)
    (hx : ∀ s, exec i s = ex s := by exact fun _ => rfl) (hi : info i = some f := by rfl)
    (hg : f.guard = h.guard.toNat := by rfl) :
    FloatRun i h false x
      (WritesGF n.toNat (·.cur.lanesP h) fun s l => Combined k.toNat (inMask (s.cur.getG n.toNat) l) (c s l)) := by
  refine floatRun_of i f h false _ (fun s _ l => x s l)
    (fun s P g => g.combineG k.toNat n.toNat P fun l => c s l) _ (fun s => ?_) hi hg (fun s => rfl)
    (fun _ _ _ => Group.setG_fflags _ _ _ _) (fun s h0 => ⟨fun j l _ => ?_, rfl⟩) fun s _ F => ⟨fun j l hl => ?_, ?_⟩
  · simp only [hx, hf, ← hq, ← hc]
    rfl
  · simp [inMask_lanesP_zero s h h0]
  · simp only [State.onCur_cur, Group.combineG, Group.getG_setG _ _ _ _ _ _ hl, inMask_maskOf _ _ hl, combine_eq]
    rfl
  · simp only [State.onCur, Group.combineG, Group.setG]
    split <;> rfl

end Sys2Proof.Machine
end

section
/-!
The words of `vf` and `vh` (R133, R134, R137).
-/

namespace Sys2Proof.Machine

/-- Half `k` of a word as a number (R137). -/
theorem bits_half (x : Word) (k : Nat) : (bits x (16 * k) 16).toNat = x.toNat / 65536 ^ k % 65536 := by
  simp [bits, BitVec.extractLsb', Nat.shiftRight_eq_div_pow, Nat.pow_mul]

/-- Both halves of a `vh` word in one lane (R52, R137). -/
theorem vhLane_eq (t : Bool) (f : Fmt → RM → Bool → FVal → FVal → FVal → Nat × Flags) (d a : BitVec 6) (b : VSrc)
    (s : State) (l : Nat) : vhLane t f d a b s.cur l = halves fun k =>
      f (vhFmt t) (rmOf s.cur.fmode) (fzOf s.cur.fmode) (opH s t a k l) (opHB s t b k l) (opH s t d k l) := by
  simp only [vhLane, bits_half]
  rfl

/-- The sign bit of a word. -/
theorem getLsbD_31 (x : Word) : x.getLsbD 31 = decide (2 ^ 31 ≤ x.toNat) := by
  rw [BitVec.getLsbD, Nat.testBit_eq_decide_div_mod_eq]
  have := x.isLt
  exact decide_eq_decide.2 (by omega)

/-- Settles O8: every word is of the shared form, and its lane function is the operation on the operands as they are read. -/
theorem floatArithmeticResults : Obligations.FloatArithmeticResults := by
  unfold Obligations.FloatArithmeticResults
  refine ⟨fun h d a b => ?_, fun h t d a b => ?_⟩
  · refine ⟨?fadd, ?fsub, ?fmul, ?ffma, ?ffms, ?fmin, ?fmax, ?fabs, ?fneg, ?fcopys, ?ffloor, ?fceil, ?frint,
      ?ftrunc, ?fsat, ?fscale⟩
    case fadd => exact floatResult_of (execVfFadd h d a b) (fun _ => rfl) fun _ _ => rfl
    case fsub => exact floatResult_of (execVfFsub h d a b) (fun _ => rfl) fun _ _ => rfl
    case fmul => exact floatResult_of (execVfFmul h d a b) (fun _ => rfl) fun _ _ => rfl
    case ffma => exact floatResult_of (execVfFfma h d a b) (fun _ => rfl) fun _ _ => rfl
    case ffms => exact floatResult_of (execVfFfms h d a b) (fun _ => rfl) fun _ _ => rfl
    case fmin => exact floatResult_of (execVfFmin h d a b) (fun _ => rfl) fun _ _ => rfl
    case fmax => exact floatResult_of (execVfFmax h d a b) (fun _ => rfl) fun _ _ => rfl
    case fabs => exact floatResult_of (execVfFabs h d a) (fun _ => rfl) fun _ _ => rfl
    case fneg => exact floatResult_of (execVfFneg h d a) (fun _ => rfl) fun _ _ => rfl
    case fcopys => exact floatResult_of (execVfFcopys h d a b) (fun _ => rfl) fun _ _ => by rw [← getLsbD_31]; rfl
    case ffloor => exact floatResult_of (execVfFfloor h d a) (fun _ => rfl) fun _ _ => rfl
    case fceil => exact floatResult_of (execVfFceil h d a) (fun _ => rfl) fun _ _ => rfl
    case frint => exact floatResult_of (execVfFrint h d a) (fun _ => rfl) fun _ _ => rfl
    case ftrunc => exact floatResult_of (execVfFtrunc h d a) (fun _ => rfl) fun _ _ => rfl
    case fsat => exact floatResult_of (execVfFsat h d a) (fun _ => rfl) fun _ _ => rfl
    case fscale => exact floatResult_of (execVfFscale h d a b) (fun _ => rfl) fun _ _ => rfl
  · refine ⟨?hadd, ?hsub, ?hmul, ?hfma, ?hmin, ?hmax, ?hneg, ?habs⟩
    case hadd => exact floatResult_of (execVhHadd h t d a b) (fun _ => rfl) fun _ _ => vhLane_eq ..
    case hsub => exact floatResult_of (execVhHsub h t d a b) (fun _ => rfl) fun _ _ => vhLane_eq ..
    case hmul => exact floatResult_of (execVhHmul h t d a b) (fun _ => rfl) fun _ _ => vhLane_eq ..
    case hfma => exact floatResult_of (execVhHfma h t d a b) (fun _ => rfl) fun _ _ => vhLane_eq ..
    case hmin => exact floatResult_of (execVhHmin h t d a b) (fun _ => rfl) fun _ _ => vhLane_eq ..
    case hmax => exact floatResult_of (execVhHmax h t d a b) (fun _ => rfl) fun _ _ => vhLane_eq ..
    case hneg => exact floatResult_of (execVhHneg h t d a) (fun _ => rfl) fun _ _ => vhLane_eq ..
    case habs => exact floatResult_of (execVhHabs h t d a) (fun _ => rfl) fun _ _ => vhLane_eq ..

end Sys2Proof.Machine
end

section
/-!
The compares of `vfc` (R135, R136), and flags that stay set (R55).
-/

namespace Sys2Proof.Machine

theorem FVal.isNan_of_isSig {a : FVal} (h : a.isSig = true) : a.isNan = true := by
  cases a with
  | nan _ => rfl
  | inf _ => exact h
  | fin _ _ _ => exact h

/-- A compare that is quiet raises NV for a signalling NaN alone (R135). -/
theorem compareFlags_quiet (a b : FVal) : compareFlags true a b = if a.isSig || b.isSig then fNV else 0 := by
  rw [compareFlags, Bool.not_true, Bool.false_and, Bool.or_false]

/-- An ordering compare raises NV for every NaN, signalling or not (R135). -/
theorem compareFlags_loud (a b : FVal) : compareFlags false a b = if a.isNan || b.isNan then fNV else 0 := by
  have h : (a.isSig || b.isSig || (!false && (a.isNan || b.isNan))) = (a.isNan || b.isNan) := by
    cases ha : a.isSig
    · cases hb : b.isSig
      · rfl
      · simp [FVal.isNan_of_isSig hb]
    · simp [FVal.isNan_of_isSig ha]
  rw [compareFlags, h]

/-- Taking an exception leaves sr.fflags. -/
theorem State.deliver_fflags (s : State) (c : Cause) (val pc : DWord) : (s.deliver c val pc).cur.fflags = s.cur.fflags := by
  unfold State.deliver
  dsimp only
  split
  · rfl
  · split
    · split <;> rfl
    · rfl
    · rfl

/-- A floating word clears no flag, whether it writes or traps (R55). -/
theorem State.floatWrite_keeps_flag (s : State) (m : Mask) (x : Nat → Flags) (whole : Bool) (w : Group → Group) (b : Nat)
    (hw : ∀ g, (w g).fflags = g.fflags) (h : s.cur.fflags.getLsbD b = true) :
    (s.floatWrite m x whole w).cur.fflags.getLsbD b = true := by
  have hset : (s.cur.setFlags (flagsOf m x)).fflags.getLsbD b = true := by
    simp only [Group.setFlags, BitVec.getLsbD_or, h, Bool.true_or]
  unfold State.floatWrite
  extract_lets all en s1 i who
  split
  · rw [State.onCur_cur, hw]
    exact hset
  · rw [State.fault, State.deliver_fflags]
    exact hset

/-- Settles O9: each compare is a word of the shared form, and flags are only ever set by `or`. -/
theorem floatCompareResults : Obligations.FloatCompareResults := by
  unfold Obligations.FloatCompareResults
  refine ⟨fun h k n a b => ?_, State.floatWrite_keeps_flag⟩
  refine ⟨?feq, ?fne, ?flt, ?fle, ?fgt, ?fge, ?unord, ?ford, ?fclass⟩
  case fclass => exact cmpResult_of _ _ h k n _ _ (fun _ => rfl) rfl rfl fun _ _ => rfl
  case flt => exact floatCompare_of (execVfcFlt h k n a b) (fun _ => rfl) (fun _ _ => compareFlags_loud _ _) fun _ _ => rfl
  case fle => exact floatCompare_of (execVfcFle h k n a b) (fun _ => rfl) (fun _ _ => compareFlags_loud _ _) fun _ _ => rfl
  case fgt => exact floatCompare_of (execVfcFgt h k n a b) (fun _ => rfl) (fun _ _ => compareFlags_loud _ _) fun _ _ => rfl
  case fge => exact floatCompare_of (execVfcFge h k n a b) (fun _ => rfl) (fun _ _ => compareFlags_loud _ _) fun _ _ => rfl
  case feq => exact floatCompare_of (execVfcFeq h k n a b) (fun _ => rfl) (fun _ _ => compareFlags_quiet _ _) fun _ _ => rfl
  case unord => exact floatCompare_of (execVfcFun h k n a b) (fun _ => rfl) (fun _ _ => compareFlags_quiet _ _) fun _ _ => rfl
  case ford => exact floatCompare_of (execVfcFord h k n a b) (fun _ => rfl) (fun _ _ => compareFlags_quiet _ _) fun _ _ => rfl
  case fne =>
    exact floatCompare_of (execVfcFne h k n a b) (fun _ => rfl) (fun _ _ => compareFlags_quiet _ _)
      fun _ _ => (Bool.not_and ..).symm

end Sys2Proof.Machine
end

section
/-!
The conversions (R57), the float sum (R141) and the quantisers (R63, R64).
-/

namespace Sys2Proof.Machine

/-- Part `k` of `w` bits of a word (R57). -/
theorem getPart_eq (x : Word) (w k b : Nat) (hb : b = 2 ^ w) : getPart x w k = x.toNat / b ^ k % b := by
  rw [getPart, hb, Nat.pow_mul]

/-- The low half of a word (R57). -/
theorem getPart_low (x : Word) : getPart x 16 0 = x.toNat % 65536 := by
  rw [getPart_eq x 16 0 65536 rfl, Nat.pow_zero, Nat.div_one]

/-- The block of a quantiser: the operands of the lanes of P. -/
def blockOf (h : Hdr) (a : BitVec 6) (s : State) : List FVal := (lanesOf (s.cur.lanesP h)).map fun l => opF s a l

/-- What a quantiser writes: the scale and the element, 0 for a lane outside P, in every active lane (R63). -/
def WritesBlock (h : Hdr) (d a : BitVec 6) (scale : State → Nat) (elem : State → FVal → Nat) (s t : State) : Prop :=
  (∀ k l, l < 32 → t.cur.getV k l =
    if s.cur.lanesP h ≠ 0 ∧ k = d.toNat + 1 ∧ inMask s.cur.active l = true then BitVec.ofNat 32 (scale s)
    else if s.cur.lanesP h ≠ 0 ∧ k = d.toNat ∧ inMask s.cur.active l = true then
      (if inMask (s.cur.lanesP h) l then BitVec.ofNat 32 (elem s (opF s a l)) else 0)
    else s.cur.getV k l) ∧
  { t with cur := { t.cur with v := s.cur.v, fflags := s.cur.fflags } } = s

/-- A word that quantises the block of its lanes (R63, R64). -/
theorem quantiser_of {i : Instr} {f : Info} {h : Hdr} {d a : BitVec 6} {q : List FVal → Nat × (FVal → Nat) × Flags}
    (ex : State → Host.Outcome State Fault Refusal) (hf : ∀ s, ex s = qntOp f d a q s)
    (hx : ∀ s, exec i s = ex s := by exact fun _ => rfl) (hi : info i = some f := by rfl)
    (hg : f.guard = h.guard.toNat := by rfl) :
    FloatRun i h true (fun s l => if l = lowest (s.cur.lanesP h) then (q (blockOf h a s)).2.2 else 0)
      (WritesBlock h d a (fun s => (q (blockOf h a s)).1) fun s => (q (blockOf h a s)).2.1) := by
  refine floatRun_of i f h true _ (fun s P l => if l = lowest P then (q ((lanesOf P).map (opF s a))).2.2 else 0)
    (fun s P g => (g.setV d.toNat g.active fun l => BitVec.ofNat 32
      (if inMask P l then (q ((lanesOf P).map (opF s a))).2.1 (opF s a l) else 0)).setV (d.toNat + 1) g.active
        fun _ => BitVec.ofNat 32 (q ((lanesOf P).map (opF s a))).1) _ (fun s => ?_) hi hg (fun _ => rfl)
    (fun _ _ _ => rfl) (fun s h0 => ⟨fun k l _ => ?_, rfl⟩) fun s hP F => ⟨fun k l hl => ?_, ?_⟩
  · rw [hx, hf, qntOp]
    rfl
  · simp [h0]
  · simp only [State.onCur_cur, Group.getV_setV _ _ _ _ _ _ hl, ne_eq, hP, not_false_eq_true, true_and]
    cases inMask (s.cur.lanesP h) l <;> rfl
  · simp only [State.onCur, Group.setV, Group.setFlags]

/-- Settles O11: each conversion and each quantiser is a word of a shared form, and the sum is one value that every lane of P
receives. -/
theorem conversionResults : Obligations.ConversionResults := by
  unfold Obligations.ConversionResults
  refine ⟨fun h d a b c => ?_, fun h d a => ⟨?fsum, ?pi8, ?e2m1⟩⟩
  case fsum =>
    refine floatRun_of _ (infoLaneFsum h d a) h true _
      (fun s P l => if l = lowest P then (fsum s.cur.fmode (laneVals s.cur P a)).2 else 0)
      (fun s P g => g.setV d.toNat P fun _ => (fsum s.cur.fmode (laneVals s.cur P a)).1) _ (fun _ => rfl) rfl rfl
      (fun _ => rfl) (fun _ _ _ => rfl) (fun s h0 => ⟨fun k l _ => ?_, rfl⟩) fun s _ F => ⟨fun k l hl => ?_, rfl⟩
    · simp [inMask_lanesP_zero s h h0]
    · simp only [State.onCur_cur, Group.getV_setV _ _ _ _ _ _ hl, BitVec.ofNat_toNat, BitVec.setWidth_eq]
      rfl
  case pi8 => exact quantiser_of (execQntPi8 h d a) fun _ => rfl
  case e2m1 => exact quantiser_of (execQntE2m1 h d a) fun _ => rfl
  refine ⟨?f32i32, ?f32n32, ?i32f32, ?n32f32, ?f32f16, ?f16f32, ?f32bf16, ?bf16f32, ?f32e4m3,
    ?e4m3f32, ?f32e5m2, ?e5m2f32, ?f32e2m1, ?e2m1f32, ?f32s20, ?s20f32⟩
  case f32i32 => exact floatResult_of (execCvtF32I32 h d a) (fun _ => rfl) fun _ _ => rfl
  case f32n32 => exact floatResult_of (execCvtF32N32 h d a) (fun _ => rfl) fun _ _ => rfl
  case i32f32 => exact floatResult_of (execCvtI32F32 h d a) (fun _ => rfl) fun _ _ => rfl
  case n32f32 => exact floatResult_of (execCvtN32F32 h d a) (fun _ => rfl) fun _ _ => rfl
  case f32f16 => exact floatResult_of (execCvtF32F16 h d a) (fun _ => rfl) fun _ _ => by rw [getPart_low]
  case f16f32 => exact floatResult_of (execCvtF16F32 h d a) (fun _ => rfl) fun _ _ => rfl
  case f32bf16 => exact floatResult_of (execCvtF32Bf16 h d a) (fun _ => rfl) fun _ _ => by rw [getPart_low]
  case bf16f32 => exact floatResult_of (execCvtBf16F32 h d a) (fun _ => rfl) fun _ _ => rfl
  case f32e4m3 => exact floatResult_of (execCvtF32E4m3 h d a b) (fun _ => rfl) fun _ _ => by rw [getPart_eq _ 8 _ 256 rfl]
  case e4m3f32 => exact floatResult_of (execCvtE4m3F32 h d a b) (fun _ => rfl) fun _ _ => rfl
  case f32e5m2 => exact floatResult_of (execCvtF32E5m2 h d a b) (fun _ => rfl) fun _ _ => by rw [getPart_eq _ 8 _ 256 rfl]
  case e5m2f32 => exact floatResult_of (execCvtE5m2F32 h d a b) (fun _ => rfl) fun _ _ => rfl
  case f32e2m1 => exact floatResult_of (execCvtF32E2m1 h d a c) (fun _ => rfl) fun _ _ => by rw [getPart_eq _ 4 _ 16 rfl]
  case e2m1f32 => exact floatResult_of (execCvtE2m1F32 h d a c) (fun _ => rfl) fun _ _ => rfl
  case f32s20 => exact floatResult_of (execCvtF32S20 h d a) (fun _ => rfl) fun _ _ => rfl
  case s20f32 => exact floatResult_of (execCvtS20F32 h d a) (fun _ => rfl) fun _ _ => rfl

end Sys2Proof.Machine
end

section
/-!
The special functions (R67, R138).
-/

namespace Sys2Proof.Machine

/-- A special function of one operand, whose free value depends on the operand and sr.fmode (R66; log 6). -/
theorem sfuResult_of {i : Instr} {f : Info} {h : Hdr} {d a : BitVec 6} {n : Nat}
    {fn : RM → Bool → FVal → Nat → Nat × Flags}
    (ex : State → Host.Outcome State Fault Refusal) (hf : ∀ s, ex s = sfuOp f d a n fn s)
    (hx : ∀ s, exec i s = ex s := by exact fun _ => rfl) (hi : info i = some f := by rfl)
    (hg : f.guard = h.guard.toNat := by rfl) :
    FloatResult i h d fun s l => fn (rmOf s.cur.fmode) (fzOf s.cur.fmode) (opF s a l)
      (Config.sfuPick n (bits s.cur.fmode 0 3).toNat (s.cur.getV a.toNat l).toNat) :=
  floatResult_of ex hf (fun _ _ => rfl) hx hi hg

/-- The words' part of O10. -/
theorem specialFunction_words (h : Hdr) (d a b : BitVec 6) :
    let rm := fun s : State => rmOf s.cur.fmode
    let fz := fun s : State => fzOf s.cur.fmode
    let open_ := fun (fn : Nat) (s : State) (l : Nat) =>
      Config.sfuPick fn (bits s.cur.fmode 0 3).toNat (s.cur.getV a.toNat l).toNat
    FloatResult (.sfuFrcp h d a) h d (fun s l => frcp (rm s) (fz s) (opF s a l) (open_ 0 s l)) ∧
    FloatResult (.sfuFrsq h d a) h d (fun s l => frsq (rm s) (fz s) (opF s a l) (open_ 1 s l)) ∧
    FloatResult (.sfuFsqrt h d a) h d (fun s l => f32.sqrt (rm s) (fz s) (opF s a l)) ∧
    FloatResult (.sfuFexp2 h d a) h d (fun s l => fexp2 (rm s) (fz s) (opF s a l) (open_ 2 s l)) ∧
    FloatResult (.sfuFlog2 h d a) h d (fun s l => flog2 (rm s) (fz s) (opF s a l) (open_ 3 s l)) ∧
    FloatResult (.sfuFsin h d a) h d (fun s l => fsin (rm s) (fz s) (opF s a l) (open_ 4 s l)) ∧
    FloatResult (.sfuFcos h d a) h d (fun s l => fcos (rm s) (fz s) (opF s a l) (open_ 5 s l)) ∧
    FloatResult (.sfuFtanh h d a) h d (fun s l => ftanh (rm s) (fz s) (opF s a l) (open_ 6 s l)) ∧
    FloatResult (.sfuFdiv h d a b) h d (fun s l => f32.div (rm s) (fz s) (opF s a l) (opF s b l)) := by
  refine ⟨?frcp, ?frsq, ?fsqrt, ?fexp2, ?flog2, ?fsin, ?fcos, ?ftanh, ?fdiv⟩
  case frcp => exact sfuResult_of (execSfuFrcp h d a) fun _ => rfl
  case frsq => exact sfuResult_of (execSfuFrsq h d a) fun _ => rfl
  case fsqrt => exact floatResult_of (execSfuFsqrt h d a) (fun _ => rfl) fun _ _ => rfl
  case fexp2 => exact sfuResult_of (execSfuFexp2 h d a) fun _ => rfl
  case flog2 => exact sfuResult_of (execSfuFlog2 h d a) fun _ => rfl
  case fsin => exact sfuResult_of (execSfuFsin h d a) fun _ => rfl
  case fcos => exact sfuResult_of (execSfuFcos h d a) fun _ => rfl
  case ftanh => exact sfuResult_of (execSfuFtanh h d a) fun _ => rfl
  case fdiv => exact floatResult_of (execSfuFdiv h d a b) (fun _ => rfl) fun _ _ => rfl

end Sys2Proof.Machine
end


section
/-!
Rounding at one place (R54), and rounding into a format (R50, R55, R56).
-/

namespace Sys2Proof.Machine

/-! ## One place -/

/-- `k` is what rounding `x` to a multiple of `u` gives in a mode, `nx` telling that it is inexact (R54). -/
structure Rounds (rm : RM) (neg : Bool) (x u k : Nat) (nx : Bool) : Prop where
  exact_iff : nx = false ↔ k * u = x
  toward_zero : rm = .rtz → k * u ≤ x ∧ x < (k + 1) * u
  nearest : rm = .rne → 2 * (k * u) ≤ 2 * x + u ∧ 2 * x ≤ 2 * (k * u) + u ∧
    (2 * (k * u) = 2 * x + u ∨ 2 * x = 2 * (k * u) + u → k % 2 = 0)
  away : (rm = .rup ∧ neg = false) ∨ (rm = .rdn ∧ neg = true) → x ≤ k * u ∧ k * u < x + u
  cut : (rm = .rup ∧ neg = true) ∨ (rm = .rdn ∧ neg = false) → k * u ≤ x ∧ x < k * u + u

/-- A multiple is kept as it is. -/
theorem rounds_multiple (rm : RM) (neg : Bool) (k u : Nat) (hu : 0 < u) : Rounds rm neg (k * u) u k false :=
  ⟨by simp, fun _ => ⟨le_rfl, Nat.mul_lt_mul_of_pos_right (Nat.lt_succ_self k) hu⟩, fun _ => ⟨by omega, by omega, by omega⟩,
    fun _ => ⟨le_rfl, by omega⟩, fun _ => ⟨le_rfl, by omega⟩⟩

/-- What is between two multiples goes to the one that `roundUp` names. -/
theorem rounds_between (rm : RM) (neg : Bool) (j r half : Nat) (hr : 0 < r) (hu : r < 2 * half) :
    Rounds rm neg (j * (2 * half) + r) (2 * half) (j + if roundUp rm neg (j % 2 == 1) r half then 1 else 0) true := by
  have hj : (j + 1) * (2 * half) = j * (2 * half) + 2 * half := Nat.succ_mul ..
  have hj2 : (j + 1 + 1) * (2 * half) = j * (2 * half) + 4 * half := by rw [Nat.succ_mul, hj]; omega
  refine ⟨?_, ?_, ?_, ?_, ?_⟩
  · split_ifs <;> simp only [Nat.add_zero, hj] <;> simp <;> omega
  · rintro rfl
    simp only [roundUp, Bool.false_eq_true, if_false, Nat.add_zero, hj]
    omega
  · rintro rfl
    by_cases hc : half < r ∨ r = half ∧ j % 2 = 1
    · have hb : roundUp .rne neg (j % 2 == 1) r half = true := by simpa [roundUp] using hc
      rw [hb, if_pos rfl, hj]
      omega
    · have hb : roundUp .rne neg (j % 2 == 1) r half = false := by simpa [roundUp] using hc
      rw [hb, if_neg Bool.false_ne_true, Nat.add_zero]
      omega
  · intro h
    have hb : roundUp rm neg (j % 2 == 1) r half = true := by
      rcases h with ⟨rfl, rfl⟩ | ⟨rfl, rfl⟩ <;> simp [roundUp, hr]
    rw [hb, if_pos rfl, hj]
    omega
  · intro h
    have hb : roundUp rm neg (j % 2 == 1) r half = false := by
      rcases h with ⟨rfl, rfl⟩ | ⟨rfl, rfl⟩ <;> simp [roundUp]
    rw [hb, if_neg Bool.false_ne_true, Nat.add_zero]
    omega

/-- At a place at or below the last one nothing is cut off. -/
theorem roundAt_of_le (rm : RM) (neg : Bool) (m : Nat) (e q : Int) (h : q ≤ e) :
    roundAt rm neg m e q = (m * 2 ^ (e - q).toNat, false) := if_pos h

/-- At a higher place the quotient is kept, or raised by one. -/
theorem roundAt_of_lt (rm : RM) (neg : Bool) (m : Nat) (e q : Int) (h : e < q) :
    let u := 2 ^ (q - e).toNat
    roundAt rm neg m e q =
      (m / u + (if roundUp rm neg (m / u % 2 == 1) (m % u) (2 ^ ((q - e).toNat - 1)) then 1 else 0), decide (m % u ≠ 0)) :=
  if_neg (by omega)

/-- The exact remainder 0 rounds nothing up. -/
theorem roundUp_zero (rm : RM) (neg odd : Bool) (half : Nat) (hh : 0 < half) : roundUp rm neg odd 0 half = false := by
  cases rm
  · have : ¬0 = half := by omega
    simp [roundUp, this]
  all_goals rfl

/-- The rounding of R54: `roundAt` is the rounding of m · 2^e to a multiple of 2^q. -/
theorem roundAt_rounds (rm : RM) (neg : Bool) (m : Nat) (e q : Int) :
    Rounds rm neg (m * 2 ^ (e - min e q).toNat) (2 ^ (q - min e q).toNat) (roundAt rm neg m e q).1
      (roundAt rm neg m e q).2 := by
  rcases le_or_gt q e with h | h
  · rw [roundAt_of_le rm neg m e q h, min_eq_right h, Int.sub_self, Int.toNat_zero, Nat.pow_zero]
    simpa using rounds_multiple rm neg (m * 2 ^ (e - q).toNat) 1 Nat.one_pos
  · rw [roundAt_of_lt rm neg m e q h, min_eq_left h.le, Int.sub_self, Int.toNat_zero, Nat.pow_zero, Nat.mul_one]
    obtain ⟨n, hn⟩ : ∃ n, (q - e).toNat = n + 1 := ⟨(q - e).toNat - 1, by omega⟩
    have hu : 2 ^ (n + 1) = 2 * 2 ^ n := by rw [Nat.pow_succ, Nat.mul_comm]
    have hm := Nat.div_add_mod' m (2 * 2 ^ n)
    rw [hn, Nat.add_sub_cancel, hu]
    rcases Nat.eq_zero_or_pos (m % (2 * 2 ^ n)) with h0 | h0
    · have hk := rounds_multiple rm neg (m / (2 * 2 ^ n)) (2 * 2 ^ n) (by positivity)
      rw [h0, Nat.add_zero] at hm
      rw [hm] at hk
      simpa [h0, roundUp_zero rm neg _ (2 ^ n) (by positivity)] using hk
    · have hk := rounds_between rm neg (m / (2 * 2 ^ n)) _ (2 ^ n) h0 (Nat.mod_lt _ (by positivity))
      rw [hm] at hk
      simpa [h0.ne'] using hk

/-- The first part of O7. -/
theorem roundAt_one_place (neg : Bool) (m : Nat) (e q : Int) :
     let lo := min e q
     let x := m * 2 ^ (e - lo).toNat
     let u := 2 ^ (q - lo).toNat
     (∀ rm, ((roundAt rm neg m e q).2 = false ↔ (roundAt rm neg m e q).1 * u = x)) ∧
     (let k := (roundAt .rtz neg m e q).1; k * u ≤ x ∧ x < (k + 1) * u) ∧
     (let k := (roundAt .rne neg m e q).1
      2 * (k * u) ≤ 2 * x + u ∧ 2 * x ≤ 2 * (k * u) + u ∧ (2 * (k * u) = 2 * x + u ∨ 2 * x = 2 * (k * u) + u → k % 2 = 0)) ∧
     (∀ rm, (rm = .rup ∧ neg = false) ∨ (rm = .rdn ∧ neg = true) →
       let k := (roundAt rm neg m e q).1; x ≤ k * u ∧ k * u < x + u) ∧
     (∀ rm, (rm = .rup ∧ neg = true) ∨ (rm = .rdn ∧ neg = false) →
       let k := (roundAt rm neg m e q).1; k * u ≤ x ∧ x < k * u + u) :=
  ⟨fun rm => (roundAt_rounds rm neg m e q).exact_iff, (roundAt_rounds .rtz neg m e q).toward_zero rfl,
    (roundAt_rounds .rne neg m e q).nearest rfl, fun rm => (roundAt_rounds rm neg m e q).away,
    fun rm => (roundAt_rounds rm neg m e q).cut⟩

end Sys2Proof.Machine
end


section
/-!
The bits of a format (R50): its finite magnitude patterns, and what rounding makes of them (R55, R56).
-/

namespace Sys2Proof.Machine

namespace Fmt

/-- A format has a fraction bit and an exponent bit. -/
structure Sound (f : Fmt) : Prop where
  fb_pos : 0 < f.fb
  eb_pos : 0 < f.eb

theorem sound_of_mem (f : Fmt) (h : f ∈ [f32, f16, bf16, e4m3, e5m2, e2m1]) : f.Sound := by
  simp only [List.mem_cons, List.not_mem_nil, or_false] at h
  rcases h with rfl | rfl | rfl | rfl | rfl | rfl <;> exact ⟨by decide, by decide⟩

/-- The significand and the exponent of a finite magnitude pattern (R50). -/
def parts (f : Fmt) (p : Nat) : Nat × Int :=
  if p < 2 ^ f.fb then (p, f.elow) else (2 ^ f.fb + p % 2 ^ f.fb, f.elow + (p / 2 ^ f.fb : Nat) - 1)

variable {f : Fmt}

theorem parts_of_lt {p : Nat} (hp : p < 2 ^ f.fb) : f.parts p = (p, f.elow) := if_pos hp

theorem parts_of_normal {d j : Nat} (hj : j < 2 ^ f.fb) : f.parts ((d + 1) * 2 ^ f.fb + j) = (2 ^ f.fb + j, f.elow + d) := by
  rw [parts, if_neg (by rw [Nat.succ_mul]; omega), Nat.mul_add_mod_self_right, Nat.mod_eq_of_lt hj, Nat.mul_comm,
    Nat.mul_add_div (by omega), Nat.div_eq_of_lt hj]
  congr 1
  omega

theorem sbit_eq (f : Fmt) : f.sbit = 2 ^ f.eb * 2 ^ f.fb := Nat.pow_add ..

theorem emax_pos (hf : f.Sound) : 0 < f.emax := by
  have h : 2 ^ 1 ≤ 2 ^ f.eb := Nat.pow_le_pow_right (by omega) hf.eb_pos
  unfold emax
  omega

/-- The patterns from the one of the infinities on fill the exponent field of all ones. -/
theorem emax_mul_add (f : Fmt) : f.emax * 2 ^ f.fb + 2 ^ f.fb = f.sbit := by
  rw [sbit_eq, emax, ← Nat.succ_mul]
  have h : 0 < 2 ^ f.eb := Nat.two_pow_pos _
  congr 1
  omega

/-- A finite magnitude is below the sign bit, and is no special value. -/
theorem le_maxBits_iff (hf : f.Sound) (p : Nat) : p ≤ f.maxBits false ↔ p < f.sbit ∧ match f.kind with
    | .ieee => p / 2 ^ f.fb ≠ f.emax
    | .oneNan => p ≠ f.sbit - 1
    | .finite => True := by
  have h1 : 2 ^ 1 ≤ 2 ^ f.fb := Nat.pow_le_pow_right (by omega) hf.fb_pos
  have he := emax_mul_add f
  have h0 : 0 < f.emax * 2 ^ f.fb := Nat.mul_pos (emax_pos hf) (by omega)
  simp only [maxBits, Bool.false_eq_true, if_false, Nat.zero_add]
  cases f.kind with
  | ieee =>
    have hle : p / 2 ^ f.fb < f.emax ↔ p < f.emax * 2 ^ f.fb := Nat.div_lt_iff_lt_mul (by omega)
    have hlt : p / 2 ^ f.fb < f.emax + 1 ↔ p < (f.emax + 1) * 2 ^ f.fb := Nat.div_lt_iff_lt_mul (by omega)
    rw [Nat.succ_mul, he] at hlt
    simp only
    omega
  | oneNan => simp only; omega
  | finite => simp only [and_true]; omega

/-- The three fields of a magnitude with a sign. -/
theorem sign_field (neg : Bool) (p : Nat) (hp : p < f.sbit) : (((if neg then f.sbit else 0) + p) / f.sbit % 2 == 1) = neg := by
  have h0 : 0 < f.sbit := by omega
  cases neg
  · simp [Nat.div_eq_of_lt hp]
  · simp [Nat.add_div_left p h0, Nat.div_eq_of_lt hp]

theorem exponent_field (neg : Bool) (p : Nat) (hp : p < f.sbit) :
    ((if neg then f.sbit else 0) + p) / 2 ^ f.fb % 2 ^ f.eb = p / 2 ^ f.fb := by
  have h0 : 0 < 2 ^ f.fb := Nat.two_pow_pos _
  have hlt : p / 2 ^ f.fb < 2 ^ f.eb := (Nat.div_lt_iff_lt_mul h0).2 (sbit_eq f ▸ hp)
  cases neg
  · simp [Nat.mod_eq_of_lt hlt]
  · rw [if_pos rfl, sbit_eq, Nat.add_comm, Nat.add_mul_div_right _ _ h0, Nat.add_mod_right, Nat.mod_eq_of_lt hlt]

theorem fraction_field (neg : Bool) (p : Nat) : ((if neg then f.sbit else 0) + p) % 2 ^ f.fb = p % 2 ^ f.fb := by
  cases neg
  · simp
  · rw [if_pos rfl, sbit_eq, Nat.mul_add_mod_self_right]

/-- What the bits of a finite magnitude and a sign decode to (R50). -/
theorem decode_finite (hf : f.Sound) (neg : Bool) (p : Nat) (hp : p ≤ f.maxBits false) :
    f.decode ((if neg then f.sbit else 0) + p) = .fin neg (f.parts p).1 (f.parts p).2 := by
  obtain ⟨hlt, hk⟩ := (le_maxBits_iff hf p).1 hp
  have h0 : 0 < 2 ^ f.fb := Nat.two_pow_pos _
  have hparts : (if p / 2 ^ f.fb = 0 then FVal.fin neg (p % 2 ^ f.fb) f.elow
      else .fin neg (2 ^ f.fb + p % 2 ^ f.fb) ((p / 2 ^ f.fb : Nat) - f.bias - f.fb)) =
        .fin neg (f.parts p).1 (f.parts p).2 := by
    unfold parts
    by_cases hs : p < 2 ^ f.fb
    · rw [if_pos (Nat.div_eq_of_lt hs), if_pos hs, Nat.mod_eq_of_lt hs]
    · rw [if_neg (Nat.div_pos (by omega) h0).ne', if_neg hs]
      congr 1
      unfold elow
      omega
  rw [decode, sign_field neg p hlt, exponent_field neg p hlt, fraction_field]
  cases hkind : f.kind with
  | finite => exact hparts
  | ieee =>
    rw [hkind] at hk
    rw [decide_eq_false hk]
    exact hparts
  | oneNan =>
    rw [hkind] at hk
    cases he : decide (p / 2 ^ f.fb = f.emax) with
    | false => exact hparts
    | true =>
      have he : p / 2 ^ f.fb = f.emax := of_decide_eq_true he
      have hm : p % 2 ^ f.fb ≠ 2 ^ f.fb - 1 := fun hm => hk <| by
        have hp := Nat.div_add_mod' p (2 ^ f.fb)
        have hs := emax_mul_add f
        rw [he, hm] at hp
        omega
      rw [if_neg (he ▸ (emax_pos hf).ne')] at hparts
      simpa [hm] using hparts

/-- Past the largest finite magnitude stand the infinities and NaNs alone (R50). -/
theorem decode_special (hf : f.Sound) (neg : Bool) (p : Nat) (hlt : p < f.sbit) (hp : ¬p ≤ f.maxBits false) (n : Bool) (m : Nat)
    (e : Int) : f.decode ((if neg then f.sbit else 0) + p) ≠ .fin n m e := by
  rw [le_maxBits_iff hf, and_iff_right hlt] at hp
  rw [decode, sign_field neg p hlt, exponent_field neg p hlt, fraction_field]
  cases hkind : f.kind with
  | finite =>
    rw [hkind] at hp
    exact absurd trivial hp
  | ieee =>
    rw [hkind, not_not] at hp
    rw [decide_eq_true hp]
    dsimp only
    split <;> simp
  | oneNan =>
    rw [hkind, not_not] at hp
    have h0 : 0 < 2 ^ f.fb := Nat.two_pow_pos _
    have hs := emax_mul_add f
    have hdiv : p / 2 ^ f.fb = f.emax := Nat.div_eq_of_lt_le (by omega) (by rw [Nat.succ_mul]; omega)
    have hmod := Nat.div_add_mod' p (2 ^ f.fb)
    rw [hdiv] at hmod
    rw [decide_eq_true hdiv]
    dsimp only
    rw [if_pos (by omega)]
    simp

/-- A pattern that decodes to a finite value is a sign and a finite magnitude. -/
theorem exists_of_decode_fin (hf : f.Sound) (x : Nat) (hx : x < 2 * f.sbit) (n : Bool) (m : Nat) (e : Int)
    (h : f.decode x = .fin n m e) :
    ∃ p, p ≤ f.maxBits false ∧ x = (if n then f.sbit else 0) + p ∧ m = (f.parts p).1 ∧ e = (f.parts p).2 := by
  obtain ⟨neg, p, hlt, rfl⟩ : ∃ (neg : Bool) (p : Nat), p < f.sbit ∧ x = (if neg then f.sbit else 0) + p := by
    by_cases hs : x < f.sbit
    · exact ⟨false, x, hs, by simp⟩
    · exact ⟨true, x - f.sbit, by omega, by rw [if_pos rfl]; omega⟩
  by_cases hp : p ≤ f.maxBits false
  · rw [decode_finite hf neg p hp, FVal.fin.injEq] at h
    obtain ⟨rfl, rfl, rfl⟩ := h
    exact ⟨p, hp, rfl, rfl, rfl⟩
  · exact absurd h (decode_special hf neg p hlt hp n m e)

/-! ## Rounding into a format (R55, R56) -/

/-- The last place that a value is rounded to: the format's own for the value's binade, or that of the subnormals. -/
def place (f : Fmt) (m : Nat) (e : Int) : Int := max ((Nat.log2 m : Int) + e - f.fb) f.elow

/-- The magnitude pattern of the multiple `k` of 2^q. -/
def magBits (f : Fmt) (k : Nat) (q : Int) : Nat :=
  let field : Int := q - f.elow + (if k < 2 ^ f.fb then 0 else 1)
  if k < 2 ^ f.fb then k else if k < 2 ^ (f.fb + 1) then field.toNat * 2 ^ f.fb + (k - 2 ^ f.fb)
  else (field.toNat + 1) * 2 ^ f.fb

/-- Whether a value is tiny: below the smallest normal one, as rounded with an unbounded exponent (R55). -/
def tiny (f : Fmt) (rm : RM) (neg : Bool) (m : Nat) (e : Int) : Bool :=
  let top : Int := (Nat.log2 m : Int) + e
  decide ((top - f.fb < f.elow) ∧ ¬((roundAt rm neg m e (top - f.fb)).1 = 2 ^ (f.fb + 1) ∧ top - f.fb + 1 = f.elow))

/-- Rounding by the multiple of the last place: overflow, a result flushed, or the bits of the multiple. -/
theorem round_eq (f : Fmt) (rm : RM) (fz sat neg : Bool) (m : Nat) (e : Int) :
    f.round rm fz sat neg m e =
      let r := roundAt rm neg m e (f.place m e)
      let mag := f.magBits r.1 (f.place m e)
      if mag > f.maxBits false then (f.overflow rm neg sat, fOF ||| fNX)
      else if fz ∧ f.fz ∧ mag < 2 ^ f.fb ∧ mag ≠ 0 then (f.zeroBits neg, fUF ||| fNX)
      else ((if neg then f.sbit else 0) + mag,
        (if r.2 then fNX else 0) ||| (if r.2 ∧ f.tiny rm neg m e then fUF else 0)) := rfl

theorem magBits_of_lt {k : Nat} (q : Int) (hk : k < 2 ^ f.fb) : f.magBits k q = k := if_pos hk

theorem magBits_of_normal {k : Nat} {q : Int} (h1 : 2 ^ f.fb ≤ k) (h2 : k < 2 ^ (f.fb + 1)) :
    f.magBits k q = (q - f.elow + 1).toNat * 2 ^ f.fb + (k - 2 ^ f.fb) := by
  simp only [magBits, Nat.not_lt.2 h1, h2, if_false, if_true]

theorem magBits_of_carry {q : Int} : f.magBits (2 ^ (f.fb + 1)) q = ((q - f.elow + 1).toNat + 1) * 2 ^ f.fb := by
  have h : ¬2 ^ (f.fb + 1) < 2 ^ f.fb := by rw [Nat.pow_succ]; omega
  simp only [magBits, h, Nat.lt_irrefl, if_false]

end Fmt

/-- The rounded multiple is a neighbour of the value. -/
theorem Rounds.near {rm : RM} {neg : Bool} {x u k : Nat} {nx : Bool} (h : Rounds rm neg x u k nx) (hu : 0 < u) :
    k * u < x + u ∧ x < (k + 1) * u := by
  rw [Nat.succ_mul]
  cases rm with
  | rtz =>
    have h1 := h.toward_zero rfl
    rw [Nat.succ_mul] at h1
    omega
  | rne =>
    have h1 := h.nearest rfl
    omega
  | rup =>
    cases neg with
    | false => have h1 := h.away (.inl ⟨rfl, rfl⟩); omega
    | true => have h1 := h.cut (.inl ⟨rfl, rfl⟩); omega
  | rdn =>
    cases neg with
    | false => have h1 := h.cut (.inr ⟨rfl, rfl⟩); omega
    | true => have h1 := h.away (.inr ⟨rfl, rfl⟩); omega

/-- At `n` places below the highest bit the multiple has that bit or more. -/
theorem le_roundAt (rm : RM) (neg : Bool) (m : Nat) (e q : Int) (n : Nat) (hm : m ≠ 0) (h : q ≤ (Nat.log2 m : Int) + e - n) :
    2 ^ n ≤ (roundAt rm neg m e q).1 := by
  obtain ⟨-, h2⟩ := (roundAt_rounds rm neg m e q).near (Nat.two_pow_pos _)
  have hle : 2 ^ n * 2 ^ (q - min e q).toNat ≤ m * 2 ^ (e - min e q).toNat := by
    calc 2 ^ n * 2 ^ (q - min e q).toNat = 2 ^ (n + (q - min e q).toNat) := (Nat.pow_add ..).symm
      _ ≤ 2 ^ (Nat.log2 m + (e - min e q).toNat) := Nat.pow_le_pow_right (by omega) (by omega)
      _ = 2 ^ Nat.log2 m * 2 ^ (e - min e q).toNat := Nat.pow_add ..
      _ ≤ m * 2 ^ (e - min e q).toNat := Nat.mul_le_mul_right _ (Nat.log2_self_le hm)
  exact Nat.lt_succ_iff.1 (Nat.lt_of_mul_lt_mul_right (hle.trans_lt h2))

/-- At a place no more than `n` below the highest bit the multiple has at most one bit more. -/
theorem roundAt_le (rm : RM) (neg : Bool) (m : Nat) (e q : Int) (n : Nat) (h : (Nat.log2 m : Int) + e - n ≤ q) :
    (roundAt rm neg m e q).1 ≤ 2 ^ (n + 1) := by
  obtain ⟨h1, -⟩ := (roundAt_rounds rm neg m e q).near (Nat.two_pow_pos _)
  have hlt : m * 2 ^ (e - min e q).toNat < 2 ^ (n + 1) * 2 ^ (q - min e q).toNat := by
    calc m * 2 ^ (e - min e q).toNat
        < 2 ^ (Nat.log2 m + 1) * 2 ^ (e - min e q).toNat := Nat.mul_lt_mul_of_pos_right Nat.lt_log2_self (Nat.two_pow_pos _)
      _ = 2 ^ (Nat.log2 m + 1 + (e - min e q).toNat) := (Nat.pow_add ..).symm
      _ ≤ 2 ^ (n + 1 + (q - min e q).toNat) := Nat.pow_le_pow_right (by omega) (by omega)
      _ = 2 ^ (n + 1) * 2 ^ (q - min e q).toNat := Nat.pow_add ..
  refine Nat.lt_succ_iff.1 (Nat.lt_of_mul_lt_mul_right (a := 2 ^ (q - min e q).toNat) ?_)
  rw [Nat.succ_mul]
  omega

namespace Fmt

variable {f : Fmt}

/-- The significand and exponent of a rounded multiple's pattern have the multiple's value. -/
theorem parts_magBits {k : Nat} {q : Int} (hq : f.elow ≤ q) (hlow : k < 2 ^ f.fb → q = f.elow) (hk : k ≤ 2 ^ (f.fb + 1)) :
    let r := f.parts (f.magBits k q)
    r.1 * 2 ^ (r.2 - min q r.2).toNat = k * 2 ^ (q - min q r.2).toNat := by
  have h0 : 0 < 2 ^ f.fb := Nat.two_pow_pos _
  have hp : 2 ^ (f.fb + 1) = 2 * 2 ^ f.fb := by rw [Nat.pow_succ, Nat.mul_comm]
  rcases Nat.lt_or_ge k (2 ^ f.fb) with h1 | h1
  · rw [magBits_of_lt q h1, parts, if_pos h1, hlow h1]
  · rcases Nat.lt_or_ge k (2 ^ (f.fb + 1)) with h2 | h2
    · obtain ⟨d, rfl⟩ : ∃ d : Nat, q = f.elow + d := ⟨(q - f.elow).toNat, by omega⟩
      rw [magBits_of_normal h1 h2, show (f.elow + d - f.elow + 1).toNat = d + 1 by omega, parts_of_normal (by omega)]
      simp only
      rw [Nat.add_sub_cancel' h1]
    · obtain rfl : k = 2 ^ (f.fb + 1) := le_antisymm hk h2
      obtain ⟨d, rfl⟩ : ∃ d : Nat, q = f.elow + d := ⟨(q - f.elow).toNat, by omega⟩
      rw [magBits_of_carry, show (f.elow + d - f.elow + 1).toNat + 1 = (d + 1) + 1 by omega, ← Nat.add_zero (_ * _),
        parts_of_normal h0]
      simp only [Nat.cast_add, Nat.cast_one]
      rw [show (f.elow + (d + 1) - min (f.elow + d) (f.elow + (d + 1) : Int)).toNat = 1 by omega,
        show (f.elow + d - min (f.elow + d) (f.elow + (d + 1) : Int)).toNat = 0 by omega]
      omega

/-- A multiple below the normal ones stands at the subnormals' place. -/
theorem place_of_roundAt_lt (rm : RM) (neg : Bool) (m : Nat) (e : Int) (hm : m ≠ 0)
    (h : (roundAt rm neg m e (f.place m e)).1 < 2 ^ f.fb) : f.place m e = f.elow := by
  by_contra hne
  refine absurd (le_roundAt rm neg m e (f.place m e) f.fb hm ?_) (Nat.not_le.2 h)
  unfold place at hne ⊢
  omega

/-- Rounding a nonzero value without overflow and without FZ gives the bits of the rounded multiple (R55, R56). -/
theorem round_decodes (hf : f.Sound) (rm : RM) (neg sat : Bool) (m : Nat) (e : Int) (hm : m ≠ 0)
    (ho : (f.round rm false sat neg m e).2.getLsbD 2 = false) :
    ∃ (k : Nat) (q : Int), f.decode (f.round rm false sat neg m e).1 = .fin neg k q ∧
      k * 2 ^ (q - min (f.place m e) q).toNat =
        (roundAt rm neg m e (f.place m e)).1 * 2 ^ (f.place m e - min (f.place m e) q).toNat := by
  rw [round_eq] at ho ⊢
  dsimp only at ho ⊢
  by_cases hmag : f.magBits (roundAt rm neg m e (f.place m e)).1 (f.place m e) > f.maxBits false
  · rw [if_pos hmag] at ho
    exact absurd ho (by simp [fOF])
  · rw [if_neg hmag, if_neg (by simp), decode_finite hf neg _ (Nat.not_lt.1 hmag)]
    exact ⟨_, _, rfl, parts_magBits (le_max_right _ _) (place_of_roundAt_lt rm neg m e hm)
      (roundAt_le rm neg m e _ f.fb (le_max_left _ _))⟩

/-- A magnitude of the normal binades by its exponent and its fraction. -/
theorem exists_normal {p : Nat} (h : 2 ^ f.fb ≤ p) : ∃ d j, j < 2 ^ f.fb ∧ p = (d + 1) * 2 ^ f.fb + j := by
  have h0 : 0 < 2 ^ f.fb := Nat.two_pow_pos _
  have hd := Nat.div_pos h h0
  refine ⟨p / 2 ^ f.fb - 1, p % 2 ^ f.fb, Nat.mod_lt _ h0, ?_⟩
  rw [Nat.sub_add_cancel hd, Nat.div_add_mod']

/-- A finite magnitude that is not 0 has its own last place, and is the pattern of its significand there. -/
theorem place_parts (p : Nat) (h0 : p ≠ 0) : f.place (f.parts p).1 (f.parts p).2 = (f.parts p).2 ∧
    f.magBits (f.parts p).1 (f.parts p).2 = p := by
  rcases Nat.lt_or_ge p (2 ^ f.fb) with h | h
  · have hlog := (Nat.log2_lt h0).2 h
    rw [parts_of_lt h]
    exact ⟨max_eq_right (by dsimp only; omega), magBits_of_lt _ h⟩
  · obtain ⟨d, j, hj, rfl⟩ := exists_normal h
    have hp : 2 ^ (f.fb + 1) = 2 * 2 ^ f.fb := by rw [Nat.pow_succ, Nat.mul_comm]
    have hlog : Nat.log2 (2 ^ f.fb + j) = f.fb := (Nat.log2_eq_iff (by omega)).2 ⟨by omega, by omega⟩
    rw [parts_of_normal hj]
    refine ⟨?_, ?_⟩
    · rw [place, hlog]
      dsimp only
      omega
    · rw [magBits_of_normal (by omega) (by dsimp only; omega)]
      dsimp only
      rw [show (f.elow + d - f.elow + 1).toNat = d + 1 by omega, Nat.add_sub_cancel_left]

/-- A finite magnitude that is not 0 rounds to itself. -/
theorem round_parts (rm : RM) (sat neg : Bool) (p : Nat) (hp : p ≤ f.maxBits false) (h0 : p ≠ 0) :
    f.round rm false sat neg (f.parts p).1 (f.parts p).2 = ((if neg then f.sbit else 0) + p, 0) := by
  obtain ⟨hplace, hmag⟩ := f.place_parts p h0
  rw [round_eq, hplace, roundAt_of_le _ _ _ _ _ le_rfl, Int.sub_self, Int.toNat_zero, Nat.pow_zero, Nat.mul_one]
  dsimp only
  rw [hmag, if_neg (Nat.not_lt.2 hp)]
  simp

theorem parts_fst_eq_zero (p : Nat) : (f.parts p).1 = 0 ↔ p = 0 := by
  have h0 : 0 < 2 ^ f.fb := Nat.two_pow_pos _
  unfold parts
  split
  · rfl
  · simp only
    omega

/-- A decoded finite value goes back to its own bits (R50, R56). -/
theorem exact_decode (hf : f.Sound) (x : Nat) (hx : x < 2 * f.sbit) (n : Bool) (m : Nat) (e : Int)
    (h : f.decode x = .fin n m e) : f.exact (.fin n m e) = x := by
  obtain ⟨p, hp, rfl, rfl, rfl⟩ := exists_of_decode_fin hf x hx n m e h
  by_cases h0 : p = 0
  · simp [exact, parts_fst_eq_zero, h0, zeroBits]
  · simp [exact, parts_fst_eq_zero, h0, round_parts .rne false n p hp h0]

end Fmt

end Sys2Proof.Machine
end


section
/-!
Exact sums and products as real numbers, and the operations that round them once (R53, R133, R134).
-/

namespace Sys2Proof.Machine

/-! ## Signed dyadic numbers -/

/-- The real number (−1)^n · m · 2^e. -/
noncomputable def signedVal (n : Bool) (m : Nat) (e : Int) : ℝ := if n then -dyReal m e else dyReal m e

theorem dyReal_nonneg (m : Nat) (e : Int) : 0 ≤ dyReal m e := mul_nonneg (Nat.cast_nonneg m) (zpow_nonneg (by norm_num) e)

theorem dyReal_eq_zero (m : Nat) (e : Int) : dyReal m e = 0 ↔ m = 0 := by
  rw [dyReal, mul_eq_zero, Nat.cast_eq_zero, or_iff_left (zpow_ne_zero e two_ne_zero)]

/-- A number written at a lower place. -/
theorem dyReal_lower (m : Nat) {e q : Int} (h : q ≤ e) : dyReal (m * 2 ^ (e - q).toNat) q = dyReal m e := by
  rw [dyReal, dyReal, Nat.cast_mul, Nat.cast_pow, Nat.cast_two, mul_assoc, ← zpow_natCast, Int.toNat_of_nonneg (by omega),
    ← zpow_add₀ two_ne_zero, Int.sub_add_cancel]

theorem dyReal_mul (m₁ m₂ : Nat) (e₁ e₂ : Int) : dyReal (m₁ * m₂) (e₁ + e₂) = dyReal m₁ e₁ * dyReal m₂ e₂ := by
  rw [dyReal, dyReal, dyReal, Nat.cast_mul, zpow_add₀ two_ne_zero, mul_mul_mul_comm]

theorem signedVal_eq_zero (n : Bool) (m : Nat) (e : Int) : signedVal n m e = 0 ↔ m = 0 := by
  cases n <;> simp [signedVal, dyReal_eq_zero]

theorem signedVal_mul (n₁ n₂ : Bool) (m₁ m₂ : Nat) (e₁ e₂ : Int) :
    signedVal (n₁ != n₂) (m₁ * m₂) (e₁ + e₂) = signedVal n₁ m₁ e₁ * signedVal n₂ m₂ e₂ := by
  cases n₁ <;> cases n₂ <;> simp [signedVal, dyReal_mul]

theorem signedVal_not (n : Bool) (m : Nat) (e : Int) : signedVal (!n) m e = -signedVal n m e := by
  cases n <;> simp [signedVal]

/-- A signed number as an integer multiple of a lower place. -/
theorem signedVal_lower (n : Bool) (m : Nat) {e q : Int} (h : q ≤ e) :
    (((if n then -1 else 1) * ((m * 2 ^ (e - q).toNat : Nat) : Int) : Int) : ℝ) * 2 ^ q = signedVal n m e := by
  rw [signedVal, ← dyReal_lower m h, dyReal]
  cases n <;> simp

/-- Sign and magnitude of an integer multiple of a place. -/
theorem signedVal_natAbs (v : Int) (e : Int) : signedVal (decide (v < 0)) v.natAbs e = v * 2 ^ e := by
  rw [signedVal, dyReal, Nat.cast_natAbs]
  by_cases h : v < 0
  · simp [h, abs_of_neg h]
  · simp [h, abs_of_nonneg (Int.not_lt.1 h)]

/-- The sum loses nothing. -/
theorem signedVal_dySum (n₁ n₂ : Bool) (m₁ m₂ : Nat) (e₁ e₂ : Int) :
    signedVal (dySum n₁ m₁ e₁ n₂ m₂ e₂).1 (dySum n₁ m₁ e₁ n₂ m₂ e₂).2.1 (dySum n₁ m₁ e₁ n₂ m₂ e₂).2.2 =
      signedVal n₁ m₁ e₁ + signedVal n₂ m₂ e₂ := by
  rw [← signedVal_lower n₁ m₁ (min_le_left e₁ e₂), ← signedVal_lower n₂ m₂ (min_le_right e₁ e₂), ← add_mul, ← Int.cast_add]
  exact signedVal_natAbs _ _

/-- The sign that a sum is given tells where it stands to 0. -/
theorem dySum_sign (n₁ n₂ : Bool) (m₁ m₂ : Nat) (e₁ e₂ : Int) :
    ((dySum n₁ m₁ e₁ n₂ m₂ e₂).1 = true ↔ signedVal n₁ m₁ e₁ + signedVal n₂ m₂ e₂ < 0) ∧
    ((dySum n₁ m₁ e₁ n₂ m₂ e₂).2.1 = 0 ↔ signedVal n₁ m₁ e₁ + signedVal n₂ m₂ e₂ = 0) := by
  refine ⟨?_, by rw [← signedVal_dySum, signedVal_eq_zero]⟩
  have hp : (0 : ℝ) < 2 ^ min e₁ e₂ := zpow_pos two_pos _
  rw [← signedVal_lower n₁ m₁ (min_le_left e₁ e₂), ← signedVal_lower n₂ m₂ (min_le_right e₁ e₂), ← add_mul, ← Int.cast_add,
    mul_neg_iff, or_iff_right (fun h => hp.not_gt h.2), and_iff_left hp, Int.cast_lt_zero]
  exact decide_eq_true_iff

/-- A comparison is that of the real numbers. -/
theorem cmp_fin (n₁ n₂ : Bool) (m₁ m₂ : Nat) (e₁ e₂ : Int) :
    ((FVal.fin n₁ m₁ e₁).cmp (.fin n₂ m₂ e₂) < 0 ↔ signedVal n₁ m₁ e₁ < signedVal n₂ m₂ e₂) ∧
    ((FVal.fin n₁ m₁ e₁).cmp (.fin n₂ m₂ e₂) = 0 ↔ signedVal n₁ m₁ e₁ = signedVal n₂ m₂ e₂) := by
  obtain ⟨hneg, hzero⟩ := dySum_sign n₁ (!n₂) m₁ m₂ e₁ e₂
  rw [signedVal_not, ← sub_eq_add_neg, sub_neg] at hneg
  rw [signedVal_not, ← sub_eq_add_neg, sub_eq_zero] at hzero
  rw [← hneg, ← hzero]
  have hc : (FVal.fin n₁ m₁ e₁).cmp (.fin n₂ m₂ e₂) =
    if (dySum n₁ m₁ e₁ (!n₂) m₂ e₂).2.1 = 0 then 0 else if (dySum n₁ m₁ e₁ (!n₂) m₂ e₂).1 then -1 else 1 := rfl
  rw [hc]
  have hs : (dySum n₁ m₁ e₁ (!n₂) m₂ e₂).2.1 = 0 → (dySum n₁ m₁ e₁ (!n₂) m₂ e₂).1 = false := fun h => by
    rw [← Bool.not_eq_true, hneg, (hzero.1 h)]
    exact lt_irrefl _
  split_ifs with h0 h1 <;> simp_all

/-! ## One rounding of the exact real number -/

/-- `r` is one rounding of the real number `v`, and the zero of a sign when `v` is 0. -/
def Fmt.OneRounding (f : Fmt) (rm : RM) (fz : Bool) (v : ℝ) (zero : Bool) (r : Nat × Flags) : Prop :=
  (v = 0 → r = (f.zeroBits zero, 0)) ∧ (v ≠ 0 → ∃ n m e, m ≠ 0 ∧ signedVal n m e = v ∧ r = f.round rm fz false n m e)

namespace Fmt

variable (f : Fmt) (rm : RM) (fz : Bool) (n₁ n₂ n₃ : Bool) (m₁ m₂ m₃ : Nat) (e₁ e₂ e₃ : Int)

theorem oneRounding_round (n zero : Bool) (m : Nat) (e : Int) : f.OneRounding rm fz (signedVal n m e) zero
    (if m = 0 then (f.zeroBits zero, 0) else f.round rm fz false n m e) := by
  rw [OneRounding, Ne, signedVal_eq_zero]
  exact ⟨fun h => if_pos h, fun h => ⟨n, m, e, h, rfl, if_neg h⟩⟩

theorem fma_fin : f.fma rm fz (.fin n₁ m₁ e₁) (.fin n₂ m₂ e₂) (.fin n₃ m₃ e₃) =
    let r := dySum (n₁ != n₂) (m₁ * m₂) (e₁ + e₂) n₃ m₃ e₃
    if r.2.1 = 0 then (f.zeroBits (if (n₁ != n₂) = n₃ then n₁ != n₂ else decide (rm = .rdn)), 0)
    else f.round rm fz false r.1 r.2.1 r.2.2 := by
  cases m₁ <;> cases m₂ <;> rfl

/-- A fused sum of a product is one rounding of the exact number (R53). -/
theorem fma_oneRounding : f.OneRounding rm fz (signedVal n₁ m₁ e₁ * signedVal n₂ m₂ e₂ + signedVal n₃ m₃ e₃)
    (if (n₁ != n₂) = n₃ then n₁ != n₂ else decide (rm = .rdn))
    (f.fma rm fz (.fin n₁ m₁ e₁) (.fin n₂ m₂ e₂) (.fin n₃ m₃ e₃)) := by
  rw [fma_fin, ← signedVal_mul, ← signedVal_dySum]
  exact f.oneRounding_round rm fz _ _ _ _

theorem signedVal_one : signedVal false 1 0 = 1 := by simp [signedVal, dyReal]

/-- A sum is the fused sum with a factor 1. -/
theorem add_oneRounding : f.OneRounding rm fz (signedVal n₁ m₁ e₁ + signedVal n₂ m₂ e₂)
    (if n₁ = n₂ then n₁ else decide (rm = .rdn)) (f.add rm fz (.fin n₁ m₁ e₁) (.fin n₂ m₂ e₂)) := by
  have h := f.fma_oneRounding rm fz n₁ false n₂ m₁ 1 m₂ e₁ 0 e₂
  rwa [signedVal_one, mul_one, Bool.bne_false] at h

/-- A product is the fused sum with the zero of its sign. -/
theorem mul_oneRounding : f.OneRounding rm fz (signedVal n₁ m₁ e₁ * signedVal n₂ m₂ e₂) (n₁ != n₂)
    (f.mul rm fz (.fin n₁ m₁ e₁) (.fin n₂ m₂ e₂)) := by
  have h := f.fma_oneRounding rm fz n₁ n₂ (n₁ != n₂) m₁ m₂ 0 e₁ e₂ 0
  rwa [(signedVal_eq_zero _ 0 0).2 rfl, add_zero, if_pos rfl] at h

/-- A scaling by up to 2^±600 is one rounding of the exact number (R134). -/
theorem scale_oneRounding (h₁ : -600 ≤ e₃) (h₂ : e₃ ≤ 600) :
    f.OneRounding rm fz (signedVal n₁ m₁ e₁ * 2 ^ e₃) n₁ (f.scale rm fz (.fin n₁ m₁ e₁) e₃) := by
  have hv : signedVal n₁ m₁ e₁ * 2 ^ e₃ = signedVal n₁ m₁ (e₁ + e₃) := by
    have hp : dyReal m₁ e₁ * 2 ^ e₃ = dyReal m₁ (e₁ + e₃) := by
      rw [dyReal, dyReal, mul_assoc, ← zpow_add₀ two_ne_zero]
    cases n₁ <;> simp [signedVal, hp]
  have hs : max (-600) (min 600 e₃) = e₃ := by omega
  rw [hv, scale, hs]
  exact f.oneRounding_round rm fz _ _ _ _

/-! ## Minimum and maximum -/

/-- Whether the first of two finite operands counts as the smaller, −0 below +0 (R134). -/
def finLess (a b : FVal) : Bool := decide (a.cmp b < 0) || (decide (a.cmp b = 0) && a.neg && !b.neg)

theorem minmax_fin (big : Bool) : f.minmax big (.fin n₁ m₁ e₁) (.fin n₂ m₂ e₂) =
    (f.exact (if finLess (.fin n₁ m₁ e₁) (.fin n₂ m₂ e₂) != big then .fin n₁ m₁ e₁ else .fin n₂ m₂ e₂), 0) := rfl

theorem le_of_finLess (h : finLess (.fin n₁ m₁ e₁) (.fin n₂ m₂ e₂) = true) : signedVal n₁ m₁ e₁ ≤ signedVal n₂ m₂ e₂ := by
  obtain ⟨hlt, heq⟩ := cmp_fin n₁ n₂ m₁ m₂ e₁ e₂
  rw [finLess, Bool.or_eq_true, decide_eq_true_iff, Bool.and_eq_true, Bool.and_eq_true, decide_eq_true_iff, hlt, heq] at h
  rcases h with h | h
  · exact h.le
  · exact h.1.1.le

theorem le_of_not_finLess (h : finLess (.fin n₁ m₁ e₁) (.fin n₂ m₂ e₂) = false) :
    signedVal n₂ m₂ e₂ ≤ signedVal n₁ m₁ e₁ := by
  obtain ⟨hlt, -⟩ := cmp_fin n₁ n₂ m₁ m₂ e₁ e₂
  rw [finLess, Bool.or_eq_false_iff, decide_eq_false_iff_not, hlt] at h
  exact not_lt.1 h.1

theorem finLess_zeros : finLess (.fin n₁ 0 e₁) (.fin n₂ 0 e₂) = (n₁ && !n₂) := by
  obtain ⟨-, heq⟩ := cmp_fin n₁ n₂ 0 0 e₁ e₂
  have h := heq.2 (((signedVal_eq_zero n₁ 0 e₁).2 rfl).trans ((signedVal_eq_zero n₂ 0 e₂).2 rfl).symm)
  simp [finLess, h, FVal.neg]

/-- A minimum or maximum is one of the operands, with −0 below +0 (R134). -/
theorem minmax_is_operand (big : Bool) : ∃ n m e,
    f.minmax big (.fin n₁ m₁ e₁) (.fin n₂ m₂ e₂) = (f.exact (.fin n m e), 0) ∧
    signedVal n m e = (if big then max (signedVal n₁ m₁ e₁) (signedVal n₂ m₂ e₂)
      else min (signedVal n₁ m₁ e₁) (signedVal n₂ m₂ e₂)) ∧
    (signedVal n₁ m₁ e₁ = 0 → signedVal n₂ m₂ e₂ = 0 → n = (if big then n₁ && n₂ else n₁ || n₂)) := by
  rw [minmax_fin, signedVal_eq_zero, signedVal_eq_zero]
  cases hl : finLess (.fin n₁ m₁ e₁) (.fin n₂ m₂ e₂)
  · have hle := le_of_not_finLess n₁ n₂ m₁ m₂ e₁ e₂ hl
    have hz : m₁ = 0 → m₂ = 0 → (n₁ && !n₂) = false := by
      rintro rfl rfl
      rwa [finLess_zeros] at hl
    cases big
    · refine ⟨n₂, m₂, e₂, rfl, (min_eq_right hle).symm, fun h₁ h₂ => ?_⟩
      have := hz h₁ h₂
      revert this
      cases n₁ <;> cases n₂ <;> decide
    · refine ⟨n₁, m₁, e₁, rfl, (max_eq_left hle).symm, fun h₁ h₂ => ?_⟩
      have := hz h₁ h₂
      revert this
      cases n₁ <;> cases n₂ <;> decide
  · have hle := le_of_finLess n₁ n₂ m₁ m₂ e₁ e₂ hl
    have hz : m₁ = 0 → m₂ = 0 → n₁ = true ∧ n₂ = false := by
      rintro rfl rfl
      simpa [finLess_zeros] using hl
    cases big
    · refine ⟨n₁, m₁, e₁, rfl, (min_eq_left hle).symm, fun h₁ h₂ => ?_⟩
      obtain ⟨rfl, rfl⟩ := hz h₁ h₂
      rfl
    · refine ⟨n₂, m₂, e₂, rfl, (max_eq_right hle).symm, fun h₁ h₂ => ?_⟩
      obtain ⟨rfl, rfl⟩ := hz h₁ h₂
      rfl

end Fmt

/-! ## Integral values -/

/-- A nonzero value rounded into a range of integers (R57). -/
theorem toInt_fin (rm : RM) (n : Bool) (m : Nat) (e lo hi : Int) (h : lo ≤ hi) :
    let v : Int := if n then -((roundAt rm n m e 0).1 : Int) else (roundAt rm n m e 0).1
    toInt rm lo hi (.fin n m e) =
      (max lo (min hi v), if v < lo ∨ hi < v then fNV else if (roundAt rm n m e 0).2 then fNX else 0) := by
  intro v
  have ht : toInt rm lo hi (.fin n m e) =
    if v < lo then (lo, fNV) else if v > hi then (hi, fNV) else (v, if (roundAt rm n m e 0).2 then fNX else 0) := rfl
  rw [ht]
  rcases lt_or_ge v lo with hlo | hlo
  · rw [if_pos hlo, if_pos (Or.inl hlo), max_eq_left ((min_le_right hi v).trans hlo.le)]
  · rcases lt_or_ge hi v with hhi | hhi
    · rw [if_neg hlo.not_gt, if_pos hhi, if_pos (Or.inr hhi), min_eq_left hhi.le, max_eq_right h]
    · rw [if_neg hlo.not_gt, if_neg hhi.not_gt, if_neg (not_or.2 ⟨hlo.not_gt, hhi.not_gt⟩), min_eq_right hhi, max_eq_right hlo]

theorem Fmt.integral_fin (f : Fmt) (rm : RM) (n : Bool) (m : Nat) (e : Int) (nx : Bool) (hm : m ≠ 0) :
    f.integral rm (.fin n m e) nx =
      (f.exact (.fin n (roundAt rm n m e 0).1 0), if (roundAt rm n m e 0).2 && nx then fNX else 0) := by
  have h : f.integral rm (.fin n m e) nx = if m = 0 then (f.zeroBits n, 0)
    else (f.exact (.fin n (roundAt rm n m e 0).1 0), if (roundAt rm n m e 0).2 ∧ nx then fNX else 0) := rfl
  rw [h, if_neg hm]
  simp only [Bool.and_eq_true]

/-- Settles O7: rounding at one place by the part cut off, rounding into a format through the significand and exponent
of its magnitude patterns, and the operations through the real value of the exact sum. -/
theorem roundingAndFormats : Obligations.RoundingAndFormats := by
  refine ⟨roundAt_one_place, fun f hf => ⟨fun rm neg sat m e hm ho => ?_, fun x n m e => ?_⟩, ?_⟩
  · obtain ⟨k', q', hd, hv⟩ := Fmt.round_decodes (f.sound_of_mem hf) rm neg sat m e hm ho
    exact ⟨k', q', hd, hv⟩
  · exact fun hx => Fmt.exact_decode (f.sound_of_mem hf) x hx n m e
  · intro f rm fz big n₁ n₂ n₃ m₁ m₂ m₃ e₁ e₂ e₃
    exact ⟨f.fma_oneRounding rm fz n₁ n₂ n₃ m₁ m₂ m₃ e₁ e₂ e₃, f.add_oneRounding rm fz n₁ n₂ m₁ m₂ e₁ e₂,
      f.mul_oneRounding rm fz n₁ n₂ m₁ m₂ e₁ e₂, f.scale_oneRounding rm fz n₁ m₁ e₁ e₃,
      f.minmax_is_operand n₁ n₂ m₁ m₂ e₁ e₂ big, fun m e hm => if_neg hm,
      fun hm => ⟨if_neg hm, fun nx => f.integral_fin rm n₁ m₁ e₁ nx hm, fun lo hi => toInt_fin rm n₁ m₁ e₁ lo hi⟩⟩

end Sys2Proof.Machine
end


section
/-!
The special functions (R67): the exact cases, and the results within 2 ulp elsewhere.
-/

namespace Sys2Proof.Machine

/-! ## Integer operands -/

/-- A dyadic number that is a natural number is found to be one, with its value. -/
theorem isInt_of_dyReal_eq (m : Nat) (e : Int) (q : Nat) (h : dyReal m e = q) : isInt m e = true ∧ intVal m e = q := by
  unfold isInt intVal
  rcases le_or_gt 0 e with he | he
  · rw [if_pos he]
    refine ⟨by simp [he], ?_⟩
    lift e to ℕ using he
    rw [dyReal, zpow_natCast] at h
    exact_mod_cast h
  · obtain ⟨d, rfl⟩ : ∃ d : Nat, e = -(d : Int) := ⟨(-e).toNat, by omega⟩
    have hd : m = q * 2 ^ d := by
      rw [dyReal, zpow_neg, ← div_eq_mul_inv, div_eq_iff (zpow_ne_zero _ two_ne_zero), zpow_natCast] at h
      exact_mod_cast h
    rw [if_neg (by omega), Int.neg_neg, Int.toNat_natCast, hd]
    exact ⟨by simp, Nat.mul_div_cancel _ (Nat.two_pow_pos d)⟩

/-- What is found to be an integer is one. -/
theorem dyReal_eq_intVal (m : Nat) (e : Int) (h : isInt m e = true) : dyReal m e = intVal m e := by
  unfold isInt at h
  unfold intVal
  rcases le_or_gt 0 e with he | he
  · rw [if_pos he]
    lift e to ℕ using he
    rw [dyReal, zpow_natCast, Int.toNat_natCast, Nat.cast_mul, Nat.cast_pow, Nat.cast_two]
  · obtain ⟨d, rfl⟩ : ∃ d : Nat, e = -(d : Int) := ⟨(-e).toNat, by omega⟩
    have hd : 2 ^ d ∣ m := by
      rw [Int.neg_neg, Int.toNat_natCast, Bool.or_eq_true, or_iff_right (by simp; omega), beq_iff_eq] at h
      exact Nat.dvd_of_mod_eq_zero h
    rw [if_neg (by omega), Int.neg_neg, Int.toNat_natCast, Nat.cast_div hd (by positivity), dyReal, zpow_neg, zpow_natCast,
      div_eq_mul_inv, Nat.cast_pow, Nat.cast_two]

theorem dyReal_quarters (m : Nat) (e : Int) : dyReal m (e + 2) = 4 * dyReal m e := by
  rw [dyReal, dyReal, zpow_add₀ two_ne_zero]
  ring

/-! ## The exact cases -/

theorem exact_one (n : Bool) : f32.exact (.fin n 1 0) = f32.zeroBits n + 127 * 2 ^ 23 := by
  cases n <;> rfl

/-- A power of two that f32 holds as a normal value. -/
theorem round_pow_normal (rm : RM) (fz : Bool) (j : Int) (h₁ : -126 ≤ j) (h₂ : j ≤ 127) :
    f32.round rm fz false false 1 j = ((j + 127).toNat * 2 ^ 23, 0) := by
  obtain ⟨d, rfl⟩ : ∃ d : Nat, j = d - 126 := ⟨(j + 126).toNat, by omega⟩
  have hp : f32.place 1 (d - 126) = d - 149 := by
    show max ((Nat.log2 1 : Int) + (d - 126) - 23) (-149) = d - 149
    rw [show Nat.log2 1 = 0 from rfl]
    omega
  have hm : f32.magBits (2 ^ 23) (d - 149) = (d + 1) * 2 ^ 23 := by
    rw [Fmt.magBits_of_normal (f := f32) (k := 2 ^ 23) (by decide) (by decide)]
    show ((d - 149 - -149 + 1 : Int)).toNat * 2 ^ 23 + (2 ^ 23 - 2 ^ 23) = _
    rw [show ((d - 149 - -149 + 1 : Int)).toNat = d + 1 by omega, Nat.sub_self, Nat.add_zero]
  rw [Fmt.round_eq, hp, roundAt_of_le _ _ _ _ _ (by omega), show ((d : Int) - 126 - (d - 149)).toNat = 23 by omega, Nat.one_mul]
  dsimp only
  have hmax : f32.maxBits false = 255 * 2 ^ 23 - 1 := rfl
  have hfb : f32.fb = 23 := rfl
  rw [hm, hmax, hfb, if_neg (by omega), if_neg (by omega), show (d - 126 + 127 : Int).toNat = d + 1 by omega]
  simp

/-- A power of two below those, as a subnormal value. -/
theorem round_pow_subnormal (rm : RM) (j : Int) (h₁ : -149 ≤ j) (h₂ : j < -126) :
    f32.round rm false false false 1 j = (2 ^ (j + 149).toNat, 0) := by
  have hp : f32.place 1 j = -149 := by
    show max ((Nat.log2 1 : Int) + j - 23) (-149) = -149
    rw [show Nat.log2 1 = 0 from rfl]
    omega
  have hlt : 2 ^ (j + 149).toNat < 2 ^ f32.fb := Nat.pow_lt_pow_right (by decide) (show _ < 23 by omega)
  rw [Fmt.round_eq, hp, roundAt_of_le _ _ _ _ _ h₁, show j - -149 = j + 149 by omega, Nat.one_mul]
  dsimp only
  have hmax : f32.maxBits false = 255 * 2 ^ 23 - 1 := rfl
  rw [Fmt.magBits_of_lt _ hlt, hmax, if_neg (by rw [show f32.fb = 23 from rfl] at hlt; omega)]
  simp

/-- An integer operand gives the power of two where f32 holds it. -/
theorem fexp2_int (rm : RM) (fz n : Bool) (m : Nat) (e j : Int) (k : Nat) (hj : signedVal n m e = j) (h : -149 ≤ j) :
    fexp2 rm fz (.fin n m e) k = f32.round rm fz false false 1 j := by
  obtain ⟨q, hq⟩ : ∃ q : Nat, dyReal m e = q := by
    refine ⟨j.natAbs, ?_⟩
    rw [Nat.cast_natAbs, Int.cast_abs, ← hj, signedVal]
    cases n <;> simp [abs_of_nonneg, dyReal_nonneg]
  obtain ⟨hi, hv⟩ := isInt_of_dyReal_eq m e q hq
  have hjq : (if n then -1 else 1) * (q : Int) = j := by
    rw [signedVal, hq] at hj
    cases n <;> simp at hj ⊢ <;> exact_mod_cast hj
  rw [fexp2, hi, hv, hjq]
  exact if_pos ⟨rfl, h⟩

theorem flog2_pow (rm : RM) (fz : Bool) (j : Nat) (e : Int) (k : Nat) : flog2 rm fz (.fin false (2 ^ j) e) k =
    (f32.exact (.fin (decide (j + e < 0)) (j + e).natAbs 0), 0) := by
  rw [flog2, Nat.log2_two_pow, if_neg (Nat.two_pow_pos j).ne']
  simp

/-- At a quarter turn the sine is that of the turn. -/
theorem fsin_quarter (rm : RM) (fz n : Bool) (m : Nat) (e : Int) (k q : Nat) (hq : 4 * dyReal m e = q) :
    fsin rm fz (.fin n m e) k = if q % 4 = 1 then (f32.exact (.fin n 1 0), 0)
      else if q % 4 = 3 then (f32.exact (.fin (!n) 1 0), 0) else (f32.zeroBits n, 0) := by
  obtain ⟨hi, hv⟩ := isInt_of_dyReal_eq m (e + 2) q ((dyReal_quarters m e).trans hq)
  have hlt : q % 4 < 4 := Nat.mod_lt _ (by decide)
  rw [fsin, if_pos hi, hv]
  generalize q % 4 = r at hlt
  interval_cases r <;> rfl

theorem fcos_quarter (rm : RM) (fz n : Bool) (m : Nat) (e : Int) (k q : Nat) (hq : 4 * dyReal m e = q) :
    fcos rm fz (.fin n m e) k = if q % 4 = 0 then (f32.exact (.fin false 1 0), 0)
      else if q % 4 = 2 then (f32.exact (.fin true 1 0), 0) else (0, 0) := by
  obtain ⟨hi, hv⟩ := isInt_of_dyReal_eq m (e + 2) q ((dyReal_quarters m e).trans hq)
  have hlt : q % 4 < 4 := Nat.mod_lt _ (by decide)
  rw [fcos, if_pos hi, hv]
  generalize q % 4 = r at hlt
  interval_cases r <;> rfl

/-! ## Patterns within 2 ulp -/

/-- A magnitude pattern's value is that of its significand and exponent. -/
theorem magVal_eq_parts (p : Nat) : magVal p = dyReal (f32.parts p).1 (f32.parts p).2 := by
  unfold magVal Fmt.parts
  rw [show f32.fb = 23 from rfl, show f32.elow = -149 from rfl, show ((p / 2 ^ 23 : Nat) : Int) - 150
    = -149 + (p / 2 ^ 23 : Nat) - 1 by omega]
  split_ifs <;> rfl

/-- Every pattern below infinity decodes to its own value. -/
theorem decode_magVal (p : Nat) (hp : p < 255 * 2 ^ 23) : ∃ m e, f32.decode p = .fin false m e ∧ dyReal m e = magVal p := by
  have h := Fmt.decode_finite (f32.sound_of_mem (by simp)) false p (show p ≤ 255 * 2 ^ 23 - 1 by omega)
  rw [if_neg Bool.false_ne_true, Nat.zero_add] at h
  exact ⟨_, _, h, (magVal_eq_parts p).symm⟩

theorem dyReal_one (e : Int) : dyReal 1 e = 2 ^ e := by rw [dyReal, Nat.cast_one, one_mul]

/-- A number that is not negative is less than one place above the multiple below it. -/
theorem floor_mul_near (y u : ℝ) (hy : 0 ≤ y) (hu : 0 < u) : |(⌊y / u⌋₊ : ℝ) * u - y| ≤ 2 * u := by
  have h₁ : (⌊y / u⌋₊ : ℝ) * u ≤ y := (le_div_iff₀ hu).1 (Nat.floor_le (by positivity))
  have h₂ : y < (⌊y / u⌋₊ + 1 : ℝ) * u := (div_lt_iff₀ hu).1 (Nat.lt_floor_add_one _)
  rw [abs_le]
  constructor <;> linarith

/-- Below the smallest normal value the subnormals come near enough. -/
theorem within2_subnormal (y : ℝ) (h0 : 0 ≤ y) (hy : y < 2 ^ (-126 : Int)) : ∃ p < 2 ^ 23, Within2 y p := by
  have hlt : ⌊y / 2 ^ (-149 : Int)⌋₊ < 2 ^ 23 := by
    rw [Nat.floor_lt (by positivity), div_lt_iff₀ (by positivity)]
    refine hy.trans_eq ?_
    norm_num
  refine ⟨_, hlt, ?_⟩
  rw [Within2, magVal, if_pos hlt, ulpAt, dyReal_one, if_pos hy, dyReal_one, dyReal]
  exact floor_mul_near y _ h0 (by positivity)

/-- In a normal binade a pattern of that binade comes near enough. -/
theorem within2_normal (y : ℝ) (hy : 2 ^ (-126 : Int) ≤ y) (d : Nat) (hd : Int.log 2 y = d - 126) :
    ∃ j < 2 ^ 23, Within2 y ((d + 1) * 2 ^ 23 + j) := by
  have h0 : 0 < y := (zpow_pos two_pos _).trans_le hy
  have hlo : (2 : ℝ) ^ ((d : Int) - 126) ≤ y := hd ▸ Int.zpow_log_le_self one_lt_two h0
  have hhi : y < (2 : ℝ) ^ ((d : Int) - 126 + 1) := hd ▸ Int.lt_zpow_succ_log_self one_lt_two y
  have hu : (0 : ℝ) < 2 ^ ((d : Int) - 149) := zpow_pos two_pos _
  have hk₁ : 2 ^ 23 ≤ ⌊y / 2 ^ ((d : Int) - 149)⌋₊ := by
    rw [Nat.le_floor_iff (by positivity), le_div_iff₀ hu]
    refine le_trans (le_of_eq ?_) hlo
    rw [Nat.cast_pow, ← zpow_natCast, Nat.cast_two, ← zpow_add₀ two_ne_zero]
    congr 1
    omega
  have hk₂ : ⌊y / 2 ^ ((d : Int) - 149)⌋₊ < 2 ^ 24 := by
    rw [Nat.floor_lt (by positivity), div_lt_iff₀ hu]
    refine hhi.trans_eq ?_
    rw [Nat.cast_pow, ← zpow_natCast, Nat.cast_two, ← zpow_add₀ two_ne_zero]
    congr 1
    omega
  refine ⟨⌊y / 2 ^ ((d : Int) - 149)⌋₊ - 2 ^ 23, by omega, ?_⟩
  have hp := Fmt.parts_of_normal (f := f32) (d := d) (j := ⌊y / 2 ^ ((d : Int) - 149)⌋₊ - 2 ^ 23)
    (show _ < 2 ^ 23 by omega)
  have hm : magVal ((d + 1) * 2 ^ 23 + (⌊y / 2 ^ ((d : Int) - 149)⌋₊ - 2 ^ 23)) =
      ⌊y / 2 ^ ((d : Int) - 149)⌋₊ * 2 ^ ((d : Int) - 149) := by
    rw [magVal_eq_parts]
    refine (congrArg (fun r : Nat × Int => dyReal r.1 r.2) hp).trans ?_
    show dyReal (2 ^ 23 + (⌊y / 2 ^ ((d : Int) - 149)⌋₊ - 2 ^ 23)) (-149 + d) = _
    rw [Nat.add_sub_cancel' hk₁, dyReal, show (-149 + d : Int) = d - 149 by omega]
  rw [Within2, hm, ulpAt, dyReal_one, if_neg hy.not_gt, dyReal_one, hd, show (d : Int) - 126 - 23 = d - 149 by omega]
  exact floor_mul_near y _ h0.le hu

/-- Every exact result has a pattern within the bound, and one below 1 has a pattern of at most 1. -/
theorem exists_within2 (y : ℝ) (h0 : 0 ≤ y) : ∃ p, Within2 y p ∧ (y < 1 → p ≤ 127 * 2 ^ 23) := by
  rcases lt_or_ge y (2 ^ (-126 : Int)) with hy | hy
  · obtain ⟨p, hlt, hp⟩ := within2_subnormal y h0 hy
    exact ⟨p, hp, fun _ => by omega⟩
  · have hpos : 0 < y := (zpow_pos two_pos _).trans_le hy
    have hlog : -126 ≤ Int.log 2 y := (Int.zpow_le_iff_le_log one_lt_two hpos).1 hy
    obtain ⟨d, hd⟩ : ∃ d : Nat, Int.log 2 y = d - 126 := ⟨(Int.log 2 y + 126).toNat, by omega⟩
    obtain ⟨j, hj, hp⟩ := within2_normal y hy d hd
    refine ⟨_, hp, fun h1 => ?_⟩
    have hneg : Int.log 2 y < 0 := (Int.lt_zpow_iff_log_lt one_lt_two hpos).1 (by simpa using h1)
    have hd1 : d + 1 ≤ 126 := by omega
    omega

/-- The free value is one that is allowed, when there is one. -/
theorem freeAmong_spec (ok : Nat → Prop) (h : ∃ p, ok p) (free : Nat) : ok (freeAmong ok free) := by
  unfold freeAmong
  split_ifs with hf
  · exact hf
  · exact Classical.epsilon_spec h

/-! ## Results within 2 ulp -/

/-- `r` is the result for some f32 pattern within 2 ulp of `y`, of sign `neg` and, unless `top` is 0, of at most `top`. -/
def Near2 (rm : RM) (fz neg : Bool) (y : ℝ) (top : Nat) (r : Nat × Flags) : Prop := ∃ p : Nat, |magVal p - y| ≤ 2 * ulpAt y ∧
  (top ≠ 0 → p ≤ top) ∧
  (255 * 2 ^ 23 ≤ p → r = (f32.overflow rm neg false, fOF ||| fNX)) ∧
  (p < 255 * 2 ^ 23 → r = ((if neg then 2 ^ 31 else 0) + (if fz = true ∧ p < 2 ^ 23 then 0 else p),
    if p < 2 ^ 23 then fUF ||| fNX else fNX))

theorem near2_bits2 (rm : RM) (fz neg : Bool) (y : ℝ) (top p : Nat) (hw : Within2 y p) (ht : top ≠ 0 → p ≤ top) :
    Near2 rm fz neg y top (bits2 rm fz neg false p) := by
  refine ⟨p, hw, ht, fun h => if_pos h, fun h => ?_⟩
  rw [bits2, if_neg (Nat.not_le.2 h)]
  by_cases hs : p < 2 ^ 23
  · rw [if_pos ⟨hs, by simp⟩, if_pos hs, if_congr (and_iff_left hs) rfl rfl]
    cases fz <;> rfl
  · rw [if_neg (c := p < 2 ^ 23 ∧ _) fun hc => hs hc.1, if_neg (c := fz = true ∧ _) fun hc => hs hc.2, if_neg hs]

theorem near2_pick2 (rm : RM) (fz neg : Bool) (y : ℝ) (h0 : 0 ≤ y) (free : Nat) :
    Near2 rm fz neg y 0 (pick2 rm fz neg y free) :=
  near2_bits2 rm fz neg y 0 _ (freeAmong_spec _ ((exists_within2 y h0).imp fun _ h => h.1) free) fun h => absurd rfl h

theorem ftanh_near (rm : RM) (fz n : Bool) (m : Nat) (e : Int) (k : Nat) (hm : m ≠ 0) :
    Near2 rm fz n (Real.tanh (dyReal m e)) (127 * 2 ^ 23) (ftanh rm fz (.fin n m e) k) := by
  have h0 : 0 ≤ Real.tanh (dyReal m e) := by
    rw [Real.tanh_eq_sinh_div_cosh]
    exact div_nonneg (Real.sinh_nonneg_iff.2 (dyReal_nonneg m e)) (Real.cosh_pos _).le
  obtain ⟨p, hp, hle⟩ := exists_within2 _ h0
  obtain ⟨hw, ht⟩ := freeAmong_spec (fun p => Within2 (Real.tanh (dyReal m e)) p ∧ p ≤ 127 * 2 ^ 23)
    ⟨p, hp, hle (Real.tanh_lt_one _)⟩ k
  rw [ftanh, beq_false_of_ne hm]
  exact near2_bits2 rm fz n _ _ _ hw fun _ => ht

theorem fexp2_near (rm : RM) (fz n : Bool) (m : Nat) (e : Int) (k : Nat) (h : ∀ j : Nat, dyReal m e ≠ j) :
    Near2 rm fz false (2 ^ signedVal n m e) 0 (fexp2 rm fz (.fin n m e) k) := by
  rw [fexp2, if_neg fun hi => h _ (dyReal_eq_intVal m e hi.1)]
  exact near2_pick2 rm fz false _ (by positivity) k

theorem flog2_near (rm : RM) (fz : Bool) (m : Nat) (e : Int) (k : Nat) (hm : m ≠ 0) (h : ∀ j, m ≠ 2 ^ j) (neg : Bool)
    (hneg : neg = true ↔ Real.logb 2 (dyReal m e) < 0) :
    Near2 rm fz neg |Real.logb 2 (dyReal m e)| 0 (flog2 rm fz (.fin false m e) k) := by
  rw [flog2, if_neg hm, if_neg Bool.false_ne_true, if_neg (h _)]
  obtain rfl : neg = decide (Real.logb 2 (dyReal m e) < 0) := Bool.eq_iff_iff.2 (hneg.trans decide_eq_true_iff.symm)
  exact near2_pick2 rm fz _ _ (abs_nonneg _) k

/-- Off the quarter turns no quarter is found. -/
theorem not_isInt_quarter (m : Nat) (e : Int) (h : ¬∃ q : Nat, 4 * dyReal m e = q) : isInt m (e + 2) = false := by
  by_contra hi
  exact h ⟨_, (dyReal_quarters m e).symm.trans (dyReal_eq_intVal m (e + 2) (Bool.eq_true_of_not_eq_false hi))⟩

/-- Off the quarter turns the sine is not 0. -/
theorem sin_ne_zero_of_not_quarter (x : ℝ) (hx : 0 ≤ x) (h : ¬∃ q : Nat, 4 * x = q) : Real.sin (2 * Real.pi * x) ≠ 0 := by
  rw [Ne, Real.sin_eq_zero_iff]
  rintro ⟨n, hn⟩
  have h2 : 2 * x = n := mul_right_cancel₀ Real.pi_ne_zero (by linarith)
  have h4 : 4 * x = (2 * n : Int) := by push_cast; linarith
  have hpos : 0 ≤ 2 * n := by
    have : (0 : ℝ) ≤ (2 * n : Int) := h4 ▸ by positivity
    exact_mod_cast this
  refine h ⟨(2 * n).toNat, ?_⟩
  rw [h4, ← Int.cast_natCast, Int.toNat_of_nonneg hpos]

theorem fsin_near (rm : RM) (fz n : Bool) (m : Nat) (e : Int) (k : Nat) (h : ¬∃ q : Nat, 4 * dyReal m e = q) (neg : Bool)
    (hneg : neg = true ↔ Real.sin (2 * Real.pi * signedVal n m e) < 0) :
    Near2 rm fz neg |Real.sin (2 * Real.pi * dyReal m e)| 0 (fsin rm fz (.fin n m e) k) := by
  have h0 := sin_ne_zero_of_not_quarter _ (dyReal_nonneg m e) h
  rw [fsin, if_neg (by simp [not_isInt_quarter m e h])]
  have hs : neg = (decide (Real.sin (2 * Real.pi * dyReal m e) < 0) != n) := by
    rw [Bool.eq_iff_iff, hneg]
    cases n
    · simp [signedVal]
    · simp [signedVal, h0.symm.le_iff_lt]
  rw [hs]
  convert near2_pick2 rm fz _ _ (abs_nonneg _) k

theorem fcos_near (rm : RM) (fz n : Bool) (m : Nat) (e : Int) (k : Nat) (h : ¬∃ q : Nat, 4 * dyReal m e = q) (neg : Bool)
    (hneg : neg = true ↔ Real.cos (2 * Real.pi * dyReal m e) < 0) :
    Near2 rm fz neg |Real.cos (2 * Real.pi * dyReal m e)| 0 (fcos rm fz (.fin n m e) k) := by
  rw [fcos, if_neg (by simp [not_isInt_quarter m e h])]
  obtain rfl : neg = decide (Real.cos (2 * Real.pi * dyReal m e) < 0) := Bool.eq_iff_iff.2 (hneg.trans decide_eq_true_iff.symm)
  convert near2_pick2 rm fz _ _ (abs_nonneg _) k

/-- Settles O10: the words are of the shared form, the exact cases are read off the functions once an integer operand is
found to be one, and a pattern within the bound is there for every result that is not negative. -/
theorem specialFunctionResults : Obligations.SpecialFunctionResults := by
  refine ⟨specialFunction_words, ?_, decode_magVal, ?_⟩
  · intro rm fz n n' m e e' k
    refine ⟨rfl, rfl, rfl, rfl, fun hm => if_neg hm, rfl, rfl, fun hm => if_neg hm, rfl, rfl, fun j hj => ⟨?_, ?_⟩, rfl,
      fun hm => if_neg hm, rfl, rfl, ?_, rfl, rfl, fun q hq => ?_, exact_one n ▸ rfl, rfl, rfl, ?_⟩
    · exact fun h₁ h₂ => (fexp2_int rm fz n m e j k hj (by omega)).trans (round_pow_normal rm fz j h₁ h₂)
    · exact fun h₁ h₂ => (fexp2_int rm false n m e j k hj h₁).trans (round_pow_subnormal rm j h₁ h₂)
    · rintro j rfl
      exact flog2_pow rm fz j e k
    · rw [fsin_quarter rm fz n m e k q hq, fcos_quarter rm fz n m e k q hq, exact_one, exact_one, exact_one, exact_one]
      have heven : q % 2 = 0 → q % 4 = 0 ∨ q % 4 = 2 := by omega
      have hodd : q % 2 = 1 → q % 4 = 1 ∨ q % 4 = 3 := by omega
      refine ⟨fun h => ?_, fun h => by rw [h]; rfl, fun h => by rw [h]; rfl, fun h => by rw [h]; rfl, fun h => ?_,
        fun h => by rw [h]; rfl⟩
      · rcases heven h with h | h <;> rw [h] <;> rfl
      · rcases hodd h with h | h <;> rw [h] <;> rfl
    · exact fun hm => if_neg hm
  · intro rm fz n m e k hm
    refine ⟨?_, ?_, fexp2_near rm fz n m e k, flog2_near rm fz m e k hm, fsin_near rm fz n m e k, fcos_near rm fz n m e k,
      ftanh_near rm fz n m e k hm⟩
    · rw [frcp, if_neg hm]
      exact near2_pick2 rm fz n _ (one_div_nonneg.2 (dyReal_nonneg m e)) k
    · rw [frsq, if_neg hm]
      exact near2_pick2 rm fz false _ (by positivity) k

end Sys2Proof.Machine
end


section
/-!
Loaded values (R56, R150, R156, R161, R165): what LOAD_WRITEBACK leaves in its group, and the value of a plane read.
-/

namespace Sys2Proof.Machine

/-! ## The group with a number -/

/-- The group with a number, once every group has been changed and has kept its number. -/
theorem State.grp?_of_allGroups {s t : State} {f : Group → Group} (h : t.allGroups = s.allGroups.map f)
    (hf : ∀ g, (f g).id = g.id) (id : Nat) : t.grp? id = (s.grp? id).map f := by
  rw [State.grp?, State.grp?, h, List.find?_map]
  congr 2
  funext g
  rw [Function.comp_apply, hf]

theorem State.id_of_grp? {s : State} {id : Nat} {g : Group} (hg : s.grp? id = some g) : g.id = id := by
  simpa using List.find?_some hg

theorem State.grp?_mapGrp (s : State) (id : Nat) (f : Group → Group) (hf : ∀ g, (f g).id = g.id) (n : Nat) :
    (s.mapGrp id f).grp? n = (s.grp? n).map fun g => if g.id == id then f g else g :=
  State.grp?_of_allGroups rfl (fun g => by split <;> simp [hf]) n

/-- The group that has been changed. -/
theorem State.grp?_mapGrp_self (s : State) (id : Nat) (f : Group → Group) (hf : ∀ g, (f g).id = g.id) {g : Group}
    (hg : s.grp? id = some g) : (s.mapGrp id f).grp? id = some (f g) := by
  rw [State.grp?_mapGrp s id f hf, hg, Option.map_some, State.id_of_grp? hg, beq_self_eq_true, if_pos rfl]

/-! ## Counters, wakes and pending causes -/

@[simp] theorem Group.lower_id (g : Group) (c : Counter) : (g.lower c).id = g.id := by cases c <;> rfl
@[simp] theorem Group.lower_v (g : Group) (c : Counter) : (g.lower c).v = g.v := by cases c <;> rfl
@[simp] theorem Group.lower_s (g : Group) (c : Counter) : (g.lower c).s = g.s := by cases c <;> rfl
@[simp] theorem Group.lower_g (g : Group) (c : Counter) : (g.lower c).g = g.g := by cases c <;> rfl
@[simp] theorem Group.lower_pend (g : Group) (c : Counter) : (g.lower c).pend = g.pend := by cases c <;> rfl
@[simp] theorem Group.lower_fflags (g : Group) (c : Counter) : (g.lower c).fflags = g.fflags := by cases c <;> rfl
@[simp] theorem Group.lower_ctr (g : Group) (c : Counter) : (g.lower c).ctr c = g.ctr c - 1 := by cases c <;> rfl

theorem State.grp?_wake (s : State) (q : Group → PSet → Bool) (n : Nat) :
    (s.mapGrps fun g => g.wake (q g)).grp? n = (s.grp? n).map fun g => g.wake (q g) :=
  State.grp?_of_allGroups (f := fun g => g.wake (q g)) rfl (fun _ => rfl) n

theorem State.grp?_settle (s : State) : ∃ q : Group → PSet → Bool,
    ∀ n, s.settle.grp? n = (s.grp? n).map fun g => g.wake (q g) :=
  ⟨_, s.grp?_wake _⟩

/-- When a word of a group completes, the group's counter is lowered, and some sets are made ready. -/
theorem State.grp?_complete (s : State) (id : Nat) (c : Counter) : ∃ q : Group → PSet → Bool,
    ∀ n, (s.complete id c).grp? n = (s.grp? n).map fun g => (if g.id == id then g.lower c else g).wake (q g) := by
  obtain ⟨q, hq⟩ := (s.mapGrp id (·.lower c)).grp?_settle
  refine ⟨fun g => q (if g.id == id then g.lower c else g), fun n => ?_⟩
  rw [State.complete, hq, State.grp?_mapGrp s id (·.lower c) (fun g => g.lower_id c), Option.map_map]
  rfl

theorem State.grp?_complete_self (s : State) (id : Nat) (c : Counter) {g : Group} (hg : s.grp? id = some g) :
    ∃ p, (s.complete id c).grp? id = some ((g.lower c).wake p) := by
  obtain ⟨q, hq⟩ := s.grp?_complete id c
  exact ⟨q g, by rw [hq, hg, Option.map_some, State.id_of_grp? hg, beq_self_eq_true, if_pos rfl]⟩

theorem Group.pending_eq (g : Group) (c : Cause) (val : DWord) : ∃ q, g.pending c val = { g with pend := q } := by
  unfold Group.pending
  split
  · exact ⟨g.pend, rfl⟩
  · exact ⟨_, rfl⟩

/-- A cause that is posted is held pending, with its value unless the cause was there before (R288). -/
theorem Group.mem_pending (g : Group) (c : Cause) (val : DWord) :
    ∃ v, (c, v) ∈ (g.pending c val).pend ∧ ((∀ p ∈ g.pend, p.1 ≠ c) → v = val) := by
  unfold Group.pending
  split
  next h =>
    obtain ⟨⟨c', v⟩, hm, hc⟩ := List.any_eq_true.1 h
    obtain rfl : c' = c := by simpa using hc
    exact ⟨v, hm, fun hn => absurd rfl (hn _ hm)⟩
  next h => exact ⟨val, by simp, fun _ => rfl⟩

/-! ## The words that a lane's loaded value fills -/

/-- The value of the `i`-th of the registers that a lane's loaded value of `n` bytes fills (R150, R159). -/
def loadedWord (n : Nat) (sg : Bool) (bs : List Byte) (i : Nat) : Word :=
  if n ≤ 4 then (if sg then (BitVec.ofNat (8 * n) (leNat (bs.take n))).signExtend 32 else BitVec.ofNat 32 (leNat (bs.take n)))
  else BitVec.ofNat 32 (leNat (bs.take n) / 2 ^ (32 * i))

/-- Registers written upward in one lane. -/
theorem getV_foldl_putV (g : Group) (d m c : Nat) (x : Nat → Word) (k l : Nat) (h : l < 32) (hm : m < 32) :
    ((List.range c).foldl (fun h i => h.putV (d + i) m (x i)) g).getV k l =
      if l = m ∧ d ≤ k ∧ k < d + c then x (k - d) else g.getV k l := by
  induction c with
  | zero => rw [if_neg (by omega)]; rfl
  | succ c ih =>
    rw [List.range_succ, List.foldl_append, List.foldl_cons, List.foldl_nil, Group.getV_putV _ _ _ _ _ _ h hm, ih]
    by_cases hk : k = d + c ∧ l = m
    · rw [if_pos hk, if_pos (by omega), hk.1, Nat.add_sub_cancel_left]
    · rw [if_neg hk]
      exact if_congr (by omega) rfl rfl

/-- What a register holds after one lane's loaded value. -/
theorem getV_putLoaded (g : Group) (d m n : Nat) (sg : Bool) (bs : List Byte) (k l : Nat) (h : l < 32) (hm : m < 32) :
    (putLoaded g d m n sg bs).getV k l =
      if l = m ∧ d ≤ k ∧ k < d + max 1 (n / 4) then loadedWord n sg bs (k - d) else g.getV k l := by
  unfold putLoaded loadedWord
  by_cases hn : n ≤ 4
  · simp only [if_pos hn, Group.getV_putV _ _ _ _ _ _ h hm]
    exact if_congr (by omega) rfl rfl
  · simp only [if_neg hn, getV_foldl_putV _ _ _ _ (fun i => BitVec.ofNat 32 (leNat (bs.take n) / 2 ^ (32 * i))) _ _ h hm]
    exact if_congr (by omega) rfl rfl

/-- A loaded value changes vector registers alone. -/
theorem putLoaded_eq (g : Group) (d m n : Nat) (sg : Bool) (bs : List Byte) :
    ∃ v, putLoaded g d m n sg bs = { g with v := v } := by
  unfold putLoaded
  dsimp only
  split
  · exact ⟨_, rfl⟩
  · induction List.range (n / 4) using List.reverseRecOn with
    | nil => exact ⟨g.v, rfl⟩
    | append_singleton is i ih =>
      obtain ⟨v, hv⟩ := ih
      rw [List.foldl_append, hv]
      exact ⟨_, rfl⟩

/-- The loaded values of some lanes. -/
def putLanes (d n : Nat) (sg : Bool) (bs : Nat → List Byte) (ls : List Nat) (g : Group) : Group :=
  ls.foldl (fun h l => putLoaded h d l n sg (bs l)) g

theorem putLanes_eq (d n : Nat) (sg : Bool) (bs : Nat → List Byte) (ls : List Nat) (g : Group) :
    ∃ v, putLanes d n sg bs ls g = { g with v := v } := by
  induction ls using List.reverseRecOn with
  | nil => exact ⟨g.v, rfl⟩
  | append_singleton ls l ih =>
    obtain ⟨v, hv⟩ := ih
    rw [putLanes] at hv
    rw [putLanes, List.foldl_append, hv]
    exact putLoaded_eq { g with v := v } d l n sg (bs l)

/-- What a register holds after the loaded values of some lanes. -/
theorem getV_putLanes (d n : Nat) (sg : Bool) (bs : Nat → List Byte) (ls : List Nat) (hls : ∀ l ∈ ls, l < 32) (g : Group)
    (k l : Nat) (h : l < 32) : (putLanes d n sg bs ls g).getV k l =
      if l ∈ ls ∧ d ≤ k ∧ k < d + max 1 (n / 4) then loadedWord n sg (bs l) (k - d) else g.getV k l := by
  induction ls using List.reverseRecOn with
  | nil => simp [putLanes]
  | append_singleton ls m ih =>
    have hm : m < 32 := hls m (by simp)
    rw [putLanes, List.foldl_append, List.foldl_cons, List.foldl_nil, getV_putLoaded _ _ _ _ _ _ _ _ h hm]
    by_cases hl : l = m
    · subst hl
      by_cases hk : d ≤ k ∧ k < d + max 1 (n / 4)
      · rw [if_pos ⟨rfl, hk⟩, if_pos ⟨by simp, hk⟩]
      · rw [if_neg fun hc => hk hc.2, if_neg fun hc => hk hc.2]
        exact (ih fun l hl => hls l (by simp [hl])).trans (if_neg fun hc => hk hc.2)
    · rw [if_neg fun hc => hl hc.1]
      refine (ih fun l hl => hls l (by simp [hl])).trans ?_
      simp [hl]

theorem leNat_lt (bs : List Byte) : leNat bs < 2 ^ (8 * bs.length) := by
  induction bs with
  | nil => simp [leNat]
  | cons b t ih =>
    have hb := b.isLt
    rw [leNat, List.length_cons, Nat.mul_succ, Nat.pow_add]
    omega

theorem leNat_take_lt (bs : List Byte) (n : Nat) : leNat (bs.take n) < 2 ^ (8 * n) :=
  (leNat_lt _).trans_le (Nat.pow_le_pow_right (by decide) (Nat.mul_le_mul_left 8 (List.length_take_le ..)))

theorem leNat_leBytes (x n : Nat) : leNat (leBytes x n) = x % 2 ^ (8 * n) := by
  induction n generalizing x with
  | zero => simp [leBytes, leNat, Nat.mod_one]
  | succ n ih =>
    rw [leBytes, leNat, ih, Nat.mul_succ, Nat.pow_add, Nat.mul_comm (2 ^ (8 * n)), BitVec.toNat_ofNat, Nat.mod_mul]

theorem length_leBytes (x n : Nat) : (leBytes x n).length = n := by
  induction n generalizing x with
  | zero => rfl
  | succ n ih => rw [leBytes, List.length_cons, ih]

/-- A loaded value of up to four bytes, extended as the word says. -/
theorem loadedWord_toInt (n : Nat) (sg : Bool) (bs : List Byte) (hn : n ∈ [1, 2, 4, 8, 16]) (h4 : n ≤ 4) :
    (loadedWord n sg bs 0).toInt = (if sg ∧ 2 ^ (8 * n - 1) ≤ leNat (bs.take n) then (leNat (bs.take n) : Int) - 2 ^ (8 * n)
      else leNat (bs.take n)).bmod (2 ^ 32) := by
  have hlt := leNat_take_lt bs n
  rw [loadedWord, if_pos h4]
  cases sg
  · rw [if_neg Bool.false_ne_true, if_neg fun h => Bool.false_ne_true h.1, BitVec.toInt_ofNat']
  · generalize leNat (bs.take n) = x at hlt ⊢
    have h32 : 8 * n ≤ 32 := by omega
    rw [if_pos rfl, BitVec.toInt_signExtend_of_le h32, BitVec.toInt_eq_toNat_cond, BitVec.toNat_ofNat, Nat.mod_eq_of_lt hlt]
    simp only [List.mem_cons, List.not_mem_nil, or_false] at hn
    simp only [true_and, Int.bmod_def]
    rcases hn with rfl | rfl | rfl | rfl | rfl <;> simp at hlt ⊢ <;> split_ifs <;> omega

/-- A word of a longer value. -/
theorem loadedWord_toNat (n : Nat) (sg : Bool) (bs : List Byte) (i : Nat) (h4 : 4 < n) :
    (loadedWord n sg bs i).toNat = leNat (bs.take n) / 2 ^ (32 * i) % 2 ^ 32 := by
  rw [loadedWord, if_neg (by omega), BitVec.toNat_ofNat]

/-! ## LOAD_WRITEBACK -/

/-- What LOAD_WRITEBACK does to the group of a word whose values go to v(d). -/
def PendWord.writeback (w : PendWord) (d n : Nat) (sg : Bool) (g : Group) : Group :=
  let m := w.mask &&& ~~~w.fails
  let all := flagsOf m fun l => (w.result g l).2
  let en := all.enabled g.fmode
  let g1 := g.setFlags all
  if en = 0 then putLanes d n sg (fun l => (w.result g l).1) (lanesOf m) g1
  else g1.pending (fpCause en.first) ((maskOf fun l => inMask m l && ((w.result g l).2).getLsbD en.first).setWidth 64)

theorem State.loadWriteback_eq (s : State) (w : PendWord) (d n : Nat) (sg : Bool) (hd : w.kind.dest = some (d, n, sg))
    (ha : s.arrived w = true) (h0 : w.away = 0) : s.loadWriteback w =
      some (((s.mapGrp w.grp (w.writeback d n sg)).onFlow fun f =>
        { f with words := f.words.filter (·.id != w.id) }).complete w.grp w.ctr) := by
  unfold State.loadWriteback
  rw [hd]
  simp only [ha, h0, Bool.not_true, Bool.false_eq_true, if_false, if_true]
  rfl

/-- The lanes that a word's values reach. -/
theorem inMask_received (w : PendWord) (l : Nat) (h : l < 32) :
    inMask (w.mask &&& ~~~w.fails) l = true ↔ inMask w.mask l = true ∧ inMask w.fails l = false := by
  rw [inMask_and, inMask_not _ _ h, Bool.and_eq_true, Bool.not_eq_true']

/-- With no enabled exception the values are written. -/
theorem PendWord.writeback_of_quiet (w : PendWord) (d n : Nat) (sg : Bool) (g : Group)
    (h : ∀ e, e < 6 → TrapOn g.fmode e = true → ¬Raises (w.mask &&& ~~~w.fails) (fun l => (w.result g l).2) e) :
    w.writeback d n sg g = putLanes d n sg (fun l => (w.result g l).1) (lanesOf (w.mask &&& ~~~w.fails))
      (g.setFlags (flagsOf (w.mask &&& ~~~w.fails) fun l => (w.result g l).2)) :=
  if_pos (Flags.enabled_flagsOf_eq_zero _ _ _ h)

/-- With an enabled exception the lowest one's cause is posted, and no value is written. -/
theorem PendWord.writeback_of_trap (w : PendWord) (d n : Nat) (sg : Bool) (g : Group) (e : Nat) (he : e < 6)
    (ht : TrapOn g.fmode e = true) (hr : Raises (w.mask &&& ~~~w.fails) (fun l => (w.result g l).2) e)
    (hmin : ∀ j, j < e → TrapOn g.fmode j = true → ¬Raises (w.mask &&& ~~~w.fails) (fun l => (w.result g l).2) j) :
    w.writeback d n sg g = (g.setFlags (flagsOf (w.mask &&& ~~~w.fails) fun l => (w.result g l).2)).pending (fpCause e)
      ((maskOf fun l => inMask (w.mask &&& ~~~w.fails) l && ((w.result g l).2).getLsbD e).setWidth 64) := by
  obtain ⟨hne, hfirst⟩ := Flags.enabled_flagsOf_first _ _ _ e he ht hr hmin
  rw [PendWord.writeback, if_neg hne, hfirst]

/-- Vector registers, flags and pending causes are all that LOAD_WRITEBACK changes before the counter. -/
theorem PendWord.writeback_eq (w : PendWord) (d n : Nat) (sg : Bool) (g : Group) : ∃ v q, w.writeback d n sg g =
    { g.setFlags (flagsOf (w.mask &&& ~~~w.fails) fun l => (w.result g l).2) with v := v, pend := q } := by
  unfold PendWord.writeback
  dsimp only
  split
  · exact (putLanes_eq ..).imp fun v hv => ⟨g.pend, hv⟩
  · exact ⟨g.v, Group.pending_eq ..⟩

/-- What LOAD_WRITEBACK leaves: the word has gone, its group has received the values, and the counter has fallen. -/
theorem runs_loadWriteback (s : State) (w : PendWord) (g : Group) (d n : Nat) (sg : Bool)
    (hd : w.kind.dest = some (d, n, sg)) (hw : s.word? w.id = some w) (hg : s.grp? w.grp = some g)
    (ha : s.arrived w = true) (h0 : w.away = 0) : ∃ (t : State) (p : PSet → Bool),
    exec (.loadWriteback w.id) s = .next t ∧ t.word? w.id = none ∧ t.hbm = s.hbm ∧
      t.grp? w.grp = some (((w.writeback d n sg g).lower w.ctr).wake p) := by
  have hx : exec (.loadWriteback w.id) s = stepWhen s ((s.word? w.id).bind s.loadWriteback) := rfl
  have hgrp := State.grp?_mapGrp_self s w.grp (w.writeback d n sg)
    (fun g => by obtain ⟨_, _, h⟩ := w.writeback_eq d n sg g; rw [h]; rfl) hg
  obtain ⟨p, hp⟩ := State.grp?_complete_self ((s.mapGrp w.grp (w.writeback d n sg)).onFlow fun f =>
    { f with words := f.words.filter (·.id != w.id) }) w.grp w.ctr hgrp
  refine ⟨_, p, ?_, ?_, ?_, hp⟩
  · rw [hx, hw, Option.bind_some, State.loadWriteback_eq s w d n sg hd ha h0]
    rfl
  · show List.find? (·.id == w.id) (s.flow.words.filter (·.id != w.id)) = none
    simp [List.find?_eq_none]
  · rfl

/-- The lanes of a word that receive a value and raise an exception. -/
theorem raises_received (w : PendWord) (x : Nat → Flags) (e : Nat) : Raises (w.mask &&& ~~~w.fails) x e ↔
    ∃ l, l < 32 ∧ (inMask w.mask l = true ∧ inMask w.fails l = false) ∧ (x l).getLsbD e = true :=
  exists_congr fun l => and_congr_right fun hl => and_congr_left fun _ => inMask_received w l hl

/-- The group's counter, scalar and guard registers and flags once the word has completed. -/
theorem PendWord.writeback_completed (w : PendWord) (d n : Nat) (sg : Bool) (g : Group) (p : PSet → Bool) :
    let k := ((w.writeback d n sg g).lower w.ctr).wake p
    k.ctr w.ctr = g.ctr w.ctr - 1 ∧ k.s = g.s ∧ k.g = g.g ∧ ∀ b, b < 5 → (k.fflags.getLsbD b = true ↔
      g.fflags.getLsbD b = true ∨
        ∃ e, e < 6 ∧ flagBit e = b ∧ Raises (w.mask &&& ~~~w.fails) (fun l => (w.result g l).2) e) := by
  intro k
  obtain ⟨v, q, hW⟩ := w.writeback_eq d n sg g
  have hfl : k.fflags = (g.setFlags (flagsOf (w.mask &&& ~~~w.fails) fun l => (w.result g l).2)).fflags :=
    ((w.writeback d n sg g).lower_fflags w.ctr).trans (by rw [hW])
  exact ⟨((w.writeback d n sg g).lower_ctr w.ctr).trans (by rw [hW]; rfl),
    ((w.writeback d n sg g).lower_s w.ctr).trans (by rw [hW]; rfl),
    ((w.writeback d n sg g).lower_g w.ctr).trans (by rw [hW]; rfl), fun b hb => hfl ▸ g.getLsbD_setFlags _ _ b hb⟩

/-- The vector registers of a group that has received the values. -/
theorem PendWord.getV_writeback_of_quiet (w : PendWord) (d n : Nat) (sg : Bool) (g : Group) (r l : Nat) (hl : l < 32)
    (h : ∀ e, e < 6 → TrapOn g.fmode e = true → ¬Raises (w.mask &&& ~~~w.fails) (fun l => (w.result g l).2) e) :
    (w.writeback d n sg g).getV r l =
      if (inMask w.mask l = true ∧ inMask w.fails l = false) ∧ d ≤ r ∧ r < d + max 1 (n / 4) then
        loadedWord n sg (w.result g l).1 (r - d) else g.getV r l := by
  rw [w.writeback_of_quiet d n sg g h, getV_putLanes _ _ _ _ _ (fun l hl => ((mem_lanesOf _ l).1 hl).1) _ _ _ hl]
  refine if_congr (and_congr_left fun _ => ?_) rfl rfl
  rw [mem_lanesOf, inMask_received w l hl, and_iff_right hl]

/-- A word's values arrive in v(d) once each register's word is that of the stated value. -/
theorem arrives_of (w : PendWord) (d n : Nat) (sg : Bool) (x : Group → Nat → Flags) (y : Group → Nat → Nat)
    (hd : w.kind.dest = some (d, n, sg)) (hx : ∀ g l, (w.result g l).2 = x g l)
    (hshort : ∀ g l, n ≤ 4 → (loadedWord n sg (w.result g l).1 0).toInt =
      (if sg ∧ 2 ^ (8 * n - 1) ≤ y g l then (y g l : Int) - 2 ^ (8 * n) else y g l).bmod (2 ^ 32))
    (hlong : ∀ g l i, 4 < n → (loadedWord n sg (w.result g l).1 i).toNat = y g l / 2 ^ (32 * i) % 2 ^ 32) :
    Arrives w d n sg x y := by
  intro s g hw hg ha h0
  obtain rfl : (fun g l => (w.result g l).2) = x := funext fun g => funext fun l => hx g l
  simp only [← raises_received]
  obtain ⟨t, p, ht, hword, hhbm, hk⟩ := runs_loadWriteback s w g d n sg hd hw hg ha h0
  obtain ⟨hctr, hs, hgd, hfl⟩ := w.writeback_completed d n sg g p
  have hv : (((w.writeback d n sg g).lower w.ctr).wake p).v = (w.writeback d n sg g).v := (w.writeback d n sg g).lower_v w.ctr
  have hpend : (((w.writeback d n sg g).lower w.ctr).wake p).pend = (w.writeback d n sg g).pend :=
    (w.writeback d n sg g).lower_pend w.ctr
  refine ⟨fun hq => ⟨t, ht, _, ⟨hword, hk, hctr, hs, hgd, hhbm, hfl⟩, ?_, fun r l hl => ?_⟩,
    fun e he hon hr hmin => ⟨t, ht, _, ⟨hword, hk, hctr, hs, hgd, hhbm, hfl⟩, ?_, ?_⟩⟩
  · rw [hpend, PendWord.writeback_of_quiet w d n sg g hq]
    obtain ⟨_, h⟩ := putLanes_eq ..
    rw [h]
    rfl
  · have hget := w.getV_writeback_of_quiet d n sg g r l hl hq
    rw [Group.getV, ← hv] at hget
    refine ⟨fun hon h4 hr => ?_, fun hon h4 hd hr => ?_, fun hno => ?_⟩
    · subst hr
      rw [Group.getV, hget, if_pos ⟨hon, by omega⟩, Nat.sub_self]
      exact hshort g l h4
    · rw [Group.getV, hget, if_pos ⟨hon, by omega⟩]
      exact hlong g l _ h4
    · rw [Group.getV, hget, if_neg]
      rintro ⟨hon, hd, hr⟩
      rcases hno with h | h | h
      · exact h hon
      · omega
      · omega
  · rw [hv, PendWord.writeback_of_trap w d n sg g e he hon hr hmin]
    obtain ⟨_, h⟩ := Group.pending_eq ..
    rw [h]
    rfl
  · rw [hpend, PendWord.writeback_of_trap w d n sg g e he hon hr hmin]
    obtain ⟨v, hmem, hval⟩ := Group.mem_pending
      (g.setFlags (flagsOf (w.mask &&& ~~~w.fails) fun l => (w.result g l).2)) (fpCause e)
      ((maskOf fun l => inMask (w.mask &&& ~~~w.fails) l && ((w.result g l).2).getLsbD e).setWidth 64)
    refine ⟨v, hmem, fun hno => (hval hno).trans (congrArg (BitVec.setWidth 64) (mask_ext _ _ fun l hl => ?_))⟩
    rw [inMask_maskOf _ _ hl, inMask_maskOf _ _ hl, inMask_and, inMask_not _ _ hl]

/-- A word whose lanes take the first `n` bytes that they received. -/
theorem arrives_bytes (w : PendWord) (d n : Nat) (sg : Bool) (x : Group → Nat → Flags)
    (hd : w.kind.dest = some (d, n, sg)) (hn : n ∈ [1, 2, 4, 8, 16]) (hres : ∀ g l, w.result g l = (w.part l 0, x g l)) :
    Arrives w d n sg x fun _ l => leNat ((w.part l 0).take n) := by
  refine arrives_of w d n sg x _ hd (fun g l => by rw [hres]) (fun g l h4 => ?_) fun g l i h4 => ?_
  · rw [hres]
    exact loadedWord_toInt n sg _ hn h4
  · rw [hres]
    exact loadedWord_toNat n sg _ i h4

theorem loadedWord_leBytes (x : Nat) : (loadedWord 4 false (leBytes x 4) 0).toInt = (x : Int).bmod (2 ^ 32) := by
  rw [loadedWord, if_pos le_rfl, if_neg Bool.false_ne_true, List.take_of_length_le (length_leBytes x 4).le, leNat_leBytes,
    BitVec.toInt_ofNat', Int.natCast_mod]
  exact Int.emod_bmod ..

/-- A word whose lanes take a 32-bit value. -/
theorem arrives_word (w : PendWord) (d : Nat) (x : Group → Nat → Flags) (y : Group → Nat → Nat)
    (hd : w.kind.dest = some (d, 4, false)) (hres : ∀ g l, w.result g l = (leBytes (y g l) 4, x g l)) :
    Arrives w d 4 false x y := by
  refine arrives_of w d 4 false x y hd (fun g l => by rw [hres]) (fun g l _ => ?_) fun _ _ _ h4 => absurd h4 (lt_irrefl 4)
  rw [hres, if_neg fun h => Bool.false_ne_true h.1]
  exact loadedWord_leBytes _

/-! ## The value of a plane read -/

/-- The bits that the regions give a lane are the top ones of its element (R58, R59). -/
theorem planeSum_eq (v : BitVec 8) (k bit : Nat) (byteOf : Nat → List Byte) (hk : k ≤ 8)
    (h : ∀ p, p < k → leNat (byteOf p) / 2 ^ bit % 2 = (if v.getLsbD (7 - p) then 1 else 0)) :
    (List.range k).foldl (fun a p => a + (leNat (byteOf p) / 2 ^ bit % 2) * 2 ^ (7 - p)) 0 =
      v.toNat / 2 ^ (8 - k) * 2 ^ (8 - k) := by
  induction k with
  | zero =>
    have := v.isLt
    rw [List.range_zero, List.foldl_nil, Nat.sub_zero, Nat.div_eq_of_lt this, Nat.zero_mul]
  | succ k ih =>
    have hbit : (if v.getLsbD (7 - k) then 1 else 0) = v.toNat / 2 ^ (7 - k) % 2 := by
      rw [BitVec.getLsbD, Nat.testBit_eq_decide_div_mod_eq]
      rcases Nat.mod_two_eq_zero_or_one (v.toNat / 2 ^ (7 - k)) with h | h <;> simp [h]
    have hp : 2 ^ (8 - k) = 2 ^ (7 - k) * 2 := by rw [show 8 - k = 7 - k + 1 by omega, Nat.pow_succ]
    rw [List.range_succ, List.foldl_append, List.foldl_cons, List.foldl_nil, ih (by omega) fun p hp => h p (by omega),
      h k (by omega), hbit, hp, ← Nat.div_div_eq_div_mul, show 8 - (k + 1) = 7 - k by omega, Nat.mul_comm (2 ^ (7 - k)) 2,
      ← Nat.mul_assoc, ← Nat.add_mul, Nat.div_add_mod']

/-- The top bits of an element as a signed number. -/
theorem planeInt_eq (v : BitVec 8) (k bit : Nat) (byteOf : Nat → List Byte) (h1 : 1 ≤ k) (hk : k ≤ 8)
    (h : ∀ p, p < k → leNat (byteOf p) / 2 ^ bit % 2 = (if v.getLsbD (7 - p) then 1 else 0)) :
    planeInt k bit byteOf = v.toInt / 2 ^ (8 - k) := by
  have hv := v.isLt
  rw [planeInt, planeSum_eq v k bit byteOf hk h, BitVec.toInt_eq_toNat_cond]
  generalize v.toNat = n at hv ⊢
  interval_cases k <;> simp <;> split_ifs <;> omega

/-- Settles O26: the group of the word is followed through the flags, the values or the pending cause, and the counter;
a plane read's value is the quotient of its element by the weight of the lowest bit read. -/
theorem loadedValues : Obligations.LoadedValues := by
  refine ⟨fun w d n => ⟨fun sg hw hn => ?_, fun fl hw hn => ?_, fun k deq hw => ?_⟩, fun v k bit byteOf h1 hk h => ?_⟩
  · exact arrives_bytes w d n sg _ (by rw [hw]; rfl) hn fun g l => by rw [PendWord.result, hw]
  · have hn' : n ∈ [1, 2, 4, 8, 16] := List.Subset.trans (l₂ := [4, 8]) (List.Subset.refl _) (by decide) hn
    refine arrives_bytes w d n false _ (by rw [hw]; rfl) hn' fun g l => ?_
    rw [PendWord.result, hw]
    cases fl <;> rfl
  · refine arrives_word w d _ _ (by rw [hw]; rfl) fun g l => ?_
    rw [PendWord.result, hw]
    cases deq
    · simp [BitVec.toNat_ofInt]
    · simp [List.isEmpty_iff]
  · have ht := planeInt_eq v k bit byteOf h1 hk h
    refine ⟨ht, fun mode m e slot hs => ?_, fun mode => ?_, fun mode slot hs => ?_⟩
    · rw [planeF32, hs, ht]
    · rw [planeF32, ht]
      dsimp only
      rw [Nat.mul_one]
    · rw [planeF32, hs]

end Sys2Proof.Machine
end


section
/-!
What the end of an engine word leaves alone (R156, R175, R178): the groups but for waiting sets, times and registers,
the engines and the bytes of scratchpad and memory.
-/

namespace Sys2Proof.Machine

/-! ## Groups -/

/-- A group has become another with the same number and counters, and with every pending cause that it had. -/
structure Group.Stable (g h : Group) : Prop where
  id_eq : h.id = g.id
  ctr_eq : ∀ c, h.ctr c = g.ctr c
  pend : g.pend ⊆ h.pend

namespace Group.Stable

variable {g h k : Group}

theorem refl (g : Group) : g.Stable g := ⟨rfl, fun _ => rfl, fun _ h => h⟩

theorem trans (a : g.Stable h) (b : h.Stable k) : g.Stable k :=
  ⟨b.id_eq.trans a.id_eq, fun c => (b.ctr_eq c).trans (a.ctr_eq c), fun _ hp => b.pend (a.pend hp)⟩

theorem ite {p : Prop} [Decidable p] (a : g.Stable h) : g.Stable (if p then h else g) := by
  split
  · exact a
  · exact refl g

theorem mapSets (g : Group) (f : PSet → PSet) : g.Stable { g with sets := g.sets.map f } :=
  ⟨rfl, fun c => by cases c <;> rfl, fun _ h => h⟩

theorem wake (g : Group) (p : PSet → Bool) : g.Stable (g.wake p) := mapSets g _

theorem join (g : Group) (t : Nat) : g.Stable (g.join t) := ⟨rfl, fun c => by cases c <;> rfl, fun _ h => h⟩

theorem setS (g : Group) (n : Nat) (x : Word) : g.Stable (g.setS n x) := by
  unfold Group.setS
  split
  · exact refl g
  · exact ⟨rfl, fun c => by cases c <;> rfl, fun _ h => h⟩

theorem report (g : Group) (t : Nat) (b : Bool) : g.Stable (g.report t b) := by
  cases b <;> exact ⟨rfl, fun c => by cases c <;> rfl, fun _ h => h⟩

theorem pending (g : Group) (c : Cause) (x : DWord) : g.Stable (g.pending c x) := by
  unfold Group.pending
  split
  · exact refl g
  · exact ⟨rfl, fun c => by cases c <;> rfl, List.subset_append_left _ _⟩

end Group.Stable

/-! ## States -/

/-- The groups of a state are all still there, with their counters and pending causes, and no engine word is new. -/
structure State.GroupsKept (s t : State) : Prop where
  groups : ∃ f : Group → Group, (∀ g : Group, g.Stable (f g)) ∧ t.allGroups = s.allGroups.map f
  xfers : t.flow.xfers ⊆ s.flow.xfers

/-- The engines of a state and its host memory have not changed. -/
structure State.EnginesKept (s t : State) : Prop where
  eng : ∀ n, (t.core n).eng = (s.core n).eng
  host : t.dev.host = s.dev.host

/-- The bytes of scratchpads and of HBM are where they were. -/
structure State.BytesKept (s t : State) : Prop where
  sp : ∀ n, (t.core n).sp = (s.core n).sp
  windows : ∀ n o, (t.crew n).spByte o = (s.crew n).spByte o
  hbm : t.hbm = s.hbm

/-- Groups, engines and bytes are kept. -/
structure State.Calm (s t : State) : Prop where
  groups : s.GroupsKept t
  engines : s.EnginesKept t
  bytes : s.BytesKept t

namespace State

variable {s t u : State}

theorem GroupsKept.refl (s : State) : s.GroupsKept s := ⟨⟨id, Group.Stable.refl, by simp⟩, fun _ h => h⟩

theorem GroupsKept.trans (a : s.GroupsKept t) (b : t.GroupsKept u) : s.GroupsKept u := by
  obtain ⟨f, hf, hfg⟩ := a.groups
  obtain ⟨g, hg, hgg⟩ := b.groups
  exact ⟨⟨g ∘ f, fun x => (hf x).trans (hg _), by rw [hgg, hfg, List.map_map]⟩, fun _ hx => a.xfers (b.xfers hx)⟩

/-- What keeps groups and engine words as they are. -/
theorem GroupsKept.of_eq (hc : t.cur = s.cur) (hg : t.groups = s.groups) (hx : t.flow.xfers = s.flow.xfers) : s.GroupsKept t :=
  ⟨⟨id, Group.Stable.refl, by simp [allGroups, hc, hg]⟩, fun _ h => hx ▸ h⟩

theorem EnginesKept.refl (s : State) : s.EnginesKept s := ⟨fun _ => rfl, rfl⟩

theorem EnginesKept.trans (a : s.EnginesKept t) (b : t.EnginesKept u) : s.EnginesKept u :=
  ⟨fun n => (b.eng n).trans (a.eng n), b.host.trans a.host⟩

theorem BytesKept.refl (s : State) : s.BytesKept s := ⟨fun _ => rfl, fun _ _ => rfl, rfl⟩

theorem BytesKept.trans (a : s.BytesKept t) (b : t.BytesKept u) : s.BytesKept u :=
  ⟨fun n => (b.sp n).trans (a.sp n), fun n o => (b.windows n o).trans (a.windows n o), b.hbm.trans a.hbm⟩

theorem core_of_cores (h : t.cores = s.cores) (n : Nat) : t.core n = s.core n := by rw [core, core, h]

/-- What keeps cores and host memory as they are. -/
theorem EnginesKept.of_eq (hc : t.cores = s.cores) (hh : t.dev.host = s.dev.host) : s.EnginesKept t :=
  ⟨fun n => by rw [core_of_cores hc], hh⟩

theorem BytesKept.of_eq (hc : t.cores = s.cores) (hw : t.crews = s.crews) (hh : t.hbm = s.hbm) : s.BytesKept t :=
  ⟨fun n => by rw [core_of_cores hc], fun n o => by rw [crew, crew, hw], hh⟩

/-- What a read of scratchpad finds is kept. -/
theorem BytesKept.spRead (h : s.BytesKept t) (crew o n : Nat) : t.spRead crew o n = s.spRead crew o n := by
  simp only [State.spRead, h.windows, h.sp]

/-- The group with a number, in a state that keeps the groups. -/
theorem GroupsKept.grp? (h : s.GroupsKept t) : ∃ f : Group → Group, (∀ g : Group, g.Stable (f g)) ∧
    ∀ id, t.grp? id = (s.grp? id).map f := by
  obtain ⟨f, hf, hg⟩ := h.groups
  exact ⟨f, hf, State.grp?_of_allGroups hg fun g => (hf g).id_eq⟩

/-- The counters of a group are kept. -/
theorem GroupsKept.ctr (h : s.GroupsKept t) (id : Nat) (c : Counter) :
    (t.grp? id).map (·.ctr c) = (s.grp? id).map (·.ctr c) := by
  obtain ⟨f, hf, hg⟩ := h.grp?
  rw [hg, Option.map_map]
  congr 1
  funext g
  exact (hf g).ctr_eq c

/-- A pending cause of a group is kept. -/
theorem GroupsKept.mem_pend (h : s.GroupsKept t) {id : Nat} {g : Group} (hg : s.grp? id = some g) :
    ∃ k, t.grp? id = some k ∧ g.pend ⊆ k.pend := by
  obtain ⟨f, hf, hm⟩ := h.grp?
  exact ⟨f g, by rw [hm, hg, Option.map_some], (hf g).pend⟩

namespace Calm

theorem refl (s : State) : s.Calm s := ⟨.refl s, .refl s, .refl s⟩

theorem trans (a : s.Calm t) (b : t.Calm u) : s.Calm u :=
  ⟨a.groups.trans b.groups, a.engines.trans b.engines, a.bytes.trans b.bytes⟩

theorem mapGrps (s : State) (f : Group → Group) (hf : ∀ g : Group, g.Stable (f g)) : s.Calm (s.mapGrps f) :=
  ⟨⟨⟨f, hf, rfl⟩, fun _ h => h⟩, .of_eq rfl rfl, .of_eq rfl rfl rfl⟩

theorem mapGrp (s : State) (id : Nat) (f : Group → Group) (hf : ∀ g : Group, g.Stable (f g)) : s.Calm (s.mapGrp id f) :=
  ⟨⟨⟨fun g => if g.id == id then f g else g, fun g => (hf g).ite, rfl⟩, fun _ h => h⟩, .of_eq rfl rfl, .of_eq rfl rfl rfl⟩

/-- A change of a crew that leaves its window where it is. -/
theorem mapCrew (s : State) (id : Nat) (f : Crew → Crew) (hk : ∀ c, (f c).id = c.id) (hw : ∀ c o, (f c).spByte o = c.spByte o) :
    s.Calm (s.mapCrew id f) := by
  refine ⟨.of_eq rfl rfl rfl, .of_eq rfl rfl, ⟨fun _ => rfl, fun n o => ?_, rfl⟩⟩
  rw [State.crew_mapCrew _ _ _ hk]
  split
  · rw [State.crew]
    cases s.crews.find? (·.id == n) with
    | none => rfl
    | some c => exact hw c o
  · rfl

theorem mapBar (s : State) (crew n : Nat) (f : Barrier → Barrier) : s.Calm (s.mapBar crew n f) :=
  mapCrew s crew _ (fun _ => rfl) fun _ _ => rfl

theorem mapRing (s : State) (crew n : Nat) (f : Ring → Ring) : s.Calm (s.mapRing crew n f) :=
  mapCrew s crew _ (fun _ => rfl) fun _ _ => rfl

theorem onFlow (s : State) (f : Flow → Flow) (hx : (f s.flow).xfers ⊆ s.flow.xfers) : s.Calm (s.onFlow f) :=
  ⟨⟨⟨id, Group.Stable.refl, by rw [List.map_id]; rfl⟩, hx⟩, .of_eq rfl rfl, .of_eq rfl rfl rfl⟩

theorem meter (s : State) (tn idx n : Nat) : s.Calm (s.meter tn idx n) :=
  ⟨.of_eq rfl rfl rfl, .of_eq rfl rfl, .of_eq rfl rfl rfl⟩

theorem dataFor (s : State) (wd : Nat) : s.Calm (s.dataFor wd) := mapGrps s _ fun g => .mapSets g _

theorem raiseNodes (s : State) (p : Signal → Bool) (t : Nat) : s.Calm (s.raiseNodes p t) := onFlow s _ fun _ h => h

theorem settle (s : State) : s.Calm s.settle := mapGrps s _ fun g => .wake g _

theorem signalFor (s : State) (grp : Nat) (k : SigKind) : s.Calm (s.signalFor grp k) :=
  ⟨.of_eq rfl rfl rfl, .of_eq rfl rfl, .of_eq rfl rfl rfl⟩

theorem completeBar (s : State) (crew n : Nat) : s.Calm (s.completeBar crew n) := by
  unfold State.completeBar
  dsimp only
  split
  · exact (mapBar s crew n _).trans (mapGrps _ _ fun g => ((Group.Stable.wake g _).trans (.report _ _ _)).ite)
  · exact refl s

theorem serveRing (s : State) (crew : Nat) (q : BitVec 3) (fuel : Nat) : s.Calm (s.serveRing crew q fuel) := by
  induction fuel generalizing s with
  | zero => exact refl s
  | succ n ih =>
    unfold State.serveRing
    dsimp only
    split
    · exact refl s
    · split
      · refine ((mapRing s crew _ _).trans (mapGrp _ _ _ fun g => ?_)).trans (ih _)
        exact (Group.Stable.setS g _ _).trans (.wake _ _)
      · split
        · refine ((mapRing s crew _ _).trans (mapGrp _ _ _ fun g => ?_)).trans (ih _)
          exact ((Group.Stable.join g _).trans (.setS _ _ _)).trans (.wake _ _)
        · exact refl s

theorem settleStage (s : State) (crew : Nat) (q : BitVec 3) (i : Nat) : s.Calm (s.settleStage crew q i) := by
  unfold State.settleStage
  dsimp only
  split
  · exact (mapRing s crew _ _).trans (serveRing _ _ _ _)
  · exact refl s

end Calm

/-- Images change nothing of what the machine holds. -/
theorem Calm.mapImages (s : State) (f : Image → Image) : s.Calm (s.mapImages f) :=
  ⟨.of_eq rfl rfl rfl, .of_eq rfl rfl, .of_eq rfl rfl rfl⟩

theorem EnginesKept.complete (s : State) (grp : Nat) (c : Counter) : s.EnginesKept (s.complete grp c) := .of_eq rfl rfl

theorem BytesKept.complete (s : State) (grp : Nat) (c : Counter) : s.BytesKept (s.complete grp c) := .of_eq rfl rfl rfl

/-! ## Engine words that retire -/

/-- An engine word that retires leaves everything but its place among the words in flight and its counter. -/
theorem retire_eq (s : State) (x : Xfer) (ts : Nat) (b : Bool) : ∃ r : State, s.Calm r ∧ (∀ y ∈ r.flow.xfers, y.id ≠ x.id) ∧
    s.retire x ts b = (match x.ctr with | some c => r.complete x.grp c | none => r) := by
  unfold retire
  extract_lets s0 s1 s2 s3 s4
  have h0 : s.Calm s0 := by
    unfold s0
    split
    · exact .mapImages s _
    · exact .refl s
  have h1 : s0.Calm s1 := .onFlow s0 _ (List.filter_subset_self _)
  have h2 : s1.Calm s2 := by
    unfold s2
    split
    · exact (Calm.mapBar s1 _ _ _).trans (.completeBar _ _ _)
    · exact .refl _
  have h3 : s2.Calm s3 := by
    unfold s3
    split
    · exact (Calm.mapRing s2 _ _ _).trans (.settleStage _ _ _ _)
    · exact .refl _
  have h4 : s3.Calm s4 := (Calm.dataFor s3 _).trans (.raiseNodes _ _ _)
  have hgone : ∀ y ∈ s4.flow.xfers, y.id ≠ x.id := fun y hy => by
    simpa using (List.mem_filter.1 (((h2.trans h3).trans h4).groups.xfers hy)).2
  exact ⟨s4, ((h0.trans h1).trans (h2.trans h3)).trans h4, hgone, rfl⟩

theorem EnginesKept.retire (s : State) (x : Xfer) (ts : Nat) (b : Bool) : s.EnginesKept (s.retire x ts b) := by
  obtain ⟨r, hr, -, he⟩ := s.retire_eq x ts b
  rw [he]
  split
  · exact hr.engines.trans (.complete r _ _)
  · exact hr.engines

theorem BytesKept.retire (s : State) (x : Xfer) (ts : Nat) (b : Bool) : s.BytesKept (s.retire x ts b) := by
  obtain ⟨r, hr, -, he⟩ := s.retire_eq x ts b
  rw [he]
  split
  · exact hr.bytes.trans (.complete r _ _)
  · exact hr.bytes

/-- The counter of a group of which a word has completed. -/
theorem ctr_complete (s : State) (id : Nat) (c : Counter) :
    ((s.complete id c).grp? id).map (·.ctr c) = (s.grp? id).map fun g => g.ctr c - 1 := by
  cases hg : s.grp? id with
  | none =>
    obtain ⟨q, hq⟩ := s.grp?_complete id c
    rw [hq, hg]
    rfl
  | some g =>
    obtain ⟨p, hp⟩ := s.grp?_complete_self id c hg
    rw [hp]
    exact congrArg some (g.lower_ctr c)

/-- An engine word that retires leaves the machine, and its counter falls (R156). -/
theorem GroupsKept.retired {s t : State} (h : s.GroupsKept t) (x : Xfer) (ts : Nat) (b : Bool) :
    Retired s (t.retire x ts b) x := by
  obtain ⟨r, hr, hgone, he⟩ := t.retire_eq x ts b
  rw [he]
  cases hx : x.ctr with
  | none => exact ⟨hgone, fun c hc => absurd (hx.symm.trans hc) (by simp)⟩
  | some c =>
    refine ⟨hgone, fun d hd => ?_⟩
    obtain rfl : c = d := Option.some.inj (hx.symm.trans hd)
    have hsub := congrArg (Option.map (· - 1)) ((h.trans hr.groups).ctr x.grp c)
    rw [Option.map_map, Option.map_map] at hsub
    exact (ctr_complete r x.grp c).trans hsub

/-- A pending cause stays when an engine word retires. -/
theorem mem_pend_retire (s : State) (x : Xfer) (ts : Nat) (b : Bool) {id : Nat} {g : Group} (hg : s.grp? id = some g) :
    ∃ k, (s.retire x ts b).grp? id = some k ∧ g.pend ⊆ k.pend := by
  obtain ⟨r, hr, -, he⟩ := s.retire_eq x ts b
  obtain ⟨k, hk, hp⟩ := hr.groups.mem_pend hg
  rw [he]
  cases x.ctr with
  | none => exact ⟨k, hk, hp⟩
  | some c =>
    obtain ⟨q, hq⟩ := r.grp?_complete x.grp c
    have hl : ((if k.id == x.grp then k.lower c else k).wake (q k)).pend = k.pend := by
      split
      · exact k.lower_pend c
      · rfl
    exact ⟨_, by rw [hq, hk, Option.map_some], fun p hm => hl ▸ hp hm⟩

end State

end Sys2Proof.Machine
end


section
/-!
Accumulator words (R194, R201 to R203) and strokes (R65, R199): what they leave in the accumulators, and what they leave alone.
-/

namespace Sys2Proof.Machine

/-! ## Words written to a rectangle of accumulators -/

/-- A word written where there is one to write. -/
def SMap.put? {w : Nat} (m : SMap w) (k : Nat) (v : Option (BitVec w)) : SMap w :=
  match v with
  | some v => m.set k v
  | none => m

theorem SMap.get_put? {w : Nat} (m : SMap w) (k j : Nat) (v : Option (BitVec w)) :
    (m.put? k v).get j = if j = k then v.getD (m.get j) else m.get j := by
  cases v with
  | none => simp [SMap.put?]
  | some v => exact SMap.get_set m k j v

/-- Words written in a row of keys. -/
theorem SMap.get_foldl_put? {w : Nat} (m : SMap w) (base n : Nat) (f : Nat → Option (BitVec w)) (j : Nat) :
    ((List.range n).foldl (fun m c => m.put? (base + c) (f c)) m).get j =
      if base ≤ j ∧ j - base < n then (f (j - base)).getD (m.get j) else m.get j := by
  induction n with
  | zero => simp
  | succ n ih =>
    rw [List.range_succ, List.foldl_append, List.foldl_cons, List.foldl_nil, SMap.get_put?, ih]
    by_cases hj : j = base + n
    · rw [if_pos hj, if_neg (by omega), if_pos (by omega), hj, Nat.add_sub_cancel_left]
    · rw [if_neg hj]
      exact if_congr (by omega) rfl rfl

theorem Engine.setAcc_ta (e : Engine) (t row0 col0 rows cols : Nat) (f : Nat → Nat → Option Word) :
    (e.setAcc t row0 col0 rows cols f).ta = (List.range rows).foldl (fun m r =>
      (List.range cols).foldl (fun m c => m.put? (taWord t (row0 + r) (col0 + c)) (f r c)) m) e.ta := by
  unfold Engine.setAcc
  dsimp only
  congr 1
  funext m r
  congr 1
  funext m c
  cases f r c <;> rfl

/-- What an accumulator word holds after a rectangle has been written. -/
theorem Engine.get_setAcc (e : Engine) (t row0 col0 rows cols : Nat) (f : Nat → Nat → Option Word) (hc : cols ≤ 128) (j : Nat) :
    (e.setAcc t row0 col0 rows cols f).ta.get j =
      if taWord t row0 col0 ≤ j ∧ (j - taWord t row0 col0) / 128 < rows ∧ (j - taWord t row0 col0) % 128 < cols then
        (f ((j - taWord t row0 col0) / 128) ((j - taWord t row0 col0) % 128)).getD (e.ta.get j)
      else e.ta.get j := by
  have hkey : ∀ r c, taWord t (row0 + r) (col0 + c) = (taWord t row0 col0 + 128 * r) + c := fun r c => by
    unfold taWord
    omega
  rw [Engine.setAcc_ta]
  simp only [hkey]
  generalize taWord t row0 col0 = b
  induction rows with
  | zero => simp
  | succ n ih =>
    rw [List.range_succ, List.foldl_append, List.foldl_cons, List.foldl_nil, SMap.get_foldl_put?, ih]
    by_cases hj : b + 128 * n ≤ j ∧ j - (b + 128 * n) < cols
    · have hq : (j - b) / 128 = n := by omega
      have hr : j - (b + 128 * n) = (j - b) % 128 := by omega
      rw [if_pos hj, if_neg (by omega), if_pos (by omega), hq, hr]
    · rw [if_neg hj]
      exact if_congr (by omega) rfl rfl

/-- A word of the rectangle. -/
theorem Engine.get_setAcc_in (e : Engine) (t row0 col0 rows cols : Nat) (f : Nat → Nat → Option Word) (hc : cols ≤ 128)
    (i j : Nat) (hi : i < rows) (hj : j < cols) : (e.setAcc t row0 col0 rows cols f).ta.get (taWord t (row0 + i) (col0 + j)) =
      (f i j).getD (e.ta.get (taWord t (row0 + i) (col0 + j))) := by
  have hk : taWord t (row0 + i) (col0 + j) - taWord t row0 col0 = 128 * i + j := by
    unfold taWord
    omega
  rw [Engine.get_setAcc e t row0 col0 rows cols f hc, hk, show (128 * i + j) / 128 = i by omega,
    show (128 * i + j) % 128 = j by omega, if_pos ⟨by unfold taWord; omega, hi, hj⟩]

/-- A word of another accumulator. -/
theorem Engine.get_setAcc_out (e : Engine) (t row0 col0 rows cols : Nat) (f : Nat → Nat → Option Word)
    (hr : row0 + rows ≤ 128) (hc : col0 + cols ≤ 128) (k : Nat) (hk : k < 16384 * t ∨ 16384 * (t + 1) ≤ k) :
    (e.setAcc t row0 col0 rows cols f).ta.get k = e.ta.get k := by
  rw [Engine.get_setAcc e t row0 col0 rows cols f (by omega), if_neg]
  unfold taWord
  omega

/-! ## A core's engine -/

theorem State.eng_mapEng (s : State) (core : Nat) (f : Engine → Engine) :
    ((s.mapEng core f).core core).eng = f (s.core core).eng := by
  rw [State.mapEng, State.core_mapCore s core (fun c => { c with eng := f c.eng }) (fun _ => rfl), if_pos rfl]

theorem State.GroupsKept.mapEng (s : State) (core : Nat) (f : Engine → Engine) : s.GroupsKept (s.mapEng core f) := by
  refine .of_eq ?_ ?_ ?_ <;> simp [State.mapEng]

/-- An accumulator word acts on its engine and retires. -/
theorem State.retire_mapEng {s s₀ : State} (hg : s.GroupsKept s₀) (he : s.EnginesKept s₀) (x : Xfer) (f : Engine → Engine) :
    Retired s ((s₀.mapEng x.core f).retire x x.t false) x ∧
      (((s₀.mapEng x.core f).retire x x.t false).core x.core).eng = f (s.core x.core).eng := by
  refine ⟨(hg.trans (.mapEng s₀ x.core f)).retired x x.t false, ?_⟩
  rw [(State.EnginesKept.retire _ x x.t false).eng, State.eng_mapEng, he.eng]

theorem State.hbm_retire_mapEng (s : State) (x : Xfer) (f : Engine → Engine) :
    ((s.mapEng x.core f).retire x x.t false).hbm = s.hbm := by
  rw [(State.BytesKept.retire _ x x.t false).hbm, State.mapEng, State.mapCore_hbm]

/-! ## The steps of an engine word -/

theorem onXfer_of {s t : State} {x : Xfer} {f : State → Xfer → Option State} (hx : s.flow.xfers.find? (·.id == x.id) = some x)
    (ht : f s x = some t) : onXfer x.id f s = .next t := by
  rw [onXfer, hx, Option.bind_some, ht]
  rfl

/-- The words that TACC_COMPLETE is for. -/
theorem exec_taccComplete {s t : State} {x : Xfer} (hx : s.flow.xfers.find? (·.id == x.id) = some x)
    (hk : (∃ t, x.kind = .taccZero t) ∨ (∃ t r map, x.kind = .taccLd t r map) ∨ (∃ t row o, x.kind = .taccScale t row o) ∨
      ∃ t u v, x.kind = .taccBias t u v) (ht : s.taccAct x = some t) : exec (.taccComplete x.id) s = .next t := by
  refine Eq.trans (b := execTaccComplete x.id s) rfl (onXfer_of hx ?_)
  rcases hk with ⟨_, hk⟩ | ⟨_, _, _, hk⟩ | ⟨_, _, _, hk⟩ | ⟨_, _, _, hk⟩ <;> rw [hk] <;> exact ht

/-- The accumulator words that LAND is for. -/
theorem exec_land_tacc {s t : State} {x : Xfer} (hx : s.flow.xfers.find? (·.id == x.id) = some x)
    (hk : (∃ t r, x.kind = .taccSp t r) ∨ ∃ t r map, x.kind = .taccMem t r map) (ht : s.taccAct x = some t) :
    exec (.land x.id) s = .next t := by
  refine Eq.trans (b := execLand x.id s) rfl (onXfer_of hx ?_)
  rcases hk with ⟨_, _, hk⟩ | ⟨_, _, _, hk⟩ <;> rw [hk] <;> exact ht

/-! ## tacc.tzero, tacc.tscale and tacc.tbias -/

/-- What holds of the step that an accumulator word ends with, whichever it is: the word retires, memory and the buffers of the
engine stay, and so do the accumulators but for the one it names. -/
def TaccDone (s : State) (x : Xfer) (t : Nat) (u : State) : Prop :=
  Retired s u x ∧ u.hbm = s.hbm ∧
    (∀ k, k < 16384 * t ∨ 16384 * (t + 1) ≤ k → (u.core x.core).eng.ta.get k = (s.core x.core).eng.ta.get k) ∧
    (u.core x.core).eng.oa = (s.core x.core).eng.oa ∧ (u.core x.core).eng.wb = (s.core x.core).eng.wb

/-- The engine after `tacc.tzero` (R201). -/
def Engine.zeroAcc (e : Engine) (t : Nat) : Engine :=
  { e with ta := e.ta.clear (16384 * t) (16384 * (t + 1)), poisoned := e.poisoned.filter (· != 8 + t) }

theorem taccZero_completes {s : State} {x : Xfer} {t : Nat} (hx : s.flow.xfers.find? (·.id == x.id) = some x)
    (ht : s.engineTurn x = true) (hk : x.kind = .taccZero t) : Runs (.taccComplete x.id) s fun u => TaccDone s x t u ∧
      ∀ i j, i < 128 → j < 128 → (u.core x.core).eng.ta.get (taWord t i j) = 0 := by
  have hact : s.taccAct x = some ((s.mapEng x.core (·.zeroAcc t)).retire x x.t false) := by
    rw [State.taccAct, ht, hk]
    rfl
  obtain ⟨hr, he⟩ := State.retire_mapEng (.refl s) (.refl s) x (·.zeroAcc t)
  have hh := s.hbm_retire_mapEng x (·.zeroAcc t)
  refine ⟨_, exec_taccComplete hx (.inl ⟨t, hk⟩) hact, ⟨hr, hh, fun k hk => ?_, by rw [he]; rfl, by rw [he]; rfl⟩,
    fun i j hi hj => ?_⟩
  · rw [he, Engine.zeroAcc, SMap.get_clear, if_neg (by omega)]
  · rw [he, Engine.zeroAcc, SMap.get_clear, if_pos (by unfold taWord; omega)]

theorem State.Calm.pendFactor (s : State) (x : Xfer) (os : List Nat) : s.Calm (s.pendFactor x os) := by
  unfold State.pendFactor
  split
  · exact .mapGrp s x.grp _ fun g => .pending g _ _
  · exact .refl s

/-- The first poisoned factor of a list has its offset held pending (R154, R299). -/
theorem State.pendFactor_posts (s : State) (x : Xfer) (o i : Nat) (g : Group) (hi : i < 128)
    (hp : s.spPoison x.crew (o + 4 * i) 4 = true) (hmin : ∀ j, j < i → s.spPoison x.crew (o + 4 * j) 4 = false)
    (hg : s.grp? x.grp = some g) (hno : ∀ p ∈ g.pend, p.1 ≠ .poison) :
    ∃ k, (s.pendFactor x [o]).grp? x.grp = some k ∧ (.poison, BitVec.ofNat 64 (o + 4 * i)) ∈ k.pend := by
  have hfirst : (([o].flatMap fun o => (List.range 128).map fun i => o + 4 * i).find? fun a => s.spPoison x.crew a 4) =
      some (o + 4 * i) := by
    have hi' : (List.range 128).find? ((fun a => s.spPoison x.crew a 4) ∘ fun i => o + 4 * i) = some i :=
      List.find?_range_eq_some.2 ⟨hp, by simpa using hi, fun j hj => by simpa using hmin j hj⟩
    rw [List.flatMap_singleton, List.find?_map, hi', Option.map_some]
  obtain ⟨v, hm, hv⟩ := g.mem_pending .poison (BitVec.ofNat 64 (o + 4 * i))
  refine ⟨_, ?_, hv hno ▸ hm⟩
  rw [State.pendFactor, hfirst]
  exact State.grp?_mapGrp_self s x.grp (·.pending .poison (BitVec.ofNat 64 (o + 4 * i)))
    (fun g => (Group.Stable.pending g _ _).id_eq) hg

theorem State.grp?_mapEng (s : State) (core : Nat) (f : Engine → Engine) (id : Nat) :
    (s.mapEng core f).grp? id = s.grp? id := by
  simp [State.grp?, State.allGroups, State.mapEng]

/-- An accumulator word that changes each element of its accumulator by its factors (R203). -/
theorem taccFactors_complete {s : State} {x : Xfer} {t : Nat} {os : List Nat} {f : Engine → Nat → Nat → Option Word}
    (hx : s.flow.xfers.find? (·.id == x.id) = some x)
    (hk : (∃ t row o, x.kind = .taccScale t row o) ∨ ∃ t u v, x.kind = .taccBias t u v)
    (hact : s.taccAct x =
      some (((s.pendFactor x os).mapEng x.core fun e => e.setAcc t 0 0 128 128 (f e)).retire x x.t false)) :
    Runs (.taccComplete x.id) s fun u => TaccDone s x t u ∧
      (∀ i j, i < 128 → j < 128 → (u.core x.core).eng.ta.get (taWord t i j) =
        (f (s.core x.core).eng i j).getD ((s.core x.core).eng.ta.get (taWord t i j))) ∧
      ∀ k, (s.pendFactor x os).grp? x.grp = some k → ∃ h, u.grp? x.grp = some h ∧ k.pend ⊆ h.pend := by
  have hcalm := State.Calm.pendFactor s x os
  obtain ⟨hr, he⟩ := State.retire_mapEng hcalm.groups hcalm.engines x fun e => e.setAcc t 0 0 128 128 (f e)
  have hh := (State.hbm_retire_mapEng (s.pendFactor x os) x fun e => e.setAcc t 0 0 128 128 (f e)).trans hcalm.bytes.hbm
  refine ⟨_, exec_taccComplete hx (.inr (.inr hk)) hact, ⟨hr, hh, fun k hk => ?_, by rw [he]; rfl, by rw [he]; rfl⟩,
    fun i j hi hj => ?_, fun k hg => State.mem_pend_retire _ x x.t false (by rw [State.grp?_mapEng, hg])⟩
  · rw [he, Engine.get_setAcc_out _ _ _ _ _ _ _ (by decide) (by decide) k hk]
  · rw [he]
    have := Engine.get_setAcc_in (s.core x.core).eng t 0 0 128 128 (f (s.core x.core).eng) le_rfl i j hi hj
    rwa [Nat.zero_add, Nat.zero_add] at this

theorem State.factor_of_poison {s : State} {crew o i : Nat} (h : s.spPoison crew (o + 4 * i) 4 = true) :
    s.factor crew o i = none := if_pos h

theorem State.factor_of_clean {s : State} {crew o i : Nat} (h : ¬s.spPoison crew (o + 4 * i) 4 = true) :
    s.factor crew o i = some (f32.decode (leNat (s.spRead crew (o + 4 * i) 4))) := if_neg h

theorem taccScale_completes {s : State} {x : Xfer} {t : Nat} {row : Bool} {o : Nat}
    (hx : s.flow.xfers.find? (·.id == x.id) = some x) (ht : s.engineTurn x = true) (hk : x.kind = .taccScale t row o)
    (hclean : s.taPoison x t = false) : Runs (.taccComplete x.id) s fun u => TaccDone s x t u ∧
      (∀ i j, i < 128 → j < 128 → let n := if row = true then i else j
        (s.spPoison x.crew (o + 4 * n) 4 = true →
          (u.core x.core).eng.ta.get (taWord t i j) = (s.core x.core).eng.ta.get (taWord t i j)) ∧
        (¬s.spPoison x.crew (o + 4 * n) 4 = true → (u.core x.core).eng.ta.get (taWord t i j) =
          BitVec.ofNat 32 (f32.mul .rne false ((s.core x.core).eng.acc t i j)
            (f32.decode (leNat (s.spRead x.crew (o + 4 * n) 4)))).1)) ∧
      ∀ i g, i < 128 → s.spPoison x.crew (o + 4 * i) 4 = true → (∀ j, j < i → ¬s.spPoison x.crew (o + 4 * j) 4 = true) →
        s.grp? x.grp = some g → (∀ p ∈ g.pend, p.1 ≠ .poison) →
          ∃ k, u.grp? x.grp = some k ∧ (.poison, BitVec.ofNat 64 (o + 4 * i)) ∈ k.pend := by
  have hact : s.taccAct x = some (((s.pendFactor x [o]).mapEng x.core fun e => e.setAcc t 0 0 128 128 fun i n =>
      (s.factor x.crew o (if row then i else n)).map fun v =>
        BitVec.ofNat 32 (f32.mul .rne false (e.acc t i n) v).1).retire x x.t false) := by
    rw [State.taccAct, ht, hk]
    exact if_neg (c := s.taPoison x t = true) (by simp [hclean])
  obtain ⟨u, hu, hdone, hget, hpend⟩ := taccFactors_complete hx (.inl ⟨t, row, o, hk⟩) hact
  refine ⟨u, hu, hdone, fun i j hi hj => ⟨fun hl => ?_, fun hl => ?_⟩, fun i g hi hl hmin hg hno => ?_⟩
  · rw [hget i j hi hj, State.factor_of_poison hl]
    rfl
  · rw [hget i j hi hj, State.factor_of_clean hl]
    rfl
  · obtain ⟨k, hk, hm⟩ := s.pendFactor_posts x o i g hi hl (fun j hj => by simpa using hmin j hj) hg hno
    obtain ⟨h, hh, hsub⟩ := hpend k hk
    exact ⟨h, hh, hsub hm⟩

theorem taccBias_completes {s : State} {x : Xfer} {t o v : Nat}
    (hx : s.flow.xfers.find? (·.id == x.id) = some x) (ht : s.engineTurn x = true) (hk : x.kind = .taccBias t o v)
    (hclean : s.taPoison x t = false) : Runs (.taccComplete x.id) s fun u => TaccDone s x t u ∧
      ∀ i j, i < 128 → j < 128 →
        (s.spPoison x.crew (o + 4 * i) 4 = true ∨ s.spPoison x.crew (v + 4 * j) 4 = true →
          (u.core x.core).eng.ta.get (taWord t i j) = (s.core x.core).eng.ta.get (taWord t i j)) ∧
        (¬s.spPoison x.crew (o + 4 * i) 4 = true → ¬s.spPoison x.crew (v + 4 * j) 4 = true →
          (u.core x.core).eng.ta.get (taWord t i j) = BitVec.ofNat 32 (f32.fma .rne false
            (f32.decode (leNat (s.spRead x.crew (o + 4 * i) 4))) (f32.decode (leNat (s.spRead x.crew (v + 4 * j) 4)))
            ((s.core x.core).eng.acc t i j)).1) := by
  have hact : s.taccAct x = some (((s.pendFactor x [o, v]).mapEng x.core fun e => e.setAcc t 0 0 128 128 fun i n =>
      (s.factor x.crew o i).bind fun a => (s.factor x.crew v n).map fun b =>
        BitVec.ofNat 32 (f32.fma .rne false a b (e.acc t i n)).1).retire x x.t false) := by
    rw [State.taccAct, ht, hk]
    exact if_neg (c := s.taPoison x t = true) (by simp [hclean])
  obtain ⟨u, hu, hdone, hget, -⟩ := taccFactors_complete hx (.inr ⟨t, o, v, hk⟩) hact
  refine ⟨u, hu, hdone, fun i j hi hj => ⟨fun hl => ?_, fun hl hl' => ?_⟩⟩
  · rw [hget i j hi hj]
    rcases hl with hl | hl
    · rw [State.factor_of_poison hl]
      rfl
    · rw [State.factor_of_poison hl]
      cases s.factor x.crew o i <;> rfl
  · rw [hget i j hi hj, State.factor_of_clean hl, State.factor_of_clean hl']
    rfl

/-! ## Bytes written to a page of a scratchpad (R229) -/

/-- Bytes of one page of a crew's window stand at different places. -/
theorem Crew.spByte_inj (c : Crew) {o p : Nat} (h : o / 4096 = p / 4096) : c.spByte o = c.spByte p ↔ o = p := by
  refine ⟨fun he => ?_, fun he => he ▸ rfl⟩
  have h2 := congrArg Prod.snd he
  simp only [Crew.spByte, h] at h2
  omega

/-- One byte of a crew's window is written. -/
def State.putByte (s : State) (p : Nat × Nat) (b : Byte) : State := s.mapCore p.1 fun k => { k with sp := k.sp.set p.2 b }

theorem State.get_putByte (s : State) (p q : Nat × Nat) (b : Byte) :
    ((s.putByte p b).core q.1).sp.get q.2 = if q = p then b else (s.core q.1).sp.get q.2 := by
  rw [State.putByte, State.core_mapCore s p.1 (fun k => { k with sp := k.sp.set p.2 b }) fun _ => rfl]
  by_cases h1 : q.1 = p.1
  · rw [if_pos h1]
    show (SMap.set _ p.2 b).get q.2 = _
    rw [SMap.get_set]
    exact if_congr ⟨fun h2 => Prod.ext h1 h2, fun h => h ▸ rfl⟩ rfl rfl
  · rw [if_neg h1, if_neg fun h => h1 (congrArg Prod.fst h)]

theorem State.EnginesKept.putByte (s : State) (p : Nat × Nat) (b : Byte) : s.EnginesKept (s.putByte p b) := by
  refine ⟨fun n => ?_, by rw [State.putByte, State.mapCore_dev]⟩
  rw [State.putByte, State.core_mapCore s p.1 (fun k => { k with sp := k.sp.set p.2 b }) fun _ => rfl]
  split <;> rfl

theorem State.GroupsKept.putByte (s : State) (p : Nat × Nat) (b : Byte) : s.GroupsKept (s.putByte p b) := by
  refine .of_eq ?_ ?_ ?_ <;> simp [State.putByte]

/-- The bytes that `State.spWrite` writes, before poison ends there. -/
def State.putBytes (s : State) (c : Crew) (o : Nat) (bs : List Byte) : State :=
  bs.zipIdx.foldl (fun s b => s.putByte (c.spByte (o + b.2)) b.1) s

theorem State.putBytes_append (s : State) (c : Crew) (o : Nat) (bs : List Byte) (b : Byte) :
    s.putBytes c o (bs ++ [b]) = (s.putBytes c o bs).putByte (c.spByte (o + bs.length)) b := by
  simp [State.putBytes, List.zipIdx_append]

theorem State.EnginesKept.putBytes (s : State) (c : Crew) (o : Nat) (bs : List Byte) : s.EnginesKept (s.putBytes c o bs) :=
  List.foldlRecOn _ _ (.refl s) fun _ h _ _ => h.trans (.putByte ..)

theorem State.GroupsKept.putBytes (s : State) (c : Crew) (o : Nat) (bs : List Byte) : s.GroupsKept (s.putBytes c o bs) :=
  List.foldlRecOn _ _ (.refl s) fun _ h _ _ => h.trans (.putByte ..)

/-- What a byte of a page holds after bytes have been written to the page. -/
theorem State.get_putBytes (s : State) (c : Crew) (o : Nat) (bs : List Byte) (p : Nat) (hb : o % 4096 + bs.length ≤ 4096)
    (hp : p / 4096 = o / 4096) : ((s.putBytes c o bs).core (c.spByte p).1).sp.get (c.spByte p).2 =
      if o ≤ p ∧ p < o + bs.length then bs.getD (p - o) 0 else (s.core (c.spByte p).1).sp.get (c.spByte p).2 := by
  induction bs using List.reverseRecOn with
  | nil => exact (if_neg (by simp)).symm
  | append_singleton bs b ih =>
    rw [List.length_append, List.length_singleton] at hb
    have hpage : p / 4096 = (o + bs.length) / 4096 := by omega
    rw [State.putBytes_append, State.get_putByte, ih (by omega), List.length_append, List.length_singleton]
    by_cases he : p = o + bs.length
    · rw [if_pos (by rw [he]), if_pos (by omega), he, Nat.add_sub_cancel_left,
        List.getD_append_right _ _ _ _ le_rfl, Nat.sub_self]
      rfl
    · rw [if_neg fun h => he ((c.spByte_inj hpage).1 h)]
      by_cases hin : o ≤ p ∧ p < o + bs.length
      · rw [if_pos hin, if_pos (by omega), List.getD_append _ _ _ _ (by omega)]
      · rw [if_neg hin, if_neg (by omega)]

theorem State.EnginesKept.spWrite (s : State) (crew o : Nat) (bs : List Byte) : s.EnginesKept (s.spWrite crew o bs) :=
  (State.EnginesKept.putBytes s (s.crew crew) o bs).trans (.of_eq rfl rfl)

theorem State.GroupsKept.spWrite (s : State) (crew o : Nat) (bs : List Byte) : s.GroupsKept (s.spWrite crew o bs) :=
  (State.GroupsKept.putBytes s (s.crew crew) o bs).trans (.of_eq rfl rfl rfl)

theorem State.crew_putBytes (s : State) (c : Crew) (o : Nat) (bs : List Byte) : (s.putBytes c o bs).crews = s.crews :=
  List.foldlRecOn (motive := fun t : State => t.crews = s.crews) _ _ rfl fun t h b _ => by
    rw [State.putByte, State.mapCore_crews, h]

theorem State.crew_spWrite (s : State) (crew o : Nat) (bs : List Byte) (n : Nat) : (s.spWrite crew o bs).crew n = s.crew n := by
  have h : (s.spWrite crew o bs).crews = s.crews := s.crew_putBytes (s.crew crew) o bs
  rw [State.crew, State.crew, h]

/-- What a read of a page finds after bytes have been written to the page. -/
theorem State.spRead_spWrite (s : State) (crew o : Nat) (bs : List Byte) (p n : Nat) (hb : o % 4096 + bs.length ≤ 4096)
    (hp : p / 4096 = o / 4096) (hn : p % 4096 + n ≤ 4096) : (s.spWrite crew o bs).spRead crew p n =
      (List.range n).map fun i => if o ≤ p + i ∧ p + i < o + bs.length then bs.getD (p + i - o) 0
        else (s.core ((s.crew crew).spByte (p + i)).1).sp.get ((s.crew crew).spByte (p + i)).2 := by
  rw [State.spRead, State.crew_spWrite]
  refine List.map_congr_left fun i hi => ?_
  have hi' := List.mem_range.1 hi
  exact s.get_putBytes (s.crew crew) o bs (p + i) hb (by omega)

/-- Bytes that have been written are read. -/
theorem State.spRead_spWrite_self (s : State) (crew o n : Nat) (bs : List Byte) (hn : bs.length = n)
    (hb : o % 4096 + n ≤ 4096) : (s.spWrite crew o bs).spRead crew o n = bs := by
  subst hn
  rw [State.spRead_spWrite s crew o bs o bs.length hb rfl hb]
  refine List.ext_getElem (by simp) fun i hi hi' => ?_
  rw [List.getElem_map, List.getElem_range, if_pos ⟨by omega, by omega⟩, Nat.add_sub_cancel_left, List.getD_eq_getElem _ _ hi']

/-- Bytes of a page above those that have been written are read as before. -/
theorem State.spRead_spWrite_below (s : State) (crew o : Nat) (bs : List Byte) (p n : Nat)
    (hb : o % 4096 + bs.length ≤ 4096) (hp : p / 4096 = o / 4096) (hle : p + n ≤ o) :
    (s.spWrite crew o bs).spRead crew p n = s.spRead crew p n := by
  rw [State.spRead_spWrite s crew o bs p n hb hp (by omega)]
  refine List.map_congr_left fun i hi => if_neg ?_
  have hi' := List.mem_range.1 hi
  omega

/-! ## Records of one f32 element -/

/-- A tile of one element, of 32 bits and in being (R190). -/
structure TileRec.One (r : TileRec) : Prop where
  code : r.code = 18
  rows : r.rows = 1
  cols : r.cols = 1
  erows : 0 < r.erows
  ecols : 0 < r.ecols

namespace TileRec.One

theorem of {r : TileRec} : r.code = 18 ∧ r.rows = 1 ∧ r.cols = 1 ∧ 0 < r.erows ∧ 0 < r.ecols → r.One
  | ⟨code, rows, cols, erows, ecols⟩ => ⟨code, rows, cols, erows, ecols⟩

variable {r : TileRec} (h : r.One)

include h

theorem nRows : r.nRows = 1 := by rw [TileRec.nRows, h.rows]; exact Nat.min_eq_left h.erows

theorem nCols : r.nCols = 1 := by rw [TileRec.nCols, h.cols]; exact Nat.min_eq_left h.ecols

theorem dRows : r.dRows = 1 := by rw [TileRec.dRows, h.rows, h.cols, ite_self]

theorem dCols : r.dCols = 1 := by rw [TileRec.dCols, h.rows, h.cols, ite_self]

theorem width : r.width = 32 := by simp [TileRec.width, h.code]

theorem nSegs : r.nSegs = 1 := by rw [TileRec.nSegs, h.dCols]

theorem farOf : r.farOf none 0 0 = some (0, 0) := by
  have hp : (if r.trans then ((0, 0) : Nat × Nat) else (0, 0)) = (0, 0) := ite_self _
  rw [TileRec.farOf, hp, if_pos ⟨h.erows, h.ecols⟩]

omit h in
theorem accOf (e : Engine) (t : Nat) : r.accOf e t 0 0 = e.acc t r.row0 r.col0 := by
  rw [TileRec.accOf, ite_self]
  rfl

/-- The mask word of the one element: every other column is padding (R194). -/
theorem maskWord : r.maskWord none 0 0 = 0xFFFFFFFE := by
  have hc : ∀ e, (32 * 0 + e < r.dCols ∧ (r.farOf none 0 (32 * 0 + e)).isSome = true) ↔ e = 0 := fun e => by
    rw [h.dCols]
    refine ⟨fun he => by omega, fun he => ?_⟩
    subst he
    exact ⟨by decide, by rw [h.farOf]; rfl⟩
  rw [TileRec.maskWord]
  simp only [hc]
  decide

/-- What `tacc.tst.sp` stores: the element, and under the mask bit the mask word at the stride (R194, R202). -/
theorem spStores (e : Engine) (t : Nat) : r.spStores e t =
    (r.far.toNat, leBytes (f32.exact (e.acc t r.row0 r.col0)) 4) ::
      if r.mask = true then [(r.far.toNat + r.stride, leBytes 0xFFFFFFFE 4)] else [] := by
  have harea : r.areaAt .tstSp = r.far.toNat + r.stride := by rw [TileRec.areaAt, if_pos rfl, h.rows, Nat.one_mul]
  cases hm : r.mask <;>
    simp [TileRec.spStores, TileRec.areaRow, h.nRows, h.nCols, h.dRows, h.nSegs, h.width, h.code,
      TileRec.One.accOf, h.maskWord, harea, hm, tstConv]

end TileRec.One

/-! ## tacc.tst.sp -/

/-- Stores to a scratchpad, in their order. -/
def State.spWrites (s : State) (crew : Nat) (ps : List (Nat × List Byte)) : State :=
  ps.foldl (fun s p => s.spWrite crew p.1 p.2) s

theorem State.EnginesKept.spWrites (s : State) (crew : Nat) (ps : List (Nat × List Byte)) :
    s.EnginesKept (s.spWrites crew ps) :=
  List.foldlRecOn _ _ (.refl s) fun _ h _ _ => h.trans (.spWrite ..)

theorem State.GroupsKept.spWrites (s : State) (crew : Nat) (ps : List (Nat × List Byte)) :
    s.GroupsKept (s.spWrites crew ps) :=
  List.foldlRecOn _ _ (.refl s) fun _ h _ _ => h.trans (.spWrite ..)

theorem taccSp_lands {s : State} {x : Xfer} {t : Nat} {r : TileRec} (hx : s.flow.xfers.find? (·.id == x.id) = some x)
    (ht : s.engineTurn x = true) (hk : x.kind = .taccSp t r) (h : r.One) (hclean : s.taPoison x t = false)
    (hpage : r.far.toNat % 4096 + 4 + (if r.mask = true then r.stride else 0) ≤ 4096) (hstride : r.mask = true → 4 ≤ r.stride) :
    Runs (.land x.id) s fun u => Retired s u x ∧ (u.core x.core).eng = (s.core x.core).eng ∧
      u.spRead x.crew r.far.toNat 4 = leBytes (f32.exact ((s.core x.core).eng.acc t r.row0 r.col0)) 4 ∧
      (r.mask = true → u.spRead x.crew (r.far.toNat + r.stride) 4 = leBytes 0xFFFFFFFE 4) := by
  have hact : s.taccAct x = some ((s.spWrites x.crew (r.spStores (s.core x.core).eng t)).retire x x.t false) := by
    rw [State.taccAct, ht, hk]
    exact if_neg (c := s.taPoison x t = true) (by simp [hclean])
  refine ⟨_, exec_land_tacc hx (.inl ⟨t, r, hk⟩) hact, (State.GroupsKept.spWrites ..).retired x x.t false, ?_, ?_, fun hm => ?_⟩
  · rw [((State.EnginesKept.spWrites ..).trans (State.EnginesKept.retire _ x x.t false)).eng]
  · rw [(State.BytesKept.retire _ x x.t false).spRead, h.spStores]
    have hlen := length_leBytes 0xFFFFFFFE 4
    generalize leBytes 0xFFFFFFFE 4 = mask at hlen ⊢
    cases hm : r.mask
    · exact s.spRead_spWrite_self x.crew _ 4 _ (length_leBytes _ 4) (by omega)
    · rw [if_pos hm] at hpage
      have h4 := hstride hm
      refine (State.spRead_spWrite_below (s.spWrite x.crew r.far.toNat _) x.crew _ mask _ 4
        (by omega) (by omega) (by omega)).trans ?_
      exact s.spRead_spWrite_self x.crew _ 4 _ (length_leBytes _ 4) (by omega)
  · rw [(State.BytesKept.retire _ x x.t false).spRead, h.spStores, if_pos hm]
    have hlen := length_leBytes 0xFFFFFFFE 4
    generalize leBytes 0xFFFFFFFE 4 = mask at hlen ⊢
    rw [if_pos hm] at hpage
    have h4 := hstride hm
    exact State.spRead_spWrite_self (s.spWrite x.crew r.far.toNat _) x.crew _ 4 mask hlen (by omega)

end Sys2Proof.Machine
end


section
/-!
Strokes (R65, R188, R199): what a step adds to the accumulator, what its last step does to the signing groups, and exact sums.
-/

namespace Sys2Proof.Machine

/-! ## Rows of a stroke -/

/-- An output element is of the operand buffers alone. -/
theorem Engine.strokeElem_congr {e e' : Engine} (ho : e'.oa = e.oa) (hw : e'.wb = e.wb) (f : Signed) (a n : Nat) (acc : Word) :
    e'.strokeElem f a n acc = e.strokeElem f a n acc := by
  rw [Engine.strokeElem, Engine.strokeElem, ho, hw]

/-- A stroke row changes its own row of the accumulator. -/
theorem Engine.get_strokeRow (e : Engine) (f : Signed) (d : Nat) (fresh : Bool) (i j : Nat) (hj : j < 128) :
    (e.strokeRow f d d fresh).ta.get (taWord f.ta.toNat i j) =
      if i = d then e.strokeElem f i j (if fresh = true then 0 else e.ta.get (taWord f.ta.toNat i j))
      else e.ta.get (taWord f.ta.toNat i j) := by
  rw [Engine.strokeRow]
  by_cases hi : i = d
  · subst hi
    have := Engine.get_setAcc_in e f.ta.toNat i 0 1 128 (fun _ n =>
      some (e.strokeElem f i n (if fresh then 0 else e.ta.get (taWord f.ta.toNat i n)))) le_rfl 0 j one_pos hj
    rw [Nat.add_zero, Nat.zero_add] at this
    rw [this, if_pos rfl]
    rfl
  · rw [if_neg hi, Engine.get_setAcc _ _ _ _ _ _ _ le_rfl, if_neg]
    unfold taWord
    omega

/-- The first rows of a step of a stroke without lists. -/
def Engine.strokeRows (e : Engine) (f : Signed) (k n : Nat) : Engine :=
  (List.range n).foldl (fun e q => e.strokeRow f (4 * k + q) (4 * k + q) f.zero) e

theorem Engine.strokeStep_eq (e : Engine) (f : Signed) (k : Nat) (hg : f.gath = false) :
    e.strokeStep f k = e.strokeRows f k 4 := by
  simp [Engine.strokeStep, Engine.strokeRows, Signed.rowsOf, hg]

theorem Engine.strokeRows_succ (e : Engine) (f : Signed) (k n : Nat) :
    e.strokeRows f k (n + 1) = (e.strokeRows f k n).strokeRow f (4 * k + n) (4 * k + n) f.zero := by
  rw [Engine.strokeRows, List.range_succ, List.foldl_append]
  rfl

/-- A step leaves the operand buffers alone. -/
theorem Engine.strokeRows_buffers (e : Engine) (f : Signed) (k n : Nat) :
    (e.strokeRows f k n).oa = e.oa ∧ (e.strokeRows f k n).wb = e.wb := by
  induction n with
  | zero => exact ⟨rfl, rfl⟩
  | succ n ih => rw [Engine.strokeRows_succ]; exact ih

/-- What the accumulator of a stroke holds after the first rows of a step (R65, R199). -/
theorem Engine.get_strokeRows (e : Engine) (f : Signed) (k n i j : Nat) (hj : j < 128) :
    (e.strokeRows f k n).ta.get (taWord f.ta.toNat i j) =
      if 4 * k ≤ i ∧ i < 4 * k + n then
        e.strokeElem f i j (if f.zero = true then 0 else e.ta.get (taWord f.ta.toNat i j))
      else e.ta.get (taWord f.ta.toNat i j) := by
  induction n with
  | zero => rw [if_neg (by omega)]; rfl
  | succ n ih =>
    obtain ⟨ho, hw⟩ := e.strokeRows_buffers f k n
    rw [Engine.strokeRows_succ, Engine.get_strokeRow _ _ _ _ _ _ hj, ih, Engine.strokeElem_congr ho hw]
    by_cases hi : i = 4 * k + n
    · have hno : ¬(4 * k ≤ i ∧ i < 4 * k + n) := by omega
      have hyes : 4 * k ≤ i ∧ i < 4 * k + (n + 1) := by omega
      rw [if_pos hi, if_neg hno, if_pos hyes]
    · rw [if_neg hi]
      exact if_congr (by omega) rfl rfl

/-- The engine after a step; the accumulator takes the poison of what the stroke reads (R299). -/
def Engine.stroked (e : Engine) (f : Signed) (k : Nat) (bad : Bool) : Engine :=
  let e1 := e.strokeStep f k
  if bad && !e1.poisoned.contains (8 + f.ta.toNat) then { e1 with poisoned := (8 + f.ta.toNat) :: e1.poisoned } else e1

theorem Engine.stroked_stores (e : Engine) (f : Signed) (k : Nat) (bad : Bool) :
    (e.stroked f k bad).oa = (e.strokeStep f k).oa ∧ (e.stroked f k bad).wb = (e.strokeStep f k).wb ∧ (e.stroked f k bad).ta = (e.strokeStep f k).ta := by
  unfold Engine.stroked
  dsimp only
  split <;> exact ⟨rfl, rfl, rfl⟩

/-- What a step of a stroke without lists does to its engine: rows 4k to 4k + 3 receive their dot products, and no other
row changes (R65, R199). -/
theorem Engine.stroked_spec (e : Engine) (f : Signed) (k : Nat) (bad : Bool) (hg : f.gath = false) :
    (e.stroked f k bad).oa = e.oa ∧ (e.stroked f k bad).wb = e.wb ∧
      ∀ i j, i < 128 → j < 128 → (e.stroked f k bad).ta.get (taWord f.ta.toNat i j) =
        if i / 4 = k then e.strokeElem f i j (if f.zero = true then 0 else e.ta.get (taWord f.ta.toNat i j))
        else e.ta.get (taWord f.ta.toNat i j) := by
  obtain ⟨ho, hw, hta⟩ := e.stroked_stores f k bad
  obtain ⟨ho', hw'⟩ := e.strokeRows_buffers f k 4
  rw [ho, hw, hta, e.strokeStep_eq f k hg]
  refine ⟨ho', hw', fun i j _ hj => ?_⟩
  rw [e.get_strokeRows f k 4 i j hj]
  exact if_congr (by omega) rfl rfl

/-! ## The last step (R199) -/

/-- The tl of a group after it has fallen in another group or in this one. -/
theorem State.tl_complete (s : State) (id n : Nat) :
    ((s.complete id .tl).grp? n).map (·.tl) = (s.grp? n).map fun g => g.tl - if id = n then 1 else 0 := by
  obtain ⟨q, hq⟩ := s.grp?_complete id .tl
  rw [hq, Option.map_map]
  cases hg : s.grp? n with
  | none => rfl
  | some g =>
    rw [Option.map_some, Option.map_some, Function.comp_apply, State.id_of_grp? hg]
    by_cases h : id = n
    · subst h
      simp only [beq_self_eq_true, if_true]
      rfl
    · have hb : (n == id) = false := by simpa using Ne.symm h
      rw [hb, if_neg Bool.false_ne_true, if_neg h, Nat.sub_zero]
      rfl

/-- Words of several groups complete. -/
def State.completeAll (s : State) (gs : List Nat) : State := gs.foldl (fun s g => s.complete g .tl) s

theorem State.tl_completeAll (s : State) (gs : List Nat) (n : Nat) :
    ((s.completeAll gs).grp? n).map (·.tl) = (s.grp? n).map fun g => g.tl - gs.count n := by
  induction gs generalizing s with
  | nil => rfl
  | cons g gs ih =>
    have h := congrArg (Option.map (· - gs.count n)) (s.tl_complete g n)
    rw [Option.map_map, Option.map_map] at h
    refine ((ih (s.complete g .tl)).trans h).trans ?_
    congr 1
    funext k
    rw [Function.comp_apply, List.count_cons, Nat.sub_sub, Nat.add_comm]
    simp only [beq_iff_eq]

theorem State.EnginesKept.completeAll (s : State) (gs : List Nat) : s.EnginesKept (s.completeAll gs) :=
  List.foldlRecOn _ _ (.refl s) fun _ h _ _ => h.trans (.complete ..)

theorem State.completeAll_flow (s : State) (gs : List Nat) : (s.completeAll gs).flow = s.flow :=
  List.foldlRecOn (motive := fun t : State => t.flow = s.flow) _ _ rfl fun _ h _ _ => h

/-- The stroke is no longer in flight, and has been metered. -/
def State.strokeGone (s : State) (x : Xfer) (f : Signed) : State :=
  (s.onFlow fun fl => { fl with xfers := fl.xfers.filter (·.id != x.id) }).meter x.tn (efMeter f.ef.toNat) 1

/-- The end of a stroke: it leaves the machine, and tl falls in every signing group; the arrival changes none of that. -/
theorem State.strokeDone_calm (s : State) (x : Xfer) (f : Signed) :
    ((s.strokeGone x f).completeAll f.grps).Calm (s.strokeDone x f) := by
  unfold State.strokeDone
  extract_lets s1 s2
  change s2.Calm _
  split
  · exact .refl s2
  · dsimp only
    split
    · exact .mapGrp s2 _ _ fun g => .pending g _ _
    · split
      · exact .mapGrp s2 _ _ fun g => .pending g _ _
      · exact (State.Calm.mapBar s2 _ _ _).trans (.signalFor _ _ _)

theorem State.strokeDone_spec (s : State) (x : Xfer) (f : Signed) : s.EnginesKept (s.strokeDone x f) ∧
    (∀ y ∈ (s.strokeDone x f).flow.xfers, y.id ≠ x.id) ∧
    (f.grps.Nodup → ∀ n ∈ f.grps, ((s.strokeDone x f).grp? n).map (·.tl) = (s.grp? n).map (·.tl - 1)) := by
  have hc := s.strokeDone_calm x f
  have h0 : s.EnginesKept (s.strokeGone x f) := .of_eq rfl rfl
  refine ⟨(h0.trans (.completeAll _ f.grps)).trans hc.engines, fun y hy => ?_, fun hd n hn => ?_⟩
  · have hm := hc.groups.xfers hy
    rw [State.completeAll_flow] at hm
    simpa using (List.mem_filter.1 hm).2
  · refine (hc.groups.ctr n .tl).trans ((State.tl_completeAll _ f.grps n).trans ?_)
    rw [List.count_eq_one_of_mem hd hn]
    rfl

/-! ## STROKE_STEP -/

theorem State.strokeAct_eq (s : State) (x : Xfer) (k : Stroke) (hk : x.kind = .stroke k) (hstop : k.stop = false)
    (ht : s.engineTurn x = true) : s.strokeAct x =
      let s1 := s.mapEng x.core fun e => e.stroked k.f k.step (s.strokePoison x.core k.f)
      if k.step ≥ 31 then some (s1.strokeDone x k.f)
      else some (s1.onFlow fun fl => { fl with xfers := fl.xfers.map fun y =>
        if y.id == x.id then { y with kind := .stroke { k with step := k.step + 1 } } else y }) := by
  rw [State.strokeAct, hk]
  dsimp only
  rw [hstop, ht]
  rfl

theorem strokeStep_runs {s : State} {x : Xfer} {k : Stroke} (hx : s.flow.xfers.find? (·.id == x.id) = some x)
    (hk : x.kind = .stroke k) (hstop : k.stop = false) (ht : s.engineTurn x = true) (hg : k.f.gath = false)
    (hlt : k.step < 32) : Runs (.strokeStep x.id) s fun t =>
      let e := (s.core x.core).eng
      let e' := (t.core x.core).eng
      e'.oa = e.oa ∧ e'.wb = e.wb ∧
      (∀ i j, i < 128 → j < 128 → e'.ta.get (taWord k.f.ta.toNat i j) =
        if i / 4 = k.step then e.strokeElem k.f i j (if k.f.zero = true then 0 else e.ta.get (taWord k.f.ta.toNat i j))
        else e.ta.get (taWord k.f.ta.toNat i j)) ∧
      (k.step < 31 → t.cur = s.cur ∧ t.groups = s.groups ∧ ∃ y ∈ t.flow.xfers, y.id = x.id ∧
        y.kind = .stroke { k with step := k.step + 1 }) ∧
      (k.step = 31 → (∀ y ∈ t.flow.xfers, y.id ≠ x.id) ∧ (k.f.grps.Nodup → ∀ n ∈ k.f.grps,
        (t.grp? n).map (·.tl) = (s.grp? n).map (·.tl - 1))) := by
  have hact := s.strokeAct_eq x k hk hstop ht
  have heng := s.eng_mapEng x.core fun e => e.stroked k.f k.step (s.strokePoison x.core k.f)
  obtain ⟨ho, hw, hta⟩ := (s.core x.core).eng.stroked_spec k.f k.step (s.strokePoison x.core k.f) hg
  dsimp only at hact
  by_cases h31 : k.step ≥ 31
  · rw [if_pos h31] at hact
    obtain ⟨hkeep, hgone, htl⟩ := State.strokeDone_spec
      (s.mapEng x.core fun e => e.stroked k.f k.step (s.strokePoison x.core k.f)) x k.f
    refine ⟨_, Eq.trans (b := execStrokeStep x.id s) rfl (onXfer_of hx hact), ?_⟩
    dsimp only
    rw [hkeep.eng, heng]
    refine ⟨ho, hw, hta, fun h => by omega, fun _ => ⟨hgone, fun hd n hn => ?_⟩⟩
    rw [htl hd n hn, State.grp?_mapEng]
  · rw [if_neg h31] at hact
    refine ⟨_, Eq.trans (b := execStrokeStep x.id s) rfl (onXfer_of hx hact), ?_⟩
    dsimp only
    rw [State.core_of_cores (t := State.onFlow _ _) (s := s.mapEng x.core _) rfl, heng]
    refine ⟨ho, hw, hta, fun _ => ⟨?_, ?_, { x with kind := .stroke { k with step := k.step + 1 } }, ?_, rfl, rfl⟩,
      fun h => by omega⟩
    · exact State.mapCore_cur s _ _
    · exact State.mapCore_groups s _ _
    · refine List.mem_map.2 ⟨x, ?_, by rw [beq_self_eq_true, if_pos rfl]⟩
      rw [State.mapEng, State.mapCore_flow]
      exact List.mem_of_find?_eq_some hx

/-! ## Exact sums and products (R65) -/

/-- A signed dyadic number as an integer multiple of a place at or below its own. -/
def signedAt (n : Bool) (m : Nat) (e lo : Int) : Int := (if n = true then -1 else 1) * ((m * 2 ^ (e - lo).toNat : Nat) : Int)

/-- At any place below both numbers and their sum, the sum loses nothing. -/
theorem signedAt_dySum (n₁ n₂ : Bool) (m₁ m₂ : Nat) (e₁ e₂ lo : Int) (h : lo ≤ (dySum n₁ m₁ e₁ n₂ m₂ e₂).2.2) (h₁ : lo ≤ e₁)
    (h₂ : lo ≤ e₂) : signedAt (dySum n₁ m₁ e₁ n₂ m₂ e₂).1 (dySum n₁ m₁ e₁ n₂ m₂ e₂).2.1 (dySum n₁ m₁ e₁ n₂ m₂ e₂).2.2 lo =
      signedAt n₁ m₁ e₁ lo + signedAt n₂ m₂ e₂ lo := by
  have hp : (2 : ℝ) ^ lo ≠ 0 := zpow_ne_zero lo two_ne_zero
  have hsum := signedVal_dySum n₁ n₂ m₁ m₂ e₁ e₂
  rw [← signedVal_lower _ _ h, ← signedVal_lower n₁ m₁ h₁, ← signedVal_lower n₂ m₂ h₂, ← add_mul, mul_left_inj' hp,
    ← Int.cast_add] at hsum
  exact Int.cast_injective hsum

/-- Exact sums and products of finite values lose nothing, and the special cases give a NaN. -/
theorem exactMul_exactAdd (n₁ n₂ : Bool) (m₁ m₂ : Nat) (e₁ e₂ : Int) :
    (∃ n m e, exactMul (.fin n₁ m₁ e₁) (.fin n₂ m₂ e₂) = .fin n m e ∧ n = (n₁ != n₂) ∧ m = m₁ * m₂ ∧ e = e₁ + e₂) ∧
    (∃ n m e, exactAdd (.fin n₁ m₁ e₁) (.fin n₂ m₂ e₂) = .fin n m e ∧ ∀ lo, lo ≤ e → lo ≤ e₁ → lo ≤ e₂ →
      signedAt n m e lo = signedAt n₁ m₁ e₁ lo + signedAt n₂ m₂ e₂ lo) ∧
    exactMul (.inf n₁) (.fin n₂ 0 e₂) = .nan false ∧ exactAdd (.inf n₁) (.inf (!n₁)) = .nan false :=
  ⟨⟨_, _, _, rfl, rfl, rfl, rfl⟩, ⟨_, _, _, rfl, fun lo h h₁ h₂ => signedAt_dySum n₁ n₂ m₁ m₂ e₁ e₂ lo h h₁ h₂⟩, rfl,
    by cases n₁ <;> rfl⟩

end Sys2Proof.Machine
end


section
/-!
Accumulator words that read or write memory (R202, R203): a tile of one f32 element in host memory.
-/

namespace Sys2Proof.Machine

/-! ## Steps that leave groups and engines alone -/

/-- Groups and engines are kept, whatever becomes of lines, homes and memory. -/
structure State.Still (s t : State) : Prop where
  groups : s.GroupsKept t
  engines : s.EnginesKept t

namespace State.Still

variable {s t u : State}

theorem refl (s : State) : s.Still s := ⟨.refl s, .refl s⟩

theorem trans (a : s.Still t) (b : t.Still u) : s.Still u := ⟨a.groups.trans b.groups, a.engines.trans b.engines⟩

theorem of_eq (hc : t.cur = s.cur) (hg : t.groups = s.groups) (hx : t.flow.xfers = s.flow.xfers) (hk : t.cores = s.cores)
    (hh : t.dev.host = s.dev.host) : s.Still t := ⟨.of_eq hc hg hx, .of_eq hk hh⟩

/-- Steps that leave them alone do so in any number. -/
theorem foldl {α : Type} {f : State → α → State} (hf : ∀ (s : State) a, s.Still (f s a)) (l : List α) (s : State) :
    s.Still (l.foldl f s) :=
  List.foldlRecOn l f (refl s) fun _ h a _ => h.trans (hf _ a)

theorem poisonHome (s : State) (core : Nat) (x : L1Line) : s.Still (s.poisonHome core x) := by
  unfold State.poisonHome
  split
  · refine of_eq rfl rfl rfl rfl ?_
    show (Dev.addPoison _ _).host = _
    unfold Dev.addPoison
    split <;> rfl
  · exact refl s

theorem mapL1 (s : State) (core : Nat) (f : List L1Line → List L1Line) : s.Still (s.mapL1 core f) := by
  refine ⟨.of_eq (State.mapCore_cur ..) (State.mapCore_groups ..) (congrArg Flow.xfers (State.mapCore_flow ..)), fun n => ?_,
    congrArg Dev.host (State.mapCore_dev ..)⟩
  rw [State.mapL1, State.core_mapCore s core (fun c => { c with l1 := f c.l1 }) fun _ => rfl]
  split <;> rfl

theorem mapHome (s : State) (k : HomeKey) (f : Home → Home) : s.Still (s.mapHome k f) := of_eq rfl rfl rfl rfl rfl

theorem hbmWrite (s : State) (tn pa : Nat) (bs : List Byte) : s.Still (s.hbmWrite tn pa bs) := of_eq rfl rfl rfl rfl rfl

theorem passOn (s : State) (k : HomeKey) (back : List WriteBack) : s.Still (s.passOn k back) := by
  unfold State.passOn
  split
  · exact foldl (fun s _ => hbmWrite s ..) back s
  · exact mapHome s k _

theorem recallNow (s : State) (k : HomeKey) : s.Still (s.recallNow k) := by
  unfold State.recallNow State.recallAs
  split
  · exact refl s
  · rename_i c _
    extract_lets back s0 s1 s2 s3
    have h0 : s.Still s0 := foldl (fun s x => poisonHome s c x) _ s
    have h1 : s0.Still s1 := mapL1 s0 c _
    have h3 : s1.Still s3 := of_eq rfl rfl rfl rfl rfl
    exact ((h0.trans h1).trans h3).trans (passOn s3 k back)

theorem recallAt (s : State) (tn : Nat) (l : Loc) (n : Nat) : s.Still (s.recallAt tn l n) := by
  unfold State.recallAt
  split
  · exact foldl (fun s k => recallNow s k) _ s
  · exact refl s

theorem countAccess (s : State) (core tn va : Nat) : s.Still (s.countAccess core tn va) := by
  unfold State.countAccess
  extract_lets t base at_
  split
  · exact refl s
  · split
    · exact refl s
    · extract_lets pa k s1
      have h1 : s.Still s1 := recallNow s k
      split
      · exact refl s
      · split
        · dsimp only
          split
          · exact h1.trans (of_eq rfl rfl rfl rfl rfl)
          · split
            · exact h1.trans (of_eq rfl rfl rfl rfl rfl)
            · exact h1.trans (mapHome ..)
        · exact refl s

theorem countPlaces (s : State) (x : Xfer) (ls : List Loc) : s.Still (s.countPlaces x ls) := by
  unfold State.countPlaces
  split
  · exact refl s
  · exact foldl (fun s _ => countAccess s ..) _ s

theorem meter (s : State) (tn idx n : Nat) : s.Still (s.meter tn idx n) := of_eq rfl rfl rfl rfl rfl

theorem meterReads (s : State) (x : Xfer) (ls : List (Loc × Nat)) : s.Still (s.meterReads x ls) := by
  refine (foldl (fun s l => ?_) ls s).trans (meter ..)
  split
  · exact meter ..
  · exact meter ..
  · exact refl s

end State.Still

/-! ## Places in host memory -/

/-- A place in host memory is where it is in every state. -/
theorem State.placeIn_host {s : State} {tn ea : Nat} {map : List (Nat × Loc)} {l : Loc} (h : s.placeIn tn map ea = some l)
    (hl : l.cls = .host) (t : State) : t.placeIn tn map ea = some l := by
  unfold State.placeIn at h ⊢
  cases hf : map.find? (·.1 == ea / 4096) with
  | none => rw [hf] at h; exact absurd h (by simp)
  | some p =>
    rw [hf, Option.map_some, Option.some_inj] at h
    have hc : p.2.cls = .host := by rw [← hl, ← h]; rfl
    rw [Option.map_some, ← h, State.offset, State.offset, hc]

theorem State.recallAt_host (s : State) (tn : Nat) (l : Loc) (n : Nat) (hl : l.cls = .host) : s.recallAt tn l n = s := by
  rw [State.recallAt, hl, if_neg (by simp)]

/-- One piece that lands in host memory. -/
theorem State.landPieces_host (s : State) (x : Xfer) (l : Loc) (bs : List Byte) (hl : l.cls = .host)
    (hn : x.loses l bs.length = false) : s.landPieces x [⟨l, bs⟩] =
      ((s.onDev fun d => { d with host := d.host.setList l.pa bs }).meter x.tn 6 bs.length, x.t) := by
  have hks : s.pieceLines x.tn [⟨l, bs⟩] = [] := by
    simp [State.pieceLines, hl]
  unfold State.landPieces
  simp only [List.foldl_cons, List.foldl_nil, State.recallAt_host s x.tn l _ hl, hks, hl, hn]
  rfl

theorem SMap.getList_eq_map {w : Nat} (m : SMap w) (k n : Nat) : m.getList k n = (List.range n).map fun i => m.get (k + i) := by
  induction n generalizing k with
  | zero => rfl
  | succ n ih =>
    rw [SMap.getList, ih, List.range_succ_eq_map, List.map_cons, List.map_map]
    refine congrArg₂ _ rfl (List.map_congr_left fun i _ => ?_)
    rw [Function.comp_apply, Nat.succ_eq_add_one, Nat.add_right_comm, Nat.add_assoc]

/-- What has been written is read. -/
theorem SMap.getList_setList_self {w : Nat} (m : SMap w) (k n : Nat) (vs : List (BitVec w)) (hn : vs.length = n) :
    (m.setList k vs).getList k n = vs := by
  subst hn
  rw [SMap.getList_eq_map]
  refine List.ext_getElem (by simp) fun i hi hi' => ?_
  rw [List.getElem_map, List.getElem_range, SMap.get_setList, if_pos ⟨by omega, by omega⟩, Nat.add_sub_cancel_left,
    List.getD_eq_getElem _ _ hi']

/-! ## tacc.tst.mem -/

theorem TileRec.rowAddr_zero (r : TileRec) : r.rowAddr 0 = r.far := by simp [TileRec.rowAddr]

/-- The one piece that `tacc.tst.mem` lands for a tile of one f32 element (R202). -/
theorem TileRec.One.memStores {r : TileRec} (h : r.One) (s : State) (x : Xfer) (map : List (Nat × Loc)) (e : Engine) (t : Nat)
    {l : Loc} (hl : s.placeIn x.tn map r.far.toNat = some l) :
    s.memStores x r map e t = [⟨l, leBytes (f32.exact (e.acc t r.row0 r.col0)) 4⟩] := by
  have hmod : r.far.toNat % 18446744073709551616 = r.far.toNat := Nat.mod_eq_of_lt r.far.isLt
  simp [State.memStores, h.code, h.nRows, h.nCols, h.width, r.rowAddr_zero, TileRec.One.accOf, tstConv, hl, hmod,
    List.filterMap_cons]

/-- The landing of `tacc.tst.mem`: lines held exclusively return, the places are counted, and the pieces land (R202, R243, R254). -/
def State.accLanding (s : State) (x : Xfer) (t : Nat) (r : TileRec) (map : List (Nat × Loc)) : State × Nat :=
  let s0 := (s.placesIn x.tn map (r.memRanges (s.tenant x.tn).soff none map)).foldl
    (fun (s : State) p => s.recallAt x.tn p.2.1 p.2.2) s
  let ps := s0.memStores x r map (s.core x.core).eng t
  (s0.countPlaces x (onePerLine (ps.map (·.loc)))).landPieces x ps

/-- One f32 element lands in host memory, and groups and engines stay as they are before it does. -/
theorem TileRec.One.accLanding {r : TileRec} (h : r.One) (s : State) (x : Xfer) (t : Nat) (map : List (Nat × Loc)) {l : Loc}
    (hl : s.placeIn x.tn map r.far.toNat = some l) (hhost : l.cls = .host) (hlose : x.loses l 4 = false) :
    ∃ s1, s.Still s1 ∧ (s.accLanding x t r map).1 = (s1.onDev fun d => { d with
      host := d.host.setList l.pa (leBytes (f32.exact ((s.core x.core).eng.acc t r.row0 r.col0)) 4) }).meter x.tn 6 4 := by
  unfold State.accLanding
  extract_lets s0 ps
  have hps : ps = [⟨l, leBytes (f32.exact ((s.core x.core).eng.acc t r.row0 r.col0)) 4⟩] :=
    h.memStores s0 x map _ t (State.placeIn_host hl hhost s0)
  have hland := (s0.countPlaces x (onePerLine (ps.map (·.loc)))).landPieces_host x l
    (leBytes (f32.exact ((s.core x.core).eng.acc t r.row0 r.col0)) 4) hhost (by rw [length_leBytes]; exact hlose)
  rw [← hps, length_leBytes] at hland
  exact ⟨_, (State.Still.foldl (fun s p => .recallAt s ..) _ s).trans (.countPlaces ..), congrArg Prod.fst hland⟩

theorem taccMem_lands {s : State} {x : Xfer} {t : Nat} {r : TileRec} {map : List (Nat × Loc)} {l : Loc}
    (hx : s.flow.xfers.find? (·.id == x.id) = some x) (ht : s.engineTurn x = true) (hk : x.kind = .taccMem t r map)
    (h : r.One) (hclean : s.taPoison x t = false)
    (hclear : s.tileClear x map (r.memRanges (s.tenant x.tn).soff none map) = true)
    (hl : s.placeIn x.tn map r.far.toNat = some l) (hhost : l.cls = .host) (hlose : x.loses l 4 = false) :
    Runs (.land x.id) s fun u => Retired s u x ∧ (u.core x.core).eng = (s.core x.core).eng ∧
      u.dev.host.getList l.pa 4 = leBytes (f32.exact ((s.core x.core).eng.acc t r.row0 r.col0)) 4 := by
  have hact : s.taccAct x = some ((s.accLanding x t r map).1.retire x (s.accLanding x t r map).2 false) := by
    rw [State.taccAct, ht, hk]
    refine (if_neg (c := (!s.tileClear x map (r.memRanges (s.tenant x.tn).soff none map)) = true) (by simp [hclear])).trans ?_
    exact if_neg (c := s.taPoison x t = true) (by simp [hclean])
  obtain ⟨s1, hstill, hland⟩ := h.accLanding s x t map hl hhost hlose
  have hretire := State.EnginesKept.retire (s.accLanding x t r map).1 x (s.accLanding x t r map).2 false
  refine ⟨_, exec_land_tacc hx (.inr ⟨t, r, map, hk⟩) hact, (hstill.groups.trans ?_).retired x _ false, ?_, ?_⟩
  · rw [hland]
    exact .of_eq rfl rfl rfl
  · rw [hretire.eng, hland, ← hstill.engines.eng]
    rfl
  · rw [hretire.host, hland]
    exact SMap.getList_setList_self _ _ _ _ (length_leBytes ..)

/-! ## tacc.tld -/

theorem cutsOf_word (a : Nat) (h : a % 4 = 0) : cutsOf a 4 64 = [(0, 4)] := by
  have hn : (a + 4 - 1) / 64 - a / 64 + 1 = 1 := by omega
  rw [cutsOf, if_neg (by decide), hn]
  simp only [List.range_one, List.map_cons, List.map_nil]
  congr 1
  ext <;> dsimp only <;> omega

/-- Without capture a word reads what is there. -/
theorem State.remoteBytes_host {s : State} {x : Xfer} {l : Loc} (bs : List Byte) (hl : l.cls = .host)
    (hcap : ∀ g, s.grp? x.grp = some g → (s.nodeOf g).cap = none) : s.remoteBytes x l bs = (s, bs) := by
  unfold State.remoteBytes
  split
  next g hg => simp only [State.capWord, hl, State.capRemote, hcap g hg]
  next => rfl

theorem State.failsAt_host (s : State) (x : Xfer) (l : Loc) (n : Nat) (hl : l.cls = .host) (hlose : x.loses l n = false) :
    s.failsAt x l n = false := by
  rw [State.failsAt, State.badAt, hl, hlose]
  rfl

/-- A fetch of one word of host memory. -/
theorem State.tileFetch_word {s : State} {x : Xfer} {src : TileSrc} {a : DWord} {l : Loc} (ha : a.toNat % 4 = 0)
    (hl : s.placeIn x.tn src.map a.toNat = some l) (hhost : l.cls = .host) (hlose : x.loses l 4 = false)
    (hcap : ∀ g, s.grp? x.grp = some g → (s.nodeOf g).cap = none) :
    s.tileFetch x src [(a, 4)] = (s, { src with mem := src.mem.setList a.toNat (s.dev.host.getList l.pa 4) }) := by
  have hps : s.placesIn x.tn src.map [(a, 4)] = [(a.toNat, l, 4)] := by
    simp [State.placesIn, cutsOf_word a.toNat ha, hl]
  have hfetch : s.fetchAt x.tn l 4 = s.dev.host.getList l.pa 4 := by rw [State.fetchAt, hhost]
  simp only [State.tileFetch, hps, List.foldl_cons, List.foldl_nil, State.recallAt_host s x.tn l 4 hhost,
    State.failsAt_host s x l 4 hhost hlose, hfetch, State.remoteBytes_host _ hhost hcap]
  rfl

namespace TileRec.One

variable {r : TileRec} (h : r.One)

include h

theorem elements : r.elements none = [(r.far, 4)] := by
  simp [TileRec.elements, TileRec.farRows, TileRec.elRanges, h.nRows, h.nCols, h.code, h.width, r.rowAddr_zero]

theorem slotRanges (soff : DWord) (map : List (Nat × Loc)) : r.slotRanges soff none map = [] := by
  simp [TileRec.slotRanges, h.code]

theorem bytesOf : r.bytesOf 0 0 = (List.range 4).map fun i => r.far + BitVec.ofNat 64 i := by
  simp [TileRec.bytesOf, h.code, h.width, r.rowAddr_zero]

/-- The element's value is that of the four bytes that have been read. -/
theorem elem (src : TileSrc) (bs : List Byte) (ha : r.far.toNat % 4 = 0) (hbs : bs.length = 4) :
    (TileSrc.elem { src with mem := SMap.setList [] r.far.toNat bs } r 0 0).toNat = leNat bs := by
  have hval : TileSrc.elem { src with mem := SMap.setList [] r.far.toNat bs } r 0 0 =
      (TileSrc.value { src with mem := SMap.setList [] r.far.toNat bs } (r.bytesOf 0 0) : Int) := by
    simp [TileSrc.elem, h.code]
  have hadd : ∀ i, i < 4 → (r.far + BitVec.ofNat 64 i).toNat = r.far.toNat + i := fun i hi => by
    have := r.far.isLt
    rw [BitVec.toNat_add, BitVec.toNat_ofNat]
    omega
  have hget := SMap.getList_setList_self ([] : SMap 8) r.far.toNat 4 bs hbs
  rw [hval, Int.toNat_natCast, TileSrc.value, h.bytesOf, List.map_map]
  rw [SMap.getList_eq_map] at hget
  refine congrArg leNat (Eq.trans (List.map_congr_left fun i hi => ?_) hget)
  rw [Function.comp_apply, hadd i (List.mem_range.1 hi)]

end TileRec.One

/-- The tile read of one f32 element of host memory (R203). -/
theorem TileRec.One.tileRead {r : TileRec} (h : r.One) {s : State} {x : Xfer} {map : List (Nat × Loc)} {l : Loc}
    (hl : s.placeIn x.tn map r.far.toNat = some l) (ha : r.far.toNat % 4 = 0) (hhost : l.cls = .host)
    (hlose : x.loses l 4 = false) (hcap : ∀ g, s.grp? x.grp = some g → (s.nodeOf g).cap = none) :
    s.Still (s.tileRead x map r none false).1 ∧ (s.tileRead x map r none false).2 =
      ⟨(s.tenant x.tn).soff, map, SMap.setList [] r.far.toNat (s.dev.host.getList l.pa 4), []⟩ := by
  have hnil : s.tileFetch x ⟨(s.tenant x.tn).soff, map, [], []⟩ [] = (s, ⟨(s.tenant x.tn).soff, map, [], []⟩) := rfl
  have hword := State.tileFetch_word (src := ⟨(s.tenant x.tn).soff, map, [], []⟩) ha hl hhost hlose hcap
  unfold State.tileRead
  simp only [h.slotRanges, h.elements, hnil, Bool.false_eq_true, if_false, hword]
  exact ⟨(State.Still.countPlaces s ..).trans (.meterReads ..), trivial⟩

/-- The word that `tacc.tld` writes for a delivered element (R203). -/
def TileSrc.tldWord (src : TileSrc) (r : TileRec) (dr dc : Nat) : Option Word :=
  match r.farOf none dr dc with
  | none => some 0
  | some (fr, fc) => if src.bad (r.bytesOf fr fc) then none else some (tldConv r.code (src.elem r fr fc).toNat)

theorem TileRec.One.tldWord {r : TileRec} (h : r.One) (soff : DWord) (map : List (Nat × Loc)) (bs : List Byte)
    (ha : r.far.toNat % 4 = 0) (hbs : bs.length = 4) :
    TileSrc.tldWord ⟨soff, map, SMap.setList [] r.far.toNat bs, []⟩ r 0 0 =
      some (BitVec.ofNat 32 (f32.exact (f32.decode (leNat bs)))) := by
  have helem := h.elem ⟨soff, map, [], []⟩ bs ha hbs
  have hbad : TileSrc.bad ⟨soff, map, SMap.setList [] r.far.toNat bs, []⟩ (r.bytesOf 0 0) = false := by simp [TileSrc.bad]
  rw [TileSrc.tldWord, h.farOf]
  dsimp only
  rw [hbad, if_neg Bool.false_ne_true, h.code, helem]
  rfl

theorem taccLd_completes {s : State} {x : Xfer} {t : Nat} {r : TileRec} {map : List (Nat × Loc)} {l : Loc}
    (hx : s.flow.xfers.find? (·.id == x.id) = some x) (ht : s.engineTurn x = true) (hk : x.kind = .taccLd t r map) (h : r.One)
    (hrow : r.row0 < 128) (hcol : r.col0 < 128) (hclear : s.tileClear x map (r.elements none) = true)
    (hl : s.placeIn x.tn map r.far.toNat = some l) (ha : r.far.toNat % 4 = 0) (hhost : l.cls = .host)
    (hlose : x.loses l 4 = false) (hcap : ∀ g, s.grp? x.grp = some g → (s.nodeOf g).cap = none) :
    Runs (.taccComplete x.id) s fun u => Retired s u x ∧
      (∀ k, k < 16384 * t ∨ 16384 * (t + 1) ≤ k → (u.core x.core).eng.ta.get k = (s.core x.core).eng.ta.get k) ∧
      (u.core x.core).eng.ta.get (taWord t r.row0 r.col0) =
        BitVec.ofNat 32 (f32.exact (f32.decode (leNat (s.dev.host.getList l.pa 4)))) := by
  have hact : s.taccAct x = some (((s.tileRead x map r none false).1.mapEng x.core fun e =>
      e.setAcc t r.row0 r.col0 r.dRows r.dCols ((s.tileRead x map r none false).2.tldWord r)).retire x x.t false) := by
    rw [State.taccAct, ht, hk]
    exact if_neg (c := (!s.tileClear x map (r.elements none)) = true) (by simp [hclear])
  obtain ⟨hstill, hsrc⟩ := h.tileRead hl ha hhost hlose hcap
  rw [hsrc, h.dRows, h.dCols] at hact
  obtain ⟨hr, he⟩ := State.retire_mapEng hstill.groups hstill.engines x fun e => e.setAcc t r.row0 r.col0 1 1
    (TileSrc.tldWord ⟨(s.tenant x.tn).soff, map, SMap.setList [] r.far.toNat (s.dev.host.getList l.pa 4), []⟩ r)
  refine ⟨_, exec_taccComplete hx (.inr (.inl ⟨t, r, map, hk⟩)) hact, hr, fun k hk => ?_, ?_⟩
  · rw [he, Engine.get_setAcc_out _ _ _ _ _ _ _ (by omega) (by omega) k hk]
  · have hin := Engine.get_setAcc_in (s.core x.core).eng t r.row0 r.col0 1 1
      (TileSrc.tldWord ⟨(s.tenant x.tn).soff, map, SMap.setList [] r.far.toNat (s.dev.host.getList l.pa 4), []⟩ r)
      (by decide) 0 0 one_pos one_pos
    rw [Nat.add_zero, Nat.add_zero] at hin
    rw [he, hin, h.tldWord _ _ _ ha (by rw [SMap.getList_eq_map]; simp)]
    rfl

/-- Settles O36: each word's step is its change of the engine, of a scratchpad or of host memory followed by its
retirement, which leaves engines and bytes alone; a step of a stroke is four rows, each of them one row of its accumulator. -/
theorem accumulatorsAndStrokesAct : Obligations.AccumulatorsAndStrokesAct := by
  refine ⟨fun s x t r row o v hx hturn ht => ?_, fun s x k hx hk hstop hturn hg hlt => strokeStep_runs hx hk hstop hturn hg hlt,
    fun n1 n2 m1 m2 e1 e2 => exactMul_exactAdd n1 n2 m1 m2 e1 e2⟩
  exact ⟨fun hk => taccZero_completes hx hturn hk, fun hk hclean => taccScale_completes hx hturn hk hclean,
    fun hk hclean => taccBias_completes hx hturn hk hclean,
    fun map l hk h hrow hcol hclear hl ha hhost hlose hcap =>
      taccLd_completes hx hturn hk (.of h) hrow hcol hclear hl ha hhost hlose hcap,
    fun hk h hclean hpage hstride => taccSp_lands hx hturn hk (.of h) hclean hpage hstride,
    fun map l hk h hclean hclear hl hhost hlose => taccMem_lands hx hturn hk (.of h) hclean hclear hl hhost hlose⟩

end Sys2Proof.Machine
end
